-- ==== Sys2Proof/Word.lean ====
section
/-! DEFINITION. The widths the Brixtum's manual names, and the sparse ordered map the state is built of. -/
namespace Sys2Proof

/-- A 32-bit register or memory word (R12, R30). -/
abbrev Word := BitVec 32
/-- A byte of memory (R59). -/
abbrev Byte := BitVec 8
/-- A 64-bit value held in a register pair (R13). -/
abbrev DWord := BitVec 64
/-- A virtual address (R20). -/
abbrev VAddr := BitVec 56
/-- The membership or fault mask of a group's 32 positions (R149, R334). -/
abbrev Mask := BitVec 32

/-- A finite map from natural keys, kept as a list whose keys rise strictly. -/
abbrev SMap (α : Type) := List (Nat × α)

/-- The entry of key `k`, if the map lists one. -/
def SMap.get? {α : Type} : SMap α → Nat → Option α
  | [], _ => none
  | (j, v) :: r, k => if j = k then some v else if k < j then none else SMap.get? r k

/-- The map with key `k` naming `v`; the keys stay strictly rising. -/
def SMap.put {α : Type} : SMap α → Nat → α → SMap α
  | [], k, v => [(k, v)]
  | (j, w) :: r, k, v =>
    if j = k then (k, v) :: r else if k < j then (k, v) :: (j, w) :: r else (j, w) :: SMap.put r k v

/-- The map without key `k`. -/
def SMap.del {α : Type} : SMap α → Nat → SMap α
  | [], _ => []
  | (j, w) :: r, k => if j = k then r else if k < j then (j, w) :: r else (j, w) :: SMap.del r k

/-- The entry of key `k`, or `d` where the map lists none. -/
def SMap.getD {α : Type} (m : SMap α) (k : Nat) (d : α) : α := (SMap.get? m k).getD d

/-- A list with `x` before its first element that `x` may come before. -/
def insertBy {α : Type} (le : α → α → Bool) (x : α) : List α → List α
  | [] => [x]
  | y :: r => if le x y then x :: y :: r else y :: insertBy le x r

/-- A list in ascending order; elements that may come in either order keep theirs. -/
def sortBy {α : Type} (le : α → α → Bool) : List α → List α
  | [] => []
  | x :: r => insertBy le x (sortBy le r)

/-- Natural numbers in ascending order. -/
def sortNat (l : List Nat) : List Nat := sortBy (fun a b => decide (a ≤ b)) l

/-- The keys of a map rise strictly: equal maps are equal lists. -/
def SMap.sorted {α : Type} : SMap α → Bool
  | [] => true
  | [_] => true
  | (j, _) :: (k, w) :: r => decide (j < k) && SMap.sorted ((k, w) :: r)

end Sys2Proof
end

