-- ==== Sys2Proof/Machine/Types.lean ====
section
/-! DEFINITION. The operand fields of instructions and the contents of protocol messages, management messages and
outside accesses: the plain data that constructors of `Instr` carry. -/
namespace Sys2Proof

/-- The roundings of R60. -/
inductive Rnd | rn | rz | rd | ru | rna
deriving DecidableEq, Repr

/-- The scopes of R4, in code order. -/
inductive Scope | grp | core | clu | die | qtr | dev | sys
deriving DecidableEq, Repr

/-- The order suffixes of R36. -/
inductive MemOrder | rlx | acq | rel | ar | sc
deriving DecidableEq, Repr

/-- The conditions of `icmpi` (R92), numbered as minors 0 to 9 of major 0x06 (R88). -/
inductive Cond | eq | ne | ltI | leI | gtI | geI | ltN | leN | gtN | geN
deriving DecidableEq, Repr

/-- The widths of `lds` and `sts` (R39, major 0x26). -/
inductive LpWidth | n8 | i8 | n16 | i16 | b32 | b64 | b128
deriving DecidableEq, Repr

/-- The operations of an atomic (R215); `put` stores the bytes its second operand marks, for engine writes performed at the
home (R245). -/
inductive AtomOp | add | and | or | xor | minI | maxI | minN | maxN | exch | cas | fadd | fadd2 | put
deriving DecidableEq, Repr

/-- A party of the coherence protocol (R366): a core's L1, a die's RDC, a home directory, the I/O die that is home to
host lines (R381), a die's mirror store (R375), another package (R380), a core as a whole. -/
inductive Node
  | l1 (core : Nat) | rdc (die : Nat) | home (die : Nat) | ioHome (io : Nat) | mirror (die : Nat) | pkg (n : Nat)
  | core (core : Nat)
  /-- the caches of the application cores of an I/O die (R385) -/
  | app (io : Nat)
deriving DecidableEq, Repr

/-- A holder outside the package's own caches, or another I/O die that holds a line for an atomic: what it has comes back only by a
snoop. -/
def Node.away : Node → Bool
  | .pkg _ => true | .ioHome _ => true
  | _ => false

/-- A protocol message's contents (R369); the kind is the constructor of `Instr` that carries it. -/
structure Msg where
  src : Node
  dst : Node
  /-- the 128-byte line, by physical address / 128 -/
  line : Nat
  /-- the words of the line the message is about -/
  mask : Mask
  /-- on a Gnt the words granted E, on a SnpAck those whose data went to the reader, on a WbData those the sender keeps -/
  excl : Mask := 0
  /-- on a snoop and on its data, the requester the data goes to where that is not the directory (R370) -/
  reader : Option Node := none
  /-- on an answer the words the snoop named, on a Gnt those whose data their owner sends -/
  asked : Mask := 0
  /-- words whose value is newer than the home's -/
  dirty : Mask := 0
  /-- words that are poisoned (R356) -/
  poison : Mask := 0
  /-- word index and value -/
  data : List (Nat × Word) := []
  /-- the transaction or atomic the message belongs to -/
  tag : Nat := 0
  /-- an atomic's operation and operands (R214) -/
  op : AtomOp := .add
  args : List Word := []
  /-- the path of a message between packages, and its number among the writes of its line to that package (R374) -/
  path : Nat := 0
  seq : Nat := 0
deriving DecidableEq, Repr

/-- Where an uncorrectable error struck (R356): an array, and the word of it that was lost. -/
inductive ErrorSite
  | dram (pa : Nat)
  | l1 (core pa : Nat)
  | l2 (die pa : Nat)
  | rdc (die pa : Nat)
  /-- the directory entry of a line, for one of its words -/
  | directory (pa : Nat)
  | scratch (team off : Nat)
  | vreg (team group pos reg : Nat)
  | preg (team group pos reg : Nat)
  | kreg (team group reg : Nat)
  /-- a word of the `m` registers or of the accumulators, by byte offset in them -/
  | mreg (team off : Nat)
  | acc (team off : Nat)
  /-- the kept snapshot a core took at this count of its cycle counter (R352) -/
  | snapshot (core time : Nat)
deriving DecidableEq, Repr

/-- The origin of a checked operation (R354). -/
inductive Origin
  /-- the address of a lane-set or uniform instruction -/
  | instr (pc : VAddr)
  /-- `cpc` -/
  | cooper (cpc : VAddr)
  /-- the engine and the command's address in its stream -/
  | engine (eng : Nat) (addr : VAddr)
deriving DecidableEq, Repr

/-- The address of an origin, as `se_origin` shows it (R362). -/
def Origin.addr : Origin → VAddr
  | .instr pc => pc
  | .cooper cpc => cpc
  | .engine _ addr => addr

/-- A Mladlith message (R396): its source, its header (a code, a length in bytes, that of the whole message (DESIGN CHOICE, log 39), and a
sequence number) and its body. -/
structure Mlad where
  ip : BitVec 128
  port : BitVec 16
  code : BitVec 16
  length : BitVec 16
  seq : Word
  body : List Byte := []
deriving DecidableEq, Repr

/-- The operations of an RV64GC atomic memory operation (R227). -/
inductive AmoOp | swap | add | and | or | xor | minI | maxI | minN | maxN
deriving DecidableEq, Repr

/-- What an application core does to memory (R227), of 4 or 8 bytes for an AMO and a LR/SC pair; `setHdm` stands for the system software
that sets the base and the size of the HDM-DB range (R381). -/
inductive AppOp
  | load (bytes : Nat) | store (bytes : Nat) (value : DWord) | amo (op : AmoOp) (bytes : Nat) (operand : DWord)
  | lr (bytes : Nat) | sc (bytes : Nat) (value : DWord)
  | fence (predR predW succR succW succO : Bool)
  | setHdm (base size : Nat)
deriving DecidableEq, Repr

/-- An access of application core `core` of I/O die `quarter` to physical address `pa` (R227). -/
structure AppAccess where
  quarter : Nat
  core : Nat := 0
  op : AppOp
  pa : Nat
  aq : Bool := false
  rl : Bool := false
  label : Nat := 0
deriving DecidableEq, Repr

/-- What a CXL host does through CXL.mem (R381). -/
inductive HostOp
  | load (bytes : Nat) | store (bytes : Nat) (value : DWord)
deriving DecidableEq, Repr

/-- An access of the host of I/O die `io` to physical address `pa` of the HDM-DB range (R381). -/
structure HostAccess where
  io : Nat
  op : HostOp
  pa : Nat
  label : Nat := 0
deriving DecidableEq, Repr

/-- The device-to-host requests of R381. -/
inductive D2H | rdShared | rdOwn | rdOwnNoData | dirtyEvict | cleanEvictNoData
deriving DecidableEq, Repr

/-- The end of a compute die's self-test (R394). -/
structure SelfTest where
  die : Nat
  passed : Bool
deriving DecidableEq, Repr

/-- The tamper sensors of R400, in the order of `tt_ctl.enable`. -/
inductive Sensor | voltage | clock | temperature | lidMesh
deriving DecidableEq, Repr

end Sys2Proof
end

