-- ==== Sys2Proof/Machine/Num.lean ====
section
/-! DEFINITION. Number formats (R53, R54), exact values, the one rounding function (R60 to R63), exact sums and products
with their zero signs (R61), SP2 and block scales (R64 to R67), and the pairwise tree of the fixed sums (R75, R76). -/
namespace Sys2Proof.Machine
open Sys2Proof

/-- A floating-point format: exponent and mantissa widths, bias, the code of the greatest finite magnitude, whether it
has infinities, and its default NaN (R53, R54). -/
structure Fmt where
  exp : Nat
  man : Nat
  bias : Nat
  top : Nat
  inf : Bool
  nan : Option Nat
deriving DecidableEq, Repr

def Fmt.f32 : Fmt := { exp := 8, man := 23, bias := 127, top := 0x7F7FFFFF, inf := true, nan := some 0x7FC00000 }
def Fmt.bf16 : Fmt := { exp := 8, man := 7, bias := 127, top := 0x7F7F, inf := true, nan := some 0x7FC0 }
def Fmt.f16 : Fmt := { exp := 5, man := 10, bias := 15, top := 0x7BFF, inf := true, nan := some 0x7E00 }
def Fmt.e5m2 : Fmt := { exp := 5, man := 2, bias := 15, top := 0x7B, inf := true, nan := some 0x7E }
def Fmt.e4m3 : Fmt := { exp := 4, man := 3, bias := 7, top := 0x7E, inf := false, nan := some 0x7F }
def Fmt.e3m2 : Fmt := { exp := 3, man := 2, bias := 3, top := 0x1F, inf := false, nan := none }
def Fmt.e2m3 : Fmt := { exp := 2, man := 3, bias := 1, top := 0x1F, inf := false, nan := none }
def Fmt.e2m1 : Fmt := { exp := 2, man := 1, bias := 1, top := 0x7, inf := false, nan := none }

/-- The weight of the lowest mantissa bit of a subnormal, as a power of two. -/
def Fmt.qmin (f : Fmt) : Int := 1 - (f.bias : Int) - (f.man : Int)
/-- The sign bit of a format. -/
def Fmt.signBit (f : Fmt) : Nat := 2 ^ (f.exp + f.man)
/-- A magnitude code with a sign. -/
def Fmt.withSign (f : Fmt) (neg : Bool) (code : Nat) : Nat := if neg then f.signBit + code else code

/-- The value of an encoding: a NaN, an infinity, or exactly (−1)^neg · m · 2^e; a zero keeps its sign. -/
inductive FVal
  | nan (quiet : Bool)
  | inf (neg : Bool)
  | fin (neg : Bool) (m : Nat) (e : Int)
deriving DecidableEq, Repr

/-- The value of a code of a format (R53, R54, R56). -/
def Fmt.decode (f : Fmt) (x : Nat) : FVal :=
  let neg := decide (x / f.signBit % 2 = 1)
  let c := x % f.signBit
  let e := c / 2 ^ f.man
  let m := c % 2 ^ f.man
  if f.inf && e == 2 ^ f.exp - 1 then
    if m = 0 then .inf neg else .nan (decide (m / 2 ^ (f.man - 1) = 1))
  else if !f.inf && f.nan == some c then .nan true
  else if e = 0 then .fin neg m f.qmin
  else .fin neg (m + 2 ^ f.man) (f.qmin + (e : Int) - 1)

/-- The rounding decision: whether magnitude `n`, with the remainder compared to half a unit as `c` says and non-zero
when `inexact`, goes up (R60). -/
def roundUp (md : Rnd) (neg : Bool) (n : Nat) (c : Ordering) (inexact : Bool) : Bool :=
  match md with
  | .rn => match c with
    | .lt => false
    | .eq => decide (n % 2 = 1)
    | .gt => true
  | .rna => match c with
    | .lt => false
    | .eq => true
    | .gt => true
  | .rz => false
  | .rd => neg && inexact
  | .ru => !neg && inexact

/-- Floor of m · 2^e (plus a little when `sticky`) in units of 2^q, how the rest compares with half a unit, and whether
there is a rest. -/
def quantise (m : Nat) (e : Int) (sticky : Bool) (q : Int) : Nat × Ordering × Bool :=
  if q ≤ e then (m * 2 ^ (e - q).toNat, .lt, sticky)
  else
    let k := (q - e).toNat
    let n := m / 2 ^ k
    let r := m % 2 ^ k
    let h := 2 ^ (k - 1)
    (n, if r < h then .lt else if r = h ∧ sticky = false then .eq else .gt, sticky || decide (r ≠ 0))

/-- The result of overflow (R62), with the saturation of R63 and of the formats without infinity. -/
def overflow (f : Fmt) (md : Rnd) (sat neg : Bool) : Nat :=
  let max := f.withSign neg f.top
  let infinite := match md with
    | .rn => true | .rna => true | .rz => false
    | .rd => neg | .ru => !neg
  if sat || !infinite then max
  else if f.inf then f.withSign neg ((2 ^ f.exp - 1) * 2 ^ f.man)
  else match f.nan with
    | some n => n
    | none => max

/-- RoundTo of a non-zero magnitude m · 2^e, a little more when `sticky` (R60). With `sticky`, m must have more bits
than the format keeps. -/
def roundMag (f : Fmt) (md : Rnd) (sat neg : Bool) (m : Nat) (e : Int) (sticky : Bool) : Nat :=
  let top := (Nat.log2 m : Int) + e
  let q := max (top - (f.man : Int)) f.qmin
  let (n, c, inexact) := quantise m e sticky q
  let n := if roundUp md neg n c inexact then n + 1 else n
  let code := (q - f.qmin).toNat * 2 ^ f.man + n
  if f.top < code then overflow f md sat neg else f.withSign neg code

/-- RoundTo of an exact value, infinities and NaNs included (R55, R60 to R63). -/
def roundTo (f : Fmt) (md : Rnd) (sat : Bool) (x : FVal) : Nat :=
  match x with
  | .nan _ => f.nan.getD 0
  | .inf neg =>
    if sat then f.withSign neg f.top
    else if f.inf then f.withSign neg ((2 ^ f.exp - 1) * 2 ^ f.man)
    else match f.nan with
      | some n => n
      | none => f.withSign neg f.top
  | .fin neg m e => if m = 0 then f.withSign neg 0 else roundMag f md sat neg m e false

/-- A signed integer m · 2^e. -/
def FVal.ofInt (x : Int) (e : Int) (zeroNeg : Bool) : FVal :=
  if x = 0 then .fin zeroNeg 0 0 else .fin (decide (x < 0)) x.natAbs e

/-- The signed significand of a finite value in units of 2^q, q being at most its exponent. -/
def scaled (neg : Bool) (m : Nat) (e q : Int) : Int :=
  let k := (m : Int) * 2 ^ (e - q).toNat
  if neg then -k else k

/-- The exact sum of two values, with the sign R61 gives a zero sum. -/
def FVal.add (md : Rnd) (x y : FVal) : FVal :=
  match x, y with
  | .nan _, _ => .nan true
  | _, .nan _ => .nan true
  | .inf a, .inf b => if a = b then .inf a else .nan true
  | .inf a, .fin _ _ _ => .inf a
  | .fin _ _ _, .inf b => .inf b
  | .fin a m e, .fin b n g =>
    let q := min e g
    FVal.ofInt (scaled a m e q + scaled b n g q) q (if m = 0 ∧ n = 0 ∧ a = b then a else decide (md = .rd))

/-- The exact product of two values (R61). -/
def FVal.mul (x y : FVal) : FVal :=
  match x, y with
  | .nan _, _ => .nan true
  | _, .nan _ => .nan true
  | .inf a, .inf b => .inf (a != b)
  | .inf a, .fin b n _ => if n = 0 then .nan true else .inf (a != b)
  | .fin a m _, .inf b => if m = 0 then .nan true else .inf (a != b)
  | .fin a m e, .fin b n g => .fin (a != b) (m * n) (e + g)

/-- The value with its sign flipped. -/
def FVal.neg : FVal → FVal
  | .nan q => .nan q
  | .inf a => .inf (!a)
  | .fin a m e => .fin (!a) m e

/-- The value times 2^k. -/
def FVal.scale (x : FVal) (k : Int) : FVal :=
  match x with
  | .nan q => .nan q
  | .inf a => .inf a
  | .fin a m e => .fin a m (e + k)

/-- x < y, x = y or neither, of two values that are not NaN. -/
def FVal.cmp (x y : FVal) : Option Ordering :=
  match x, y with
  | .nan _, _ => none
  | _, .nan _ => none
  | .inf a, .inf b => some (if a = b then .eq else if a then .lt else .gt)
  | .inf a, .fin _ _ _ => some (if a then .lt else .gt)
  | .fin _ _ _, .inf b => some (if b then .gt else .lt)
  | .fin a m e, .fin b n g =>
    let q := min e g
    some (compare (scaled a m e q) (scaled b n g q))

/-- The value of an FP32 word. -/
def f32 (x : BitVec 32) : FVal := Fmt.f32.decode x.toNat
/-- The value of a BF16 pattern. -/
def bf16 (x : BitVec 16) : FVal := Fmt.bf16.decode x.toNat
/-- The value of an FP16 pattern. -/
def f16 (x : BitVec 16) : FVal := Fmt.f16.decode x.toNat
/-- Rounds to an FP32 word. -/
def toF32 (md : Rnd) (sat : Bool) (x : FVal) : BitVec 32 := BitVec.ofNat 32 (roundTo .f32 md sat x)
/-- Rounds to a BF16 pattern. -/
def toBf16 (md : Rnd) (x : FVal) : BitVec 16 := BitVec.ofNat 16 (roundTo .bf16 md false x)
/-- Rounds to an FP16 pattern. -/
def toF16 (md : Rnd) (x : FVal) : BitVec 16 := BitVec.ofNat 16 (roundTo .f16 md false x)

/-- One FP32 addition rounded to nearest even. -/
def addRn (a b : BitVec 32) : BitVec 32 := toF32 .rn false (FVal.add .rn (f32 a) (f32 b))
/-- One FP32 product rounded to nearest even. -/
def mulRn (a b : BitVec 32) : BitVec 32 := toF32 .rn false (FVal.mul (f32 a) (f32 b))

/-- One level of the pairwise tree over optional operands (R75). -/
def treeLevel (f : BitVec 32 → BitVec 32 → BitVec 32) : List (Option (BitVec 32)) → List (Option (BitVec 32))
  | some a :: some b :: r => some (f a b) :: treeLevel f r
  | some a :: none :: r => some a :: treeLevel f r
  | none :: some b :: r => some b :: treeLevel f r
  | none :: none :: r => none :: treeLevel f r
  | [x] => [x]
  | [] => []

/-- The pairwise tree, level by level; `fuel` levels at most (R75, R76). -/
def pairwiseTree (f : BitVec 32 → BitVec 32 → BitVec 32) : Nat → List (Option (BitVec 32)) → Option (BitVec 32)
  | _, [] => none
  | _, [x] => x
  | 0, x :: _ => x
  | k + 1, xs => pairwiseTree f k (treeLevel f xs)

/-- The fixed tree over a stream (R76). -/
def treeSum (xs : List (BitVec 32)) : BitVec 32 := (pairwiseTree addRn 33 (xs.map some)).getD 0

/-- The value of a block scale; none for the NaN scale (R64). -/
def scaleExp (b : BitVec 8) : Option Int := if b = 0xFF then none else some ((b.toNat : Int) - 127)

/-- One term of an SP2 code (R65). -/
def sp2Term (s c : Nat) : FVal := if c = 7 then .fin false 0 0 else .fin (decide (s = 1)) 1 (-(c : Int))
/-- The two terms of an SP2 code (R65). -/
def sp2Terms (x : BitVec 8) : FVal × FVal :=
  (sp2Term (x.toNat / 128) (x.toNat / 16 % 8), sp2Term (x.toNat / 8 % 2) (x.toNat % 8))
/-- The value of an SP2 code times 64, an integer (R65). -/
def sp2Value64 (x : BitVec 8) : Int :=
  let t := fun (s c : Nat) => if c = 7 then (0 : Int) else (if s = 1 then -1 else 1) * 2 ^ (6 - c)
  t (x.toNat / 128) (x.toNat / 16 % 8) + t (x.toNat / 8 % 2) (x.toNat % 8)

end Sys2Proof.Machine
end

