-- ==== Sys2Proof/Config.lean ====
section
/-! DEFINITION. The constants of the Brixtum that the manual fixes, and the opaque values it leaves to silicon, to
keys or to chance: nothing in Lean can evaluate an opaque value, so a statement about it holds for every value. -/
namespace Sys2Proof.Config

/-- Compute dies of a package (R3). -/
def numDies : Nat := 24
/-- Cores of a die (R3). -/
def coresPerDie : Nat := 48
/-- Cores of a package (R3). -/
def numCores : Nat := 1152
/-- Address-space identifiers, each with one launch port (R16, R172). -/
def numAsids : Nat := 1024
/-- Entries of a core's settling buffer (R346). -/
def settlingEntries : Nat := 1024
/-- Values of a core's input journal (R350). -/
def journalEntries : Nat := 16384
/-- Entries of a core's range-lock table (R268). -/
def rangeLocks : Nat := 32
/-- Entries of a core's dependency table (R271). -/
def taskEntries : Nat := 64
/-- Entries of a core's spawn queue (R160). -/
def spawnEntries : Nat := 16
/-- 128-byte lines of an L2 of 96 MiB (R199). -/
def l2Lines : Nat := 786432
/-- 128-byte lines of an L1 of 384 KiB (R199). -/
def l1Lines : Nat := 3072
/-- Entries of a core's TLB (R325). -/
def tlbEntries : Nat := 512
/-- Entries of a home directory (R366). -/
def dirEntries : Nat := 1048576
/-- Entries of a slice of a quarter filter (R366). -/
def quarterFilterEntries : Nat := 262144
/-- Entries of a slice of a device filter (R366). -/
def deviceFilterEntries : Nat := 131072
/-- Victim buffer lines of an L1 (R372). -/
def l1Victims : Nat := 32
/-- Victim buffer lines of an RDC (R372). -/
def rdcVictims : Nat := 256
/-- Line entries of a mirror store (R375). -/
def mirrorEntries : Nat := 131072
/-- Records of a port's queue (R173). -/
def portQueue : Nat := 64
/-- Sequence numbers whose signalled state a port remembers (R177). -/
def rememberedSeqs : Nat := 4096
/-- Entries of the victim tag array (R187). -/
def victimTags : Nat := 512
/-- Pages of the move history (R383). -/
def movePages : Nat := 4096
/-- Bytes of a scratchpad granule (R199). -/
def granuleBytes : Nat := 8192
/-- The issue window of the power governor and of throttling, in ccyc (R187, R188). -/
def tokenWindow : Nat := 1024

/-- Whether the silicon is stepping B0; the manual says "by silicon" (R404). -/
opaque steppingB0 : Bool
/-- The signature that the package's secret identity key makes over a hash: two numbers of 48 bytes (R399). -/
opaque identitySign : List Byte → BitVec 768
/-- The n-th 48-byte challenge of the device's random source (R396). -/
opaque challenge : Nat → BitVec 384
/-- The SHA-384 hash of the controller's key fused in I/O die 0 (R396). -/
opaque fusedControllerHash : BitVec 384
/-- The SHA-384 hash of the firmware key that is fused (R397). -/
opaque fusedFirmwareHash : BitVec 384
/-- The minimum firmware versions fused at manufacture, by image kind (R397). -/
opaque fusedMinVersion : Nat → Nat
/-- The firmware image a slot holds at manufacture, by 2 × image kind + slot (R398). -/
opaque factoryImage : Nat → List Byte
/-- The words of a team image that R341 leaves to the device, by the number of the save and the word's place. -/
opaque imageWord : Nat → Nat → Word
/-- The entropy value, of 8, that the traffic of a line to another package is sprayed with (R374, R380; a free value, log 68) -/
opaque entropy : Nat → BitVec 3

/-- The strike detection bound in full service and in reduced service (R11, R394). -/
def strikeBound (full : Bool) : Nat := if full then 768 else 1536

end Sys2Proof.Config
end

