-- ==== Sys2Proof/Machine/Memory.lean ====
section
/-! DEFINITION. Byte memory as a list of cells in one canonical form, and reads and writes of it. Package memory,
scratchpads, matrix registers and accumulators are all held this way; an unlisted byte reads 0. -/
namespace Sys2Proof

/-- A sparse array of bytes: addresses strictly rising, no byte equal to what an unlisted address reads as. -/
abbrev Memory := List Host.Cell

/-- What an unlisted address reads as. DESIGN CHOICE (log 1) for memory after power-on; R28 for a scratchpad. -/
def Memory.blank : Byte := 0

/-- One byte. -/
def Memory.get : Memory → Nat → Byte
  | [], _ => Memory.blank
  | (b, v) :: r, a => if b = a then v else if a < b then Memory.blank else Memory.get r a

/-- Memory without an entry for `a`. -/
def Memory.drop : Memory → Nat → Memory
  | [], _ => []
  | (b, v) :: r, a => if b = a then r else if a < b then (b, v) :: r else (b, v) :: Memory.drop r a

/-- Memory with an entry for `a`. -/
def Memory.insert : Memory → Nat → Byte → Memory
  | [], a, x => [(a, x)]
  | (b, v) :: r, a, x =>
    if b = a then (a, x) :: r else if a < b then (a, x) :: (b, v) :: r else (b, v) :: Memory.insert r a x

/-- Writes one byte; a byte equal to the blank value leaves no entry. -/
def Memory.set (m : Memory) (a : Nat) (x : Byte) : Memory :=
  if x = Memory.blank then Memory.drop m a else Memory.insert m a x

/-- The canonical form. -/
def Memory.wf : Memory → Bool
  | [] => true
  | [(_, v)] => decide (v ≠ Memory.blank)
  | (a, v) :: (b, w) :: r => decide (v ≠ Memory.blank) && decide (a < b) && Memory.wf ((b, w) :: r)

/-- `n` bytes from `a`, lowest address first. -/
def Memory.bytes (m : Memory) (a : Nat) : Nat → List Byte
  | 0 => []
  | n + 1 => Memory.get m a :: Memory.bytes m (a + 1) n

/-- Stores a list of bytes from `a` upward. -/
def Memory.setBytes (m : Memory) (a : Nat) : List Byte → Memory
  | [] => m
  | b :: r => Memory.setBytes (Memory.set m a b) (a + 1) r

/-- The number little-endian bytes stand for (R30, R118). -/
def leNat : List Byte → Nat
  | [] => 0
  | b :: r => b.toNat + 256 * leNat r

/-- `n` little-endian bytes of a number. -/
def leBytes : Nat → Nat → List Byte
  | 0, _ => []
  | n + 1, x => BitVec.ofNat 8 x :: leBytes n (x / 256)

/-- The little-endian number in `n` bytes at `a`. -/
def Memory.nat (m : Memory) (a n : Nat) : Nat := leNat (Memory.bytes m a n)
/-- The little-endian word at `a`. -/
def Memory.word (m : Memory) (a : Nat) : Word := BitVec.ofNat 32 (Memory.nat m a 4)
/-- The little-endian 64-bit value at `a`. -/
def Memory.dword (m : Memory) (a : Nat) : DWord := BitVec.ofNat 64 (Memory.nat m a 8)
/-- Stores the low `n` bytes of a number at `a`. -/
def Memory.setNat (m : Memory) (a n x : Nat) : Memory := Memory.setBytes m a (leBytes n x)
/-- Stores a word at `a`. -/
def Memory.setWord (m : Memory) (a : Nat) (w : Word) : Memory := Memory.setNat m a 4 w.toNat
/-- Stores a 64-bit value at `a`. -/
def Memory.setDword (m : Memory) (a : Nat) (w : DWord) : Memory := Memory.setNat m a 8 w.toNat

/-- The memory that holds a list of bytes from `a` upward, and nothing else. -/
def Memory.ofBytes (a : Nat) : List Byte → Memory
  | [] => []
  | b :: r => if b = Memory.blank then Memory.ofBytes (a + 1) r else (a, b) :: Memory.ofBytes (a + 1) r
/-- The memory that holds a list of words from `a` upward, and nothing else. -/
def Memory.ofWords (a : Nat) (ws : List Word) : Memory := Memory.ofBytes a (ws.flatMap fun w => leBytes 4 w.toNat)

end Sys2Proof
end

