-- ==== Sys2Proof/Syntax.lean ====
section
/-! DEFINITION. The steps of the Brixtum: one constructor per row of spec/opcode_table.json. The words of the lane,
uniform and tile-stream sets carry their operand fields (R39 to R41); engine commands carry their words (R255); the
package's events carry what the message, the register write or the physical event brings. Field names: d, a, b, t
registers; p, q, r predicates; l lookahead; s scope or slot; o order or word offset; i immediate; x index; n count or barrier. -/
namespace Sys2Proof

inductive Instr
  /-- `nop` (R130) -/
  | nop
  /-- `trap` (R134) -/
  | trap (n : BitVec 7)
  /-- `land` (R116) -/
  | land
  /-- `yield` (R131) -/
  | yield
  /-- `exit` (R132) -/
  | exit
  /-- `smov` (R133) -/
  | smovSr (d x : BitVec 7)
  /-- `smov` (R133) -/
  | smovCr (d x : BitVec 7)
  /-- `smov` (R130) -/
  | smovK (d : BitVec 7) (x : BitVec 6)
  /-- `sset` (R135) -/
  | ssetCr (a x : BitVec 7)
  /-- `sset` (R135) -/
  | ssetK (a : BitVec 7) (x : BitVec 6)
  /-- `eret` (R136) -/
  | eret
  /-- `iadd.i32` (R80) -/
  | iaddI32 (d a b : BitVec 7)
  /-- `isub.i32` (R80) -/
  | isubI32 (d a b : BitVec 7)
  /-- `iadd.sat.i32` (R80) -/
  | iaddSatI32 (d a b : BitVec 7)
  /-- `iadd.sat.n32` (R80) -/
  | iaddSatN32 (d a b : BitVec 7)
  /-- `isub.sat.i32` (R80) -/
  | isubSatI32 (d a b : BitVec 7)
  /-- `isub.sat.n32` (R80) -/
  | isubSatN32 (d a b : BitVec 7)
  /-- `imul.lo.b32` (R80) -/
  | imulLoB32 (d a b : BitVec 7)
  /-- `imul.hi.i32` (R80) -/
  | imulHiI32 (d a b : BitVec 7)
  /-- `imul.hi.n32` (R80) -/
  | imulHiN32 (d a b : BitVec 7)
  /-- `imad.lo.b32` (R80) -/
  | imadLoB32 (d a b : BitVec 7)
  /-- `ineg.i32` (R80) -/
  | inegI32 (d a : BitVec 7)
  /-- `iabs.i32` (R80) -/
  | iabsI32 (d a : BitVec 7)
  /-- `imin.i32` (R80) -/
  | iminI32 (d a b : BitVec 7)
  /-- `imax.i32` (R80) -/
  | imaxI32 (d a b : BitVec 7)
  /-- `imin.n32` (R80) -/
  | iminN32 (d a b : BitVec 7)
  /-- `imax.n32` (R80) -/
  | imaxN32 (d a b : BitVec 7)
  /-- `iadd.b64` (R81) -/
  | iaddB64 (d a b : BitVec 7)
  /-- `isub.b64` (R81) -/
  | isubB64 (d a b : BitVec 7)
  /-- `imul.wide.i32` (R81) -/
  | imulWideI32 (d a b : BitVec 7)
  /-- `imul.wide.n32` (R81) -/
  | imulWideN32 (d a b : BitVec 7)
  /-- `imad.wide.i32` (R81) -/
  | imadWideI32 (d a b : BitVec 7)
  /-- `imad.wide.n32` (R81) -/
  | imadWideN32 (d a b : BitVec 7)
  /-- `imin.i64` (R81) -/
  | iminI64 (d a b : BitVec 7)
  /-- `imax.i64` (R81) -/
  | imaxI64 (d a b : BitVec 7)
  /-- `imin.n64` (R81) -/
  | iminN64 (d a b : BitVec 7)
  /-- `imax.n64` (R81) -/
  | imaxN64 (d a b : BitVec 7)
  /-- `idot4.i8` (R82) -/
  | idot4I8 (d a b : BitVec 7)
  /-- `idot4.n8` (R82) -/
  | idot4N8 (d a b : BitVec 7)
  /-- `idot2.i16` (R82) -/
  | idot2I16 (d a b : BitVec 7)
  /-- `idot2.n16` (R82) -/
  | idot2N16 (d a b : BitVec 7)
  /-- `isad4.n8` (R82) -/
  | isad4N8 (d a b : BitVec 7)
  /-- `iadd.n16x2` (R82) -/
  | iaddN16x2 (d a b : BitVec 7)
  /-- `isub.n16x2` (R82) -/
  | isubN16x2 (d a b : BitVec 7)
  /-- `shl.b32` (R84) -/
  | shlB32 (d a b : BitVec 7)
  /-- `shr.n32` (R84) -/
  | shrN32 (d a b : BitVec 7)
  /-- `shr.i32` (R84) -/
  | shrI32 (d a b : BitVec 7)
  /-- `rol.b32` (R84) -/
  | rolB32 (d a b : BitVec 7)
  /-- `ror.b32` (R84) -/
  | rorB32 (d a b : BitVec 7)
  /-- `and.b32` (R84) -/
  | andB32 (d a b : BitVec 7)
  /-- `or.b32` (R84) -/
  | orB32 (d a b : BitVec 7)
  /-- `xor.b32` (R84) -/
  | xorB32 (d a b : BitVec 7)
  /-- `andn.b32` (R84) -/
  | andnB32 (d a b : BitVec 7)
  /-- `orn.b32` (R84) -/
  | ornB32 (d a b : BitVec 7)
  /-- `xnor.b32` (R84) -/
  | xnorB32 (d a b : BitVec 7)
  /-- `not.b32` (R84) -/
  | notB32 (d a : BitVec 7)
  /-- `shl.b64` (R84) -/
  | shlB64 (d a b : BitVec 7)
  /-- `shr.n64` (R84) -/
  | shrN64 (d a b : BitVec 7)
  /-- `shr.i64` (R84) -/
  | shrI64 (d a b : BitVec 7)
  /-- `bfe.n32` (R85) -/
  | bfeN32 (d a b : BitVec 7)
  /-- `bfe.i32` (R85) -/
  | bfeI32 (d a b : BitVec 7)
  /-- `bfi.b32` (R85) -/
  | bfiB32 (d a b : BitVec 7)
  /-- `bperm.b32` (R86) -/
  | bpermB32 (d a b : BitVec 7)
  /-- `popc.b32` (R87) -/
  | popcB32 (d a : BitVec 7)
  /-- `clz.b32` (R87) -/
  | clzB32 (d a : BitVec 7)
  /-- `ctz.b32` (R87) -/
  | ctzB32 (d a : BitVec 7)
  /-- `brev.b32` (R87) -/
  | brevB32 (d a : BitVec 7)
  /-- `icmp.eq.b32` (R88) -/
  | icmpEqB32 (p : BitVec 3) (a b : BitVec 7)
  /-- `icmp.ne.b32` (R88) -/
  | icmpNeB32 (p : BitVec 3) (a b : BitVec 7)
  /-- `icmp.lt.i32` (R88) -/
  | icmpLtI32 (p : BitVec 3) (a b : BitVec 7)
  /-- `icmp.le.i32` (R88) -/
  | icmpLeI32 (p : BitVec 3) (a b : BitVec 7)
  /-- `icmp.gt.i32` (R88) -/
  | icmpGtI32 (p : BitVec 3) (a b : BitVec 7)
  /-- `icmp.ge.i32` (R88) -/
  | icmpGeI32 (p : BitVec 3) (a b : BitVec 7)
  /-- `icmp.lt.n32` (R88) -/
  | icmpLtN32 (p : BitVec 3) (a b : BitVec 7)
  /-- `icmp.le.n32` (R88) -/
  | icmpLeN32 (p : BitVec 3) (a b : BitVec 7)
  /-- `icmp.gt.n32` (R88) -/
  | icmpGtN32 (p : BitVec 3) (a b : BitVec 7)
  /-- `icmp.ge.n32` (R88) -/
  | icmpGeN32 (p : BitVec 3) (a b : BitVec 7)
  /-- `icmp.eq.b64` (R88) -/
  | icmpEqB64 (p : BitVec 3) (a b : BitVec 7)
  /-- `icmp.ne.b64` (R88) -/
  | icmpNeB64 (p : BitVec 3) (a b : BitVec 7)
  /-- `icmp.lt.i64` (R88) -/
  | icmpLtI64 (p : BitVec 3) (a b : BitVec 7)
  /-- `icmp.ge.i64` (R88) -/
  | icmpGeI64 (p : BitVec 3) (a b : BitVec 7)
  /-- `icmp.lt.n64` (R88) -/
  | icmpLtN64 (p : BitVec 3) (a b : BitVec 7)
  /-- `icmp.ge.n64` (R88) -/
  | icmpGeN64 (p : BitVec 3) (a b : BitVec 7)
  /-- `sel.b32` (R89) -/
  | selB32 (d a b : BitVec 7) (p : BitVec 3)
  /-- `mov.b32` (R89) -/
  | movB32 (d a : BitVec 7)
  /-- `mov.b64` (R89) -/
  | movB64 (d a : BitVec 7)
  /-- `pget` (R89) -/
  | pget (d : BitVec 7) (q : BitVec 3)
  /-- `pset` (R89) -/
  | pset (p : BitVec 3) (a : BitVec 7)
  /-- `pand` (R89) -/
  | pand (p q r : BitVec 3)
  /-- `por` (R89) -/
  | por (p q r : BitVec 3)
  /-- `pxor` (R89) -/
  | pxor (p q r : BitVec 3)
  /-- `iaddi` (R90) -/
  | iaddi (d a : BitVec 7) (i : BitVec 11)
  /-- `andi` (R90) -/
  | andi (d a : BitVec 7) (i : BitVec 11)
  /-- `ori` (R90) -/
  | ori (d a : BitVec 7) (i : BitVec 11)
  /-- `xori` (R90) -/
  | xori (d a : BitVec 7) (i : BitVec 11)
  /-- `shli.b32` (R91) -/
  | shliB32 (d a : BitVec 7) (n : BitVec 5)
  /-- `shri.n32` (R91) -/
  | shriN32 (d a : BitVec 7) (n : BitVec 5)
  /-- `shri.i32` (R91) -/
  | shriI32 (d a : BitVec 7) (n : BitVec 5)
  /-- `roli.b32` (R91) -/
  | roliB32 (d a : BitVec 7) (n : BitVec 5)
  /-- `rori.b32` (R91) -/
  | roriB32 (d a : BitVec 7) (n : BitVec 5)
  /-- `movi` (R90) -/
  | movi (d : BitVec 7) (i : BitVec 11)
  /-- `shlori` (R90) -/
  | shlori (d a : BitVec 7) (i : BitVec 11)
  /-- `icmpi` (R92) -/
  | icmpi (p : BitVec 3) (a : BitVec 7) (c : Cond) (i : BitVec 7)
  /-- `fadd.f32` (R99) -/
  | faddF32 (r : Rnd) (d a b : BitVec 7)
  /-- `fsub.f32` (R99) -/
  | fsubF32 (r : Rnd) (d a b : BitVec 7)
  /-- `fmul.f32` (R99) -/
  | fmulF32 (r : Rnd) (d a b : BitVec 7)
  /-- `fadd.sat.f32` (R99) -/
  | faddSatF32 (r : Rnd) (d a b : BitVec 7)
  /-- `fsub.sat.f32` (R99) -/
  | fsubSatF32 (r : Rnd) (d a b : BitVec 7)
  /-- `fmul.sat.f32` (R99) -/
  | fmulSatF32 (r : Rnd) (d a b : BitVec 7)
  /-- `fma.f32` (R100) -/
  | fmaF32 (d a b : BitVec 7) (r : Rnd)
  /-- `fms.f32` (R100) -/
  | fmsF32 (d a b : BitVec 7) (r : Rnd)
  /-- `fnma.f32` (R100) -/
  | fnmaF32 (d a b : BitVec 7) (r : Rnd)
  /-- `fma.sat.f32` (R100) -/
  | fmaSatF32 (d a b : BitVec 7) (r : Rnd)
  /-- `fmin.f32` (R101) -/
  | fminF32 (d a b : BitVec 7)
  /-- `fmax.f32` (R101) -/
  | fmaxF32 (d a b : BitVec 7)
  /-- `fminnum.f32` (R101) -/
  | fminnumF32 (d a b : BitVec 7)
  /-- `fmaxnum.f32` (R101) -/
  | fmaxnumF32 (d a b : BitVec 7)
  /-- `fabs.f32` (R102) -/
  | fabsF32 (d a : BitVec 7)
  /-- `fneg.f32` (R102) -/
  | fnegF32 (d a : BitVec 7)
  /-- `frint.f32.rn` (R103) -/
  | frintF32Rn (d a : BitVec 7)
  /-- `frint.f32.rz` (R103) -/
  | frintF32Rz (d a : BitVec 7)
  /-- `frint.f32.rd` (R103) -/
  | frintF32Rd (d a : BitVec 7)
  /-- `frint.f32.ru` (R103) -/
  | frintF32Ru (d a : BitVec 7)
  /-- `frint.f32.rna` (R103) -/
  | frintF32Rna (d a : BitVec 7)
  /-- `fcopysign.f32` (R102) -/
  | fcopysignF32 (d a b : BitVec 7)
  /-- `fcmp.eq.f32` (R104) -/
  | fcmpEqF32 (p : BitVec 3) (a b : BitVec 7)
  /-- `fcmp.ne.f32` (R104) -/
  | fcmpNeF32 (p : BitVec 3) (a b : BitVec 7)
  /-- `fcmp.lt.f32` (R104) -/
  | fcmpLtF32 (p : BitVec 3) (a b : BitVec 7)
  /-- `fcmp.le.f32` (R104) -/
  | fcmpLeF32 (p : BitVec 3) (a b : BitVec 7)
  /-- `fcmp.gt.f32` (R104) -/
  | fcmpGtF32 (p : BitVec 3) (a b : BitVec 7)
  /-- `fcmp.ge.f32` (R104) -/
  | fcmpGeF32 (p : BitVec 3) (a b : BitVec 7)
  /-- `fcmp.ord.f32` (R104) -/
  | fcmpOrdF32 (p : BitVec 3) (a b : BitVec 7)
  /-- `fcmp.uno.f32` (R104) -/
  | fcmpUnoF32 (p : BitVec 3) (a b : BitVec 7)
  /-- `fadd.bf16x2.rn` (R105) -/
  | faddBf16x2Rn (d a b : BitVec 7)
  /-- `fmul.bf16x2.rn` (R105) -/
  | fmulBf16x2Rn (d a b : BitVec 7)
  /-- `fma.bf16x2.rn` (R105) -/
  | fmaBf16x2Rn (d a b : BitVec 7)
  /-- `fmin.bf16x2` (R105) -/
  | fminBf16x2 (d a b : BitVec 7)
  /-- `fmax.bf16x2` (R105) -/
  | fmaxBf16x2 (d a b : BitVec 7)
  /-- `fadd.f16x2.rn` (R105) -/
  | faddF16x2Rn (d a b : BitVec 7)
  /-- `fmul.f16x2.rn` (R105) -/
  | fmulF16x2Rn (d a b : BitVec 7)
  /-- `fma.f16x2.rn` (R105) -/
  | fmaF16x2Rn (d a b : BitVec 7)
  /-- `fmin.f16x2` (R105) -/
  | fminF16x2 (d a b : BitVec 7)
  /-- `fmax.f16x2` (R105) -/
  | fmaxF16x2 (d a b : BitVec 7)
  /-- `cvt.f32.i32.rn` (R106) -/
  | cvtF32I32Rn (d a : BitVec 7)
  /-- `cvt.f32.n32.rn` (R106) -/
  | cvtF32N32Rn (d a : BitVec 7)
  /-- `cvt.i32.f32.rn` (R106) -/
  | cvtI32F32Rn (d a : BitVec 7)
  /-- `cvt.i32.f32.rz` (R106) -/
  | cvtI32F32Rz (d a : BitVec 7)
  /-- `cvt.i32.f32.rd` (R106) -/
  | cvtI32F32Rd (d a : BitVec 7)
  /-- `cvt.i32.f32.ru` (R106) -/
  | cvtI32F32Ru (d a : BitVec 7)
  /-- `cvt.n32.f32.rn` (R106) -/
  | cvtN32F32Rn (d a : BitVec 7)
  /-- `cvt.n32.f32.rz` (R106) -/
  | cvtN32F32Rz (d a : BitVec 7)
  /-- `cvt.n32.f32.rd` (R106) -/
  | cvtN32F32Rd (d a : BitVec 7)
  /-- `cvt.n32.f32.ru` (R106) -/
  | cvtN32F32Ru (d a : BitVec 7)
  /-- `cvt.f32.bf16` (R107) -/
  | cvtF32Bf16 (d a : BitVec 7)
  /-- `cvt.f32.f16` (R107) -/
  | cvtF32F16 (d a : BitVec 7)
  /-- `cvt.bf16.f32.rn` (R107) -/
  | cvtBf16F32Rn (d a : BitVec 7)
  /-- `cvt.bf16.f32.rz` (R107) -/
  | cvtBf16F32Rz (d a : BitVec 7)
  /-- `cvt.f16.f32.rn` (R107) -/
  | cvtF16F32Rn (d a : BitVec 7)
  /-- `cvt.f16.f32.rz` (R107) -/
  | cvtF16F32Rz (d a : BitVec 7)
  /-- `cvt.e4m3x2.f32.rn` (R108) -/
  | cvtE4m3x2F32Rn (d a b : BitVec 7)
  /-- `cvt.e4m3x2.f32.rn.sat` (R108) -/
  | cvtE4m3x2F32RnSat (d a b : BitVec 7)
  /-- `cvt.e5m2x2.f32.rn` (R108) -/
  | cvtE5m2x2F32Rn (d a b : BitVec 7)
  /-- `cvt.e5m2x2.f32.rn.sat` (R108) -/
  | cvtE5m2x2F32RnSat (d a b : BitVec 7)
  /-- `cvt.bf16x2.f32.rn` (R108) -/
  | cvtBf16x2F32Rn (d a b : BitVec 7)
  /-- `cvt.f16x2.f32.rn` (R108) -/
  | cvtF16x2F32Rn (d a b : BitVec 7)
  /-- `cvt.f16x2.e4m3x2` (R108) -/
  | cvtF16x2E4m3x2 (d a : BitVec 7)
  /-- `cvt.f16x2.e5m2x2` (R108) -/
  | cvtF16x2E5m2x2 (d a : BitVec 7)
  /-- `rcp.f32` (R109) -/
  | rcpF32 (d a : BitVec 7) (l : BitVec 4)
  /-- `rsqrt.f32` (R109) -/
  | rsqrtF32 (d a : BitVec 7) (l : BitVec 4)
  /-- `sqrt.f32` (R109) -/
  | sqrtF32 (d a : BitVec 7) (l : BitVec 4)
  /-- `exp2.f32` (R109) -/
  | exp2F32 (d a : BitVec 7) (l : BitVec 4)
  /-- `log2.f32` (R109) -/
  | log2F32 (d a : BitVec 7) (l : BitVec 4)
  /-- `sin.f32` (R111) -/
  | sinF32 (d a : BitVec 7) (l : BitVec 4)
  /-- `cos.f32` (R111) -/
  | cosF32 (d a : BitVec 7) (l : BitVec 4)
  /-- `sinpi.f32` (R111) -/
  | sinpiF32 (d a : BitVec 7) (l : BitVec 4)
  /-- `cospi.f32` (R111) -/
  | cospiF32 (d a : BitVec 7) (l : BitVec 4)
  /-- `tanh.f32` (R109) -/
  | tanhF32 (d a : BitVec 7) (l : BitVec 4)
  /-- `shfl.sel` (R151) -/
  | shflSel (d a b : BitVec 7)
  /-- `shfl.step` (R151) -/
  | shflStep (d a b : BitVec 7)
  /-- `shfl.wrap` (R151) -/
  | shflWrap (d a b : BitVec 7)
  /-- `shfl.rank` (R151) -/
  | shflRank (d a b : BitVec 7)
  /-- `swz.xor` (R152) -/
  | swzXor (d a : BitVec 7) (c : BitVec 5)
  /-- `swz.bcast` (R152) -/
  | swzBcast (d a : BitVec 7) (c : BitVec 5)
  /-- `swz.rot` (R152) -/
  | swzRot (d a : BitVec 7) (c : BitVec 5)
  /-- `vote.count` (R153) -/
  | voteCount (d : BitVec 7) (p : BitVec 3)
  /-- `vote.mask` (R153) -/
  | voteMask (d : BitVec 7) (p : BitVec 3)
  /-- `vote.span` (R153) -/
  | voteSpan (d : BitVec 7) (p : BitVec 3)
  /-- `match.b32` (R154) -/
  | matchB32 (d a : BitVec 7) (l : BitVec 4)
  /-- `match.b64` (R154) -/
  | matchB64 (d a : BitVec 7) (l : BitVec 4)
  /-- `redux.add.i32` (R155) -/
  | reduxAddI32 (d a : BitVec 7)
  /-- `redux.min.i32` (R155) -/
  | reduxMinI32 (d a : BitVec 7)
  /-- `redux.max.i32` (R155) -/
  | reduxMaxI32 (d a : BitVec 7)
  /-- `redux.and.b32` (R155) -/
  | reduxAndB32 (d a : BitVec 7)
  /-- `redux.or.b32` (R155) -/
  | reduxOrB32 (d a : BitVec 7)
  /-- `redux.fadd.f32.rn` (R75) -/
  | reduxFaddF32Rn (d a : BitVec 7)
  /-- `ld.n8` (R119) -/
  | ldN8 (t a : BitVec 7) (l : BitVec 4) (s : Scope) (o : MemOrder)
  /-- `ld.i8` (R119) -/
  | ldI8 (t a : BitVec 7) (l : BitVec 4) (s : Scope) (o : MemOrder)
  /-- `st.b8` (R119) -/
  | stB8 (t a : BitVec 7) (s : Scope) (o : MemOrder)
  /-- `ld.n16` (R119) -/
  | ldN16 (t a : BitVec 7) (l : BitVec 4) (s : Scope) (o : MemOrder)
  /-- `ld.i16` (R119) -/
  | ldI16 (t a : BitVec 7) (l : BitVec 4) (s : Scope) (o : MemOrder)
  /-- `st.b16` (R119) -/
  | stB16 (t a : BitVec 7) (s : Scope) (o : MemOrder)
  /-- `ld.b32` (R119) -/
  | ldB32 (t a : BitVec 7) (l : BitVec 4) (s : Scope) (o : MemOrder)
  /-- `st.b32` (R119) -/
  | stB32 (t a : BitVec 7) (s : Scope) (o : MemOrder)
  /-- `ld.b64` (R119) -/
  | ldB64 (t a : BitVec 7) (l : BitVec 4) (s : Scope) (o : MemOrder)
  /-- `st.b64` (R119) -/
  | stB64 (t a : BitVec 7) (s : Scope) (o : MemOrder)
  /-- `ld.b128` (R119) -/
  | ldB128 (t a : BitVec 7) (l : BitVec 4) (s : Scope) (o : MemOrder)
  /-- `st.b128` (R119) -/
  | stB128 (t a : BitVec 7) (s : Scope) (o : MemOrder)
  /-- `atom.add.i32` (R215) -/
  | atomAddI32 (t : BitVec 7) (a : BitVec 6) (l : BitVec 4) (s : Scope) (o : MemOrder)
  /-- `atom.and.b32` (R215) -/
  | atomAndB32 (t : BitVec 7) (a : BitVec 6) (l : BitVec 4) (s : Scope) (o : MemOrder)
  /-- `atom.or.b32` (R215) -/
  | atomOrB32 (t : BitVec 7) (a : BitVec 6) (l : BitVec 4) (s : Scope) (o : MemOrder)
  /-- `atom.xor.b32` (R215) -/
  | atomXorB32 (t : BitVec 7) (a : BitVec 6) (l : BitVec 4) (s : Scope) (o : MemOrder)
  /-- `atom.min.i32` (R215) -/
  | atomMinI32 (t : BitVec 7) (a : BitVec 6) (l : BitVec 4) (s : Scope) (o : MemOrder)
  /-- `atom.max.i32` (R215) -/
  | atomMaxI32 (t : BitVec 7) (a : BitVec 6) (l : BitVec 4) (s : Scope) (o : MemOrder)
  /-- `atom.min.n32` (R215) -/
  | atomMinN32 (t : BitVec 7) (a : BitVec 6) (l : BitVec 4) (s : Scope) (o : MemOrder)
  /-- `atom.max.n32` (R215) -/
  | atomMaxN32 (t : BitVec 7) (a : BitVec 6) (l : BitVec 4) (s : Scope) (o : MemOrder)
  /-- `atom.exch.b32` (R215) -/
  | atomExchB32 (t : BitVec 7) (a : BitVec 6) (l : BitVec 4) (s : Scope) (o : MemOrder)
  /-- `atom.cas.b32` (R215) -/
  | atomCasB32 (t : BitVec 7) (a : BitVec 6) (l : BitVec 4) (s : Scope) (o : MemOrder)
  /-- `atom.fadd.f32.rn` (R215) -/
  | atomFaddF32Rn (t : BitVec 7) (a : BitVec 6) (l : BitVec 4) (s : Scope) (o : MemOrder)
  /-- `atom.fadd2.bf16.rn` (R215) -/
  | atomFadd2Bf16Rn (t : BitVec 7) (a : BitVec 6) (l : BitVec 4) (s : Scope) (o : MemOrder)
  /-- `lds` (R123) -/
  | lds (t a : BitVec 7) (l : BitVec 4) (w : LpWidth) (o : MemOrder)
  /-- `sts` (R123) -/
  | sts (t a : BitVec 7) (w : LpWidth) (o : MemOrder)
  /-- `ld.spec.b32` (R124) -/
  | ldSpecB32 (t a : BitVec 7) (l : BitVec 4) (s : Scope)
  /-- `ld.spec.b64` (R124) -/
  | ldSpecB64 (t a : BitVec 7) (l : BitVec 4) (s : Scope)
  /-- `chk.b32` (R126) -/
  | chkB32 (t a : BitVec 7) (l : BitVec 4) (s : Scope)
  /-- `chk.b64` (R126) -/
  | chkB64 (t a : BitVec 7) (l : BitVec 4) (s : Scope)
  /-- `fence` (R218) -/
  | fence (s : Scope) (o : MemOrder)
  /-- `fence.eng` (R247) -/
  | fenceEng (s : Scope)
  /-- `cwb` (R219) -/
  | cwb (a : BitVec 7) (s : Scope)
  /-- `cinv` (R219) -/
  | cinv (a : BitVec 7) (s : Scope)
  /-- `cwbinv` (R219) -/
  | cwbinv (a : BitVec 7) (s : Scope)
  /-- `icinv` (R219) -/
  | icinv (a : BitVec 7) (s : Scope)
  /-- `pf.l1` (R219) -/
  | pfL1 (a : BitVec 7) (s : Scope)
  /-- `pf.l2` (R219) -/
  | pfL2 (a : BitVec 7) (s : Scope)
  /-- `rgn.conv` (R223) -/
  | rgnConv (t a : BitVec 7)
  /-- `qpush.b32` (R128) -/
  | qpushB32 (q : BitVec 4) (a : BitVec 7)
  /-- `qpush.b64` (R128) -/
  | qpushB64 (q : BitVec 4) (a : BitVec 7)
  /-- `qpop.b32` (R129) -/
  | qpopB32 (d : BitVec 7) (q l : BitVec 4)
  /-- `qpop.b64` (R129) -/
  | qpopB64 (d : BitVec 7) (q l : BitVec 4)
  /-- `qtry.b32` (R129) -/
  | qtryB32 (d : BitVec 7) (q l : BitVec 4) (p : BitVec 3)
  /-- `qtry.b64` (R129) -/
  | qtryB64 (d : BitVec 7) (q l : BitVec 4) (p : BitVec 3)
  /-- `bra` (R113) -/
  | bra (o : BitVec 25)
  /-- `bra.t` (R113) -/
  | braT (p : BitVec 3) (o : BitVec 21)
  /-- `bra.f` (R113) -/
  | braF (p : BitVec 3) (o : BitVec 21)
  /-- `call` (R114) -/
  | call (o : BitVec 25)
  /-- `jmpi` (R115) -/
  | jmpi (a : BitVec 7)
  /-- `calli` (R115) -/
  | calli (a : BitVec 7)
  /-- `ret` (R115) -/
  | ret (a : BitVec 7)
  /-- `bar.team` (R156) -/
  | barTeam
  /-- `bar.clu` (R156) -/
  | barClu
  /-- `bar.nb.arrive` (R158) -/
  | barNbArrive (n : BitVec 4)
  /-- `bar.nb.wait` (R158) -/
  | barNbWait (n : BitVec 4)
  /-- `spawn` (R160) -/
  | spawn (a b : BitVec 7)
  /-- `waitchild` (R163) -/
  | waitchild
  /-- `knop` (R133) -/
  | knop
  /-- `ksr` (R133) -/
  | ksr (d x : BitVec 6)
  /-- `kyield` (R131) -/
  | kyield
  /-- `kadd.b32` (R94) -/
  | kaddB32 (d a b : BitVec 6)
  /-- `ksub.b32` (R94) -/
  | ksubB32 (d a b : BitVec 6)
  /-- `kmul.lo.b32` (R94) -/
  | kmulLoB32 (d a b : BitVec 6)
  /-- `kmul.hi.i32` (R94) -/
  | kmulHiI32 (d a b : BitVec 6)
  /-- `kmul.hi.n32` (R94) -/
  | kmulHiN32 (d a b : BitVec 6)
  /-- `kmin.i32` (R94) -/
  | kminI32 (d a b : BitVec 6)
  /-- `kmax.i32` (R94) -/
  | kmaxI32 (d a b : BitVec 6)
  /-- `kmin.n32` (R94) -/
  | kminN32 (d a b : BitVec 6)
  /-- `kmax.n32` (R94) -/
  | kmaxN32 (d a b : BitVec 6)
  /-- `kadd.b64` (R94) -/
  | kaddB64 (d a b : BitVec 6)
  /-- `ksub.b64` (R94) -/
  | ksubB64 (d a b : BitVec 6)
  /-- `kand.b32` (R94) -/
  | kandB32 (d a b : BitVec 6)
  /-- `kor.b32` (R94) -/
  | korB32 (d a b : BitVec 6)
  /-- `kxor.b32` (R94) -/
  | kxorB32 (d a b : BitVec 6)
  /-- `kandn.b32` (R94) -/
  | kandnB32 (d a b : BitVec 6)
  /-- `knot.b32` (R94) -/
  | knotB32 (d a : BitVec 6)
  /-- `kshl.b32` (R94) -/
  | kshlB32 (d a b : BitVec 6)
  /-- `kshr.n32` (R94) -/
  | kshrN32 (d a b : BitVec 6)
  /-- `kshr.i32` (R94) -/
  | kshrI32 (d a b : BitVec 6)
  /-- `kpopc.b32` (R94) -/
  | kpopcB32 (d a : BitVec 6)
  /-- `kclz.b32` (R94) -/
  | kclzB32 (d a : BitVec 6)
  /-- `kbfe.n32` (R94) -/
  | kbfeN32 (d a b : BitVec 6)
  /-- `kbra` (R117) -/
  | kbra (o : BitVec 10)
  /-- `kbr.eq.b32` (R117) -/
  | kbrEqB32 (a b : BitVec 6) (o : BitVec 10)
  /-- `kbr.ne.b32` (R117) -/
  | kbrNeB32 (a b : BitVec 6) (o : BitVec 10)
  /-- `kbr.lt.i32` (R117) -/
  | kbrLtI32 (a b : BitVec 6) (o : BitVec 10)
  /-- `kbr.ge.i32` (R117) -/
  | kbrGeI32 (a b : BitVec 6) (o : BitVec 10)
  /-- `kbr.lt.n32` (R117) -/
  | kbrLtN32 (a b : BitVec 6) (o : BitVec 10)
  /-- `kbr.ge.n32` (R117) -/
  | kbrGeN32 (a b : BitVec 6) (o : BitVec 10)
  /-- `kaddi` (R95) -/
  | kaddi (d a : BitVec 6) (i : BitVec 13)
  /-- `kandi` (R95) -/
  | kandi (d a : BitVec 6) (i : BitVec 13)
  /-- `kori` (R95) -/
  | kori (d a : BitVec 6) (i : BitVec 13)
  /-- `kxori` (R95) -/
  | kxori (d a : BitVec 6) (i : BitVec 13)
  /-- `kmovi` (R95) -/
  | kmovi (d : BitVec 6) (i : BitVec 13)
  /-- `kshlori` (R95) -/
  | kshlori (d a : BitVec 6) (i : BitVec 13)
  /-- `kshli.b32` (R95) -/
  | kshliB32 (d a : BitVec 6) (n : BitVec 5)
  /-- `kshri.n32` (R95) -/
  | kshriN32 (d a : BitVec 6) (n : BitVec 5)
  /-- `kshri.i32` (R95) -/
  | kshriI32 (d a : BitVec 6) (n : BitVec 5)
  /-- `kld.b32` (R122) -/
  | kldB32 (t a : BitVec 6) (l : BitVec 4) (s : Scope) (o : MemOrder)
  /-- `kst.b32` (R122) -/
  | kstB32 (t a : BitVec 6) (s : Scope) (o : MemOrder)
  /-- `kld.b64` (R122) -/
  | kldB64 (t a : BitVec 6) (l : BitVec 4) (s : Scope) (o : MemOrder)
  /-- `kst.b64` (R122) -/
  | kstB64 (t a : BitVec 6) (s : Scope) (o : MemOrder)
  /-- `katom.add.i32` (R216) -/
  | katomAddI32 (t a : BitVec 6) (l : BitVec 4) (s : Scope) (o : MemOrder)
  /-- `katom.and.b32` (R216) -/
  | katomAndB32 (t a : BitVec 6) (l : BitVec 4) (s : Scope) (o : MemOrder)
  /-- `katom.or.b32` (R216) -/
  | katomOrB32 (t a : BitVec 6) (l : BitVec 4) (s : Scope) (o : MemOrder)
  /-- `katom.xor.b32` (R216) -/
  | katomXorB32 (t a : BitVec 6) (l : BitVec 4) (s : Scope) (o : MemOrder)
  /-- `katom.min.i32` (R216) -/
  | katomMinI32 (t a : BitVec 6) (l : BitVec 4) (s : Scope) (o : MemOrder)
  /-- `katom.max.i32` (R216) -/
  | katomMaxI32 (t a : BitVec 6) (l : BitVec 4) (s : Scope) (o : MemOrder)
  /-- `katom.min.n32` (R216) -/
  | katomMinN32 (t a : BitVec 6) (l : BitVec 4) (s : Scope) (o : MemOrder)
  /-- `katom.max.n32` (R216) -/
  | katomMaxN32 (t a : BitVec 6) (l : BitVec 4) (s : Scope) (o : MemOrder)
  /-- `katom.exch.b32` (R216) -/
  | katomExchB32 (t a : BitVec 6) (l : BitVec 4) (s : Scope) (o : MemOrder)
  /-- `katom.cas.b32` (R216) -/
  | katomCasB32 (t a : BitVec 6) (l : BitVec 4) (s : Scope) (o : MemOrder)
  /-- `katom.fadd.f32.rn` (R216) -/
  | katomFaddF32Rn (t a : BitVec 6) (l : BitVec 4) (s : Scope) (o : MemOrder)
  /-- `klaunch` (R175) -/
  | klaunch (d a : BitVec 6)
  /-- `kspawn` (R161) -/
  | kspawn (a b : BitVec 6)
  /-- `tld` (R284) -/
  | tld (m : BitVec 3) (s : BitVec 8)
  /-- `tst.bf16.rn` (R285) -/
  | tstBf16Rn (c : BitVec 4) (s : BitVec 8) (h : Bool)
  /-- `tst.f32` (R285) -/
  | tstF32 (c : BitVec 4) (s : BitVec 8)
  /-- `tmma.w` (R286) -/
  | tmmaW (c : BitVec 4) (m : BitVec 3) (r : Bool) (s : BitVec 8)
  /-- `tmma.s` (R286) -/
  | tmmaS (c : BitVec 4) (m : BitVec 3) (r : Bool) (s : BitVec 8)
  /-- `tmma.i8` (R286) -/
  | tmmaI8 (c : BitVec 4) (m : BitVec 3) (r : Bool) (s : BitVec 8)
  /-- `tzero` (R291) -/
  | tzero (c : BitVec 4)
  /-- `tew.ld` (R292) -/
  | tewLd (c : BitVec 4) (s : BitVec 8)
  /-- `tew.add` (R292) -/
  | tewAdd (c : BitVec 4) (s : BitVec 8)
  /-- `tew.mul` (R292) -/
  | tewMul (c : BitVec 4) (s : BitVec 8)
  /-- `tew.addrow` (R292) -/
  | tewAddrow (c : BitVec 4) (s : BitVec 8)
  /-- `tew.mulrow` (R292) -/
  | tewMulrow (c : BitVec 4) (s : BitVec 8)
  /-- `tew.relu` (R292) -/
  | tewRelu (c : BitVec 4)
  /-- `tew.sq` (R292) -/
  | tewSq (c : BitVec 4)
  /-- `tew.tanh` (R292) -/
  | tewTanh (c : BitVec 4)
  /-- `tew.neg` (R292) -/
  | tewNeg (c : BitVec 4)
  /-- `twait` (R283) -/
  | twait (n : BitVec 4)
  /-- `tsig` (R283) -/
  | tsig (n : BitVec 4)
  /-- `tbar` (R290) -/
  | tbar (n : BitVec 4)
  /-- `dtask` (R271) -/
  | dtask (n : BitVec 4) (ext : List Word)
  /-- `rec.beg` (R301) -/
  | recBeg (w1 w2 w3 w4 : Word)
  /-- `rec.end` (R307) -/
  | recEnd
  /-- `reverse` (R308) -/
  | reverse (w1 w2 w3 w4 : Word)
  /-- (R259) -/
  | rkLoad (ws : List Word)
  /-- (R260) -/
  | rkStore (ws : List Word)
  /-- (R262) -/
  | rkCopy (ws : List Word)
  /-- (R263) -/
  | rkGather (ws : List Word)
  /-- (R261) -/
  | rkScale (ws : List Word)
  /-- (R267) -/
  | pressCommand (ws : List Word)
  /-- (R256) -/
  | engineOperationComplete (core eng : Nat)
  /-- (R252) -/
  | resultEntryWrite (core eng : Nat)
  /-- (R272) -/
  | taskIssue (team task : Nat)
  /-- (R173) -/
  | lpSubmit (asid : Nat) (value : DWord)
  /-- (R171) -/
  | launchRecordCheck (asid : Nat)
  /-- (R177) -/
  | dependencySatisfied (asid seq : Nat)
  /-- (R329) -/
  | leasingComplete (asid seq : Nat)
  /-- (R180) -/
  | teamPlacement (asid seq : Nat)
  /-- (R162) -/
  | childPlacement (core : Nat)
  /-- (R189) -/
  | teamRetirement (team : Nat)
  /-- (R190) -/
  | launchFlush (asid seq : Nat)
  /-- (R190) -/
  | launchSignalWrite (asid seq : Nat)
  /-- (R324) -/
  | atRootWrite (asid : Nat) (value : DWord)
  /-- (R324) -/
  | atRootApply (asid : Nat)
  /-- (R339) -/
  | lpPreemptWrite (asid : Nat) (value : DWord)
  /-- (R340) -/
  | preemptSaved (asid : Nat)
  /-- (R342) -/
  | lpResumeWrite (asid : Nat) (value : DWord)
  /-- (R343) -/
  | vintageWrite (asid seq cluster : Nat)
  /-- (R6) -/
  | registerWrite (pa : Nat) (value : DWord)
  /-- (R332) -/
  | trapHandlerEntry (team group : Nat)
  /-- (R336) -/
  | teamHandlerEntry (team : Nat)
  /-- (R143) -/
  | quantumRotation (team group : Nat)
  /-- (R188) -/
  | tokenWindowStart (core : Nat)
  /-- (R187) -/
  | throttleScoreHalving (core : Nat)
  /-- (R346) -/
  | settle (core : Nat)
  /-- (R350) -/
  | snapshot (core : Nat)
  /-- (R345) -/
  | strikeReport (core time : Nat)
  /-- (R353) -/
  | checkerMismatch (core : Nat) (origin : Origin) (time : Nat)
  /-- (R356) -/
  | uncorrectableError (site : ErrorSite)
  /-- (R370) -/
  | rds (m : Msg)
  /-- (R370) -/
  | rdOwn (m : Msg)
  /-- (R370) -/
  | ownNd (m : Msg)
  /-- (R370) -/
  | upg (m : Msg)
  /-- (R370) -/
  | atomReq (m : Msg)
  /-- (R371) -/
  | gnt (m : Msg)
  /-- (R371) -/
  | snpFwd (m : Msg)
  /-- (R371) -/
  | snpOwn (m : Msg)
  /-- (R371) -/
  | snpInv (m : Msg)
  /-- (R371) -/
  | snpRcl (m : Msg)
  /-- (R369) -/
  | snpAck (m : Msg)
  /-- (R369) -/
  | snpData (m : Msg)
  /-- (R372) -/
  | wbReq (m : Msg)
  /-- (R372) -/
  | wbGnt (m : Msg)
  /-- (R372) -/
  | wbData (m : Msg)
  /-- (R369) -/
  | cleanEv (m : Msg)
  /-- (R373) -/
  | cmp (m : Msg)
  /-- (R375) -/
  | mir (m : Msg)
  /-- (R375) -/
  | mirAck (m : Msg)
  /-- (R375) -/
  | mirClr (m : Msg)
  /-- (R374) -/
  | mark (m : Msg)
  /-- (R374) -/
  | markAck (m : Msg)
  /-- (R365) -/
  | nack (link : Nat)
  /-- (R377) -/
  | dieDown (m : Msg)
  /-- (R377) -/
  | rbReport (dead : Nat) (m : Msg)
  /-- (R377) -/
  | takeReq (m : Msg)
  /-- (R377) -/
  | sliceRebuildComplete (dead : Nat)
  /-- (R376) -/
  | snoopTimeout (die : Nat)
  /-- (R376) -/
  | ddStateKill (die : Nat)
  /-- (R379) -/
  | linkRateStep (link margin : Nat)
  /-- (R380) -/
  | packageSnoopTimeout (pkg : Nat)
  /-- (R381) -/
  | cxlSnpData (io line : Nat)
  /-- (R381) -/
  | cxlSnpInv (io line : Nat)
  /-- (R381) -/
  | cxlSnpCur (io line : Nat)
  /-- (R381) -/
  | hostMemAccess (a : HostAccess)
  /-- (R382) -/
  | mgCtlGo (value : DWord)
  /-- (R382) -/
  | pageMigrationComplete
  /-- (R383) -/
  | moveWindowEnd (asid page : Nat)
  /-- (R404) -/
  | hkCtlWrite (value : DWord)
  /-- (R404) -/
  | fabricNumApply
  /-- (R401) -/
  | tamperAlarm (sensor : Sensor)
  /-- (R403) -/
  | dieThrottle (die power temp : Nat)
  /-- (R393) -/
  | ioDie0ResetRelease
  /-- (R398) -/
  | firmwareVerifyDone
  /-- (R394) -/
  | selfTestPass (t : SelfTest)
  /-- (R395) -/
  | serviceTransitionStart (die : Nat)
  /-- (R395) -/
  | serviceTransitionEnd (die : Nat)
  /-- (R396) -/
  | identify (m : Mlad)
  /-- (R396) -/
  | regRead (m : Mlad)
  /-- (R396) -/
  | regWrite (m : Mlad)
  /-- (R393) -/
  | powerStep (m : Mlad)
  /-- (R396) -/
  | fwWrite (m : Mlad)
  /-- (R398) -/
  | fwCommit (m : Mlad)
  /-- (R399) -/
  | attest (m : Mlad)
  /-- (R396) -/
  | sessionOpen (m : Mlad)
  /-- (R396) -/
  | sessionProve (m : Mlad)
  /-- (R396) -/
  | sessionClose (m : Mlad)
  /-- (R396) -/
  | sessionTimeout
  /-- (R396) -/
  | challengeExpiry
  /-- (R42) -/
  | illegalInstructionWord (w : Word)
  /-- (R25) -/
  | longLatencyResult (team group pos : Nat)
  /-- (R185) -/
  | groupSwap (core side : Nat)
  /-- (R176) -/
  | leaseDeclined (asid seq : Nat)
  /-- (R227) -/
  | applicationCoreAccess (a : AppAccess)
  /-- (R381) -/
  | cxlH2dResponse (io line : Nat) (req : D2H) (data : List (Nat × Word))
  /-- (R381) -/
  | backInvalidateResponse (line : Nat) (data : List (Nat × Word))
  /-- (R403) -/
  | dieOvertemperature (die : Nat)
  /-- (R379) -/
  | linkLevelRetry (link frames : Nat)
  /-- (R396) -/
  | mladlithUnknownCode (m : Mlad)
deriving DecidableEq, Repr

end Sys2Proof
end

