-- ==== Sys2Proof/Machine/State.lean ====
section
/-! DEFINITION. The state of a Brixtum package as plain data, the reasons a step can stop, and the state after reset.
Every field names the rule of the spec that gives it; INVENTORY.md lists them with their reset values. -/
namespace Sys2Proof.Machine
open Sys2Proof

/-- Why the machine stops. -/
inductive Fault
  /-- An access that no page table translated (an application core's or a host's) names a physical address that R320
  reserves: regions 0x5 and 0x6, and package DRAM above die 23. Raised by the outside accesses. Safe: the run stops. -/
  | reservedAddress (pa : Nat)
deriving DecidableEq, Repr

/-- Why an instruction or event has no meaning in a state. No step of the machine answers one of these. -/
inductive Refusal
  /-- The instruction has no meaning in this model yet. Safe. -/
  | notModelled (mnemonic : String)
  /-- `exec` was asked for a word in a state in which no path, no Cooper and no engine is issuing one. Safe. -/
  | noIssuer
  /-- `exec` was asked for an event of the package whose condition does not hold, so that it does not occur. Safe. -/
  | notDue
deriving DecidableEq, Repr

/-- Which agent issues the instruction being executed (a field of the model's own, DESIGN CHOICE, log 2). -/
inductive Actor
  | idle
  /-- the path of a group that holds thread position `lead` -/
  | path (team group lead : Nat)
  | cooper (team : Nat)
  | engine (core eng team : Nat)
deriving DecidableEq, Repr

/-- The state of one cached word (R371). -/
inductive WState | i | s | e | m
deriving DecidableEq, Repr

/-- One word of an L1 or RDC line (R208). On a private or read-shared page E is valid and clean, M valid and dirty. -/
structure WordCell where
  st : WState := .i
  val : Word := 0
  /-- bytes stored before the word's ownership arrived, and which (R371) -/
  pend : Word := 0
  pendMask : BitVec 4 := 0
  /-- registered at its directory: filled from a coherent page (R205, R207) -/
  tracked : Bool := false
  /-- stores to the word that have not settled (R210) -/
  unset : Nat := 0
  /-- mirror messages of the word not acknowledged (R375) -/
  mirs : Nat := 0
  poison : Bool := false
  /-- an owned word of which other caches hold S copies: the O of R208 -/
  shr : Bool := false
  /-- a copy registered as shared whose word a store on a page made private since has dirtied (R207) -/
  loose : Bool := false
deriving DecidableEq, Repr

/-- A line of an L1, an RDC or a victim buffer. -/
structure Line where
  /-- the group slot whose access last filled the line (R187) -/
  slot : Nat := 0
  ws : SMap WordCell := []
deriving DecidableEq, Repr

/-- Lines by number, the most recently used first (DESIGN CHOICE, log 13). -/
abbrev Cache := List (Nat × Line)

/-- Holders of one line at a directory: the owner and the sharers of each word (R366); the quarter and device filters
hold what follows from it (DEDUCED, log 17). -/
structure DirEntry where
  owner : SMap Node := []
  sharers : SMap (List Node) := []
deriving DecidableEq, Repr

/-- What a directory is doing: a request of R369, a write-back, the recall of an entry (R368), or, at an RDC, a snoop of
its home. -/
inductive Req | rds | rdOwn | ownNd | upg | atomReq | wb | recall | snpFwd | snpOwn | snpInv | snpRcl
deriving DecidableEq, Repr

/-- The kinds of message of R369, each a row of the opcode table. -/
inductive MsgKind
  | rds | rdOwn | ownNd | upg | atomReq | gnt | snpFwd | snpOwn | snpInv | snpRcl | snpAck | snpData | wbReq | wbGnt
  | wbData | cleanEv | cmp | mir | mirAck | mirClr | mark | markAck | dieDown | rbReport | takeReq
deriving DecidableEq, Repr

/-- A message in flight. -/
structure Wire where
  kind : MsgKind
  msg : Msg
deriving DecidableEq, Repr

/-- A transaction in progress at a directory (R370). -/
structure Txn where
  req : Req
  msg : Msg
  /-- snoops sent and not answered: the holder and the words asked of it -/
  waits : List (Node × Mask) := []
  /-- snoops to send once their holder has answered an earlier one -/
  queue : List Wire := []
  /-- words an RDC asked its home for, or an I/O die its host, and has not been granted -/
  up : Mask := 0
  /-- words gathered from holders, with their dirty and poison marks -/
  got : SMap Word := []
  /-- words whose data their owner has sent to the requester -/
  sent : Mask := 0
  dirty : Mask := 0
  poison : Mask := 0
deriving DecidableEq, Repr

/-- A directory with its transactions (R366, R370): of a home, of an RDC, or of the host lines of an I/O die. -/
structure Hub where
  /-- entries by line, the most recently used first (R368) -/
  dir : List (Nat × DirEntry) := []
  txns : List Txn := []
  /-- requests that wait, in arrival order -/
  waitq : List Wire := []
  /-- messages to units that another message of the line is in flight to, in order (R370) -/
  outq : List Wire := []
deriving DecidableEq, Repr

/-- An entry of a quarter filter or a device filter (R366): the dies that hold copies, by local index or by number, and the owner of each
word that one owns. -/
structure FilterEntry where
  dies : BitVec 24 := 0
  owners : SMap Nat := []
deriving DecidableEq, Repr

/-- Where an outstanding result comes from (R25). -/
inductive OutKind
  /-- the value is known, low word first -/
  | ready (vals : List Word)
  /-- a load of `bytes` bytes at physical address `pa`, not yet performed -/
  | load (pa bytes : Nat) (signed : Bool) (va : VAddr)
  /-- the value is poisoned: its consumption kills the gang (R356) -/
  | poisoned (va : VAddr)
  /-- a coherent atomic, whose old value is number `nth` of those the Cmp with this tag brings -/
  | atom (tag nth pa : Nat) (va : VAddr)
  /-- a uniform result with this tag, whose window is open for the thread (R122) -/
  | uniform (tag : Nat)
  /-- a submission whose sequence number is awaited (R175) -/
  | submitted
deriving DecidableEq, Repr

/-- An outstanding long-latency result (R25, R26). -/
structure OutRes where
  /-- destination registers by storage index, low first -/
  dst : List Nat
  look : Nat
  /-- instructions of the thread issued since -/
  since : Nat := 0
  acquire : Bool := false
  /-- a dependent instruction inside the window has been counted as a lookahead miss (R25) -/
  missed : Bool := false
  /-- names a uniform result to the windows it opened -/
  tag : Nat := 0
  /-- the value enters the core from outside: the input journal records it (R350) -/
  ext : Bool := false
  kind : OutKind
deriving DecidableEq, Repr

/-- An entry of a speculation address table (R124). -/
structure SpecEntry where
  addr : VAddr
  bytes : Nat
  reg : Nat
deriving DecidableEq, Repr

/-- What a lane exchange waits with (R149): the minor and pattern, the mask and the operands. -/
structure Arrival where
  key : Nat
  mask : Mask
  a : DWord
  b : Word
  pred : Bool
  dst : Nat
  look : Nat
deriving DecidableEq, Repr

/-- The instruction a blocked thread waits inside (R139). -/
inductive Block
  /-- until the count of entries admitted of this queue's pushes, to an engine or over a link, reaches `upto` (R128) -/
  | push (eng : Option Nat) (q : Nat) (upto : Word)
  | pop (q : Nat)
  | barTeam (gen : Nat)
  | barClu (gen : Nat)
  | nbArrive (n : Nat)
  | nbWait (n : Nat)
  | exchange (x : Arrival)
  | waitChild
  | spawn (desc : List Word) (da : DWord) (arg : DWord) (pos : Nat)
  /-- with the thread at position `lead`, whose `kspawn` waits for the whole path (R161) -/
  | spawnPath (lead : Nat)
deriving DecidableEq, Repr

/-- The states of a thread (R139); an absent position never issues (R138). -/
inductive ThStatus
  | absent | exited | parked | running
  | blocked (b : Block)
deriving DecidableEq, Repr

/-- A thread (R12). -/
structure Thread where
  status : ThStatus := .running
  pc : VAddr := 0
  /-- `v` registers; in handler mode indices 0 to 7 name `hv` (R333) -/
  v : List Word := []
  /-- `p0` to `p7`; bit 0 is 1 (R14) -/
  p : BitVec 8 := 1
  hv : List Word := List.replicate 8 0
  hp : BitVec 8 := 1
  spec : List SpecEntry := []
  out : List OutRes := []
  /-- registers, `v` and `k` by storage index, that the thread's next instruction named when it was found stalled (R24, R25, R184) -/
  stall : List Nat := []
  kstall : List Nat := []
  clockHi : Word := 0
  /-- generations of `bar.team` and `bar.clu` joined (R156) -/
  barT : Nat := 0
  barC : Nat := 0
  /-- arrival and wait counts of the numbered barriers (R158) -/
  nbA : SMap Nat := []
  nbW : SMap Nat := []
  /-- `cr.cause`, `cr.tval` and `cr.epc` (R334, R136) -/
  cause : Word := 0
  tval : VAddr := 0
  epc : VAddr := 0
  /-- where an interrupted thread stands when the handler returns (R136) -/
  resume : Option VAddr := none
  /-- the status it had when the group entered its handler -/
  held : ThStatus := .running
  /-- the last effect of the core a release of the thread that has not performed yet waits for (R373) -/
  rel : Option Nat := none
  /-- entries a waiting pop has claimed for the thread already (R129) -/
  carried : List Word := []
  /-- poisoned `v` registers and predicates, by storage index (R356) -/
  poison : List Nat := []
  ppoison : List Nat := []
deriving DecidableEq, Repr

/-- A trap taken and not yet delivered (R332 step 2). -/
inductive Pending
  | none
  /-- traps of threads of the group -/
  | own
  /-- the team handler is to run on this group (R336) -/
  | team
deriving DecidableEq, Repr

/-- A translation (R323, R325). -/
structure TlbEntry where
  asid : Nat
  va : Nat
  size : Nat
  pa : Nat
  attr : Nat
  perm : BitVec 3
  tags : List Nat
deriving DecidableEq, Repr

/-- A trap's cause code, detail and faulting address (R334). -/
structure TrapInfo where
  code : Nat
  detail : Nat := 0
  tval : VAddr := 0
deriving DecidableEq, Repr

/-- How far a `rgn.conv` of a path has come (R221, R223): its threads convert one after another. -/
structure Conv where
  /-- the path's positions -/
  ms : List Nat
  /-- threads whose conversions have ended, with their record counts, and threads that are to trap -/
  ended : List (Nat × Nat) := []
  traps : List (Nat × TrapInfo) := []
  /-- pages the thread at work has still to convert, once it has passed its checks -/
  pages : Option (List TlbEntry) := none
  /-- the first of them has been asked to enter transition -/
  asked : Bool := false
  /-- its records still to be written, once it has been swept -/
  swept : Option (List (List Word)) := none
  /-- records the thread at work has written -/
  n : Nat := 0
deriving DecidableEq, Repr

/-- A group (R137, R147). -/
structure Group where
  idx : Nat := 0
  side : Nat := 0
  slot : Nat := 0
  /-- order of placement (R184) -/
  age : Nat := 0
  active : Bool := true
  /-- kind of its role entry (R16) -/
  role : Nat := 1
  regs : Nat := 8
  /-- present positions (R138) -/
  count : Nat := 32
  depth : Nat := 0
  threads : List Thread := []
  k : List Word := List.replicate 64 0
  hk : List Word := List.replicate 8 0
  /-- poisoned `k` registers, by storage index (R356) -/
  kpoison : List Nat := []
  quantum : BitVec 16 := 0
  /-- issue count and favoured position (R143) -/
  n : Nat := 0
  favour : Option Nat := none
  handler : Bool := false
  /-- the handler running is the team's (R336) -/
  teamHandler : Bool := false
  pending : Pending := .none
  /-- issue is stopped by a team cause (R336) -/
  stopped : Bool := false
  fmask : Mask := 0
  cfl : VAddr := 0
  children : Nat := 0
  /-- outstanding `kld`, `katom` and `klaunch` results (R122, R175) -/
  kout : List OutRes := []
  score : Nat := 0
  /-- a `rgn.conv` in progress (R221) -/
  conv : Option Conv := none
  retired : Bool := false
deriving DecidableEq, Repr

/-- A tile named in the dependency table (R271). -/
inductive Tile | slot (s : Nat) | acc (a : Nat) | nothing
deriving DecidableEq, Repr

/-- A declared task (R271, R272). -/
structure Task where
  id : Nat
  engine : Nat
  out : Tile
  ins : List Tile
  block : VAddr
  cmd : List Word
  /-- its `dtask` word and extension words -/
  word : Word := 0
  ext : List Word
  /-- issued by the table; admitted to its engine, and in which turn; parsed -/
  issued : Bool := false
  admitted : Bool := false
  stamp : Nat := 0
  parsed : Bool := false
  /-- the address its log record is reserved at (R303) -/
  recAt : Option VAddr := none
deriving DecidableEq, Repr

/-- What a Cooper is doing (R277, R278, R283, R290). -/
inductive CoopWait | running | stopped | tbar (b gen : Nat)
deriving DecidableEq, Repr

/-- A Cooper (R276). -/
structure Cooper where
  cpc : VAddr := 0
  wait : CoopWait := .running
  /-- `twait`s of each numbered barrier executed so far (R283) -/
  twaits : SMap Nat := []
  /-- stopped at a trap until the handler returns (R336) -/
  trapped : Bool := false
  /-- instance number on its core (R289) -/
  inst : Nat := 0
deriving DecidableEq, Repr

/-- Record-mode state of a team (R299). -/
structure LogState where
  recording : Bool := false
  policy : Byte := 0
  begun : Bool := false
  /-- the log origin O and the descriptor's offset -/
  origin : DWord := 0
  base : VAddr := 0
  count : Word := 0
  last : VAddr := 0
  ptr : VAddr := 0
  lim : VAddr := 0
  need : Word := 0
  /-- records that last wrote `m` registers and accumulators (R306) -/
  mProv : SMap VAddr := []
  accProv : SMap VAddr := []
  /-- writes of the log and of a reverse not yet made, each within one 128-byte line, in order -/
  pend : List (DWord × List Byte) := []
  /-- a reverse in progress: the next record, how many of its updates are made, the seed and leaf pointers -/
  revOn : Bool := false
  revRec : DWord := 0
  revPhase : Nat := 0
  revSeed : DWord := 0
  revLeaf : DWord := 0
deriving DecidableEq, Repr

/-- A link queue of a team, with the counts of R359. -/
structure Link where
  q : List Word := []
  /-- as a sender: entries pushed, and how many of them the receiver has admitted or discarded (R128) -/
  pushed : Word := 0
  admitted : Word := 0
  /-- as a receiver: the expected count, and entries that wait for room: count, value, sending team -/
  expected : Word := 0
  arrived : List (Word × Word × Nat) := []
deriving DecidableEq, Repr

/-- One team's share of an engine (R252, R213, R264). -/
structure EngPort where
  cmd : List Word := []
  /-- for each of these words, the turn in which it was admitted (R252) -/
  stamps : List Nat := []
  /-- words pushed and admitted so far, and settled words that wait for room (R128, R253) -/
  pushed : Word := 0
  admitted : Word := 0
  arrived : List Word := []
  res : List Word := []
  number : Word := 0
  w : DWord := 0
  sat : Word := 0
  used : Bool := false
deriving DecidableEq, Repr

/-- The parent of a spawned team (R162). -/
structure Parent where
  team : Nat
  group : Nat
deriving DecidableEq, Repr

/-- A pop that waits at its queue (R129): an engine's result endpoint, or a link, whose entries may come from another core. -/
structure PopWait where
  q : Nat
  eng : Option Nat
  far : Bool
  group : Nat
  ms : List Nat
  span : Nat
  dst : List Nat
  look : Nat
deriving DecidableEq, Repr

/-- A team on a core (R137). -/
structure Team where
  id : Nat := 0
  asid : Nat := 0
  seq : Nat := 0
  index : Nat := 0
  x : Nat := 0
  y : Nat := 0
  z : Nat := 0
  cluster : Nat := 0
  member : Nat := 0
  core : Nat := 0
  /-- cores of the members of the cluster (R181) -/
  clusterCores : List Nat := []
  parent : Option Parent := none
  /-- what a spawned child was asked with: descriptor, its address, argument, position (R162) -/
  spawnArgs : List Word := []
  groups : List Group := []
  /-- allocated granules, matrix registers and accumulators, by physical number (R179) -/
  granules : List Nat := []
  mregs : List Nat := []
  accs : List Nat := []
  scratchBytes : Nat := 0
  scratch : Memory := []
  /-- poisoned scratchpad words, by word number (R356) -/
  scratchPoison : List Nat := []
  m : Memory := []
  acc : Memory := []
  /-- poisoned words of the `m` registers and of the accumulators, by word number (R356) -/
  mPoison : List Nat := []
  accPoison : List Nat := []
  tensorTokens : Nat := 0
  sfuTokens : Nat := 0
  tensorSpent : Nat := 0
  sfuSpent : Nat := 0
  tensorIssued : Bool := false
  sfuIssued : Bool := false
  links : SMap Link := []
  /-- waiting pops in the order they reached their queues -/
  pops : List PopWait := []
  engs : SMap EngPort := []
  /-- Z of each numbered barrier, a 32-bit count (R283) -/
  nbZ : SMap Word := []
  /-- arrivals counted at this team: `bar.clu` by other members' threads (member, thread, generation), `tbar` by other
  Coopers (member, barrier, generation), and the exits and stops reported (R157, R290) -/
  cluSeen : List (Nat × Nat × Nat) := []
  tbarSeen : List (Nat × Nat × Nat) := []
  exitSeen : List (Nat × Nat) := []
  stopSeen : List Nat := []
  tbarGen : SMap Nat := []
  cooper : Option Cooper := none
  tasks : List Task := []
  log : LogState := {}
  tcause : Word := 0
  tpc : VAddr := 0
  /-- T of each role kind (R343) -/
  laps : SMap Nat := []
  /-- the team's retirement report is in the settling buffer (R189) -/
  retiring : Bool := false
  /-- lines of the team's image produced so far, while one is written (R340, R343) -/
  imageAt : Option Nat := none
  /-- that report has settled, while other teams of a gang with vintages have not retired (R344) -/
  reported : Bool := false
deriving DecidableEq, Repr

/-- One byte range of the range-lock table (R268). -/
structure Lock where
  eng : Nat
  team : Nat
  /-- a global range by ASID, or the scratchpad of a team -/
  scratch : Bool
  space : Nat
  lo : Nat
  hi : Nat
  dest : Bool
  /-- the operation's number, and which of its destination ranges this is -/
  number : Word := 0
  part : Nat := 0
  /-- bytes below this offset of the range are delivered (R246) -/
  done : Nat := 0
deriving DecidableEq, Repr

/-- Names a member of a gang: launch port, sequence number, cluster, member. -/
structure MemberRef where
  asid : Nat
  seq : Nat
  cluster : Nat
  member : Nat
  /-- the core the member was placed on -/
  core : Nat
deriving DecidableEq, Repr

/-- Where an engine writes: its own team's scratchpad, another member's, or physical memory, with the virtual address and the attribute
that its page had when the operation began. -/
inductive EngDst
  | own
  | member (r : MemberRef)
  | global (va attr : Nat)
deriving DecidableEq, Repr

/-- A write an engine operation has still to make (R245, R257): bytes of one 128-byte line at a scratchpad offset or a physical
address; `part` and `upto` say how far its destination range is delivered with it. -/
structure EngWrite where
  dst : EngDst
  at' : Nat
  bytes : List Byte
  part : Nat
  upto : Nat
deriving DecidableEq, Repr

/-- A write an engine operation has made and not counted (R213): the entry it waits for, if any, and its bytes. -/
structure EngPart where
  entry : Option Nat
  bytes : Nat
  part : Nat
  upto : Nat
deriving DecidableEq, Repr

/-- An engine operation between its issue and its completion (R257). -/
structure EngOp where
  team : Nat
  code : Nat
  number : Word
  status : Nat
  /-- its command words; none for a refused command -/
  words : List Word := []
  task : Option Nat := none
  /-- the streams a recorded Press task read, widened, A before B (R306) -/
  streams : List (List Word) := []
  /-- its reads have been made -/
  started : Bool := false
  left : List EngWrite := []
  parts : List EngPart := []
  sig : Option VAddr := none
  /-- the entry of its signal write, and the word's old value once that is performed (R360) -/
  sigEntry : Option Nat := none
  sigOld : Option (Option Word) := none
  /-- its ranges are released and its result entry waits for room (R252) -/
  resultWaits : Bool := false
deriving DecidableEq, Repr

/-- An outgoing effect in a settling buffer (R347). -/
inductive Effect
  /-- a store or private atomic in the L1: the line, and the words it touched as they were before (R350) -/
  | l1 (line : Nat) (undo : List (Nat × WordCell))
  /-- a write to words of a team's scratchpad by its own core, which may not be read from outside yet (R348) -/
  | own (team : Nat) (words : List Nat)
  /-- bytes for another member's scratchpad; `n` is what a drop of the entry counts (R203) -/
  | remoteScratch (rcv : MemberRef) (bytes : List (Nat × Byte)) (n : Nat)
  /-- additions to elements of accumulator `acc` of another member, in order: element and addend, integer or FP32 -/
  | accAdd (rcv : MemberRef) (acc : Nat) (int : Bool) (adds : List (Nat × Word)) (n : Nat)
  /-- elements `from'` to `from' + 31` of another member's accumulator are zeroed -/
  | accZero (rcv : MemberRef) (acc from' n : Nat)
  | command (team eng : Nat) (words : List Word)
  | taskCommand (team task : Nat)
  | link (rcv : MemberRef) (q : Nat) (first : Word) (words : List Word)
  /-- arrivals of threads of a member, each with its generation (R157) -/
  | barClu (rcv : MemberRef) (member : Nat) (arrivals : List (Nat × Nat))
  | exitReport (rcv : MemberRef) (member : Nat) (threads : List Nat)
  | tbar (rcv : MemberRef) (member b gen : Nat)
  | coopStop (rcv : MemberRef) (member : Nat)
  /-- a spawn request placed on another core, `to` -/
  | spawn (rcv : Nat) (parent : Parent) (desc : List Word) (da arg : DWord) (pos depth : Nat)
  | childDone (parent : Parent)
  | submit (asid tag : Nat) (addr : VAddr)
  | retire (team : Nat)
  | teamEnd (asid seq index : Nat)
  /-- a spawned child was ended by a cause (R331, R190) -/
  | childEnd (asid seq : Nat)
  /-- atomic requests to the words of one line -/
  | atom (reqs : List Msg)
  /-- a flush marker (R374) -/
  | mark (m : Msg)
  /-- 128 bytes of a team's image, from a virtual address on (R340, R343) -/
  | image (asid va : Nat) (words : List Word)
  /-- bytes for device registers (R320) -/
  | device (bytes : List (Nat × Byte))
  /-- a page that a conversion puts in transition, by physical base and size (R224) -/
  | convert (pa size : Nat)
deriving DecidableEq, Repr

/-- An entry of a settling buffer (R346). -/
structure Entry where
  no : Nat
  made : Nat
  team : Nat
  eff : Effect
deriving DecidableEq, Repr

/-- A spawn request (R160). -/
structure SpawnReq where
  parent : Parent
  desc : List Word
  da : DWord
  arg : DWord
  pos : Nat
  depth : Nat
deriving DecidableEq, Repr

/-- The state a snapshot or a journalled point holds of a core (R350): the teams resident on it with everything they
own, and its engines. -/
structure Saved where
  at' : Nat := 0
  /-- an uncorrectable error struck it in the snapshot store (R352) -/
  lost : Bool := false
  effNo : Nat := 0
  teams : List Team := []
  ops : SMap (List EngOp) := []
  locks : List Lock := []
  spawnQ : List SpawnReq := []
deriving DecidableEq, Repr

/-- A core. -/
structure Core where
  l1 : Cache := []
  victim : Cache := []
  icache : List (Nat × List (Word × Bool)) := []
  tlb : List TlbEntry := []
  /-- last-page registers by lane (R326) -/
  lastPage : SMap TlbEntry := []
  heldSnoops : List Wire := []
  buffer : List Entry := []
  effNo : Nat := 0
  /-- the settled count Ns and the production ccyc of effect Ns (R346, R350) -/
  settled : Nat := 0
  settledAt : Nat := 0
  snaps : List Saved := []
  /-- the core's state at the production of effect Ns and of each later effect: what re-execution up to p reproduces -/
  marks : List Saved := []
  /-- values of the input journal, by ccyc of entry (R350) -/
  journal : List (Nat × Word) := []
  ops : SMap (List EngOp) := []
  locks : List Lock := []
  spawnQ : List SpawnReq := []
  /-- the submission held outside the buffer until its port accepts it: ASID, result tag, address (R175) -/
  submission : Option (Nat × Nat × VAddr) := none
  latch : Option (Nat × Nat) := none
  /-- the count of the cycle counter at which it stopped for its die's change of service (R395) -/
  stop : Option Nat := none
  /-- the Cooper instance the tensor core served last; the first turn is instance 0's (R289) -/
  lastCooper : Nat := 7
  /-- current group of each side: team and group (R186) -/
  current : SMap (Nat × Nat) := []
  vta : List (Nat × Nat) := []
  /-- the windows of 1,024 ccyc whose start has been acted on, for power tokens and for throttling scores (R187, R188) -/
  window : Nat := 0
  halved : Nat := 0
  lookMisses : Nat := 0
  rollbacks : Nat := 0
  mismatches : Nat := 0
  strikes : Nat := 0
  remoteDrops : Nat := 0
  pipelineError : Bool := false
  fenced : Bool := false
  /-- the origin and the time of the latest mismatch, once there is one (R354) -/
  origin : Origin := .instr 0
  originAt : Nat := 0
  originSet : Bool := false
  /-- settled stores whose words are not owned yet: entry number, line, words (R371, R373) -/
  unowned : List (Nat × Nat × List Nat) := []
  /-- coherent writes and atomics not acknowledged (R373), by the number of their entry, once for each word of an atomic;
  and performed writes whose mirroring is not (R375) -/
  writes : List Nat := []
  unmir : List Nat := []
  /-- posted paths since the last release at system scope, each a destination and a path to it, and marks not answered (R374) -/
  paths : List (Node × Nat) := []
  marksOut : List (Nat × Node) := []
deriving DecidableEq, Repr

/-- A compute die. -/
structure Die where
  /-- `dd_state` (R379): 0 reset, 1 reduced service, 2 full service, 3 dead -/
  state : Nat := 0
  cause : Nat := 0
  rebuilt : Bool := false
  unmirrored : Bool := false
  kill : Bool := false
  /-- the cycle counter its cores share (R17) -/
  counter : Nat := 0
  /-- clock step below full rate (R403) -/
  throttled : Bool := false
  /-- lines its L2 holds, the most recently used first (R199) -/
  l2 : List Nat := []
  rdc : Cache := []
  rdcVictim : Cache := []
  /-- lines whose words the RDC writes back and keeps, from WbReq to WbGnt (R219, R372) -/
  writing : List (Nat × Mask) := []
  /-- the RDC's directory of its die's L1s, and the home directory (R366) -/
  rdcHub : Hub := {}
  home : Hub := {}
  /-- the slices of the quarter filter and of the device filter that the die holds, by line, the most recently used first (R366) -/
  quarterFilter : List (Nat × FilterEntry) := []
  deviceFilter : List (Nat × FilterEntry) := []
  /-- the dead dies it has been told of by DieDown (R376) -/
  told : List Nat := []
  /-- mirror store: the owner die, the line, its words and their poison (R375) -/
  mirror : List (Nat × Nat × SMap (Word × Bool)) := []
  capW : Nat := 600
  tempC : Nat := 0
  powerW : Nat := 0
  selfTested : Bool := false
  /-- its self-test has failed since power-on: it stays in state 0 and its memory is absent (R394) -/
  selfFailed : Bool := false
  /-- a transition of service in progress, and when it began (R395) -/
  transition : Option Nat := none
deriving DecidableEq, Repr

/-- The states of a launch (R176, R339). -/
inductive LState
  | accepted | waiting | leasing | placing | running | flushing | preempting | preempted | refused | signalled | ended
deriving DecidableEq, Repr

/-- A launch (R176). -/
structure Launch where
  asid : Nat
  seq : Nat
  addr : VAddr
  /-- launches the port had accepted before (R177), and the order of acceptance over all ports (R183) -/
  before : Nat := 0
  order : Nat := 0
  /-- the core the first pass of placing has come to (R180) -/
  cursor : Nat := 0
  /-- where the signal word lies, as found before a reset of the dies (R402) -/
  signalPa : Option Nat := none
  /-- a refusal is to be written to the signal word (R171) -/
  refuseSignal : Bool := false
  /-- the distributor's copy of the record (R164) -/
  record : List Word := []
  leases : List (Nat × Nat × Nat) := []
  state : LState := .accepted
  /-- linear indices not yet placed (R180) -/
  toPlace : List Nat := []
  /-- by cluster, the cores a killed gang is relaunched on (R191) -/
  again : SMap (List Nat) := []
  /-- by core, the last effect produced when the launch entered flushing (R190, DESIGN CHOICE, log 29) -/
  flushUpto : SMap Nat := []
  /-- the lines the flush has still to write back, and those it has begun to, once it has begun (R212) -/
  flush : Option (List Nat × List Nat) := none
  /-- linear indices the retired-team counter has counted (R191) -/
  retired : List Nat := []
  kills : SMap Nat := []
  /-- teams of a cluster that a cause ended, whose effects a kill of the gang may still discard (R357) -/
  endedTeams : SMap (List Nat) := []
  teamEnded : Bool := false
  gangKilled : Bool := false
  /-- the cores its co-location lets it use, once settled (R182) -/
  place : Option (List Nat) := none
  /-- cores whose room a retired team freed, in order (R180) -/
  freed : List Nat := []
  /-- the number of the save whose images are being written (R340) -/
  imaging : Option Nat := none
  /-- teams saved by a pre-emption with their spawned descendants, by linear index (R340), and where their images lie (R342) -/
  saved : SMap (List Team) := []
  savedAt : SMap Nat := []
  /-- requests for children that waited for a core at the save, by linear index of the parent's team -/
  savedReqs : SMap (List SpawnReq) := []
  /-- current vintage of each cluster: lap and teams (R343), where the image of each linear index lies, the vintage being written (its
  number and lap), the buffer the next goes to, and the lap it stops at -/
  vintage : SMap (Nat × List Team) := []
  vintageAt : SMap Nat := []
  vintaging : SMap (Nat × Nat) := []
  vintageBuf : SMap Nat := []
  vintageNext : SMap Nat := []
  reason : Nat := 0
deriving DecidableEq, Repr

/-- Who writes to a device register, or submits a launch (R172, R173, R175). -/
inductive Submitter
  /-- a `klaunch` of a core -/
  | klaunch (core : Nat)
  /-- a store of a core -/
  | store (core : Nat)
  /-- an application core, by 4 × I/O die + core -/
  | app (core : Nat)
  /-- any other writer -/
  | other
deriving DecidableEq, Repr

/-- A launch port with the registers of its two pages (R172, R332, R339, R330) and its translation root (R324). -/
structure Port where
  lastAddr : VAddr := 0
  lastSeq : Word := 0
  accepted : Nat := 0
  queue : List VAddr := []
  /-- submissions waiting for room, in arrival order, with who makes them (R173, R175) -/
  stalled : List (VAddr × Submitter) := []
  refused : Bool := false
  reason : Byte := 0
  refusedSeq : Word := 0
  coreSet : SMap DWord := []
  trapVec : VAddr := 0
  pstate : Nat := 0
  /-- the save area of the launch named is still being checked (R340) -/
  preemptCheck : Bool := false
  stride : Nat := 0
  preemptSeq : Word := 0
  saveBase : VAddr := 0
  resumeSeq : Word := 0
  vintOn : Bool := false
  vintBase : VAddr := 0
  end0 : DWord := 0
  end1 : DWord := 0
  /-- sequence numbers that have signalled, latest first, of those the port remembers (R177) -/
  signalled : List Nat := []
  root : DWord := 0
  rootPending : Option DWord := none
  launches : List Launch := []
deriving DecidableEq, Repr

/-- A line of a team's image that has settled and is not yet performed (R340). -/
structure ImageWrite where
  team : Nat
  asid : Nat
  va : Nat
  words : List Word
deriving DecidableEq, Repr

/-- A link (R379). -/
structure LinkState where
  fec : Nat := 0
  nacks : Nat := 0
  margin : Nat := 0
  stepped : Bool := false
  rate : Nat := 0
deriving DecidableEq, Repr

/-- A page of the move history (R383). -/
structure MovePage where
  asid : Nat
  page : Nat
  moves : Nat
deriving DecidableEq, Repr

/-- A host line cached by the I/O die of a CXL port (R381), or a line of another package an I/O die holds (R214); its words stand in
`State.mem`. -/
structure IoLine where
  st : WState := .i
  dirty : Mask := 0
  /-- fetched for a party without an L1: it stays until the host or the owning package takes it (DESIGN CHOICE, log 7) -/
  kept : Bool := false
deriving DecidableEq, Repr

/-- An I/O die. -/
structure IoDie where
  lines : SMap IoLine := []
  /-- the directory of the host lines the package holds -/
  hub : Hub := {}
  /-- requests to the host, or for lines of other packages, not answered (R381) -/
  d2h : List (Nat × D2H) := []
  /-- the dead dies it has been told of by DieDown (R376) -/
  told : List Nat := []
deriving DecidableEq, Repr

/-- A page on its way to another frame (R382): where its leaf entry lies, the frames it leaves and goes to. -/
structure MoveJob where
  leaf : Nat
  src : Nat
  dst : Nat
deriving DecidableEq, Repr

/-- The platform state of I/O die 0 (R392 to R404). -/
structure Mgmt where
  /-- its reset is released; its boot ROM has verified the firmware (R393) -/
  released : Bool := false
  verified : Bool := false
  /-- slots by 2 × image kind + slot, where they were written since manufacture; the newest slot and the running one of each kind,
  and the minimum versions a commit raised (R398) -/
  slots : SMap (List Byte) := []
  newest : SMap Nat := []
  running : SMap Nat := []
  minVersion : SMap Nat := []
  /-- the open session's source (R396) -/
  session : Option (BitVec 128 × BitVec 16) := none
  /-- the challenge that is valid, and how many were drawn -/
  challenge : Option (BitVec 384) := none
  drawn : Nat := 0
  /-- `tt_ctl` and `tt_status` (R400); the sensors in the order of `enable` -/
  ttEnable : BitVec 4 := 0xF
  ttPolicy : BitVec 2 := 0
  ttLock : Bool := false
  tripped : BitVec 4 := 0
  /-- the key store has been erased -/
  erased : Bool := false
  /-- `hk_ctl`: the number in effect, one held pending, and the lock (R404) -/
  fabricNum : BitVec 10 := 0
  fabricPending : Option (BitVec 10) := none
  hkLock : Bool := false
deriving DecidableEq, Repr

/-- What the package sends to outside parties. -/
inductive Out
  /-- a reply of the management port, or, to another port of UDP, its header, status and body (R396) -/
  | mladlith (ip : BitVec 128) (port : BitVec 16) (code : BitVec 16) (length : BitVec 16) (seq : Word) (status : Byte) (body : List Byte)
  | alarm (sensor : Sensor)
  | appValue (label : Nat) (value : DWord)
  | hostValue (label : Nat) (value : DWord)
  /-- what an application core or a host reads is poisoned: it gets no value (R356, DEDUCED, log 48) -/
  | appPoison (label : Nat) | hostPoison (label : Nat)
  | d2h (io line : Nat) (req : D2H) (data : List (Nat × Word))
  | h2dAnswer (io line : Nat) (data : List (Nat × Word))
  | backInvalidate (io line : Nat)
  /-- a protocol message for another package (R380) -/
  | varard (w : Wire)
deriving DecidableEq, Repr

/-- An access of an outside party. -/
inductive Outside
  | app (a : AppAccess)
  | host (a : HostAccess)
  /-- a snoop of the host of a CXL port: SnpData, SnpInv or SnpCur (R381) -/
  | snpData (io line : Nat) | snpInv (io line : Nat) | snpCur (io line : Nat)
deriving DecidableEq, Repr

/-- The package. -/
structure State where
  mem : Memory := []
  /-- poisoned physical words, by word number (R356) -/
  poison : List Nat := []
  teams : List Team := []
  cores : SMap Core := []
  dies : List Die := List.replicate Config.numDies {}
  ports : SMap Port := []
  ios : List IoDie := List.replicate 4 {}
  links : SMap LinkState := []
  /-- dead dies announced by DieDown: the die, the holder its slices moved to, and the dies that have reported (R377) -/
  slices : List (Nat × Nat × List Nat) := []
  /-- dies all of whose memory is poisoned but for the words written since (R377, R402), and packages lost (R380) -/
  lostDies : SMap (List Nat) := []
  lostPkgs : List Nat := []
  mgVa : VAddr := 0
  mgDst : DWord := 0
  mgAsid : BitVec 10 := 0
  mgStatus : Nat := 0
  /-- `go` of `mg_ctl`, set by writing 1 (R6, DEDUCED, log 54) -/
  mgGo : Bool := false
  mgJob : Option MoveJob := none
  moves : List MovePage := []
  /-- pages in transition, by physical page base and size, with the team that converts them (R224) or none for a
  migration (R382) -/
  transition : List (Nat × Nat × Option Nat) := []
  /-- base and size of the HDM-DB range (R381, DESIGN CHOICE, log 19) -/
  hdm : Nat × Nat := (0, Config.numDies * 2 ^ 36)
  mgmt : Mgmt := {}
  wires : List Wire := []
  /-- data that reached its requester ahead of the grant (R370) -/
  early : List Msg := []
  /-- writes of a line sent to another package, and performed of those that came from it, counted by line and package (R374) -/
  wroteFar : SMap Nat := []
  tookFar : SMap Nat := []
  inputs : List Instr := []
  /-- writes on their way to device registers, in order, with who makes them (R320, R173) -/
  regWrites : List (Nat × DWord × Submitter) := []
  /-- settled lines of team images on their way to memory, in order (R340) -/
  imageWrites : List ImageWrite := []
  /-- outside accesses that wait for a line in flight, in arrival order (DESIGN CHOICE, log 7) -/
  waiting : List Outside := []
  /-- reservations of the application cores, by 4 × I/O die + core: address and bytes (R227) -/
  appLr : SMap (Nat × Nat) := []
  outbox : List Out := []
  actor : Actor := .idle
  turn : Nat := 0
  fresh : Nat := 0
deriving DecidableEq, Repr

/-- The package right after power-on reset: every compute die in reset, no launch, no team, nothing listed in memory
(R28, R172, R324, R379, R393). -/
def State.reset : State := {}

end Sys2Proof.Machine
end

