-- ==== Sys2Proof/Machine/Operands.lean ====
section
/-! DEFINITION. Operand forms: the registers, pairs and quads of a thread and of a group, with the banks of handler
mode; which registers an instruction names, and which of them may be named at all. -/
namespace Sys2Proof.Machine
open Sys2Proof

/-- The storage a thread's `v` register number names: 128 to 135 are the banked `v0` to `v7` (R333). -/
def vIndex (handler : Bool) (i : Nat) : Nat := if handler && decide (i < 8) then 128 + i else i

/-- Reads a `v` register by storage index. -/
def Thread.readV (t : Thread) (j : Nat) : Word := if j < 128 then t.v.getD j 0 else t.hv.getD (j - 128) 0

/-- A write of register `j` takes the speculation entries of that register with it (R125). -/
def SpecEntry.touches (e : SpecEntry) (j : Nat) : Bool := decide (e.reg ≤ j) && decide (j < e.reg + e.bytes / 4)

/-- A register file with register `j` written; a file shorter than that reads 0 above its end. -/
def putAt : List Word → Nat → Word → List Word
  | [], 0, x => [x]
  | [], j + 1, x => 0 :: putAt [] j x
  | _ :: r, 0, x => x :: r
  | y :: r, j + 1, x => y :: putAt r j x

/-- Writes a `v` register by storage index. -/
def Thread.writeV (t : Thread) (j : Nat) (x : Word) : Thread :=
  let u := { t with spec := t.spec.filter (fun e => !e.touches j), poison := t.poison.filter (fun k => k != j) }
  if j < 128 then { u with v := putAt t.v j x } else { u with hv := putAt t.hv (j - 128) x }

/-- Writes consecutive registers, low word first. -/
def Thread.writeVs (t : Thread) : List Nat → List Word → Thread
  | j :: js, x :: xs => Thread.writeVs (t.writeV j x) js xs
  | _, _ => t

/-- The value of a predicate: `p0` reads 1 (R14). -/
def Thread.readP (t : Thread) (handler : Bool) (i : Nat) : Bool :=
  decide (i = 0) || (if handler then t.hp else t.p).getLsbD i

/-- A byte with bit `i` set to `x`. -/
def setBit8 (b : BitVec 8) (i : Nat) (x : Bool) : BitVec 8 :=
  if x then b ||| BitVec.ofNat 8 (2 ^ i) else b &&& ~~~(BitVec.ofNat 8 (2 ^ i))

/-- The storage a predicate number names: 8 to 15 are the bank of handler mode (R333). -/
def pIndex (handler : Bool) (i : Nat) : Nat := if handler then 8 + i else i

/-- Writes a predicate; a write to `p0` is discarded (R14). -/
def Thread.writeP (t : Thread) (handler : Bool) (i : Nat) (x : Bool) : Thread :=
  if i = 0 then t
  else
    let u := { t with ppoison := t.ppoison.filter fun j => j != pIndex handler i }
    if handler then { u with hp := setBit8 t.hp i x } else { u with p := setBit8 t.p i x }

/-- A 64-bit value from its words (R13). -/
def joinWords (lo hi : Word) : DWord := hi ++ lo
/-- The low word of a 64-bit value. -/
def lowWord (x : DWord) : Word := x.setWidth 32
/-- The high word of a 64-bit value. -/
def highWord (x : DWord) : Word := (x >>> 32).setWidth 32

/-- A thread as its instructions see it: in handler mode or not. -/
structure View where
  t : Thread
  handler : Bool

/-- A `v` register. -/
def View.v (w : View) (i : Nat) : Word := w.t.readV (vIndex w.handler i)
/-- The 64-bit value of the pair that starts at `i`. -/
def View.pair (w : View) (i : Nat) : DWord := joinWords (w.v i) (w.v (i + 1))
/-- A predicate. -/
def View.p (w : View) (i : Nat) : Bool := w.t.readP w.handler i
/-- The thread with a `v` register written. -/
def View.setV (w : View) (i : Nat) (x : Word) : Thread := w.t.writeV (vIndex w.handler i) x
/-- The thread with a pair written. -/
def View.setPair (w : View) (i : Nat) (x : DWord) : Thread :=
  (w.t.writeV (vIndex w.handler i) (lowWord x)).writeV (vIndex w.handler (i + 1)) (highWord x)
/-- The thread with a predicate written. -/
def View.setP (w : View) (i : Nat) (x : Bool) : Thread := w.t.writeP w.handler i x

/-- The storage a `k` register number names: 64 to 71 are the banked `k56` to `k63` (R333). -/
def kIndex (handler : Bool) (i : Nat) : Nat := if handler && decide (56 ≤ i) then i + 8 else i

/-- Reads a `k` register by storage index; `k0` reads 0 (R15). -/
def Group.readK (g : Group) (j : Nat) : Word :=
  if j = 0 then 0 else if j < 64 then g.k.getD j 0 else g.hk.getD (j - 64) 0

/-- Writes a `k` register by storage index; a write to `k0` is discarded (R15). -/
def Group.writeK (g : Group) (j : Nat) (x : Word) : Group :=
  if j = 0 then g
  else
    let u := { g with kpoison := g.kpoison.filter fun i => i != j }
    if j < 64 then { u with k := putAt g.k j x } else { u with hk := putAt g.hk (j - 64) x }

/-- A `k` register as the group's instructions name it. -/
def Group.kv (g : Group) (i : Nat) : Word := g.readK (kIndex g.handler i)
/-- A `k` pair. -/
def Group.kpair (g : Group) (i : Nat) : DWord := joinWords (g.kv i) (g.kv (i + 1))
/-- The group with a `k` register written. -/
def Group.setK (g : Group) (i : Nat) (x : Word) : Group := g.writeK (kIndex g.handler i) x
/-- The group with a `k` pair written. -/
def Group.setKpair (g : Group) (i : Nat) (x : DWord) : Group :=
  (g.writeK (kIndex g.handler i) (lowWord x)).writeK (kIndex g.handler (i + 1)) (highWord x)

/-- The registers a lane-set instruction names: first register and span of each operand. -/
structure Regs where
  reads : List (Nat × Nat) := []
  writes : List (Nat × Nat) := []
  predReads : List Nat := []
  predWrites : List Nat := []
  kReads : List Nat := []
  kWrites : List Nat := []

/-- An operand of span 1, 2 or 4 starts at a multiple of its span and ends below the declared count (R13). -/
def operandOk (count : Nat) (o : Nat × Nat) : Bool := decide (o.1 % o.2 = 0) && decide (o.1 + o.2 ≤ count)

/-- Every `v` operand is one the role may name (R13). -/
def Regs.ok (r : Regs) (count : Nat) : Bool := (r.reads ++ r.writes).all (operandOk count)

/-- The storage indices of an operand. -/
def operandIdx (handler : Bool) (o : Nat × Nat) : List Nat := (List.range o.2).map fun k => vIndex handler (o.1 + k)

/-- Every register an instruction reads or writes, by storage index. -/
def Regs.all (r : Regs) (handler : Bool) : List Nat := (r.reads ++ r.writes).flatMap (operandIdx handler)

end Sys2Proof.Machine
end

