-- ==== Sys2Proof/Machine/Ops.lean ====
section
/-! DEFINITION. The named operations every meaning is built of: reaching a team, a group, a thread, a core or a die;
the path that issues, its stalls, its commit and the rotation of its group; the settling buffer; taking a trap, entering
the handler and leaving it; ending a team and killing a gang. -/
namespace Sys2Proof.Machine
open Sys2Proof

/-- The outcome of an instruction or event of this machine. -/
abbrev Result := Host.Outcome State Fault Refusal

/-! ### Reaching the parts of the state -/

/-- The resident team with an identifier. -/
def State.team? (s : State) (id : Nat) : Option Team := s.teams.find? fun t => t.id == id
/-- Replaces a resident team. -/
def State.setTeam (s : State) (t : Team) : State :=
  { s with teams := s.teams.map fun u => if u.id == t.id then t else u }
/-- A group of a team by its index. -/
def Team.group? (t : Team) (i : Nat) : Option Group := t.groups.find? fun g => g.idx == i
/-- Replaces a group of a team. -/
def Team.setGroup (t : Team) (g : Group) : Team :=
  { t with groups := t.groups.map fun h => if h.idx == g.idx then g else h }
/-- A thread by position; a position beyond the list is absent (R138). -/
def Group.thread (g : Group) (i : Nat) : Thread := g.threads.getD i { status := .absent }
/-- Replaces a thread. -/
def Group.setThread (g : Group) (i : Nat) (t : Thread) : Group := { g with threads := g.threads.set i t }
/-- Changes one group of one team. -/
def State.mapGroup (s : State) (team group : Nat) (f : Group → Group) : State :=
  { s with teams := s.teams.map fun t =>
      if t.id == team then { t with groups := t.groups.map fun g => if g.idx == group then f g else g } else t }
/-- Changes one team. -/
def State.mapTeam (s : State) (team : Nat) (f : Team → Team) : State :=
  { s with teams := s.teams.map fun t => if t.id == team then f t else t }
/-- A core; one that nothing has touched is in its reset state. -/
def State.core (s : State) (c : Nat) : Core := SMap.getD s.cores c {}
/-- Replaces a core. -/
def State.setCore (s : State) (c : Nat) (x : Core) : State := { s with cores := SMap.put s.cores c x }
/-- Changes a core. -/
def State.mapCore (s : State) (c : Nat) (f : Core → Core) : State := s.setCore c (f (s.core c))
/-- The die of a device-wide core number (R3). -/
def dieOf (core : Nat) : Nat := core / Config.coresPerDie
/-- A compute die. -/
def State.die (s : State) (d : Nat) : Die := s.dies.getD d {}
/-- Replaces a compute die. -/
def State.setDie (s : State) (d : Nat) (x : Die) : State := { s with dies := s.dies.set d x }
/-- Changes a compute die. -/
def State.mapDie (s : State) (d : Nat) (f : Die → Die) : State := s.setDie d (f (s.die d))
/-- A launch port. -/
def State.port (s : State) (a : Nat) : Port := SMap.getD s.ports a {}
/-- Changes a launch port. -/
def State.mapPort (s : State) (a : Nat) (f : Port → Port) : State := { s with ports := SMap.put s.ports a (f (s.port a)) }
/-- A launch of a port. -/
def State.launch? (s : State) (asid seq : Nat) : Option Launch := (s.port asid).launches.find? fun l => l.seq == seq
/-- Changes a launch of a port. -/
def State.mapLaunch (s : State) (asid seq : Nat) (f : Launch → Launch) : State :=
  s.mapPort asid fun p => { p with launches := p.launches.map fun l => if l.seq == seq then f l else l }
/-- The cycle counter of a core (R17). -/
def State.now (s : State) (core : Nat) : Nat := (s.die (dieOf core)).counter
/-- D for a core's die: 1,536 ccyc unless the die is in full service (R11, R345). -/
def State.bound (s : State) (core : Nat) : Nat := Config.strikeBound (decide ((s.die (dieOf core)).state = 2))
/-- Bytes written to a scratchpad, which clear the poison of words written whole (R356). -/
def Team.setScratch (t : Team) (bs : List (Nat × Byte)) : Team :=
  { t with
    scratch := bs.foldl (fun m b => Memory.set m b.1 b.2) t.scratch
    scratchPoison := t.scratchPoison.filter (fun w => !((List.range 4).all fun i => bs.any fun b => b.1 == 4 * w + i)) }
/-- A number never used before in this run. -/
def State.ticket (s : State) : Nat × State := (s.fresh, { s with fresh := s.fresh + 1 })
/-- An answer to an outside party. -/
def State.emit (s : State) (o : Out) : State := { s with outbox := s.outbox ++ [o] }

/-! ### Fields of the launch record (R165 to R168) -/

/-- The cores that something has touched. -/
def State.coreIds (s : State) : List Nat := s.cores.map (·.1)

/-- A word of the retained record. -/
def Launch.word (l : Launch) (off : Nat) : Nat := (l.record.getD (off / 4) 0).toNat
/-- A doubleword of the retained record. -/
def Launch.dword (l : Launch) (off : Nat) : Nat := l.word off + 2 ^ 32 * l.word (off + 4)
/-- Bits hi to lo of a number. -/
def nbits (x hi lo : Nat) : Nat := x / 2 ^ lo % 2 ^ (hi + 1 - lo)
/-- Roles in use. -/
def Launch.roleCount (l : Launch) : Nat := nbits (l.word 0x00) 23 16
/-- Grid extents. -/
def Launch.gridX (l : Launch) : Nat := nbits (l.word 0x08) 15 0
def Launch.gridY (l : Launch) : Nat := nbits (l.word 0x08) 31 16
def Launch.gridZ (l : Launch) : Nat := nbits (l.word 0x0C) 15 0
/-- Teams of the grid. -/
def Launch.teamCount (l : Launch) : Nat := l.gridX * l.gridY * l.gridZ
/-- Cluster shape. -/
def Launch.clusterW (l : Launch) : Nat := nbits (l.word 0x0C) 19 16
def Launch.clusterH (l : Launch) : Nat := nbits (l.word 0x0C) 23 20
/-- Members of a cluster. -/
def Launch.clusterSize (l : Launch) : Nat := l.clusterW * l.clusterH
def Launch.scratchBytes (l : Launch) : Nat := nbits (l.word 0x10) 18 0
def Launch.quantum (l : Launch) : Nat := nbits (l.word 0x14) 31 16
def Launch.accs (l : Launch) : Nat := nbits (l.word 0x14) 8 4
def Launch.mregs (l : Launch) : Nat := nbits (l.word 0x14) 3 0
def Launch.sfuTokens (l : Launch) : Nat := nbits (l.word 0x18) 31 16
def Launch.tensorTokens (l : Launch) : Nat := nbits (l.word 0x18) 15 0
def Launch.laps (l : Launch) : Nat := nbits (l.word 0x1C) 31 16
def Launch.asidField (l : Launch) : Nat := nbits (l.word 0x1C) 9 0
def Launch.leaseList (l : Launch) : Nat := l.dword 0x20
def Launch.logBase (l : Launch) : Nat := l.dword 0x28
def Launch.signal (l : Launch) : Nat := l.dword 0x30
def Launch.dependsOn (l : Launch) : Nat := l.word 0x38
def Launch.replay (l : Launch) : Bool := nbits (l.word 0x04) 0 0 = 1
def Launch.signalSys (l : Launch) : Bool := nbits (l.word 0x04) 1 1 = 1
def Launch.coloc (l : Launch) : Nat := nbits (l.word 0x04) 3 2
def Launch.throttled (l : Launch) : Bool := nbits (l.word 0x04) 4 4 = 1
/-- Role entry r: kind, groups, registers, entry pc and binding bytes (R167). -/
def Launch.roleKind (l : Launch) (r : Nat) : Nat := nbits (l.word (0x40 + 32 * r + 8)) 17 16
def Launch.roleGroups (l : Launch) (r : Nat) : Nat := nbits (l.word (0x40 + 32 * r + 8)) 15 8
def Launch.roleRegs (l : Launch) (r : Nat) : Nat := nbits (l.word (0x40 + 32 * r + 8)) 7 0
def Launch.roleEntry (l : Launch) (r : Nat) : Nat := l.dword (0x40 + 32 * r)
def Launch.bind (l : Launch) (r q : Nat) : Nat := nbits (l.word (0x40 + 32 * r + 16 + q / 4 * 4)) (8 * (q % 4) + 7) (8 * (q % 4))
/-- The role entry of a kind. -/
def Launch.entryOf (l : Launch) (kind : Nat) : Option Nat := (List.range l.roleCount).find? fun r => l.roleKind r == kind
/-- The team has a tile stream (R276). -/
def Launch.hasTile (l : Launch) : Bool := decide (l.mregs ≠ 0) || decide (l.accs ≠ 0)

/-- The launch a team belongs to. -/
def State.launchOf (s : State) (t : Team) : Option Launch := s.launch? t.asid t.seq
/-- Members of the team's cluster; a spawned child is alone (R162). -/
def State.clusterSize (s : State) (t : Team) : Nat := if t.parent.isSome then 1 else ((s.launchOf t).map (·.clusterSize)).getD 1
/-- The resident team that is a member of a gang. -/
def State.member? (s : State) (r : MemberRef) : Option Team :=
  s.teams.find? fun t => t.asid == r.asid && t.seq == r.seq && t.cluster == r.cluster && t.member == r.member && t.parent.isNone
/-- A member of a team's own cluster by index. -/
def Team.ref (t : Team) (m : Nat) : MemberRef :=
  { asid := t.asid, seq := t.seq, cluster := t.cluster, member := m, core := t.clusterCores.getD m t.core }

/-! ### Threads, paths and rotation -/

/-- Live (R139): neither absent nor exited. -/
def Thread.live (t : Thread) : Bool := match t.status with
  | .absent => false | .exited => false | .parked => true | .running => true | .blocked _ => true
/-- Running: able to be in a path. -/
def Thread.running (t : Thread) : Bool := match t.status with
  | .running => true | .absent => false | .exited => false | .parked => false | .blocked _ => false
/-- Parked (R146). -/
def Thread.parked (t : Thread) : Bool := match t.status with
  | .parked => true | .running => false | .absent => false | .exited => false | .blocked _ => false
/-- Blocked (R139). -/
def Thread.isBlocked (t : Thread) : Bool := match t.status with
  | .blocked _ => true | .running => false | .absent => false | .exited => false | .parked => false

/-- The positions of the path that holds position `lead`: running threads at its pc (R139, R141). -/
def Group.members (g : Group) (lead : Nat) : List Nat :=
  if (g.thread lead).running then
    (List.range 32).filter fun i => (g.thread i).running && ((g.thread i).pc == (g.thread lead).pc)
  else []

/-- Live threads stand at two or more distinct PCs (R143). -/
def Group.divided (g : Group) : Bool :=
  match (g.threads.filter Thread.live).map (·.pc) with
  | [] => false
  | p :: r => r.any fun q => q != p

/-- A rotation whose start is position `s0` if the group holds no favour (R143). -/
def Group.rotate (g : Group) (s0 : Nat) : Group :=
  let s := g.favour.getD s0
  let mine := g.members s
  let ok := fun i => (g.thread i).live && !(g.thread i).parked && !mine.contains i
  match ((List.range 32).map fun k => (s + 1 + k) % 32).find? ok with
  | some f => { g with favour := some f, n := 0 }
  | none => { g with n := 0 }

/-- The rotation a full quantum causes, and the end of a favour (R143). -/
def Group.settleFavour (g : Group) (lead : Nat) : Group :=
  if g.divided then
    if g.quantum.toNat ≠ 0 ∧ g.quantum.toNat ≤ g.n then g.rotate lead else g
  else { g with favour := none }

/-- The group after its path with leader `lead` issued (R143). -/
def Group.issued (g : Group) (lead : Nat) : Group := ({ g with n := g.n + 1 }).settleFavour lead

/-- The favoured thread exits or is parked (R143). -/
def Group.dropFavour (g : Group) : Group :=
  match g.favour with
  | none => g
  | some f => if (g.thread f).live && !(g.thread f).parked then g else (g.rotate f).settleFavour f

/-- One more instruction of the thread has issued since the result was asked for (R26). -/
def OutRes.tick (o : OutRes) : OutRes := { o with since := o.since + 1 }
/-- The thread's open windows count the instruction it issues (R26). -/
def Thread.tick (t : Thread) : Thread := { t with out := t.out.map OutRes.tick, rel := none, stall := [], kstall := [] }
/-- The thread at its next word (R22). -/
def Thread.next (t : Thread) : Thread := { t with pc := t.pc + 4 }

/-- The thread at an address. -/
def Thread.goTo (t : Thread) (pc : VAddr) : Thread := { t with pc := pc }

/-- Applies `f` to the threads at positions `ms`. -/
def Group.mapAt (g : Group) (ms : List Nat) (f : Nat → Thread → Thread) : Group :=
  { g with threads := g.threads.mapIdx fun i t => if ms.contains i then f i t else t }

/-- The issuing path: its team, its group, its leader and its positions in ascending order. -/
structure Ctx where
  team : Team
  group : Group
  lead : Nat
  ms : List Nat

/-- The path that issues in this state. -/
def State.path? (s : State) : Option Ctx :=
  match s.actor with
  | .path t g l =>
    match s.team? t with
    | none => none
    | some team =>
      match team.group? g with
      | none => none
      | some group =>
        let ms := group.members l
        if ms.isEmpty then none else some { team := team, group := group, lead := l, ms := ms }
  | .idle => none
  | .cooper _ => none
  | .engine _ _ _ => none

/-- The thread at a position of the path, as its instruction sees it. -/
def Ctx.view (c : Ctx) (i : Nat) : View := { t := c.group.thread i, handler := c.group.handler }

/-- The state with the path's group replaced. -/
def State.putGroup (s : State) (c : Ctx) (g : Group) : State := s.mapGroup c.team.id c.group.idx fun _ => g

/-- The issue of the path's instruction is counted, once its effect stands (R143). -/
def State.issue (s : State) (c : Ctx) : State := s.mapGroup c.team.id c.group.idx fun g => g.issued c.lead

/-! ### Interlocks (R24 to R26) -/

/-- The result's destination is one of the registers. -/
def OutRes.hits (o : OutRes) (rs : List Nat) : Bool := o.dst.any fun j => rs.contains j
/-- Every open window of the thread lets it issue (R25, R26). -/
def Thread.inWindow (t : Thread) : Bool := t.out.all fun o => decide (o.since < o.look)
/-- No register of the instruction is the destination of an outstanding result (R24). -/
def Thread.clear (t : Thread) (rs : List Nat) : Bool := t.out.all fun o => !o.hits rs
/-- No `k` register of the instruction is the destination of an outstanding uniform result (R24). -/
def Group.kClear (g : Group) (ks : List Nat) : Bool := g.kout.all fun o => !o.hits ks

/-- The path may issue an instruction with these registers (R24, R25). -/
def Ctx.ready (c : Ctx) (r : Regs) : Bool :=
  (c.ms.all fun i => (c.group.thread i).inWindow && (c.group.thread i).clear (r.all c.group.handler))
    && c.group.kClear ((r.kReads ++ r.kWrites).map (kIndex c.group.handler))

/-- A long-latency result (R25); the number of a submission is none. -/
def OutRes.longLatency (o : OutRes) : Bool :=
  match o.kind with
  | .submitted => false
  | .ready _ => true | .load _ _ _ _ => true | .poisoned _ => true | .atom _ _ _ _ => true | .uniform _ => true
/-- A long-latency result that one of the registers waits for and no miss has been counted of. -/
def OutRes.freshMiss (o : OutRes) (rs : List Nat) : Bool := o.hits rs && o.longLatency && !o.missed
/-- Its miss is counted. -/
def OutRes.noteMiss (rs : List Nat) (o : OutRes) : OutRes := if o.hits rs then { o with missed := true } else o

/-- The path stalls: the `v` and `k` registers its next instruction names are noted (R184), and a stall on a long-latency result inside
the window is counted once as a lookahead miss of the core (R25). -/
def State.noteStall (s : State) (c : Ctx) (rs ks : List Nat) : State :=
  let late := fun i => (c.group.thread i).inWindow && (c.group.thread i).out.any fun o => o.freshMiss rs
  let lateK := (c.ms.all fun i => (c.group.thread i).inWindow) && c.group.kout.any fun o => o.freshMiss ks
  let g := c.group.mapAt c.ms fun i t =>
    { t with stall := rs, kstall := ks, out := if late i then t.out.map (OutRes.noteMiss rs) else t.out }
  let s := s.putGroup c { g with kout := if lateK then g.kout.map (OutRes.noteMiss ks) else g.kout }
  if c.ms.any late || lateK then s.mapCore c.team.core fun k => { k with lookMisses := k.lookMisses + 1 } else s

/-- A lane-set instruction with these registers stalls. -/
def State.noteMiss (s : State) (c : Ctx) (r : Regs) : State :=
  s.noteStall c (r.all c.group.handler) ((r.kReads ++ r.kWrites).map (kIndex c.group.handler))

/-- One more outstanding long-latency result of a thread, which goes on at its next word (R25, R26). -/
def Thread.ask (t : Thread) (o : OutRes) : Thread :=
  Thread.next { t.tick with out := t.tick.out ++ [o], spec := t.spec.filter fun e => !(o.dst.any fun j => e.touches j) }

/-- One of the `k` registers is poisoned (R356). -/
def Group.kBad (g : Group) (ks : List Nat) : Bool := ks.any fun j => g.kpoison.contains j

/-- An active thread would read a poisoned register, predicate or `k` register: the instruction consumes it (R356). -/
def Ctx.poisoned (c : Ctx) (r : Regs) : Bool :=
  (c.ms.any fun i =>
    ((r.reads.flatMap (operandIdx c.group.handler)).any fun j => (c.group.thread i).poison.contains j)
      || r.predReads.any fun p => (c.group.thread i).ppoison.contains (pIndex c.group.handler p))
    || c.group.kBad (r.kReads.map (kIndex c.group.handler))

/-- A ninth long-latency result does not issue (R26). -/
def Ctx.roomForOut (c : Ctx) : Bool := c.ms.all fun i => decide ((c.group.thread i).out.length < 8)

/-! ### The settling buffer (R346) -/

/-- Entries free in a core's buffer. -/
def State.room (s : State) (core : Nat) : Nat := Config.settlingEntries - (s.core core).buffer.length
/-- Places an effect in an entry of the core's buffer (R7, R346). -/
def State.produce (s : State) (core team : Nat) (e : Effect) : State :=
  s.mapCore core fun k =>
    { k with effNo := k.effNo + 1, buffer := k.buffer ++ [Entry.mk (k.effNo + 1) (s.now core) team e] }
/-- Records a value that entered the core from outside (R350). -/
def State.journal (s : State) (core : Nat) (w : Word) : State :=
  s.mapCore core fun k => { k with journal := (s.now core, w) :: k.journal }
/-- A full journal stalls what would add to it (R350). -/
def State.journalRoom (s : State) (core n : Nat) : Bool :=
  decide ((s.core core).journal.length + n ≤ Config.journalEntries)

/-- What one read of many words enters in the journal: at most half of it (DESIGN CHOICE, log 30). -/
def journalled (ws : List Word) : List Word := ws.take (Config.journalEntries / 2)
/-- The values of a read by an engine or a Cooper enter the journal (R350). -/
def State.journalAll (s : State) (core : Nat) (ws : List Word) : State :=
  if ws.isEmpty then s
  else s.mapCore core fun k => { k with journal := (journalled ws).map (fun w => (s.now core, w)) ++ k.journal }
/-- The journal has room for them. -/
def State.journalFits (s : State) (core : Nat) (ws : List Word) : Bool := s.journalRoom core (journalled ws).length

/-! ### Leaving a blocking instruction -/

/-- A thread leaves its blocking instruction (R141, R332): it goes on at the next word, or, if its group is in a
handler it is not part of, waits at that boundary. -/
def Thread.release (handler : Bool) (t : Thread) : Thread :=
  if handler && t.resume.isNone then { t with status := .parked, resume := some (t.pc + 4), pc := t.pc + 4 }
  else { t with status := .running, pc := t.pc + 4 }

/-- Releases the blocked threads of a team for which `may` holds, after `f` has changed them. -/
def Team.releaseWhere (t : Team) (may : Group → Nat → Thread → Bool) (f : Thread → Thread) : Team :=
  { t with groups := t.groups.map (fun g => { g with threads := g.threads.mapIdx (fun i h =>
      bif h.isBlocked && may g i h then Thread.release g.handler (f h) else h) }) }

/-- A count has reached another, both modulo 2^32 (R359). -/
def countReached (a upto : Word) : Bool := decide ((a - upto).toNat < 2 ^ 31)

/-- How many of a queue's pushed entries have been admitted. -/
def Team.admitted (t : Team) (eng : Option Nat) (q : Nat) : Word :=
  match eng with
  | some e => (SMap.getD t.engs e {}).admitted
  | none => (SMap.getD t.links q {}).admitted

/-- Paths whose last entry has been admitted leave their push (R128). -/
def State.releasePushes (s : State) : State :=
  { s with teams := s.teams.map fun t =>
      t.releaseWhere (fun _ _ h => match h.status with
        | .blocked (.push e q upto) => countReached (t.admitted e q) upto
        | _ => false) (fun h => h) }

/-- Changes a link of a team. -/
def Team.mapLink (t : Team) (q : Nat) (f : Link → Link) : Team := { t with links := SMap.put t.links q (f (SMap.getD t.links q {})) }
/-- Changes a team's share of an engine. -/
def Team.mapEng (t : Team) (e : Nat) (f : EngPort → EngPort) : Team := { t with engs := SMap.put t.engs e (f (SMap.getD t.engs e {})) }

/-! ### Removing teams -/

/-- The teams in a list and, to the depth R160 allows, their spawned descendants. -/
def State.withChildren (s : State) : Nat → List Nat → List Nat
  | 0, ids => ids
  | k + 1, ids =>
    State.withChildren s k (ids ++ (s.teams.filter fun t =>
      !ids.contains t.id && (match t.parent with | some p => ids.contains p.team | none => false)).map (·.id))

/-- A group all of whose threads have exited and that has no child has retired (R163). -/
def Group.retireIfDone (g : Group) : Group :=
  if g.threads.all (fun t => !t.live) && g.children == 0 then { g with retired := true } else g

/-- Groups of a team that wait for their children and have none any more go on (R163). -/
def Team.releaseParents (t : Team) : Team :=
  t.releaseWhere (fun g _ h => match h.status with
    | .blocked .waitChild => g.children == 0
    | _ => false) fun h => { h with spec := [] }

/-- A team one of whose groups has a child less. -/
def Team.lessChild (group : Nat) (t : Team) : Team :=
  Team.releaseParents { t with groups := t.groups.map fun g => if g.idx = group then Group.retireIfDone { g with children := g.children - 1 } else g }

/-- A saved state without anything of the teams `ids`: what has gone stays gone at a rollback (R405); parents there lose the
children that had not retired. -/
def Saved.dropTeams (ids : List Nat) (v : Saved) : Saved :=
  let orphaned : List Parent := (v.teams.filter fun t => ids.contains t.id && !t.retiring).filterMap (·.parent)
  let fix := fun (t : Team) => (orphaned.filter fun p => p.team == t.id).foldl (fun t p => Team.lessChild p.group t) t
  { v with
    teams := (v.teams.filter (fun t => !ids.contains t.id)).map fix
    ops := v.ops.map (fun (o : Nat × List EngOp) => (o.1, o.2.filter fun x => !ids.contains x.team))
    locks := v.locks.filter (fun l => !ids.contains l.team)
    spawnQ := v.spawnQ.filter (fun q => !ids.contains q.parent.team) }

/-- Changes a team in a saved state. -/
def Saved.mapTeam (id : Nat) (f : Team → Team) (v : Saved) : Saved :=
  { v with teams := v.teams.map fun t => if t.id = id then f t else t }

/-- Changes the saved states a rollback of the core could restore. -/
def Core.mapSaved (k : Core) (f : Saved → Saved) : Core := { k with snaps := k.snaps.map f, marks := k.marks.map f }

/-- A change that reaches a team from outside its core: a rollback of the core does not undo it, so it is made in every state
the core could be rolled back to as well (R350, R405, DESIGN CHOICE, log 30). -/
def State.inputTeam (s : State) (id : Nat) (f : Team → Team) : State :=
  match s.team? id with
  | none => s
  | some t => (s.mapTeam id f).mapCore t.core fun k => k.mapSaved (Saved.mapTeam id f)

/-- An entry of a link is admitted, or discarded, on `core`, which counts at its sender; at one on another core as an input. -/
def State.admitLink (s : State) (core sender q : Nat) (count : Word) : State :=
  let f := fun (t : Team) => t.mapLink q fun l => { l with admitted := if countReached l.admitted (count + 1) then l.admitted else count + 1 }
  match s.team? sender with
  | none => s
  | some t => if t.core = core then s.mapTeam sender f else s.inputTeam sender f

/-- Entries that waited at a team that goes are discarded, which counts as their admission and as remote drops (R128). -/
def State.dropArrivals (s : State) (t : Team) : State :=
  t.links.foldl (fun s l => l.2.arrived.foldl (fun s a =>
    (s.admitLink t.core a.2.2 l.1 a.1).mapCore t.core fun k => { k with remoteDrops := min (2 ^ 32 - 1) (k.remoteDrops + 1) }) s) s

/-- A core without anything of the teams `ids` (R275). -/
def Core.dropTeams (k : Core) (ids : List Nat) : Core :=
  { k.mapSaved (Saved.dropTeams ids) with
    ops := k.ops.map (fun (o : Nat × List EngOp) => (o.1, o.2.filter fun x => !ids.contains x.team))
    locks := k.locks.filter (fun l => !ids.contains l.team)
    spawnQ := k.spawnQ.filter (fun q => !ids.contains q.parent.team)
    latch := k.latch.filter (fun q => !ids.contains q.1) }

/-- Takes teams off the machine: their engines stop, their ranges, requests and latch go (R275, R330). -/
def State.dropTeams (s : State) (ids : List Nat) : State :=
  let s := ((s.teams.filter fun t => ids.contains t.id).foldl State.dropArrivals s).releasePushes
  { s with
    teams := s.teams.filter (fun t => !ids.contains t.id)
    transition := s.transition.filter (fun p => match p.2.2 with
      | some t => !ids.contains t
      | none => true)
    cores := s.cores.map fun (ck : Nat × Core) => (ck.1, Core.dropTeams ck.2 ids) }

/-- A team that goes frees its room for its launch first (R180). -/
def State.offerRoom (s : State) (t : Team) : State :=
  s.mapLaunch t.asid t.seq fun l => { l with freed := l.freed ++ [t.core] }

/-- One child of a group is gone. -/
def State.dropChild (s : State) (p : Parent) : State := s.mapTeam p.team (Team.lessChild p.group)

/-- A child's end lowers its parent group's count (R163): at once on the same core, else once settled. -/
def State.childGone (s : State) (t : Team) : State :=
  match t.parent with
  | none => s
  | some p =>
    match s.team? p.team with
    | none => s
    | some pt =>
      if pt.core = t.core then s.dropChild p
      else s.produce t.core t.id (.childDone p)

/-- `lp_end0` and `lp_end1` (R330). -/
def State.recordEnd (s : State) (asid seq code sub core : Nat) (addr : VAddr) : State :=
  s.mapPort asid fun p => { p with
    end0 := BitVec.ofNat 64 (2 ^ 63 + addr.toNat)
    end1 := BitVec.ofNat 64 (seq % 2 ^ 32 * 2 ^ 32 + code % 64 * 2 ^ 20 + sub % 16 * 2 ^ 16 + core % 2048) }

/-- Ends a team with a cause (R330, R331): it and its descendants stop at once, the ending is recorded, and the team
counts as retired once its ending has settled. While the settling buffer has no room for the ending nothing happens, and what ends the
team is tried again (R349). -/
def State.endTeam (s : State) (id code sub : Nat) (addr : VAddr) : State :=
  match s.team? id with
  | none => s
  | some t =>
    if s.room t.core < (if t.parent.isSome then 2 else 1) then s
    else
    let s := s.recordEnd t.asid t.seq code sub t.core addr
    let ids := s.withChildren 5 [id]
    let s := s.dropTeams ids
    let s := s.mapLaunch t.asid t.seq fun l =>
      { l with freed := l.freed ++ [t.core], endedTeams := SMap.put l.endedTeams t.cluster (SMap.getD l.endedTeams t.cluster [] ++ ids) }
    match t.parent with
    | some _ => (s.produce t.core id (.childEnd t.asid t.seq)).childGone t
    | none => s.produce t.core id (.teamEnd t.asid t.seq t.index)

/-! ### Undoing unsettled L1 bytes (R350, R357) -/

/-- Changes the cell of a word in a cache. -/
def Cache.mapCell (c : Cache) (line w : Nat) (f : WordCell → WordCell) : Cache :=
  c.map fun (n, l) => if n = line then (n, { l with ws := SMap.put l.ws w (f (SMap.getD l.ws w {})) }) else (n, l)

/-- Gives word `w` of `line` its earlier content, in the oldest later entry that touches it, or in the L1. -/
def undoWord (l1 : Cache) (line w : Nat) (old : WordCell) : List Entry → Cache × List Entry
  | [] => (Cache.mapCell l1 line w fun _ => old, [])
  | e :: r =>
    match e.eff with
    | .l1 ln undo =>
      if ln == line && undo.any (fun u => u.1 == w) then
        (l1, { e with eff := .l1 ln (undo.map fun u => if u.1 == w then (w, old) else u) } :: r)
      else let (c, r') := undoWord l1 line w old r; (c, e :: r')
    | _ => let (c, r') := undoWord l1 line w old r; (c, e :: r')

/-- Undoes the words of an entry against the entries kept after it. -/
def undoWords (l1 : Cache) (line : Nat) (later : List Entry) : List (Nat × WordCell) → Cache × List Entry
  | [] => (l1, later)
  | (w, old) :: r =>
    let (c, later') := undoWord l1 line w old later
    undoWords c line later' r

/-- Discards the entries that `drop` names, newest first, undoing their L1 bytes. -/
def discardEntries (drop : Entry → Bool) (l1 : Cache) : List Entry → Cache × List Entry
  | [] => (l1, [])
  | e :: r =>
    let (c, kept) := discardEntries drop l1 r
    if drop e then
      match e.eff with
      | .l1 line undo => undoWords c line kept undo
      | _ => (c, kept)
    else (c, e :: kept)

/-- A core without the entries that `drop` names. -/
def Core.discard (k : Core) (drop : Entry → Bool) : Core :=
  let (c, b) := discardEntries drop k.l1 k.buffer
  let gone := (k.buffer.filter drop).map (·.no)
  { k with
    l1 := c
    buffer := b
    writes := k.writes.filter (fun n => !gone.contains n) }

/-! ### Gang kill (R357, R358, R191) -/

/-- Linear indices of the teams of a cluster (R181). -/
def Launch.clusterIndices (l : Launch) (cluster : Nat) : List Nat :=
  (List.range l.clusterSize).map fun m => cluster * l.clusterSize + m

/-- A launch after one of its gangs is killed: relaunched on the cores it had, or counted. -/
def Launch.afterKill (l : Launch) (cluster : Nat) (cores : List Nat) : Launch :=
  let idx := l.clusterIndices cluster
  let l := { l with endedTeams := SMap.del l.endedTeams cluster }
  if l.replay && decide (SMap.getD l.kills cluster 0 < 3) then
    { l with kills := SMap.put l.kills cluster (SMap.getD l.kills cluster 0 + 1)
             retired := l.retired.filter (fun i => !idx.contains i)
             saved := l.saved.filter (fun x => !idx.contains x.1)
             savedReqs := l.savedReqs.filter (fun x => !idx.contains x.1)
             vintage := SMap.del l.vintage cluster
             vintaging := SMap.del l.vintaging cluster
             vintageNext := SMap.del l.vintageNext cluster
             again := if cores.isEmpty then l.again else SMap.put l.again cluster cores
             toPlace := (idx.filter fun i => !l.toPlace.contains i) ++ l.toPlace }
  else
    { l with kills := SMap.put l.kills cluster (SMap.getD l.kills cluster 0 + 1)
             gangKilled := true
             saved := l.saved.filter (fun x => !idx.contains x.1)
             savedReqs := l.savedReqs.filter (fun x => !idx.contains x.1)
             vintaging := SMap.del l.vintaging cluster
             retired := l.retired ++ idx.filter fun i => !l.retired.contains i
             toPlace := l.toPlace.filter fun i => !idx.contains i }

/-- A launch all of whose teams are placed runs; when every one of them is counted it enters flushing, which waits for what
the cores have produced so far (R176, R190, DESIGN CHOICE, log 29). -/
def State.launchProgress (s : State) (asid seq : Nat) : State :=
  s.mapLaunch asid seq fun l =>
    let st := if l.state = .placing ∧ l.toPlace.isEmpty then LState.running else l.state
    if st = .running ∧ l.toPlace.isEmpty ∧ l.teamCount ≤ l.retired.length then
      { l with state := .flushing, flushUpto := s.cores.map fun (ck : Nat × Core) => (ck.1, ck.2.effNo) }
    else { l with state := st }

/-- Kills the gang a team belongs to (R357). -/
def State.killGang (s : State) (asid seq cluster code : Nat) (addr : VAddr) : State :=
  let mine := s.teams.filter fun t => t.asid == asid && t.seq == seq && t.cluster == cluster && t.parent.isNone
  let ids := s.withChildren 5 (mine.map (·.id))
  let gone := ((s.launch? asid seq).map fun l => SMap.getD l.endedTeams cluster []).getD []
  let core0 := ((mine.head?.map (·.clusterCores)).getD []).headD 0
  let s := s.recordEnd asid seq code 0 core0 addr
  let s := s.dropTeams ids
  let s := { s with cores := s.cores.map fun (ck : Nat × Core) => (ck.1, Core.discard ck.2 fun e => ids.contains e.team || gone.contains e.team) }
  let s := mine.foldl (fun s t => s.offerRoom t) s
  (s.mapLaunch asid seq fun l => l.afterKill cluster ((mine.head?.map (·.clusterCores)).getD [])).launchProgress asid seq

/-- Kills the gang of a team: a spawned child goes with its ancestor's gang (R163). -/
def State.killGangOf (s : State) (team code : Nat) (addr : VAddr) : State :=
  match s.team? team with
  | none => s
  | some t => s.killGang t.asid t.seq t.cluster code addr

/-- Stands for a sub-code of R330 where a page walk has consumed poison. -/
def tablePoison : Nat := 0x11

/-- An access without a valid or permitted translation ends its team as a lease violation (R330); one whose page walk consumed a poisoned
table word kills its gang (R356, R384). -/
def State.breach (s : State) (team sub : Nat) (va : VAddr) : State :=
  if sub = tablePoison then s.killGangOf team 0x11 va else s.endTeam team 0x0F sub va

/-! ### Traps (R331 to R337) -/

/-- The thread parked at a trap: its cause, faulting address and resume address are written (R332 step 3). -/
def Thread.trap (t : Thread) (i : TrapInfo) (epc : VAddr) : Thread :=
  { t with status := .parked, cause := BitVec.ofNat 32 (i.detail % 2 ^ 16 * 2 ^ 16 + i.code % 64), tval := i.tval, epc := epc, resume := none }

/-- A trap of one thread: its position, its cause and the address it resumes at. -/
structure ThreadTrap where
  pos : Nat
  info : TrapInfo
  epc : VAddr
deriving DecidableEq, Repr

/-- Parks the trapping threads of a group and sets their bits of the fault mask (R146). -/
def Group.park (g : Group) (fs : List ThreadTrap) : Group :=
  let g' := fs.foldl (fun g f => { g.setThread f.pos ((g.thread f.pos).trap f.info f.epc) with
    fmask := g.fmask ||| BitVec.ofNat 32 (2 ^ f.pos) }) g
  ({ g' with pending := .own }).dropFavour

/-- No long-latency result of the group is outstanding (R332 step 2). -/
def Group.drained (g : Group) : Bool := g.kout.isEmpty && g.threads.all fun t => t.out.isEmpty

/-- A thread as the handler starts: unless it is blocked it runs from the handler's address (R332). -/
def Thread.toHandler (vec : VAddr) (t : Thread) : Thread :=
  let t := { t with stall := [], kstall := [] }
  match t.status with
  | .absent => t
  | .exited => t
  | .blocked _ => { t with resume := none }
  | .parked => { t with status := .running, held := .parked, resume := some t.pc, pc := vec }
  | .running => { t with status := .running, held := .running, resume := some t.pc, pc := vec }

/-- A group in handler mode at the handler's address (R332 step 4); the team handler when `team` (R336). -/
def Group.enter (g : Group) (vec : VAddr) (team : Bool) : Group :=
  { g with threads := g.threads.map (Thread.toHandler vec), handler := true, teamHandler := team, pending := .none,
           fmask := if team then 0 else g.fmask }

/-- Enters the handler of a group whose traps are pending, once it has nothing left to drain (R332). -/
def State.enterIfDrained (s : State) (team group : Nat) : State :=
  match s.team? team with
  | none => s
  | some t =>
    match t.group? group with
    | none => s
    | some g =>
      if g.drained then
        match g.pending with
        | .own => s.mapGroup team group fun g => g.enter (s.port t.asid).trapVec false
        | .team => s.mapGroup team group fun g => g.enter (s.port t.asid).trapVec true
        | .none => s
      else s

/-- Takes the traps of threads of one group (R146, R331, R332, R337): a trap in handler mode ends the team with cause
0x12, a port without a handler ends it with the cause; otherwise the threads are parked and the handler is entered as
soon as the group's outstanding results are drained; the reuse latch is emptied (R288). -/
def State.takeTraps (s : State) (team group : Nat) (fs : List ThreadTrap) : State :=
  match fs with
  | [] => s
  | f :: _ =>
    match s.team? team with
    | none => s
    | some t =>
      match t.group? group with
      | none => s
      | some g =>
        if g.handler then s.endTeam team 0x12 0 0
        else if (s.port t.asid).trapVec = 0 then s.endTeam team f.info.code 0 f.info.tval
        else ((s.mapGroup team group fun g => g.park fs).mapCore t.core fun k =>
          { k with latch := k.latch.filter fun l => l.1 != team }).enterIfDrained team group

/-- The whole path traps before anything is executed (R22, R42). -/
def State.trapWord (s : State) (c : Ctx) (i : TrapInfo) : State :=
  s.takeTraps c.team.id c.group.idx (c.ms.map fun m => { pos := m, info := i, epc := (c.group.thread m).pc })

/-- The whole path traps with one cause: a group cause (R146), or a thread cause of every active thread. An instruction that traps
while it executes counts as issued, an illegal one or one with illegal registers does not (R22, R143). -/
def State.trapPath (s : State) (c : Ctx) (i : TrapInfo) : State :=
  (if i.code = 0x01 ∨ i.code = 0x02 then s else s.putGroup c (c.group.issued c.lead)).trapWord c i

/-- A thread as it leaves the handler (R136): a faulted one at its `cr.epc`, another where it stopped. -/
def Thread.fromHandler (faulted : Bool) (t : Thread) : Thread :=
  let t := { t with cause := 0, stall := [], kstall := [] }
  match t.status with
  | .absent => t
  | .exited => t
  | .running =>
    if faulted then { t with status := .running, pc := t.epc, resume := none, held := .running }
    else { t with status := .running, pc := t.resume.getD t.pc, resume := none, held := .running }
  | .parked =>
    if faulted then { t with status := .running, pc := t.epc, resume := none, held := .running }
    else { t with status := .running, pc := t.resume.getD t.pc, resume := none, held := .running }
  | .blocked _ =>
    match t.resume with
    | none => t
    | some p => { t with status := .running, pc := if faulted then t.epc else p, resume := none, held := .running }

/-- The group out of handler mode after its path with leader `lead` returned (R136, R332). -/
def Group.leave (g : Group) (lead : Nat) : Group :=
  let g' := { g with threads := g.threads.mapIdx fun i t => Thread.fromHandler (g.fmask.getLsbD i) t,
                     handler := false, teamHandler := false, fmask := 0 }
  g'.settleFavour lead

/-! ### Team causes (R336) -/

/-- A trap of the Cooper (R277, R336): it stops at the instruction, `cr.tpc` and `cr.tcause` are written, every group
stops at its next boundary, and the reuse latch is emptied (R288); without a handler the team ends (R331). -/
def State.teamTrap (s : State) (team code status : Nat) (addr : VAddr) : State :=
  match s.team? team with
  | none => s
  | some t =>
    if (s.port t.asid).trapVec = 0 then s.endTeam team code 0 addr
    else (s.mapTeam team fun t => { t with
        cooper := t.cooper.map fun k => { k with trapped := true }
        tpc := (t.cooper.map (·.cpc)).getD 0
        tcause := BitVec.ofNat 32 (status % 256 * 2 ^ 16 + code % 64)
        groups := t.groups.map fun g => { g with stopped := true } }).mapCore t.core fun k =>
          { k with latch := k.latch.filter fun l => l.1 != team }

/-- The group that runs a team handler: the lowest-numbered launched group with a live thread that is not blocked. -/
def Team.handlerGroup (t : Team) : Option Nat :=
  (t.groups.find? fun g => g.threads.any fun h => h.live && !h.isBlocked).map (·.idx)

/-- A team handler returns: every group resumes and the Cooper fetches anew at `cr.tpc` (R336). -/
def State.teamReturn (s : State) (team : Nat) : State :=
  s.mapTeam team fun t => { t with
    cooper := t.cooper.map fun k => { k with trapped := false, cpc := t.tpc }
    tcause := 0
    groups := t.groups.map fun g => { g with stopped := false } }

/-! ### The common shape of a lane-set instruction -/

/-- An instruction some of whose active threads may trap while it completes for the others (R146). -/
def laneTry (r : Regs) (f : Ctx → Nat → View → Except ThreadTrap Thread) (s : State) : Result :=
  match s.path? with
  | none => .refused .noIssuer
  | some c =>
    if r.ok c.group.regs then
      if c.poisoned r then .next (s.killGangOf c.team.id 0x11 0)
      else if c.ready r then
        let g := (c.group.mapAt c.ms fun i t => match f c i (c.view i) with
          | .ok u => u.tick
          | .error _ => t).issued c.lead
        .next ((s.putGroup c g).takeTraps c.team.id c.group.idx (c.ms.filterMap fun i => match f c i (c.view i) with
          | .ok _ => none
          | .error e => some e))
      else .next (s.noteMiss c r)
    else .next (s.trapPath c { code := 0x02 })


/-- The common shape of an instruction whose effect is on the threads of the path alone: the register check (R13), the
interlocks (R24, R25), then `f` for every active thread, the count of the group's issues and its rotation. -/
def laneStep (r : Regs) (f : View → Thread) (s : State) : Result :=
  match s.path? with
  | none => .refused .noIssuer
  | some c =>
    if r.ok c.group.regs then
      if c.poisoned r then .next (s.killGangOf c.team.id 0x11 0)
      else if c.ready r then
        .next (s.putGroup c ((c.group.mapAt c.ms fun i _ => (f (c.view i)).tick).issued c.lead))
      else .next (s.noteMiss c r)
    else .next (s.trapPath c { code := 0x02 })

/-- A lane-set instruction that computes and goes on at the next word. -/
def laneOp (r : Regs) (f : View → Thread) (s : State) : Result := laneStep r (fun w => (f w).next) s

/-- The registers a uniform-set instruction names: first `k` register and span. -/
structure KRegs where
  reads : List (Nat × Nat) := []
  writes : List (Nat × Nat) := []

/-- A pair starts at an even register (R15). -/
def kOperandOk (o : Nat × Nat) : Bool := decide (o.1 % o.2 = 0) && decide (o.1 + o.2 ≤ 64)
/-- Every operand is one a uniform instruction may name (R15). -/
def KRegs.ok (r : KRegs) : Bool := (r.reads ++ r.writes).all kOperandOk
/-- Storage indices of every register named. -/
def KRegs.all (r : KRegs) (handler : Bool) : List Nat :=
  (r.reads ++ r.writes).flatMap fun o => (List.range o.2).map fun k => kIndex handler (o.1 + k)

/-- Storage indices of the registers read. -/
def KRegs.sources (r : KRegs) (handler : Bool) : List Nat :=
  r.reads.flatMap fun o => (List.range o.2).map fun k => kIndex handler (o.1 + k)

/-- A uniform instruction would read a poisoned register (R356). -/
def Ctx.kPoisoned (c : Ctx) (r : KRegs) : Bool := c.group.kBad (r.sources c.group.handler)

/-- The path may issue a uniform instruction with these registers (R24 to R26). -/
def Ctx.kReady (c : Ctx) (r : KRegs) : Bool :=
  (c.ms.all fun i => (c.group.thread i).inWindow) && c.group.kClear (r.all c.group.handler)

/-- A uniform-set instruction with these registers stalls. -/
def State.noteKMiss (s : State) (c : Ctx) (r : KRegs) : State := s.noteStall c [] (r.all c.group.handler)

/-- The common shape of a uniform-set instruction that changes `k` registers and where the path goes on (R93, R145):
`f` gives the group's registers, `target` the path's next address. -/
def uniStep (r : KRegs) (f : Group → Group) (target : Group → VAddr → VAddr) (s : State) : Result :=
  match s.path? with
  | none => .refused .noIssuer
  | some c =>
    if r.ok then
      if c.kPoisoned r then .next (s.killGangOf c.team.id 0x11 0)
      else if c.kReady r then
        .next (s.putGroup c (((f c.group).mapAt c.ms fun _ t => (Thread.tick t).goTo (target c.group t.pc)).issued c.lead))
      else .next (s.noteKMiss c r)
    else .next (s.trapPath c { code := 0x02 })

/-- A uniform instruction that computes and goes on at the next word. -/
def uniOp (r : KRegs) (f : Group → Group) (s : State) : Result := uniStep r f (fun _ pc => pc + 4) s

end Sys2Proof.Machine
end

