-- ==== Sys2Proof/Machine/Device.lean ====
section
/-! DEFINITION. The device registers of region 0x7 (R320) as they read: the launch ports (R172, R330, R332, R339), `at_root` (R324),
the soft-error blocks (R362), `lk_status` and `dd_state` (R379), the migration registers (R382) and the platform registers (R400,
R403, R404). -/
namespace Sys2Proof.Machine
open Sys2Proof

/-- Region of a physical address (R320). -/
def regionOf (pa : Nat) : Nat := pa / 2 ^ 48 % 16

/-- A device register, by its block and its place in it. -/
inductive DevReg
  /-- offset in the page of a launch port -/
  | port (asid off : Nat)
  | atRoot (asid : Nat)
  | se (core off : Nat)
  | link (k : Nat)
  | die (d : Nat)
  | migrate (off : Nat)
  | platform (off : Nat)
  /-- no map names it: it reads 0 and ignores writes (R6) -/
  | none
deriving DecidableEq, Repr

/-- The register a doubleword of region 0x7 is; the control page answers through the second alias of a port only (R320). -/
def devReg (pa : Nat) : DevReg :=
  let o := pa % 2 ^ 48 / 8 * 8
  if o < 0x4000000 then (if o % 0x10000 < 0x100 then .port (o / 0x10000) (o % 0x10000) else .none)
  else if 0x40000000 ≤ o ∧ o < 0x44000000 then
    (if o % 0x10000 < 0x200 then .port ((o - 0x40000000) / 0x10000) (o % 0x10000) else .none)
  else if 0x80000000 ≤ o ∧ o < 0x80002000 then .atRoot ((o - 0x80000000) / 8)
  else if 0x100000000 ≤ o ∧ o < 0x100000000 + 0x40 * Config.numCores then .se ((o - 0x100000000) / 0x40) (o % 0x40)
  else if 0x200000000 ≤ o ∧ o < 0x200000000 + 0x10 * 116 then (if o % 0x10 = 0 then .link ((o - 0x200000000) / 0x10) else .none)
  else if 0x300000000 ≤ o ∧ o < 0x300000000 + 0x10 * Config.numDies then (if o % 0x10 = 0 then .die ((o - 0x300000000) / 0x10) else .none)
  else if 0x400000000 ≤ o ∧ o < 0x400000018 then .migrate (o - 0x400000000)
  else if 0x500000000 ≤ o ∧ o < 0x500000200 then .platform (o - 0x500000000)
  else .none

/-- A flag as the bit of a register. -/
def flagBit (b : Bool) (n : Nat) : Nat := if b then 2 ^ n else 0

/-- A register of a launch port's page (R172, R330, R332, R339). -/
def Port.read (p : Port) (off : Nat) : Nat :=
  if off = 0x000 then p.lastAddr.toNat
  else if off = 0x008 then p.queue.length * 2 ^ 32 + p.lastSeq.toNat
  else if off = 0x010 then flagBit p.refused 40 + p.reason.toNat * 2 ^ 32 + p.refusedSeq.toNat
  else if 0x100 ≤ off ∧ off < 0x190 then (SMap.getD p.coreSet ((off - 0x100) / 8) 0).toNat
  else if off = 0x190 then p.trapVec.toNat
  else if off = 0x198 then p.pstate * 2 ^ 56 + p.stride * 2 ^ 32 + p.preemptSeq.toNat
  else if off = 0x1A0 then p.saveBase.toNat
  else if off = 0x1A8 then p.resumeSeq.toNat
  else if off = 0x1B0 then flagBit p.vintOn 63 + p.vintBase.toNat
  else if off = 0x1B8 then p.end0.toNat
  else if off = 0x1C0 then p.end1.toNat
  else 0

/-- The soft-error block of a core (R362). -/
def Core.seRead (k : Core) (off : Nat) : Nat :=
  if off = 0x00 then k.rollbacks * 2 ^ 32 + k.mismatches * 2 ^ 16 + k.strikes
  else if off = 0x08 then k.remoteDrops * 2 ^ 8 + flagBit k.pipelineError 1 + flagBit k.fenced 0
  else if off = 0x10 then k.origin.addr.toNat
  else 0

/-- `lk_status` (R379). -/
def LinkState.read (l : LinkState) : Nat := l.fec * 2 ^ 32 + l.nacks * 2 ^ 16 + l.margin * 2 ^ 8 + flagBit l.stepped 2 + l.rate

/-- `dd_state` (R379). -/
def Die.ddRead (d : Die) : Nat := flagBit d.kill 8 + flagBit d.rebuilt 7 + flagBit d.unmirrored 6 + d.cause * 2 ^ 4 + d.state

/-- `pw_die` (R403). -/
def Die.pwRead (d : Die) : Nat := d.capW * 2 ^ 32 + d.tempC * 2 ^ 16 + d.powerW

/-- `id_part` (R404); the stepping is the silicon's. -/
def idPart : Nat := 0x0B24 * 2 ^ 32 + 0x01 * 2 ^ 24 + (if Config.steppingB0 then 0x10 else 0x00) * 2 ^ 16

/-- The platform registers (R400, R404). -/
def Mgmt.read (m : Mgmt) (off : Nat) : Nat :=
  if off = 0x00 then idPart
  else if off = 0x08 then flagBit m.hkLock 10 + (m.fabricPending.getD m.fabricNum).toNat
  else if off = 0x40 then flagBit m.ttLock 8 + m.ttEnable.toNat * 2 ^ 4 + m.ttPolicy.toNat
  else if off = 0x48 then flagBit m.erased 8 + m.tripped.toNat
  else 0

/-- A device register's value (R320, R6). A pending `at_root` or `hk_ctl` write is what they read (R324, R404); `go`
of `mg_ctl` stays set once a move has been asked for (DEDUCED, log 54). -/
def State.readReg (s : State) (pa : Nat) : DWord :=
  BitVec.ofNat 64 <| match devReg pa with
    | .port a off => (s.port a).read off
    | .atRoot a => ((s.port a).rootPending.getD (s.port a).root).toNat
    | .se c off => (s.core c).seRead off
    | .link k => (SMap.getD s.links k {}).read
    | .die d => (s.die d).ddRead
    | .migrate off =>
      if off = 0x00 then s.mgVa.toNat else if off = 0x08 then s.mgDst.toNat else s.mgStatus * 2 ^ 16 + flagBit s.mgGo 10 + s.mgAsid.toNat
    | .platform off =>
      if 0x100 ≤ off ∧ off < 0x100 + 8 * Config.numDies then (s.die ((off - 0x100) / 8)).pwRead else s.mgmt.read off
    | .none => 0

/-- A word of a device register, by physical address / 4. -/
def State.regWord (s : State) (w : Nat) : Word :=
  BitVec.ofNat 32 ((s.readReg (4 * w)).toNat / (if w % 2 = 1 then 2 ^ 32 else 1))

/-- The bits of a register that a 1 clears or sets (R6): bytes a narrow write leaves out write 0 to them. -/
def actionBits (pa : Nat) : DWord :=
  match devReg pa with
  | .port _ off => if off = 0x010 then BitVec.ofNat 64 (2 ^ 40) else if off = 0x1B8 then BitVec.ofNat 64 (2 ^ 63) else 0
  | .atRoot _ => 0
  | .se _ off => if off = 0x08 then 2 else 0
  | .link _ => 4
  | .die _ => 0x100
  | .migrate off => if off = 0x10 then 0x400 else 0
  | .platform off => if off = 0x08 then 0x400 else if off = 0x40 then 0x100 else if off = 0x48 then 0xF else 0
  | .none => 0

/-- A write of some bytes of region 0x7 as the register writes it comes to, by their doublewords in order of address: a byte left out
keeps its bits. -/
def State.deviceWrites (s : State) (bs : List (Nat × Byte)) : List (Nat × DWord) :=
  (sortNat ((bs.map fun b => b.1 / 8).eraseDups)).map fun r =>
    let old := (s.readReg (8 * r)).toNat &&& (~~~(actionBits (8 * r))).toNat
    let v := (List.range 8).map fun i => match bs.reverse.find? fun b => b.1 == 8 * r + i with
      | some b => b.2.toNat * 256 ^ i
      | none => old / 256 ^ i % 256 * 256 ^ i
    (8 * r, BitVec.ofNat 64 v.sum)

/-- A write to device registers: each is performed by a REGISTER_WRITE, before anything else happens (R320). -/
def State.deviceWrite (s : State) (writer : Submitter) (bs : List (Nat × Byte)) : State :=
  { s with regWrites := s.regWrites ++ (s.deviceWrites bs).map fun x => (x.1, x.2, writer) }

/-- A write to a full `lp_submit` stalls its writer until the write is accepted (R173). -/
def State.stalledAt (s : State) (writer : Submitter) : Bool := s.ports.any fun p => p.2.stalled.any fun x => x.2 == writer

/-- A core issues nothing while a store of its own to a full `lp_submit` waits (R173). -/
def State.coreStalled (s : State) (core : Nat) : Bool := s.stalledAt (.store core)

/-- The writer may not be known or may go on (a `klaunch` waits for its sequence number only, R175). -/
def State.mayWrite (s : State) (writer : Submitter) : Bool :=
  match writer with
  | .store _ => !s.stalledAt writer
  | .app _ => !s.stalledAt writer
  | .klaunch _ => true
  | .other => true

/-- The first write to a device register whose writer is not stalled, and the others. -/
def State.nextRegWrite (s : State) : Option ((Nat × DWord × Submitter) × List (Nat × DWord × Submitter)) :=
  (s.regWrites.find? fun x => s.mayWrite x.2.2).map fun x => (x, s.regWrites.erase x)

end Sys2Proof.Machine
end

