-- ==== Sys2Proof/Machine/Links.lean ====
section
/-! DEFINITION. The links of the package (R364): their numbers and what they join, the routes of messages between its dies, and the
slice hash (R367). -/
namespace Sys2Proof.Machine
open Sys2Proof

/-- Links of the package: die links and bridges, Varard ports, CXL ports (R364). -/
def numLinks : Nat := 116
/-- The number of the link at edge `e` of die `d` (R364). -/
def edgeLink (d e : Nat) : Nat := 4 * d + e
/-- The number of Varard port `p` of I/O die `q` (R364). -/
def varardLink (q p : Nat) : Nat := 96 + 4 * q + p
/-- The number of the CXL port of I/O die `q` (R364). -/
def cxlLink (q : Nat) : Nat := 112 + q

/-- A link's registers. -/
def State.link (s : State) (k : Nat) : LinkState := SMap.getD s.links k {}
/-- Changes a link. -/
def State.mapLink (s : State) (k : Nat) (f : LinkState → LinkState) : State := { s with links := SMap.put s.links k (f (s.link k)) }
/-- The link carries traffic (R379). -/
def State.linkUp (s : State) (k : Nat) : Bool := (s.link k).rate != 3

/-- The buddy of a die (R364). -/
def buddyOf (d : Nat) : Nat := if d % 2 = 0 then d + 1 else d - 1
/-- A living die. -/
def State.alive (s : State) (d : Nat) : Bool := (s.die d).state == 1 || (s.die d).state == 2

/-- Where a message stands: on a compute die or on an I/O die. -/
inductive Site | die (d : Nat) | io (q : Nat)
deriving DecidableEq, Repr

/-- What edge `e` of die `d` leads to, and the edge a compute die there has the link at (R364). -/
def edgeTo (d e : Nat) : Site × Nat :=
  let q := d / 6
  let i := d % 6
  if e = 0 then (.die (buddyOf d), 0)
  else if e = 1 then (.die (if i < 2 then 6 * ((q + 3) % 4) + i + 4 else d - 2), 2)
  else if e = 2 then (.die (if 3 < i then 6 * ((q + 1) % 4) + i - 4 else d + 2), 1)
  else (.io q, 3)

/-- The link of the edge is a bridge between quarters (R364). -/
def isBridge (d e : Nat) : Bool := (e == 1 && decide (d % 6 < 2)) || (e == 2 && decide (3 < d % 6))

/-- The slice hash of a line (R367). -/
def sliceHash (line : Nat) : Nat := ((List.range 7).map fun i => line / 64 ^ i % 64).foldl (fun a b => a ^^^ b) 0

/-- Steps along a column from a die, through edge 2 or edge 1, each as the die left and the edge taken. -/
def columnHops (e : Nat) : Nat → Nat → List (Nat × Nat)
  | 0, _ => []
  | n + 1, d => (d, e) :: columnHops e n (match (edgeTo d e).1 with
    | .die x => x
    | .io _ => d)

/-- The row of a die on the ring that its column forms with those of the other quarters. -/
def ringRow (d : Nat) : Nat := 3 * (d / 6) + d % 6 / 2

/-- The hops from die `a` to die `b` that go through edge `e` of the column of `a` to the row of `b` and then cross the buddy link
(R364). -/
def ringRoute (a b e : Nat) : List (Nat × Nat) :=
  let n := if e = 2 then (ringRow b + 12 - ringRow a) % 12 else (ringRow a + 12 - ringRow b) % 12
  columnHops e n a ++ if a % 2 = b % 2 then [] else [(buddyOf b, 0)]

/-- The routes R364 gives between two dies for a line's message, in order: within a quarter and to an adjacent one, one; to the opposite
quarter, the direction that bit 0 of the slice hash gives, 0 standing for edge 2 (DESIGN CHOICE, log 68), then the other. -/
def dieRoutes (a b line : Nat) : List (List (Nat × Nat)) :=
  match (b / 6 + 4 - a / 6) % 4 with
  | 0 => [ringRoute a b (if a % 6 / 2 ≤ b % 6 / 2 then 2 else 1)]
  | 1 => [ringRoute a b 2]
  | 3 => [ringRoute a b 1]
  | _ => if sliceHash line % 2 = 0 then [ringRoute a b 2, ringRoute a b 1] else [ringRoute a b 1, ringRoute a b 2]

/-- A hop carries traffic: the link is up at both of its ends, and the die it leads to is not dead. -/
def State.hopUp (s : State) (h : Nat × Nat) : Bool :=
  s.linkUp (edgeLink h.1 h.2) && match edgeTo h.1 h.2 with
    | (.die x, e) => s.linkUp (edgeLink x e) && (s.die x).state != 3
    | (.io _, _) => true

/-- Other routes (R379): the shortest from a die to another over links that are up, found in rounds. -/
def State.searchRoute (s : State) (b : Nat) : Nat → List Nat → List (Nat × List (Nat × Nat)) → Option (List (Nat × Nat))
  | 0, _, _ => none
  | n + 1, seen, front =>
    match front.find? fun x => x.1 == b with
    | some x => some x.2
    | none =>
      let next := front.flatMap fun x => [0, 1, 2].filterMap fun e => match (edgeTo x.1 e).1 with
        | .die y => if s.hopUp (x.1, e) && !seen.contains y then some (y, x.2 ++ [(x.1, e)]) else none
        | .io _ => none
      State.searchRoute s b n (seen ++ next.map (·.1)) next

/-- The route a line's message takes from one die to another: the first of R364's that is up, or another; none where no route is left
(R364, R379). -/
def State.dieRoute (s : State) (a b line : Nat) : Option (List (Nat × Nat)) :=
  if a = b then some []
  else match (dieRoutes a b line).find? fun r => r.all s.hopUp with
    | some r => some r
    | none => s.searchRoute b 24 [a] [(a, [])]

/-- The compute dies by which a message leaves or reaches a place, the one with local index `i` first: the die itself, or those of an I/O
die's quarter whose link with it is up (DESIGN CHOICE, log 68). -/
def State.gates (s : State) (i : Nat) : Site → List Nat
  | .die d => [d]
  | .io q => ((6 * q + i) :: (List.range 6).map fun j => 6 * q + j).filter fun d => s.linkUp (edgeLink d 3) && (s.die d).state != 3

/-- The local index a message prefers at an I/O die: that of the die at its other end. -/
def Site.index : Site → Nat
  | .die d => d % 6
  | .io _ => 0

/-- The route of a line's message between two places: the die it goes through first, and the hops (R364). -/
def State.route (s : State) (a b : Site) (line : Nat) : Option (Nat × List (Nat × Nat)) :=
  if a = b then some (0, [])
  else (s.gates b.index a).findSome? fun x => (s.gates a.index b).findSome? fun y => (s.dieRoute x y line).map fun r => (x, r)

/-- I/O dies with a Varard port that is up, that of quarter `q` first (R364, R380). -/
def State.varardDies (s : State) (q : Nat) : List Nat :=
  (q :: List.range 4).filter fun i => (List.range 4).any fun p => s.linkUp (varardLink i p)

/-- The entropy value, one of 8, of the path that the messages of a line take to another package (R374, R380). -/
def pathOf (line : Nat) : Nat := (Config.entropy line).toNat

end Sys2Proof.Machine
end

