-- ==== Sys2Proof/Machine/Hubs.lean ====
section
/-! DEFINITION. Homes and directories: where a line's home is (R200, R320), the hubs of the package (R366), the words
memory holds there, messages in flight (R369), and the cells of caches. -/
namespace Sys2Proof.Machine
open Sys2Proof

/-- The I/O die that holds a device register (R320). -/
def regHolder (pa : Nat) : Nat :=
  match devReg pa with
  | .se c _ => c / 288
  | .die d => d / 6
  | .link k => if k < 96 then k / 24 else if k < 112 then (k - 96) / 4 else k - 112
  | .port _ _ => 0 | .atRoot _ => 0 | .migrate _ => 0 | .platform _ => 0 | .none => 0

/-- The address is a device register's (R320). -/
def isDevice (pa : Nat) : Bool := regionOf pa == 7

/-- The home of a physical address (R200, R320). -/
def homeOf (pa : Nat) : Node :=
  match regionOf pa with
  | 0 => .home (pa / 2 ^ 36)
  | 1 => .ioHome 0 | 2 => .ioHome 1 | 3 => .ioHome 2 | 4 => .ioHome 3
  | 7 => .ioHome (regHolder pa)
  | _ => .pkg (pa / 2 ^ 41 % 1024)

/-- The directory an L1 sends its requests of a line to: its own die's home directory, or its RDC (R366). -/
def parentOf (core line : Nat) : Node :=
  match homeOf (line * 128) with
  | .home d => if d = dieOf core then .home d else .rdc (dieOf core)
  | _ => .rdc (dieOf core)

/-- The die a party stands on. -/
def nodeDie : Node → Option Nat
  | .l1 c => some (dieOf c) | .core c => some (dieOf c)
  | .rdc d => some d | .home d => some d | .mirror d => some d
  | .ioHome _ => none | .pkg _ => none | .app _ => none

/-- Where a party stands; another package's traffic passes an I/O die of the quarter of the party at the other end (R364, R380). -/
def State.placeOf (s : State) (n other : Node) : List Site :=
  let quarter := fun (x : Node) => match x, nodeDie x with
    | .ioHome i, _ => i
    | .app i, _ => i
    | _, some d => d / 6
    | _, none => 0
  match n, nodeDie n with
  | .pkg _, _ => (s.varardDies (quarter other)).map Site.io
  | _, some d => [.die d]
  | _, none => [.io (quarter n)]

/-- The route of a message through the package (R364): the first place it goes through, and the hops. A message that has left a dead die
arrives (R376). -/
def State.routeOf (s : State) (m : Msg) : Option (Nat × List (Nat × Nat)) :=
  match nodeDie m.src with
  | some d => if nodeDie m.dst = some d ∨ (s.die d).state = 3 then some (d, []) else
      (s.placeOf m.src m.dst).findSome? fun a => (s.placeOf m.dst m.src).findSome? fun b => s.route a b m.line
  | none => (s.placeOf m.src m.dst).findSome? fun a => (s.placeOf m.dst m.src).findSome? fun b => s.route a b m.line

/-- A party on a dead die (R376), or a package that is lost (R380). -/
def State.isDead (s : State) (n : Node) : Bool :=
  match n, nodeDie n with
  | .pkg p, _ => s.lostPkgs.contains p
  | _, some d => (s.die d).state == 3
  | _, none => false

/-- The mask of one word. -/
def bitOf (w : Nat) : Mask := BitVec.ofNat 32 (2 ^ w)
/-- The words of a mask, ascending. -/
def wordsOf (m : Mask) : List Nat := (List.range 32).filter m.getLsbD
/-- The mask of a list of words. -/
def maskOfWords (ws : List Nat) : Mask := ws.foldl (fun m w => m ||| bitOf w) 0
/-- The mask of the words `f` holds for. -/
def maskWhere (f : Nat → Bool) : Mask := maskOfWords ((List.range 32).filter f)

/-! ### Hubs -/

/-- The hub of a directory node. -/
def State.hub (s : State) : Node → Hub
  | .home d => (s.die d).home
  | .rdc d => (s.die d).rdcHub
  | .ioHome i => (s.ios.getD i {}).hub
  | .l1 _ => {} | .mirror _ => {} | .pkg _ => {} | .core _ => {} | .app _ => {}

/-- The two messages have the same sender and the same receiver, and are of one line. -/
def sameRoute (a b : Msg) : Bool := a.src == b.src && a.dst == b.dst && a.line == b.line

/-- Changes the hub of a directory node. -/
def State.mapHub (s : State) (n : Node) (f : Hub → Hub) : State :=
  match n with
  | .home d => s.mapDie d fun x => { x with home := f x.home }
  | .rdc d => s.mapDie d fun x => { x with rdcHub := f x.rdcHub }
  | .ioHome i => { s with ios := s.ios.modify i fun x => { x with hub := f x.hub } }
  | .l1 _ => s | .mirror _ => s | .pkg _ => s | .core _ => s | .app _ => s

/-- The entry of a line. -/
def Hub.entry (h : Hub) (line : Nat) : DirEntry := ((h.dir.find? fun e => e.1 == line).map (·.2)).getD {}
/-- Replaces the entry of a line, which becomes the most recently used; a line without holders has none (R366). -/
def Hub.setEntry (h : Hub) (line : Nat) (e : DirEntry) : Hub :=
  let rest := h.dir.filter fun x => x.1 != line
  { h with dir := if e.owner.isEmpty && e.sharers.isEmpty then rest else (line, e) :: rest }
/-- The owner of a word. -/
def DirEntry.ownerOf (e : DirEntry) (w : Nat) : Option Node := SMap.get? e.owner w
/-- The sharers of a word. -/
def DirEntry.sharersOf (e : DirEntry) (w : Nat) : List Node := SMap.getD e.sharers w []
/-- Registers an owner of a word. -/
def DirEntry.own (e : DirEntry) (w : Nat) (n : Node) : DirEntry := { e with owner := SMap.put e.owner w n }
/-- Registers no owner of a word. -/
def DirEntry.disown (e : DirEntry) (w : Nat) : DirEntry := { e with owner := SMap.del e.owner w }
/-- Sets the sharers of a word. -/
def DirEntry.share (e : DirEntry) (w : Nat) (ns : List Node) : DirEntry :=
  { e with sharers := if ns.isEmpty then SMap.del e.sharers w else SMap.put e.sharers w ns }
/-- Adds a sharer of a word. -/
def DirEntry.addSharer (e : DirEntry) (w : Nat) (n : Node) : DirEntry :=
  if (e.sharersOf w).contains n then e else e.share w (n :: e.sharersOf w)
/-- No holder of a word. -/
def DirEntry.clear (e : DirEntry) (w : Nat) : DirEntry := (e.disown w).share w []
/-- A holder gone from a word. -/
def DirEntry.forget (e : DirEntry) (w : Nat) (n : Node) : DirEntry :=
  let e := if e.ownerOf w == some n then e.disown w else e
  e.share w ((e.sharersOf w).filter fun x => x != n)
/-- A word of an entry is held by such a party, another than `me`. -/
def DirEntry.heldAway (e : DirEntry) (w : Nat) (me : Option Node) : Bool :=
  ((e.ownerOf w).toList ++ e.sharersOf w).any fun x => x.away && some x != me
/-- Every node an entry names. -/
def DirEntry.nodes (e : DirEntry) : List Node := (e.owner.map (·.2) ++ e.sharers.flatMap (·.2)).eraseDups

/-! ### The filters (R366, R367) -/

/-- The dies that hold the quarter-filter and the device-filter slice of a line, before any slice moved (R367). -/
def sliceDies (line : Nat) : List Nat :=
  let x := sliceHash line
  match homeOf (line * 128) with
  | .home d => [d / 6 * 6 + x % 6, 6 * (x % 4) + x / 4 % 6]
  | _ => []

/-- The die that holds the slices of die `d` (R377). -/
def State.sliceHolder (s : State) (d : Nat) : Nat := ((s.slices.find? fun x => x.1 == d).map (·.2.1)).getD d

/-- How a filter numbers a holder of a line homed on die `home`: the quarter filter another die of the quarter by its local index, the
device filter a die of another quarter. -/
def filterIndex (home : Nat) (quarter : Bool) : Node → Option Nat
  | .rdc x => if (x / 6 == home / 6) == quarter then some (if quarter then x % 6 else x) else none
  | _ => none

/-- What a filter holds of a line homed on die `home`, from the home's entry (R366). -/
def DirEntry.filtered (e : DirEntry) (home : Nat) (quarter : Bool) : FilterEntry :=
  { dies := BitVec.ofNat 24 ((e.nodes.filterMap (filterIndex home quarter)).foldl (fun a i => a ||| 2 ^ i) 0)
    owners := e.owner.filterMap fun x => (filterIndex home quarter x.2).map fun i => (x.1, i) }

/-- Replaces the entry of a line, which becomes the most recently used; a line without copies has none. -/
def setFilter (l : List (Nat × FilterEntry)) (line : Nat) (e : FilterEntry) : List (Nat × FilterEntry) :=
  let rest := l.filter fun x => x.1 != line
  if e.dies = 0 then rest else (line, e) :: rest

/-- Changes the filter of a kind that die `h` holds. -/
def State.mapFilter (s : State) (h : Nat) (quarter : Bool) (f : List (Nat × FilterEntry) → List (Nat × FilterEntry)) : State :=
  if (s.die h).state = 3 then s
  else s.mapDie h fun d => if quarter then { d with quarterFilter := f d.quarterFilter } else { d with deviceFilter := f d.deviceFilter }

/-- The filters follow the home's entry of a line in the same step (R370). -/
def State.noteFilters (s : State) (line : Nat) : State :=
  match homeOf (line * 128), sliceDies line with
  | .home d, [q, v] =>
    let e := (s.die d).home.entry line
    (s.mapFilter (s.sliceHolder q) true fun l => setFilter l line (e.filtered d true)).mapFilter (s.sliceHolder v) false fun l =>
      setFilter l line (e.filtered d false)
  | _, _ => s

/-- Changes the entry of a line, and the filters with it. -/
def State.mapEntry (s : State) (n : Node) (line : Nat) (f : DirEntry → DirEntry) : State :=
  let s := s.mapHub n fun h => h.setEntry line (f (h.entry line))
  match n with
  | .home _ => s.noteFilters line
  | _ => s

/-- The filter that a request of another die's RDC needs an entry of, and how many it may hold (R366). -/
def State.filterFor (s : State) (n : Node) (m : Msg) : Option (List (Nat × FilterEntry) × Nat) :=
  match n, m.src, sliceDies m.line with
  | .home d, .rdc x, [q, v] =>
    if x / 6 = d / 6 then some ((s.die (s.sliceHolder q)).quarterFilter, Config.quarterFilterEntries)
    else some ((s.die (s.sliceHolder v)).deviceFilter, Config.deviceFilterEntries)
  | _, _, _ => none

/-- That filter has an entry for the line or room for one (R368). -/
def State.filterRoom (s : State) (n : Node) (m : Msg) : Bool :=
  match s.filterFor n m with
  | none => true
  | some (l, k) => l.any (fun e => e.1 == m.line) || decide (l.length < k)

/-! ### Caches -/

/-- A line of a cache. -/
def Cache.line? (c : Cache) (n : Nat) : Option Line := (c.find? fun l => l.1 == n).map (·.2)
/-- The cell of a word in a cache, absent words being invalid. -/
def Cache.cell (c : Cache) (line w : Nat) : WordCell :=
  match c.line? line with
  | some l => SMap.getD l.ws w {}
  | none => {}
/-- Puts a cell; a cell without any content takes no room. -/
def Line.put (l : Line) (w : Nat) (c : WordCell) : Line := { l with ws := if c = {} then SMap.del l.ws w else SMap.put l.ws w c }
/-- Puts a cell into a cache, allocating its line at the front. -/
def Cache.put (c : Cache) (line w : Nat) (x : WordCell) : Cache :=
  if (c.line? line).isSome then c.map fun (nl : Nat × Line) => if nl.1 = line then (nl.1, nl.2.put w x) else nl
  else (line, Line.put {} w x) :: c
/-- Removes a line. -/
def Cache.dropLine (c : Cache) (line : Nat) : Cache := c.filter fun l => l.1 != line
/-- Makes a line the most recently used. -/
def Cache.front (c : Cache) (line : Nat) : Cache :=
  match c.line? line with
  | some l => (line, l) :: c.dropLine line
  | none => c

/-- The cell an L1 or its victim buffer holds for a word (R372). -/
def Core.cell (k : Core) (line w : Nat) : WordCell :=
  if (k.l1.line? line).isSome then k.l1.cell line w else k.victim.cell line w
/-- Puts a cell of an L1, or of its victim buffer where only that holds the line. -/
def Core.putCell (k : Core) (line w : Nat) (x : WordCell) : Core :=
  if (k.l1.line? line).isNone && (k.victim.line? line).isSome then { k with victim := k.victim.put line w x }
  else { k with l1 := k.l1.put line w x }
/-- The cell an RDC or its victim buffer holds for a word. -/
def Die.rdcCell (d : Die) (line w : Nat) : WordCell :=
  if (d.rdc.line? line).isSome then d.rdc.cell line w else d.rdcVictim.cell line w
/-- Puts a cell of an RDC, or of its victim buffer where only that holds the line. -/
def Die.putRdc (d : Die) (line w : Nat) (x : WordCell) : Die :=
  if (d.rdc.line? line).isNone && (d.rdcVictim.line? line).isSome then { d with rdcVictim := d.rdcVictim.put line w x }
  else { d with rdc := d.rdc.put line w x }

/-- The word is owned (R371). -/
def WordCell.owned (c : WordCell) : Bool := c.st == .e || c.st == .m
/-- The word holds a value its home has not (R208), a registered copy that a private store has dirtied among them (R207). -/
def WordCell.dirty (c : WordCell) : Bool := c.st == .m || c.loose
/-- The word may be supplied outside its core: its latest store has settled and is mirrored (R210, R375). -/
def WordCell.suppliable (c : WordCell) : Bool := !c.dirty || (c.unset == 0 && c.mirs == 0)

/-- The bytes `mask` names, taken from `x`, over `v`. -/
def mergeBytes (v x : Word) (mask : BitVec 4) : Word :=
  let m : Word := BitVec.ofNat 32 (((List.range 4).map fun i => if mask.getLsbD i then 255 * 256 ^ i else 0).sum)
  (v &&& ~~~m) ||| (x &&& m)

/-- The word as its own core's loads see it: its bytes stored early over its value. -/
def WordCell.seen (c : WordCell) : Word := mergeBytes c.val c.pend c.pendMask

/-! ### Memory at a home -/

/-- A physical word is poisoned: by itself, or with all the memory of its die (R377, R402) or package (R380). -/
def State.isPoisoned (s : State) (w : Nat) : Bool :=
  s.poison.contains w || match homeOf (4 * w) with
    | .home d => (match SMap.get? s.lostDies d with
      | some cleared => !cleared.contains w
      | none => false)
    | .pkg p => s.lostPkgs.contains p
    | _ => false

/-- The value of a word at its home's memory, with its poison; a device register's word is the register's (R320). -/
def State.homeWord (s : State) (w : Nat) : Word × Bool :=
  if isDevice (4 * w) then (s.regWord w, false) else (s.mem.word (4 * w), s.isPoisoned w)

/-- A write of physical words performed drops the translations read from them (R325, R326). -/
def Core.shoot (words : List Nat) (k : Core) : Core :=
  let stale := fun (e : TlbEntry) => e.tags.any fun a => words.contains (a / 4) || words.contains (a / 4 + 1)
  if k.tlb.any stale || k.lastPage.any (fun e => stale e.2) then { k with tlb := k.tlb.filter fun e => !stale e, lastPage := [] } else k
/-- The same on every core. -/
def State.shoot (s : State) (words : List Nat) : State :=
  { s with cores := s.cores.map fun (ck : Nat × Core) => (ck.1, Core.shoot words ck.2) }

/-- Marks or unmarks a physical word as poisoned. -/
def State.markPoison (s : State) (w : Nat) (p : Bool) : State :=
  if p then (if s.isPoisoned w then s else { s with poison := w :: s.poison })
  else
    let s := { s with poison := s.poison.filter fun x => x != w }
    if !s.isPoisoned w then s
    else match homeOf (4 * w) with
      | .home d => { s with lostDies := SMap.put s.lostDies d (w :: SMap.getD s.lostDies d []) }
      | _ => s

/-- A line of an I/O die with a word written there. -/
def IoLine.write (l : IoLine) (w : Nat) : IoLine := { l with st := .m, dirty := l.dirty ||| bitOf w }

/-- A word of a host line written at the I/O die of its port, which holds it from then on (R381); one of another package's line marks the
line where I/O die 0 holds it. -/
def State.holdHost (s : State) (w : Nat) : State :=
  match homeOf (4 * w) with
  | .ioHome i => { s with ios := s.ios.modify i fun io =>
      { io with lines := SMap.put io.lines (w / 32) ((SMap.getD io.lines (w / 32) {}).write (w % 32)) } }
  | .pkg _ => { s with ios := s.ios.modify 0 fun io => match SMap.get? io.lines (w / 32) with
      | some l => { io with lines := SMap.put io.lines (w / 32) (l.write (w % 32)) }
      | none => io }
  | _ => s

/-- A line's home L2 holds the line from an access to its memory on, the least recently used leaving it (R199, DESIGN CHOICE, log 13). -/
def State.useL2 (s : State) (line : Nat) : State :=
  match homeOf (line * 128) with
  | .home d => s.mapDie d fun k => { k with l2 := (line :: k.l2.filter fun l => l != line).take Config.l2Lines }
  | _ => s

/-- Writes a word at its home with its poison. Nothing reaches a dead home (R376); a device register takes the word as a write
(R320). -/
def State.setHomeWord (s : State) (w : Nat) (x : Word) (p : Bool) : State :=
  if isDevice (4 * w) then s.deviceWrite .other ((List.range 4).map fun i => (4 * w + i, BitVec.ofNat 8 (x.toNat / 256 ^ i)))
  else if s.isDead (homeOf (4 * w)) then s
  else (((({ s with mem := s.mem.setWord (4 * w) x }).markPoison w p).shoot [w]).holdHost w).useL2 (w / 32)

/-- The value a directory node itself holds of a word: memory, or the RDC's copy. -/
def State.baseWord (s : State) (n : Node) (line w : Nat) : Word × Bool :=
  match n with
  | .rdc d => let c := (s.die d).rdcCell line w; (c.val, c.poison)
  | _ => s.homeWord (line * 32 + w)

/-- A directory node takes a dirty word: into memory, into the I/O die's line, or into the RDC as M. -/
def State.setBase (s : State) (n : Node) (line w : Nat) (x : Word) (p : Bool) : State :=
  match n with
  | .rdc d => s.mapDie d fun k => k.putRdc line w { k.rdcCell line w with st := .m, val := x, poison := p, tracked := true }
  | .ioHome i =>
    let s := s.setHomeWord (line * 32 + w) x p
    if isDevice (line * 128) then s
    else { s with ios := s.ios.modify i fun io => { io with lines := SMap.put io.lines line ((SMap.getD io.lines line {}).write w) } }
  | _ => s.setHomeWord (line * 32 + w) x p

/-- Reservations of the application cores on words of a line go, of one I/O die or of all (R227). -/
def State.breakLr (s : State) (io : Option Nat) (line : Nat) (ws : Mask) : State :=
  if s.appLr.isEmpty then s
  else { s with appLr := s.appLr.filter fun x => !((io.map fun i => x.1 / 4 == i).getD true
    && (wordsOf ws).any fun w => decide (4 * (line * 32 + w) < x.2.1 + x.2.2) && decide (x.2.1 < 4 * (line * 32 + w) + 4)) }

/-! ### Messages -/

/-- The message is a request of R369. -/
def MsgKind.isRequest : MsgKind → Bool
  | .rds => true | .rdOwn => true | .ownNd => true | .upg => true | .atomReq => true | .wbReq => true
  | _ => false

/-- What a request to a dead home is answered with: its lines are poisoned (R377 step 5). -/
def deadAnswer (w : Wire) : List Wire :=
  let back := { w.msg with src := w.msg.dst, dst := w.msg.src }
  match w.kind with
  | .atomReq => [{ kind := .cmp, msg := { back with poison := w.msg.mask, args := [] } }]
  | .wbReq => [{ kind := .wbGnt, msg := { back with mask := 0 } }]
  | .mir => [{ kind := .mirAck, msg := { back with data := [] } }]
  | k => if k.isRequest then
      [{ kind := .gnt, msg := { back with excl := w.msg.mask, poison := w.msg.mask, data := (wordsOf w.msg.mask).map fun i => (i, 0) } }]
    else []

/-- The key of a line's traffic with a package. -/
def farKey (line pkg : Nat) : Nat := line * 1024 + pkg

/-- A message leaves for another package by a Varard port (R380): on a path, and a write with its number among those of its line
(R374). -/
def State.emitFar (s : State) (p : Nat) (w : Wire) : State :=
  let m := { w.msg with path := if w.kind == .mark then w.msg.path else pathOf w.msg.line }
  if w.kind == .wbData then
    let n := SMap.getD s.wroteFar (farKey m.line p) 0 + 1
    { s with wroteFar := SMap.put s.wroteFar (farKey m.line p) n }.emit (.varard { w with msg := { m with seq := n } })
  else s.emit (.varard { w with msg := m })

/-- A message for another package may leave: the package has a number (R404), and a route leads to a Varard port that is up (R379). -/
def State.mayLeave (s : State) (m : Msg) : Bool := s.mgmt.fabricNum != 0 && (s.routeOf m).isSome

/-- Sends a message: to another package through a Varard port, where it waits while it may not leave (R380, R404); nothing
goes to a dead die or a lost package (R376). -/
def State.send (s : State) (k : MsgKind) (m : Msg) : State :=
  if s.isDead m.dst then { s with wires := s.wires ++ deadAnswer { kind := k, msg := m } }
  else match m.dst with
    | .pkg p => if s.mayLeave m then s.emitFar p { kind := k, msg := m } else { s with wires := s.wires ++ [{ kind := k, msg := m }] }
    | _ => { s with wires := s.wires ++ [{ kind := k, msg := m }] }

/-- Messages for other packages that wait here leave, where they may (R404). -/
def State.sendFar (s : State) : State :=
  s.wires.foldl (fun s w => match w.msg.dst with
    | .pkg p => if s.mayLeave w.msg then { s with wires := s.wires.erase w }.emitFar p w else s
    | _ => s) s

/-- A directory sends a message to a unit; it never has two of one line in flight to one unit (R370). -/
def State.sendUnit (s : State) (k : MsgKind) (m : Msg) : State :=
  if s.wires.any (fun w => sameRoute w.msg m) || (s.hub m.src).outq.any (fun w => sameRoute w.msg m) then
    s.mapHub m.src fun h => { h with outq := h.outq ++ [{ kind := k, msg := m }] }
  else s.send k m

/-- A holder's answer to a snoop (R369, R370): its data goes to the directory, or to the requester that the snoop names, without its dirty
marks where the holder stays the owner. -/
def State.answerWith (s : State) (snoop reply : Msg) (stays : Bool) : State :=
  let m := { reply with dst := snoop.src, asked := snoop.mask, tag := snoop.tag }
  if m.data.isEmpty then s.send .snpAck m
  else match snoop.reader with
    | none => s.send .snpData m
    | some r => (s.send .snpData { m with dst := r, reader := some r, dirty := if stays then 0 else m.dirty }).send .snpAck
        { m with data := [], excl := maskOfWords (m.data.map (·.1)) }

/-- The line a transaction or a message concerns is `line`. -/
def Txn.on (x : Txn) (line : Nat) : Bool := x.msg.line == line
def Wire.on (x : Wire) (line : Nat) : Bool := x.msg.line == line
/-- Something of a hub concerns the line. -/
def Hub.busy (h : Hub) (line : Nat) : Bool := h.txns.any (·.on line) || h.waitq.any (·.on line) || h.outq.any (·.on line)

/-- Some transaction or message of the line is in progress. -/
def State.lineBusy (s : State) (line : Nat) : Bool :=
  s.wires.any (·.on line) || s.dies.any (fun d => d.home.busy line || d.rdcHub.busy line || d.writing.any fun x => x.1 == line)
    || s.ios.any (fun i => i.hub.busy line) || s.cores.any (fun c => c.2.heldSnoops.any (·.on line))

/-- A request of this source for this word of a line is under way. -/
def State.asked (s : State) (src : Node) (line w : Nat) (own : Bool) : Bool :=
  let hit := fun (k : MsgKind) (m : Msg) => m.src == src && m.line == line && m.mask.getLsbD w &&
    (match k with | .rds => !own | .rdOwn => true | .ownNd => true | .upg => true | _ => false)
  let hub := fun (h : Hub) => h.waitq.any (fun x => hit x.kind x.msg)
    || h.outq.any (fun x => x.kind == .gnt && x.msg.dst == src && x.on line && x.msg.mask.getLsbD w) || h.txns.any fun t => t.msg.src == src && t.on line
    && t.msg.mask.getLsbD w && (match t.req with | .rds => !own | .rdOwn => true | .ownNd => true | .upg => true | _ => false)
  s.wires.any (fun x => hit x.kind x.msg || (x.kind == .gnt && x.msg.dst == src && x.on line && x.msg.mask.getLsbD w))
    || s.dies.any (fun d => hub d.home || hub d.rdcHub) || s.ios.any (fun i => hub i.hub)

/-- The I/O die gives a host line back when no unit of the package holds a word of it: with its dirty words, or clean
(R381); a line of another package, held for an atomic (R214), goes back to that package. -/
def State.releaseHostLine (s : State) (i line : Nat) : State :=
  let io := s.ios.getD i {}
  match SMap.get? io.lines line with
  | none => s
  | some l =>
    if (io.hub.entry line).nodes.isEmpty && !io.hub.busy line && l.st != .i && !l.kept then
      let data := (wordsOf l.dirty).map fun w => (w, (s.homeWord (line * 32 + w)).1)
      let q : D2H := if data.isEmpty then .cleanEvictNoData else .dirtyEvict
      let away := homeOf (line * 128) != .ioHome i
      let m : Msg := { src := .ioHome i, dst := homeOf (line * 128), line := line, mask := 0 }
      let s := { s with ios := s.ios.modify i fun io =>
        { io with
          lines := SMap.del io.lines line
          d2h := if away then io.d2h else io.d2h ++ [(line, q)] } }
      if away then
        let s := if l.dirty == 0 then s else s.send .wbData { m with mask := l.dirty, dirty := l.dirty, data := data }
        if ~~~l.dirty == 0 then s else s.send .cleanEv { m with mask := ~~~l.dirty }
      else s.emit (.d2h i line q data)
    else s

end Sys2Proof.Machine
end

