-- ==== Sys2Proof/Machine/Xlate.lean ====
section
/-! DEFINITION. Where an address leads: canonical addresses (R20), leases (R328, R329), physical regions and homes (R320,
R200), the page walk and the translations a core keeps (R321 to R326), held ranges (R246, R268), and the checks of one
access in the order R119 gives them. -/
namespace Sys2Proof.Machine
open Sys2Proof

/-- Bits [63:56] all equal bit [55] (R20). -/
def canonical (x : DWord) : Bool := (x.setWidth 56).signExtend 64 == x
/-- The virtual address of a canonical value (R20). -/
def vaddr (x : DWord) : VAddr := x.setWidth 56

/-- What an access needs of a range or a page: `ro`, `rw` or `rx` (R329). -/
inductive Need | load | store | fetch
deriving DecidableEq, Repr

/-- A lease kind permits a need (R329). -/
def kindPermits (kind : Nat) : Need → Bool
  | .load => decide (kind < 3)
  | .store => decide (kind = 1)
  | .fetch => decide (kind = 2)

/-- Page permissions [2] x, [1] w, [0] r hold what an access needs (R322, R323). -/
def permits (perm : BitVec 3) : Need → Bool
  | .load => perm.getLsbD 0
  | .store => perm.getLsbD 1
  | .fetch => perm.getLsbD 2

/-- The furthest end of a range that covers byte `a`. -/
def coverEnd (rs : List (Nat × Nat × Nat)) (need : Need) (a : Nat) : Option Nat :=
  rs.foldl (fun best r =>
    if decide (r.1 ≤ a) && decide (a < r.1 + r.2.1) && kindPermits r.2.2 need then some (max (best.getD 0) (r.1 + r.2.1))
    else best) none

/-- Bytes `a` to `stop - 1` each lie in a range of a permitting kind; at most `fuel` ranges are chained. -/
def covered (rs : List (Nat × Nat × Nat)) (need : Need) : Nat → Nat → Nat → Bool
  | 0, a, stop => decide (stop ≤ a)
  | fuel + 1, a, stop =>
    if stop ≤ a then true
    else match coverEnd rs need a with
      | some e => covered rs need fuel e stop
      | none => false

/-- `LeaseCovers` (R329). -/
def leaseCovers (rs : List (Nat × Nat × Nat)) (a n : Nat) (need : Need) : Bool :=
  decide (a + n ≤ 2 ^ 56) && covered rs need (rs.length + 1) a (a + n)

/-- The lease of a team's launch; a spawned child uses its parent's (R329). -/
def State.leases (s : State) (t : Team) : List (Nat × Nat × Nat) := ((s.launchOf t).map (·.leases)).getD []

/-- The address lies in no reserved part of the map (R320). -/
def physicalOk (fabric : BitVec 10) (pa : Nat) : Bool :=
  match regionOf pa with
  | 0 => decide (pa / 2 ^ 41 = 0) && decide (pa / 2 ^ 36 < Config.numDies)
  | 1 => true | 2 => true | 3 => true | 4 => true | 7 => true
  | 5 => false | 6 => false
  | _ => decide (pa / 2 ^ 41 % 1024 ≠ fabric.toNat)

/-- The address is one of memory or of a register that is there: memory homed on a die whose self-test failed is absent, as a reserved
part of the map is (R320, R394, DEDUCED, log 70). -/
def State.physical (s : State) (pa : Nat) : Bool :=
  physicalOk s.mgmt.fabricNum pa && !(regionOf pa == 0 && (s.die (pa / 2 ^ 36)).selfFailed)

/-- The owner a home registers for a word, if any. -/
def State.ownerOf (s : State) (line w : Nat) : Option Node := ((s.hub (homeOf (line * 128))).entry line).ownerOf w

/-- The word an L1 may supply to an access of core `me`: its own core sees it at once, another only settled (R210). -/
def Core.supplies (k : Core) (own : Bool) (line w : Nat) : Option (Word × Bool) :=
  let c := k.cell line w
  if own || c.suppliable then some (c.val, c.poison) else none

/-- A line of a host or of another package is in the package for a party without an L1: its I/O die holds it, that of the port, or
I/O die 0 for another package, of whose line no RDC holds a copy (R381, DESIGN CHOICE, log 7). Other lines always are. -/
def State.inReach (s : State) (line : Nat) : Bool :=
  let held := fun (i : Nat) => (SMap.getD (s.ios.getD i {}).lines line {}).st != .i
  if isDevice (line * 128) then true
  else match homeOf (line * 128) with
    | .ioHome i => held i
    | .pkg p => s.lostPkgs.contains p || (held 0 && s.dies.all fun d => (d.rdc.line? line).isNone && (d.rdcVictim.line? line).isNone)
    | _ => true

/-- The newest value of coherent word `w` (physical address / 4) as an access of core `me` sees it, where nothing about
its line is in flight; none where it must wait (R210, R224). -/
def State.latest (s : State) (me : Option Nat) (w : Nat) : Option (Word × Bool) :=
  let line := w / 32
  let i := w % 32
  if s.lineBusy line || !s.inReach line then none
  else match s.ownerOf line i with
    | none => some (s.homeWord w)
    | some (.l1 c) => (s.core c).supplies (me == some c) line i
    | some (.rdc d) =>
      match ((s.die d).rdcHub.entry line).ownerOf i with
      | some (.l1 c) => (s.core c).supplies (me == some c) line i
      | _ => let c := (s.die d).rdcCell line i; some (c.val, c.poison)
    | some (.app _) => some (s.homeWord w)
    | some _ => none

/-- The word as an access of core `me` sees it: its own unowned stores lie over the coherent value (R121). -/
def State.view (s : State) (me : Option Nat) (w : Nat) : Option (Word × Bool) :=
  match s.latest me w with
  | none => none
  | some (v, p) =>
    match me with
    | none => some (v, p)
    | some c =>
      let x := (s.core c).cell (w / 32) (w % 32)
      some (mergeBytes v x.pend x.pendMask, p && decide (x.pendMask ≠ 15))

/-- A doubleword of a page table with its poison, by a coherent read at device scope (R323). -/
def State.tableEntry (s : State) (pa : Nat) : Option (DWord × Bool) :=
  match s.view none (pa / 4), s.view none (pa / 4 + 1) with
  | some (lo, p), some (hi, q) => some (joinWords lo hi, p || q)
  | _, _ => none

/-- What a walk answers. -/
inductive Walk
  | found (e : TlbEntry)
  | invalid
  /-- a table word that the walk consumed is poisoned (R356, R384) -/
  | poisoned
  | wait
deriving DecidableEq, Repr

/-- Bytes of a table at a level (R321). -/
def tableBytes : Nat → Nat
  | 0 => 2 ^ 20 | 1 => 4096 | 2 => 4096 | _ => 256

/-- What a page-table entry says (R322, R323). -/
inductive EntryKind
  | invalid
  /-- the page's address, attribute and permissions -/
  | leaf (pa attr : Nat) (perm : BitVec 3)
  | table (t : Nat)
deriving DecidableEq, Repr

/-- An entry of level `l`, whose leaf covers `2 ^ lo` bytes (R322, R323); `ok` says which addresses are not reserved. -/
def entryKind (ok : Nat → Bool) (l lo e : Nat) : EntryKind :=
  if nbits e 0 0 = 0 ∨ nbits e 63 52 ≠ 0 ∨ nbits e 7 7 = 1 then .invalid
  else if nbits e 1 1 = 1 then
    if l = 0 ∨ nbits e 6 5 = 3 ∨ nbits e (lo - 1) 8 ≠ 0 ∨ !ok (nbits e 51 8 * 256) then .invalid
    else .leaf (nbits e 51 lo * 2 ^ lo) (nbits e 6 5) (BitVec.ofNat 3 (nbits e 4 2))
  else if l = 3 ∨ nbits e 6 2 ≠ 0 ∨ nbits e 51 8 * 256 % tableBytes (l + 1) ≠ 0 ∨ regionOf (nbits e 51 8 * 256) ≠ 0 then .invalid
  else .table (nbits e 51 8 * 256)

/-- The levels of a walk, each with the address bits that index its table (R321). -/
def walkLevels : List (Nat × Nat × Nat) := [(0, 39, 55), (1, 30, 38), (2, 21, 29), (3, 16, 20)]

/-- One level of the walk: level `l` of R323 with table `t`, the entries read so far being `tags`. -/
def State.walkFrom (s : State) (asid va : Nat) : List (Nat × Nat × Nat) → Nat → List Nat → Walk
  | [], _, _ => .invalid
  | (l, lo, hi) :: rest, t, tags =>
    let a := t + 8 * nbits va hi lo
    match s.tableEntry a with
    | none => .wait
    | some (_, true) => .poisoned
    | some (e, false) => match entryKind s.physical l lo e.toNat with
      | .invalid => .invalid
      | .leaf pa attr perm => .found { asid := asid, va := va / 2 ^ lo * 2 ^ lo, size := 2 ^ lo, pa := pa, attr := attr, perm := perm, tags := a :: tags }
      | .table u => State.walkFrom s asid va rest u (a :: tags)

/-- The root table of an address space (R324). -/
def Port.rootTable (p : Port) : Nat := nbits p.root.toNat 51 20 * 2 ^ 20

/-- The page walk (R323). -/
def State.walk (s : State) (asid : Nat) (va : VAddr) : Walk :=
  s.walkFrom asid va.toNat walkLevels (s.port asid).rootTable []

/-- The entries of a table of `n` bytes that can be valid: those that some byte of memory or some cached word lies in. -/
def State.tableSlots (s : State) (t n : Nat) : List Nat :=
  let words := fun (c : Cache) => c.flatMap fun (l : Nat × Line) => l.2.ws.map fun x => 4 * (l.1 * 32 + x.1)
  let cached := (s.cores.flatMap fun c => words c.2.l1 ++ words c.2.victim) ++ s.dies.flatMap fun d => words d.rdc ++ words d.rdcVictim
  (((s.mem.map (·.1) ++ cached).filter fun a => decide (t ≤ a) && decide (a < t + n)).map fun a => (a - t) / 8).eraseDups

/-- The pages that the tables from `t` on map, by base and size; none where a table word is in flight. -/
def State.leavesFrom (s : State) : List (Nat × Nat × Nat) → Nat → Option (List (Nat × Nat))
  | [], _ => some []
  | (l, lo, hi) :: rest, t =>
    ((s.tableSlots t (8 * 2 ^ (hi + 1 - lo))).mapM fun i => match s.tableEntry (t + 8 * i) with
      | none => none
      | some (_, true) => some []
      | some (e, false) => match entryKind s.physical l lo e.toNat with
        | .invalid => some []
        | .leaf pa _ _ => some [(pa, 2 ^ lo)]
        | .table u => State.leavesFrom s rest u).map List.flatten

/-- The pages of an address space. -/
def State.pagesOf (s : State) (asid : Nat) : Option (List (Nat × Nat)) := s.leavesFrom walkLevels (s.port asid).rootTable

/-- A translation covers an address of its address space. -/
def TlbEntry.covers (e : TlbEntry) (asid va : Nat) : Bool :=
  e.asid == asid && decide (e.va ≤ va) && decide (va < e.va + e.size)
/-- The physical address. -/
def TlbEntry.phys (e : TlbEntry) (va : Nat) : Nat := e.pa + (va - e.va)

/-- A translation by the core's TLB or, on a miss, a walk (R325). -/
def State.tlbWalk (s : State) (core asid : Nat) (va : VAddr) : Walk :=
  match (s.core core).tlb.find? fun e => e.covers asid va.toNat with
  | some e => .found e
  | none => s.walk asid va

/-- A translation for an access from a lane: its last-page register first (R326). -/
def State.translate (s : State) (core : Nat) (lane : Option Nat) (asid : Nat) (va : VAddr) : Walk :=
  match lane with
  | none => s.tlbWalk core asid va
  | some l =>
    match SMap.get? (s.core core).lastPage l with
    | some e => if e.covers asid va.toNat then .found e else s.tlbWalk core asid va
    | none => s.tlbWalk core asid va

/-- A translation used by an access: it stands in the TLB and in the lane's last-page register (R325, R326, DESIGN CHOICE, log 13). -/
def State.keep (s : State) (core : Nat) (lane : Option Nat) (e : TlbEntry) : State :=
  let k := s.core core
  let tlb := if k.tlb.contains e then k.tlb else (e :: k.tlb).take Config.tlbEntries
  let lp := match lane with
    | some l => SMap.put k.lastPage l e
    | none => k.lastPage
  s.setCore core { k with tlb := tlb, lastPage := lp }

/-- Two byte ranges overlap. -/
def overlaps (a b lo hi : Nat) : Bool := decide (a < hi) && decide (lo < b)

/-- A held range that a thread's access may not touch (R246). -/
def Lock.bars (l : Lock) (scratch : Bool) (space a n : Nat) (store : Bool) : Bool :=
  l.scratch == scratch && l.space == space &&
    (if store then overlaps a (a + n) l.lo l.hi else l.dest && overlaps a (a + n) (l.lo + l.done) l.hi)

/-- `RangeLocked` (R119, R123, R215, R246). -/
def State.rangeLocked (s : State) (core : Nat) (scratch : Bool) (space a n : Nat) (store : Bool) : Bool :=
  (s.core core).locks.any fun l => l.bars scratch space a n store

/-- What the checks of an access say. -/
inductive Access
  /-- the physical address and the page's attribute -/
  | ok (pa attr : Nat) (e : TlbEntry)
  | trap (i : TrapInfo)
  /-- a lease violation with its sub-code (R330) -/
  | violation (sub : Nat) (addr : VAddr)
  /-- a table word is in flight -/
  | wait
deriving DecidableEq, Repr

/-- The checks of a global access of a thread or group, in the order of R119 and R215: alignment, canonical form and
lease, page, read-shared page for a store, held range. -/
def State.checkAccess (s : State) (t : Team) (lane : Option Nat) (ea : DWord) (n : Nat) (store : Bool) : Access :=
  let va := vaddr ea
  let need : Need := if store then .store else .load
  if va.toNat % n ≠ 0 then .trap { code := 0x03, tval := va }
  else if !canonical ea then .violation 1 va
  else if !leaseCovers (s.leases t) va.toNat n need then .violation 0 va
  else match s.translate t.core lane t.asid va with
    | .wait => .wait
    | .invalid => .violation 2 va
    | .poisoned => .violation tablePoison va
    | .found e =>
      if !permits e.perm need then .violation 3 va
      else if store && e.attr == 1 then .trap { code := 0x05, tval := va }
      else if s.rangeLocked t.core false t.asid va.toNat n store then .trap { code := 0x07, tval := va }
      else .ok (e.phys va.toNat) e.attr e

/-- A fetch address is leased and its page executable (R22, R27): the physical address, or the violation's sub-code. -/
def State.checkFetch (s : State) (t : Team) (pc : VAddr) : Access :=
  if !leaseCovers (s.leases t) pc.toNat 4 .fetch then .violation 0 pc
  else match s.translate t.core none t.asid pc with
    | .wait => .wait
    | .invalid => .violation 2 pc
    | .poisoned => .violation tablePoison pc
    | .found e => if permits e.perm .fetch then .ok (e.phys pc.toNat) e.attr e else .violation 3 pc

/-- The instruction cache's copy of a code word, and its poison (R199, R27, R356); none where the line is not there. -/
def State.cachedCode (s : State) (core pa : Nat) : Option (Word × Bool) :=
  ((s.core core).icache.find? fun l => l.1 == pa / 128).map fun l => l.2.getD (pa / 4 % 32) (0, false)

/-- A code word, from the instruction cache or by a coherent read; none where it is in flight. -/
def State.codeWord (s : State) (core pa : Nat) : Option (Word × Bool) :=
  match s.cachedCode core pa with
  | some x => some x
  | none => s.view none (pa / 4)

/-- The line of a code word, as a miss fills it by a coherent read; none where a word of it is in flight. -/
def State.codeLine (s : State) (pa : Nat) : Option (List (Word × Bool)) :=
  (List.range 32).mapM fun i => s.view none (pa / 128 * 32 + i)

/-- Lines an instruction cache of 128 KiB holds (R199). -/
def icacheLines : Nat := 1024

/-- The instruction cache with the line of a code word (DESIGN CHOICE, log 13); none where it must wait. -/
def State.fillCode (s : State) (core pa : Nat) : Option State :=
  let k := s.core core
  if k.icache.any fun l => l.1 == pa / 128 then some s
  else (s.codeLine pa).map fun ws => s.setCore core { k with icache := ((pa / 128, ws) :: k.icache).take icacheLines }

end Sys2Proof.Machine
end

