-- ==== Sys2Proof/Machine/L1.lean ====
section
/-! DEFINITION. The L1 of a core: what a grant and a snoop do to its words (R371), stores settling and being performed
(R210, R373), mirroring (R375), eviction and write-back (R372), and loads that wait for a grant. -/
namespace Sys2Proof.Machine
open Sys2Proof

/-- Applies `f` to a word's cell, and to the earlier contents its unsettled stores would be undone to (R350). -/
def Core.mapWord (k : Core) (line w : Nat) (f : WordCell → WordCell) : Core :=
  let k := { k with buffer := k.buffer.map fun e =>
    match e.eff with
    | .l1 l undo => if l = line then { e with eff := .l1 l (undo.map fun u => if u.1 = w then (w, f u.2) else u) } else e
    | _ => e }
  if (k.l1.line? line).isSome || (k.victim.line? line).isSome then k.putCell line w (f (k.cell line w)) else k

/-- Applies `f` to several words of a line. -/
def Core.mapWords (k : Core) (line : Nat) (f : Nat → WordCell → WordCell) : List Nat → Core
  | [] => k
  | w :: r => Core.mapWords (k.mapWord line w (f w)) line f r

/-- A granted word (R370, R371): bytes stored early are merged into the granted data; a word already owned keeps its
value, and an exclusive grant ends its sharing. A copy that private stores have dirtied keeps what they stored (R207). -/
def WordCell.grant (excl dirty poison : Bool) (d : Word) (c : WordCell) : WordCell :=
  let v := if c.dirty then c.val else d
  let poison := if c.dirty then c.poison else poison
  if c.tracked && c.owned then
    if excl then
      { c with val := c.seen, pend := 0, pendMask := 0, st := if c.pendMask = 0 then c.st else .m, shr := false,
               poison := c.poison && c.pendMask != 15 }
    else c
  else if excl then
    { c with val := mergeBytes v c.pend c.pendMask, pend := 0, pendMask := 0, st := if dirty || c.dirty || c.pendMask != 0 then .m else .e,
             tracked := true, shr := false, loose := false, poison := poison && c.pendMask != 15 }
  else { c with val := v, st := .s, tracked := true, loose := c.dirty, poison := poison }

/-- A word after a snoop of the kind (R371): an owned word asked for by SnpFwd is shared from then on. -/
def WordCell.snooped (k : MsgKind) (c : WordCell) : WordCell :=
  if !c.tracked then c
  else match k, c.st with
    | .snpFwd, .m => { c with shr := true }
    | .snpFwd, .e => { c with st := .s }
    | .snpFwd, _ => c
    | .snpInv, .s => { c with st := .i, val := 0, poison := false, loose := false }
    | .snpInv, _ => c
    | _, _ => { c with st := .i, val := 0, poison := false, shr := false, loose := false }

/-- The words of a mask that an L1 holds from coherent pages. -/
def Core.heldWords (k : Core) (line : Nat) (m : Mask) : List Nat :=
  (wordsOf m).filter fun w => (k.cell line w).tracked && (k.cell line w).st != .i

/-- A snoop must wait for a dirty word whose latest store has not settled or is not mirrored (R210, R375). -/
def Core.snoopWaits (k : Core) (m : Msg) : Bool := (k.heldWords m.line m.mask).any fun w => !(k.cell m.line w).suppliable

/-- Answers a snoop (R371): the owned words with their values and dirty marks, and the values of copies that private stores have dirtied
(R207). -/
def State.answerSnoop (s : State) (core : Nat) (kind : MsgKind) (m : Msg) : State :=
  let k := s.core core
  let held := k.heldWords m.line m.mask
  let given := held.filter fun w => (k.cell m.line w).loose || (kind != .snpInv && (k.cell m.line w).owned)
  let reply : Msg := { src := .l1 core, dst := m.src, line := m.line, mask := maskOfWords held,
                       data := given.map fun w => (w, (k.cell m.line w).val),
                       dirty := maskOfWords (given.filter fun w => (k.cell m.line w).dirty),
                       poison := maskOfWords (given.filter fun w => (k.cell m.line w).poison) }
  (s.setCore core (k.mapWords m.line (fun _ => WordCell.snooped kind) held)).answerWith m reply (kind == .snpFwd)

/-- Answers the held snoops of a core that need wait no longer. -/
def State.releaseSnoops (s : State) (core : Nat) : State :=
  let held := (s.core core).heldSnoops
  let s := s.mapCore core fun k => { k with heldSnoops := [] }
  held.foldl (fun s w =>
    if (s.core core).snoopWaits w.msg then s.mapCore core fun k => { k with heldSnoops := k.heldSnoops ++ [w] }
    else s.answerSnoop core w.kind w.msg) s

/-! ### Loads -/

/-- The bytes of word `w` that an access of `n` bytes at `pa` needs. -/
def neededBytes (pa n w : Nat) : BitVec 4 :=
  BitVec.ofNat 4 (((List.range 4).map fun i => if pa ≤ 4 * w + i ∧ 4 * w + i < pa + n then 2 ^ i else 0).sum)

/-- The words an access of `n` bytes at `pa` covers. -/
def accessWords (pa n : Nat) : List Nat := (List.range ((n + 3) / 4)).map fun i => pa / 4 + i

/-- The cell answers a load of the bytes: valid, or the bytes all stored early. -/
def WordCell.readable (c : WordCell) (need : BitVec 4) : Bool := c.st != .i || (need &&& ~~~c.pendMask) == 0

/-- A load by the core of bytes its L1 holds: the words as it sees them, and whether one is poisoned. -/
def Core.readL1 (k : Core) (pa n : Nat) : Option (List Word × Bool) :=
  let ws := accessWords pa n
  let c := fun w => k.cell (w / 32) (w % 32)
  if ws.all fun w => (c w).readable (neededBytes pa n w) then
    some (ws.map fun w => (c w).seen, ws.any fun w => (c w).poison && (neededBytes pa n w &&& ~~~(c w).pendMask) != 0)
  else none

/-- The virtual address of the first poisoned word that a load of `n` bytes at `pa` consumes (R357). -/
def Core.badWord (k : Core) (pa n : Nat) (va : VAddr) : VAddr :=
  let c := fun w => k.cell (w / 32) (w % 32)
  match (accessWords pa n).find? fun w => (c w).poison && (neededBytes pa n w &&& ~~~(c w).pendMask) != 0 with
  | some w => BitVec.ofNat 56 (va.toNat / 4 * 4 + 4 * (w - pa / 4))
  | none => va

/-- What a load writes, from the words its bytes lie in (R118). -/
def loadValue (pa n : Nat) (signed : Bool) (ws : List Word) : List Word :=
  if 4 ≤ n then ws
  else
    let x := (ws.headD 0).toNat / 256 ^ (pa % 4) % 256 ^ n
    [if signed && decide (256 ^ n / 2 ≤ x) then BitVec.ofInt 32 ((x : Int) - 256 ^ n) else BitVec.ofNat 32 x]

/-- An outstanding load takes its value where the L1 has it. -/
def OutRes.capture (k : Core) (o : OutRes) : OutRes :=
  match o.kind with
  | .load pa n signed va =>
    match k.readL1 pa n with
    | some (ws, false) => { o with kind := .ready (loadValue pa n signed ws) }
    | some (_, true) => { o with kind := .poisoned (k.badWord pa n va) }
    | none => o
  | _ => o

/-- Outstanding results of a group changed. -/
def Group.mapOut (g : Group) (f : OutRes → OutRes) : Group :=
  { g with threads := g.threads.map fun t => { t with out := t.out.map f }, kout := g.kout.map f }

/-- Every outstanding load of the core's threads that a grant has served takes its value (R119). -/
def State.captureLoads (s : State) (core : Nat) : State :=
  let k := s.core core
  { s with teams := s.teams.map fun t =>
      if t.core = core then { t with groups := t.groups.map fun g => g.mapOut (OutRes.capture k) } else t }

/-- Words of a line that outstanding loads of the core still need. -/
def State.wantedWords (s : State) (core line : Nat) : List Nat :=
  let want := fun (o : OutRes) => match o.kind with
    | .load pa n _ _ => (accessWords pa n).filter fun w => w / 32 == line
    | _ => []
  ((s.teams.filter fun t => t.core == core).flatMap fun t => t.groups.flatMap fun g =>
    (g.kout ++ g.threads.flatMap (·.out)).flatMap want).map (· % 32)

/-- Asks for words of a line to read (RdS), those under way left out. -/
def State.fetchWords (s : State) (core line : Nat) (ws : List Nat) : State :=
  let need := ws.filter fun w => (s.core core).cell line w |>.st |> (· == .i)
  let need := need.filter fun w => ((s.core core).cell line w).pendMask != 15 && !s.asked (.l1 core) line w false
  if need.isEmpty then s
  else s.send .rds { src := .l1 core, dst := parentOf core line, line := line, mask := maskOfWords need }

/-! ### Stores performed, mirroring -/

/-- Dirty words of the line are mirrored (R375). -/
def State.mirrors (s : State) (core line : Nat) : Bool :=
  homeOf (line * 128) != .home (dieOf core) && s.alive (buddyOf (dieOf core))
/-- The line lies behind a posted path: a CXL host's or another package's (R374). -/
def postedHome (line : Nat) : Option Node :=
  match homeOf (line * 128) with
  | .ioHome i => some (.ioHome i) | .pkg n => some (.pkg n)
  | _ => none

/-- A write of a core is acknowledged (R373). -/
def State.ackWrite (s : State) (core tag : Nat) : State := s.mapCore core fun k => { k with writes := k.writes.erase tag }

/-- Notes the posted path of a line that the core's traffic uses (R374): a CXL port is one, another package has up to 8. -/
def Core.notePath (k : Core) (n : Node) (line : Nat) : Core :=
  let p := (n, match n with
    | .pkg _ => pathOf line
    | _ => 0)
  { k with paths := if k.paths.contains p then k.paths else k.paths ++ [p] }

/-- A settled store whose words are all owned is performed (R201, R373): translations read from it go (R325), it is
mirrored, a posted path is noted, and its Cmp is sent. -/
def State.perform (s : State) (core tag line : Nat) (ws : List Nat) : State :=
  let s := s.shoot (ws.map (line * 32 + ·))
  let s := if s.mirrors core line then
      let k := s.core core
      let k' := k.mapWords line (fun _ c => { c with mirs := c.mirs + 1 }) ws
      (s.setCore core { k' with unmir := k'.unmir ++ [tag] }).send .mir
        { src := .l1 core, dst := .mirror (buddyOf (dieOf core)), line := line, mask := maskOfWords ws, tag := tag,
          data := ws.map fun w => (w, (k.cell line w).val), poison := maskOfWords (ws.filter fun w => (k.cell line w).poison) }
    else s
  match postedHome line with
  | some n => (s.mapCore core fun k => k.notePath n line).ackWrite core tag
  | none => s.sendUnit .cmp { src := parentOf core line, dst := .core core, line := line, mask := maskOfWords ws, tag := tag }

/-- The L1 owns words of a line, none of which waits for a grant. -/
def Core.owns (k : Core) (line : Nat) (ws : List Nat) : Bool :=
  match if (k.l1.line? line).isSome then k.l1.line? line else k.victim.line? line with
  | none => ws.isEmpty
  | some l => ws.all fun w => (SMap.getD l.ws w {}).owned && (SMap.getD l.ws w {}).pendMask == 0

/-- Performs the settled stores of a core whose words have come to be owned. -/
def State.performOwned (s : State) (core : Nat) : State :=
  let k := s.core core
  let (may, rest) := k.unowned.partition fun u => k.owns u.2.1 u.2.2
  may.foldl (fun s u => s.perform core u.1 u.2.1 u.2.2) (s.setCore core { k with unowned := rest })

/-- A store's entry settles (R346): its words answer other cores once no later store of theirs is unsettled (R210). -/
def State.settleStore (s : State) (core tag line : Nat) (ws : List Nat) : State :=
  let k := (s.core core).mapWords line (fun _ c => { c with unset := c.unset - 1 }) ws
  let s := s.setCore core k
  let ws := ws.filter fun w => (k.cell line w).tracked && !(k.cell line w).loose
  if ws.isEmpty then s.ackWrite core tag
  else if (s.core core).owns line ws then s.perform core tag line ws
  else s.mapCore core fun k => { k with unowned := k.unowned ++ [(tag, line, ws)] }

/-! ### Eviction and write-back (R372) -/

/-- A line of an L1 may leave it: nothing about it is unsettled, unmirrored, unowned or under way. -/
def State.evictable (s : State) (core line : Nat) (l : Line) : Bool :=
  l.ws.all (fun wc => wc.2.unset == 0 && wc.2.mirs == 0 && wc.2.pendMask == 0 && !s.asked (.l1 core) line wc.1 true
      && !s.asked (.l1 core) line wc.1 false)
    && !(s.core core).heldSnoops.any (·.on line)
    && (!(l.ws.any fun wc => wc.2.tracked && wc.2.st == .m) || decide ((s.core core).victim.length < Config.l1Victims))
    && (s.wantedWords core line).isEmpty

/-- Words written back to their home past the directory (R206, R219, DESIGN CHOICE, log 6): the unregistered copy that the core's RDC
holds follows, and those of another package's line go to that package. -/
def State.writeHome (s : State) (core line : Nat) (ws : List (Nat × WordCell)) : State :=
  let s := ws.foldl (fun s x => s.setHomeWord (line * 32 + x.1) x.2.val x.2.poison) s
  let s := s.mapDie (dieOf core) fun k => ws.foldl (fun k x =>
    let r := k.rdcCell line x.1
    if r.st = .i ∨ r.tracked then k else k.putRdc line x.1 { r with val := x.2.val, poison := x.2.poison }) k
  match homeOf (line * 128), ws with
  | .pkg p, _ :: _ =>
    let s := s.mapCore core fun k => k.notePath (.pkg p) line
    if (SMap.get? (s.ios.getD 0 {}).lines line).isSome then
      { s with ios := s.ios.modify 0 fun io => { io with lines := SMap.put io.lines line { SMap.getD io.lines line {} with kept := false } } }.releaseHostLine 0 line
    else s.send .wbData { src := .ioHome 0, dst := homeOf (line * 128), line := line, mask := maskOfWords (ws.map (·.1)),
                          dirty := maskOfWords (ws.map (·.1)), data := ws.map fun x => (x.1, x.2.val),
                          poison := maskOfWords ((ws.filter fun x => x.2.poison).map (·.1)) }
  | _, _ => s

/-- Evicts a line: dirty words that no directory registers as owned go to their home, clean coherent words are reported by CleanEv, dirty
ones move to the victim buffer and are asked for by WbReq; the victim tag array notes the line (R187). -/
def State.evict (s : State) (core line : Nat) : State :=
  match (s.core core).l1.line? line with
  | none => s
  | some l =>
    let dirty := l.ws.filter fun wc => wc.2.tracked && wc.2.st == .m
    let clean := l.ws.filter fun wc => wc.2.tracked && (wc.2.st == .e || wc.2.st == .s)
    let s := s.writeHome core line (l.ws.filter fun wc => (!wc.2.tracked && wc.2.st == .m) || wc.2.loose)
    let s := s.mapCore core fun k => { k with
      l1 := k.l1.dropLine line
      victim := if dirty.isEmpty then k.victim else k.victim ++ [(line, { l with ws := dirty })]
      vta := ((line, l.slot) :: k.vta).take Config.victimTags }
    let m : Msg := { src := .l1 core, dst := parentOf core line, line := line, mask := 0 }
    let s := if clean.isEmpty then s else s.send .cleanEv { m with mask := maskOfWords (clean.map (·.1)) }
    if dirty.isEmpty then s else s.send .wbReq { m with mask := maskOfWords (dirty.map (·.1)) }

/-- Makes room for a line in an L1; none where the access must wait. -/
def State.allocLine (s : State) (core line slot : Nat) : Option State :=
  let k := s.core core
  if (k.victim.line? line).isSome then none
  else if (k.l1.line? line).isSome then some (s.setCore core { k with l1 := k.l1.front line })
  else
    let s' := if k.l1.length < Config.l1Lines then some s
      else (k.l1.reverse.find? fun l => s.evictable core l.1 l.2).map fun l => s.evict core l.1
    s'.map fun s => s.mapCore core fun k => { k with l1 := (line, { slot := slot }) :: k.l1 }

/-- A line homed at a CXL host is written back as soon as its stores are performed, so that they reach their home (R374,
R381, DESIGN CHOICE, log 18). -/
def State.flushPosted (s : State) (core : Nat) : State :=
  ((s.core core).l1.filter fun l => (match homeOf (l.1 * 128) with | .ioHome _ => true | _ => false)
      && l.2.ws.any fun wc => wc.2.tracked && wc.2.st == .m).foldl
    (fun s l => if s.evictable core l.1 l.2 then s.evict core l.1 else s) s

/-! ### Write-back that keeps the word (R219) -/

/-- A holder stays with a clean copy while its directory registers no owner any more. -/
def State.demote (s : State) (hub holder : Node) (line w : Nat) : State :=
  if ((s.hub hub).entry line).ownerOf w == some holder then s.mapEntry hub line fun e => (e.disown w).addSharer w holder else s

/-- A word that an L1 owns dirty is written back and stays, shared (R219): to its home on the core's own die, and otherwise into the
die's RDC, which owns it dirty then (R385). -/
def State.lowerWord (s : State) (core line w : Nat) (c : WordCell) : State :=
  let s := s.mapCore core fun k => k.mapWord line w fun c => if c.st = .m then { c with st := .s, shr := false } else c
  match parentOf core line with
  | .rdc d => (s.mapDie d fun k => k.putRdc line w { k.rdcCell line w with st := .m, val := c.val, poison := c.poison, tracked := true }).demote
      (.rdc d) (.l1 core) line w
  | n => (s.setHomeWord (line * 32 + w) c.val c.poison).demote n (.l1 core) line w

/-- What may go on in an L1 after its words changed: loads take values, stores are performed, snoops are answered
and posted write-backs proceed. -/
def State.l1Progress (s : State) (core : Nat) : State :=
  (((s.captureLoads core).performOwned core).releaseSnoops core).flushPosted core

end Sys2Proof.Machine
end

