-- ==== Sys2Proof/Machine/Protocol.lean ====
section
/-! DEFINITION. Directories at work (R366 to R372): which waiting request may start, the snoops it needs, what an RDC asks
of its home and an I/O die of its host, the answers gathered, and what a finished transaction grants, registers and sends. -/
namespace Sys2Proof.Machine
open Sys2Proof

/-- What a waiting message asks of a directory; a recall is a SnpRcl the directory sends itself. -/
def reqOf (n : Node) (w : Wire) : Req :=
  match w.kind with
  | .rds => .rds | .rdOwn => .rdOwn | .ownNd => .ownNd | .upg => .upg | .atomReq => .atomReq | .wbReq => .wb
  | .snpFwd => .snpFwd | .snpOwn => .snpOwn | .snpInv => .snpInv
  | _ => if w.msg.src == n then .recall else .snpRcl

/-- A snoop of an RDC's home. -/
def Req.isSnoop : Req → Bool
  | .snpFwd => true | .snpOwn => true | .snpInv => true | .snpRcl => true
  | .rds => false | .rdOwn => false | .ownNd => false | .upg => false | .atomReq => false | .wb => false | .recall => false

/-- The snoop an owner gets (R370). -/
def Req.ownerSnoop : Req → Option MsgKind
  | .rds => some .snpFwd | .snpFwd => some .snpFwd
  | .rdOwn => some .snpOwn | .ownNd => some .snpOwn | .upg => some .snpOwn | .snpOwn => some .snpOwn
  | .atomReq => some .snpRcl | .recall => some .snpRcl | .snpRcl => some .snpRcl
  | .snpInv => none | .wb => none
/-- Whether sharers are invalidated (R370). -/
def Req.invalidates : Req → Bool
  | .rds => false | .snpFwd => false | .wb => false
  | .rdOwn => true | .ownNd => true | .upg => true | .snpOwn => true | .atomReq => true | .recall => true | .snpRcl => true
  | .snpInv => true

/-- The party an owner's data goes to (R370): the requester of a RdS, a RdOwn or an Upg, and otherwise the directory. -/
def Req.reader (r : Req) (m : Msg) : Option Node :=
  match r with
  | .rds => some m.src | .rdOwn => some m.src | .upg => some m.src
  | .ownNd => none | .atomReq => none | .wb => none | .recall => none
  | .snpFwd => none | .snpOwn => none | .snpInv => none | .snpRcl => none

/-- The packages a line's copies may be in: those registered, or, past four, every one (R380). -/
def externalNodes (own : Nat) (e : DirEntry) : List Node :=
  let pk := e.nodes.filter fun x => match x with | .pkg _ => true | _ => false
  if pk.length ≤ 4 then [] else ((List.range 1024).filter fun p => p != own && !pk.contains (.pkg p)).map Node.pkg

/-- The snoops a transaction needs, by what the directory registers. -/
def State.snoopsFor (s : State) (n : Node) (r : Req) (m : Msg) : List Wire :=
  let e := (s.hub n).entry m.line
  let rcv := fun (x : Node) (k : MsgKind) (ws : List Nat) =>
    Wire.mk k { src := n, dst := x, line := m.line, mask := maskOfWords ws, tag := m.tag, reader := if k == .snpInv then none else r.reader m }
  let one := fun (x : Node) =>
    if x == m.src then []
    else
      let own := (wordsOf m.mask).filter fun w => e.ownerOf w == some x
      let sh := (wordsOf m.mask).filter fun w => e.ownerOf w != some x && (e.sharersOf w).contains x
      (match r.ownerSnoop with
        | some k => if own.isEmpty then [] else [rcv x k own]
        | none => []) ++ (if r.invalidates && !sh.isEmpty then [rcv x .snpInv sh] else [])
  e.nodes.flatMap one ++ (if r.invalidates then (externalNodes s.mgmt.fabricNum.toNat e).map fun x => rcv x .snpInv (wordsOf m.mask) else [])

/-- Sends a snoop; a copy a CXL host holds of package memory is recalled by a back-invalidate snoop (R381). -/
def State.sendSnoop (s : State) (w : Wire) : State :=
  match w.msg.src, w.msg.dst with
  | .home _, .ioHome i => s.emit (.backInvalidate i w.msg.line)
  | _, _ => s.sendUnit w.kind w.msg

/-- A request of an L1 or of another party that wants words. -/
def Req.wants : Req → Bool
  | .rds => true | .rdOwn => true | .ownNd => true | .upg => true | .atomReq => true
  | .wb => false | .recall => false | .snpFwd => false | .snpOwn => false | .snpInv => false | .snpRcl => false

/-- The words of a request that a directory must first be granted itself: an RDC by its home (R366, R371), an I/O die by
its host (R381). -/
def State.needUp (s : State) (n : Node) (r : Req) (m : Msg) : Mask :=
  if !r.wants then 0
  else match n with
    | .rdc d => maskOfWords ((wordsOf m.mask).filter fun w =>
        let c := (s.die d).rdcCell m.line w
        if r == .rds then c.st == .i else !c.owned || c.shr)
    | .ioHome i =>
      let st := (SMap.getD (s.ios.getD i {}).lines m.line {}).st
      if isDevice (m.line * 128) then 0
      else if homeOf (m.line * 128) != n then (if st == .i then m.mask else 0)
      else if r == .rds then (if st == .i then m.mask else 0) else if st == .e || st == .m then 0 else m.mask
    | _ => 0

/-- Asks the next level for the words of `up`. -/
def State.sendUp (s : State) (n : Node) (r : Req) (line : Nat) (up : Mask) : State :=
  match n with
  | .rdc d =>
    let m : Msg := { src := n, dst := homeOf (line * 128), line := line, mask := up }
    if r == .rds then s.send .rds m
    else
      let held := (wordsOf up).filter fun w => ((s.die d).rdcCell line w).st != .i
      let absent := (wordsOf up).filter fun w => ((s.die d).rdcCell line w).st == .i
      let s := if held.isEmpty then s else s.send .upg { m with mask := maskOfWords held }
      if absent.isEmpty then s
      else s.send (if r == .ownNd then .ownNd else .rdOwn) { m with mask := maskOfWords absent }
  | .ioHome i =>
    if homeOf (line * 128) != n then
      s.send .rdOwn { src := n, dst := homeOf (line * 128), line := line, mask := up }
    else
    let q : D2H := if r == .rds then .rdShared else if r == .ownNd then .rdOwnNoData else .rdOwn
    ({ s with ios := s.ios.modify i fun io => { io with d2h := io.d2h ++ [(line, q)] } }).emit (.d2h i line q [])
  | _ => s

/-- Entries a directory node may hold (R199, R366). -/
def hubCapacity : Node → Nat
  | .rdc _ => 524288
  | _ => Config.dirEntries
/-- The node has an entry for the line or room for one (R368). -/
def State.hubRoom (s : State) (n : Node) (line : Nat) : Bool :=
  match n with
  | .rdc d => ((s.die d).rdc.line? line).isSome || decide ((s.die d).rdc.length < hubCapacity n)
  | _ => (s.hub n).dir.any (fun e => e.1 == line) || decide ((s.hub n).dir.length < hubCapacity n)

/-- A transaction needs no slice that a dead die held and that is not rebuilt, and no answer of a dead die (R377). -/
def State.sliceReady (s : State) (n : Node) (m : Msg) : Bool :=
  if s.dies.all fun d => d.state != 3 then true
  else
    let e := (s.hub n).entry m.line
    let away := fun (x : Node) => (nodeDie x).isSome && nodeDie x != nodeDie n
    e.nodes.all (fun x => !s.isDead x)
      && (match n with
        | .home _ => !(away m.src || e.nodes.any away) || (sliceDies m.line).all fun d => (s.die d).state != 3 || (s.die d).rebuilt
        | _ => true)

/-- A recall of an RDC's line has a free entry of the victim buffer to move it into, beside the recalls in progress (R372). -/
def State.victimRoom (s : State) (n : Node) (r : Req) : Bool :=
  match n with
  | .rdc d => r != .recall || decide ((s.die d).rdcVictim.length + ((s.die d).rdcHub.txns.filter fun t => t.req == .recall).length < Config.rdcVictims)
  | _ => true

/-- A waiting request may start (R370): no transaction in progress shares a word with it, no earlier request does, and there is room for
its entries (R368, R372). A home's snoop does not wait for requests an RDC has sent on to that home; an I/O die asks its host for a line
once at a time. -/
def State.mayStart (s : State) (n : Node) (w : Wire) (before : List Wire) : Bool :=
  let r := reqOf n w
  let m := w.msg
  let clash := fun (t : Txn) => t.on m.line && (t.msg.mask &&& m.mask) != 0
  let stage1 := fun (t : Txn) => t.up != 0 && t.waits.isEmpty && t.queue.isEmpty
  ((s.hub n).txns.all fun t => !clash t || (r.isSnoop && stage1 t))
    && (before.all fun b => !(b.on m.line && (b.msg.mask &&& m.mask) != 0) || (r.isSnoop && !(reqOf n b).isSnoop))
    && (!r.wants || (s.hubRoom n m.line && s.filterRoom n m))
    && s.victimRoom n r
    && s.sliceReady n m
    && (match n with
      | .ioHome _ => (s.hub n).txns.all fun t => !(t.on m.line && t.up != 0)
      | .rdc d => ((wordsOf m.mask).all fun x => ((s.die d).rdcCell m.line x).mirs == 0)
          && (r.isSnoop || !((s.die d).writing.any fun x => x.1 == m.line && (x.2 &&& m.mask) != 0))
      | _ => true)

/-- The first wire of each destination, and the others. -/
def firstPer : List Wire → List Node → List Wire × List Wire
  | [], _ => ([], [])
  | w :: r, seen =>
    if seen.contains w.msg.dst then ((firstPer r seen).1, w :: (firstPer r seen).2)
    else (w :: (firstPer r (w.msg.dst :: seen)).1, (firstPer r (w.msg.dst :: seen)).2)

/-- A word granted: whether exclusively, its value, and its dirty and poison marks. -/
structure Give where
  w : Nat
  excl : Bool
  val : Word
  dirty : Bool
  poison : Bool

/-- A holder had the word and gave its data, here or to the requester. -/
def Txn.has (t : Txn) (w : Nat) : Bool := (SMap.get? t.got w).isSome || t.sent.getLsbD w

/-- The value a transaction has for a word: gathered from a holder, or the directory's own; what a holder sent to the requester has
only its marks here. -/
def State.txnWord (s : State) (n : Node) (t : Txn) (w : Nat) : Word × Bool × Bool :=
  match SMap.get? t.got w with
  | some v => (v, t.dirty.getLsbD w, t.poison.getLsbD w)
  | none =>
    if t.sent.getLsbD w then (0, t.dirty.getLsbD w, t.poison.getLsbD w)
    else let (v, p) := s.baseWord n t.msg.line w; (v, false, p)

/-- A reader of a word no other unit holds may own it (R370): where the directory itself owns it. -/
def State.canOwn (s : State) (n : Node) (line w : Nat) : Bool :=
  match n with
  | .rdc d => let c := (s.die d).rdcCell line w; c.owned && !c.shr
  | .ioHome i => let st := (SMap.getD (s.ios.getD i {}).lines line {}).st; st == .e || st == .m
  | _ => true

/-- RdS for one word (R370). -/
def State.finishRead (s : State) (n : Node) (t : Txn) (w : Nat) : State × Give :=
  let line := t.msg.line
  let src := t.msg.src
  let e := (s.hub n).entry line
  let (v, d, p) := s.txnWord n t w
  let alone : State × Give :=
    if ((e.sharersOf w).isEmpty && s.canOwn n line w) then (s.mapEntry n line fun e => (e.disown w).own w src, Give.mk w true v false p)
    else (s.mapEntry n line fun e => (e.disown w).addSharer w src, Give.mk w false v false p)
  match e.ownerOf w with
  | none => alone
  | some o =>
    if o == src then (s, Give.mk w true v false p)
    else if !t.has w then alone
    else if d then (s.mapEntry n line fun e => e.addSharer w src, Give.mk w false v false p)
    else (s.mapEntry n line fun e => ((e.disown w).addSharer w o).addSharer w src, Give.mk w false v false p)

/-- RdOwn, OwnND or Upg for one word (R370): the requester owns it; an OwnND leaves dirty data at the directory. -/
def State.finishOwn (s : State) (n : Node) (t : Txn) (w : Nat) : State × Give :=
  let line := t.msg.line
  let (v, d, p) := s.txnWord n t w
  let s := if t.req == .ownNd && d then s.setBase n line w v p else s
  (s.mapEntry n line fun e => (e.clear w).own w t.msg.src, Give.mk w true v (d && t.req != .ownNd) p)

/-- The new word of an atomic (R215); the operands of `cas` are the expected and the new value. -/
def atomNew (op : AtomOp) (m v v2 : Word) : Word :=
  match op with
  | .add => m + v
  | .and => m &&& v
  | .or => m ||| v
  | .xor => m ^^^ v
  | .minI => if v.toInt < m.toInt then v else m
  | .maxI => if m.toInt < v.toInt then v else m
  | .minN => if v.toNat < m.toNat then v else m
  | .maxN => if m.toNat < v.toNat then v else m
  | .exch => v
  | .cas => if m = v then v2 else m
  | .put => mergeBytes m v (v2.setWidth 4)
  | .fadd => addRn m v
  | .fadd2 =>
    let h := fun (a b : BitVec 16) => toBf16 .rn (FVal.add .rn (bf16 a) (bf16 b))
    (h ((m >>> 16).setWidth 16) ((v >>> 16).setWidth 16)) ++ (h (m.setWidth 16) (v.setWidth 16))

/-- Operands two by two. -/
def pairUp : List Word → List (Word × Word)
  | a :: b :: r => (a, b) :: pairUp r
  | [a] => [(a, 0)]
  | [] => []
/-- The operands of each thread: two for `cas`, one otherwise (R215). -/
def atomOperands (op : AtomOp) (args : List Word) : List (Word × Word) :=
  if op == .cas || op == .put then pairUp args else args.map fun v => (v, 0)

/-- Performs operations on one word in order: the last value and the old values (R214). -/
def atomAll (op : AtomOp) : Word → List (Word × Word) → Word × List Word
  | m, [] => (m, [])
  | m, v :: r => ((atomAll op (atomNew op m v.1 v.2) r).1, m :: (atomAll op (atomNew op m v.1 v.2) r).2)

/-- AtomReq (R370, R214): the update is performed at the directory and Cmp carries the old value; a poisoned word is
consumed and stays as it is (R356). -/
def State.finishAtom (s : State) (n : Node) (t : Txn) : State :=
  let line := t.msg.line
  match wordsOf t.msg.mask with
  | [] => s
  | w :: _ =>
    let (v, _, p) := s.txnWord n t w
    let p := p && !(t.msg.op == .put && t.msg.args.getLast? == some 15)
    let s := s.mapEntry n line fun e => e.clear w
    let (v', olds) := atomAll t.msg.op v (atomOperands t.msg.op t.msg.args)
    let s := if p then s.setBase n line w (if t.msg.op == .put then v' else v) true else s.setBase n line w v' false
    s.sendUnit .cmp { src := n, dst := t.msg.src, line := line, mask := t.msg.mask, poison := if p then t.msg.mask else 0, tag := t.msg.tag,
                      args := if p then [] else olds }

/-- A snoop of the home answered by an RDC once its L1s have (R370, R371). -/
def State.finishSnoop (s : State) (n : Node) (d : Nat) (t : Txn) : State :=
  let line := t.msg.line
  let cell := fun w => (s.die d).rdcCell line w
  let held := (wordsOf t.msg.mask).filter fun w => (cell w).st != .i
  let given := if t.req == .snpInv then [] else held.filter fun w => (cell w).owned
  let val := fun w => (s.txnWord n t w).1
  let dirty := fun w => t.dirty.getLsbD w || (cell w).st == .m
  let given := given ++ (held.filter fun w => t.dirty.getLsbD w && !given.contains w)
  let poison := fun w => (s.txnWord n t w).2.2
  let reply : Msg := { src := n, dst := t.msg.src, line := line, mask := maskOfWords held, data := given.map fun w => (w, val w),
                       dirty := maskOfWords (given.filter dirty), poison := maskOfWords (given.filter poison) }
  let s := held.foldl (fun s w =>
    let c := cell w
    if t.req == .snpFwd then
      if !c.owned then s
      else if dirty w then
        (s.mapDie d fun k => k.putRdc line w { c with st := .m, val := val w, poison := poison w, shr := true }).mapEntry n line fun e =>
          match e.ownerOf w with
          | some o => if (SMap.get? t.got w).isNone then e.disown w else if t.dirty.getLsbD w then e else (e.disown w).addSharer w o
          | none => e
      else (s.mapDie d fun k => k.putRdc line w { c with st := .s, val := val w }).mapEntry n line fun e =>
          match e.ownerOf w with
          | some o => if (SMap.get? t.got w).isNone then e.disown w else (e.disown w).addSharer w o
          | none => e
    else (s.mapDie d fun k => k.putRdc line w {}).mapEntry n line fun e => e.clear w) s
  let s := if t.req == .snpFwd || !(given.any dirty) then s
    else s.send .mirClr { src := n, dst := .mirror (buddyOf d), line := line, mask := maskOfWords given }
  s.answerWith t.msg reply (t.req == .snpFwd)

/-- An RDC gives up a line once its L1s have been recalled (R372): clean words by CleanEv, dirty ones by WbReq from the
victim buffer. -/
def State.finishRdcRecall (s : State) (n : Node) (d : Nat) (t : Txn) : State :=
  let line := t.msg.line
  let s := (List.range 32).foldl (fun s w =>
    let (v, dty, p) := s.txnWord n t w
    let s := if dty then s.setBase n line w v p else s
    s.mapEntry n line fun e => e.clear w) s
  match (s.die d).rdc.line? line with
  | none => s
  | some l =>
    let dirty := l.ws.filter fun wc => wc.2.st == .m
    let clean := l.ws.filter fun wc => wc.2.tracked && (wc.2.st == .e || wc.2.st == .s)
    let s := s.mapDie d fun k => { k with rdc := k.rdc.dropLine line
                                          rdcVictim := if dirty.isEmpty then k.rdcVictim else k.rdcVictim ++ [(line, { l with ws := dirty })] }
    let m : Msg := { src := n, dst := homeOf (line * 128), line := line, mask := 0 }
    let s := if clean.isEmpty then s else s.send .cleanEv { m with mask := maskOfWords (clean.map (·.1)) }
    if dirty.isEmpty then s else s.send .wbReq { m with mask := maskOfWords (dirty.map (·.1)) }

/-- A snoop another package sends for one of its lines that an I/O die holds is answered (R371, R380): its words go back, unless they
are only shared. -/
def State.finishIoSnoop (s : State) (i : Nat) (t : Txn) : State :=
  let line := t.msg.line
  let l := SMap.getD (s.ios.getD i {}).lines line {}
  let held := if l.st == .i then [] else wordsOf t.msg.mask
  let given := if t.req == .snpInv || l.st == .s then [] else held
  let reply : Msg := { src := .ioHome i, dst := t.msg.src, line := line, mask := maskOfWords held,
                       data := given.map fun w => (w, (s.homeWord (line * 32 + w)).1), dirty := maskOfWords (given.filter l.dirty.getLsbD) }
  let s := { s.breakLr none line (BitVec.allOnes 32) with ios := s.ios.modify i fun (io : IoDie) => { io with lines :=
    if t.req == Req.snpFwd then (if l.st == WState.e then SMap.put io.lines line { l with st := WState.s } else io.lines) else SMap.del io.lines line } }
  s.answerWith t.msg reply (t.req == .snpFwd)

/-- The end of a recall at a home or an I/O die: dirty words reach memory, the entry goes (R368). -/
def State.finishHomeRecall (s : State) (n : Node) (t : Txn) : State :=
  (wordsOf t.msg.mask).foldl (fun s w =>
    let (v, d, p) := s.txnWord n t w
    let s := if d then s.setBase n t.msg.line w v p else s
    s.mapEntry n t.msg.line fun e => if (e.ownerOf w).isSome || t.req == .recall then e.clear w else e) s

/-- A finished transaction: what it registers and sends (R370); a grant leaves out the data that an owner sent. -/
def State.finish (s : State) (n : Node) (t : Txn) : State :=
  let grant := fun (f : State → Nat → State × Give) =>
    let (s, gs) := (wordsOf t.msg.mask).foldl (fun (a : State × List Give) w => ((f a.1 w).1, a.2 ++ [(f a.1 w).2])) (s, [])
    s.sendUnit .gnt { src := n, dst := t.msg.src, line := t.msg.line, mask := t.msg.mask, tag := t.msg.tag, asked := t.sent,
                      excl := maskOfWords ((gs.filter (·.excl)).map (·.w)), dirty := maskOfWords ((gs.filter (·.dirty)).map (·.w)),
                      poison := maskOfWords ((gs.filter (·.poison)).map (·.w)), data := (gs.filter fun g => !t.sent.getLsbD g.w).map fun g => (g.w, g.val) }
  match t.req with
  | .rds => grant fun s w => s.finishRead n t w
  | .rdOwn => grant fun s w => s.finishOwn n t w
  | .ownNd => grant fun s w => s.finishOwn n t w
  | .upg => grant fun s w => s.finishOwn n t w
  | .atomReq => s.finishAtom n t
  | .wb => s
  | .recall => match n with
    | .rdc d => s.finishRdcRecall n d t
    | _ => s.finishHomeRecall n t
  | _ => match n with
    | .rdc d => s.finishSnoop n d t
    | .ioHome i => s.finishIoSnoop i t
    | _ => s

/-- The snoops of a transaction go out, one to a unit at a time; without any the transaction is finished. -/
def State.stage2 (s : State) (n : Node) (t : Txn) : State :=
  let (now, later) := firstPer (s.snoopsFor n t.req t.msg) []
  if now.isEmpty then s.finish n t
  else
    (now.foldl State.sendSnoop s).mapHub n fun h =>
      { h with txns := h.txns ++ [{ t with waits := now.map fun w => (w.msg.dst, w.msg.mask), queue := later, up := 0 }] }

/-- Starts a waiting request. -/
def State.beginTxn (s : State) (n : Node) (w : Wire) : State :=
  let r := reqOf n w
  let m := w.msg
  let t : Txn := { req := r, msg := m }
  match r with
  | .wb =>
    let ok := (wordsOf m.mask).filter fun x => ((s.hub n).entry m.line).ownerOf x == some m.src
    let s := s.sendUnit .wbGnt { src := n, dst := m.src, line := m.line, mask := maskOfWords ok }
    if ok.isEmpty then s
    else s.mapHub n fun h => { h with txns := h.txns ++ [{ t with msg := { m with mask := maskOfWords ok }, waits := [(m.src, maskOfWords ok)] }] }
  | _ =>
    let up := s.needUp n r m
    if up == 0 then s.stage2 n t
    else (s.sendUp n r m.line up).mapHub n fun h => { h with txns := h.txns ++ [{ t with up := up }] }

/-- The first waiting request of the line that may start, and the others. -/
def State.firstStart (s : State) (n : Node) (line : Nat) : List Wire → List Wire → Option (Wire × List Wire)
  | _, [] => none
  | before, w :: r =>
    if w.on line && s.mayStart n w before then some (w, before ++ r)
    else State.firstStart s n line (before ++ [w]) r

/-- Starts what may start at a directory for a line. -/
def State.pumpFor (s : State) (n : Node) (line : Nat) : Nat → State
  | 0 => s
  | k + 1 =>
    match s.firstStart n line [] (s.hub n).waitq with
    | none => s
    | some (w, rest) => State.pumpFor ((s.mapHub n fun h => { h with waitq := rest }).beginTxn n w) n line k

/-- Messages of a line that waited for one in flight to their unit are sent (R370). -/
def State.flushOut (s : State) (n : Node) (line : Nat) : State :=
  (s.hub n).outq.foldl (fun s w =>
    if w.on line && !(s.wires.any fun x => sameRoute x.msg w.msg) then
      (s.mapHub n fun h => { h with outq := h.outq.erase w }).send w.kind w.msg
    else s) s

/-- Starts what may start; a host line no longer held goes back to its host. -/
def State.pump (s : State) (n : Node) (line : Nat) : State :=
  let s := s.flushOut n line
  let s := s.pumpFor n line ((s.hub n).waitq.length + 1)
  match n with
  | .ioHome i => s.releaseHostLine i line
  | _ => s

/-- Every waiting line of a directory. -/
def State.pumpAll (s : State) (n : Node) : State :=
  (((s.hub n).waitq.map (·.msg.line)).eraseDups).foldl (fun s l => s.pump n l) s

/-- A line a directory gives up when it has no room (R368): the least recently used without anything in progress. -/
def State.recallLine (s : State) (n : Node) (line : Nat) : Option Nat :=
  if s.hubRoom n line then none
  else match n with
    | .rdc d => ((s.die d).rdc.reverse.find? fun l => !(s.hub n).busy l.1).map (·.1)
    | _ => ((s.hub n).dir.reverse.find? fun e => !(s.hub n).busy e.1).map (·.1)

/-- A line that a full filter gives up (R368): the least recently used of those whose home has nothing in progress for them. The recall is
made at the line's home, for every copy of it (DEDUCED, log 17). -/
def State.recallFilter (s : State) (n : Node) (m : Msg) : Option Nat :=
  match s.filterFor n m with
  | none => none
  | some (l, _) => if s.filterRoom n m then none
    else (l.reverse.find? fun e => e.1 != m.line && !(s.hub (homeOf (e.1 * 128))).busy e.1).map (·.1)

/-- A directory recalls one of its lines. -/
def State.recall (s : State) (n : Node) (line : Nat) : State :=
  (s.mapHub n fun h => { h with waitq := h.waitq ++ [Wire.mk .snpRcl { src := n, dst := n, line := line, mask := BitVec.allOnes 32 }] }).pump n line

/-- The package asks for what a party without an L1 needs of a line (DESIGN CHOICE, log 7): the line itself, from its host or from the
package it is homed in, or its recall from hosts and other packages that own words of it or, for a write, hold any; none where nothing is
to be asked. -/
def State.ask? (s : State) (line : Nat) (write : Bool := false) : Option State :=
  let away := fun (n : Node) =>
    let e := (s.hub n).entry line
    e.owner.any (fun x => x.2.away) || (write && e.sharers.any fun x => x.2.any Node.away)
  let idle := fun (i : Nat) =>
    let st := (SMap.getD (s.ios.getD i {}).lines line {}).st
    (st == .i || st == .s) && !((s.ios.getD i {}).d2h.any fun x => x.1 == line)
  let note := fun (i : Nat) => { s with ios := s.ios.modify i fun (io : IoDie) => { io with d2h := io.d2h ++ [(line, D2H.rdOwn)] } }
  if isDevice (line * 128) then none
  else match homeOf (line * 128) with
    | .home d => if away (.home d) && !s.lineBusy line then some (s.recall (.home d) line) else none
    | .ioHome i =>
      if away (.ioHome i) then (if s.lineBusy line then none else some (s.recall (.ioHome i) line))
      else if idle i then some ((note i).emit (.d2h i line .rdOwn [])) else none
    | .pkg p =>
      let ds := (List.range Config.numDies).filter fun d => ((s.die d).rdc.line? line).isSome
      if s.lostPkgs.contains p || s.lineBusy line then none
      else if !ds.isEmpty then some (ds.foldl (fun s d => s.recall (.rdc d) line) s)
      else if idle 0 then some ((note 0).send .rdOwn { src := .ioHome 0, dst := .pkg p, line := line, mask := BitVec.allOnes 32 })
      else none
    | _ => none

/-- The same for several lines. -/
def State.askAll? (s : State) (lines : List Nat) (write : Bool := false) : Option State :=
  lines.foldl (fun o l => match (o.getD s).ask? l write with
    | some s' => some s'
    | none => o) none

/-- The same for bytes of an address space. -/
def State.askRange? (s : State) (asid va n : Nat) (write : Bool := false) : Option State :=
  s.askAll? (((List.range ((va + n + 127) / 128 - va / 128)).filterMap fun i =>
    match s.walk asid (BitVec.ofNat 56 ((va / 128 + i) * 128)) with
    | .found e => some (e.phys ((va / 128 + i) * 128) / 128)
    | _ => none).eraseDups) write

/-- What cannot go on is not due, unless it has something to ask for first. -/
def orAsk (o : Option State) : Result :=
  match o with
  | some s => .next s
  | none => .refused .notDue

/-- A message arrives at a directory and waits its turn (R370). -/
def State.arrive (s : State) (n : Node) (w : Wire) : State :=
  let s := match n with
    | .rdc d => s.mapDie d fun k => { k with rdc := k.rdc.front w.msg.line }
    | _ => s
  let s := (s.mapHub n fun h => { h with waitq := h.waitq ++ [w] }).pump n w.msg.line
  let s := match s.recallLine n w.msg.line with
    | some l => (s.recall n l).pumpAll n
    | none => s
  match (if (s.hub n).waitq.contains w then s.recallFilter n w.msg else none) with
  | some l => s.recall (homeOf (l * 128)) l
  | none => s

/-- Requests that waited for room go on at every directory that shares a filter with this one (R368). -/
def State.pumpFilters (s : State) (n : Node) : State :=
  match n with
  | .home _ => (List.range Config.numDies).foldl (fun s d => if (s.die d).home.waitq.isEmpty then s else s.pumpAll (.home d)) s
  | _ => s.pumpAll n

/-- A holder's answer to a snoop reaches the directory: its data is gathered, its next snoop goes out, and a transaction
with nothing left to wait for is finished. -/
def State.answered (s : State) (n frm : Node) (m : Msg) : State :=
  let h := s.hub n
  match h.txns.find? fun t => t.on m.line && t.req != .wb && t.waits.any fun w => w.1 == frm && (w.2 &&& m.asked) != 0 with
  | none => s
  | some t =>
    let got := m.data.foldl (fun (g : SMap Word) (x : Nat × Word) => SMap.put g x.1 x.2) t.got
    let left := t.waits.filter (fun w => w.1 != frm)
    let t' : Txn := { t with
      waits := left
      got := got
      sent := t.sent ||| m.excl
      dirty := t.dirty ||| m.dirty
      poison := t.poison ||| m.poison }
    let rest := h.txns.filter fun x => x != t
    match t'.queue.find? fun w => w.msg.dst == frm with
    | some w =>
      let t2 : Txn := { t' with
        waits := t'.waits ++ [(frm, w.msg.mask)]
        queue := t'.queue.filter (fun (x : Wire) => x != w) }
      (s.sendSnoop w).mapHub n fun h => { h with txns := rest ++ [t2] }
    | none =>
      if t'.waits.isEmpty && t'.queue.isEmpty then
        let s := ((s.mapHub n fun h => { h with txns := rest }).finish n t').pump n m.line
        if t.req == .recall then s.pumpFilters n else s
      else s.mapHub n fun h => { h with txns := rest ++ [t'] }

/-- Words granted to a directory from above: its transaction goes on once all are there. -/
def State.grantedUp (s : State) (n : Node) (line : Nat) (mask : Mask) : State :=
  let h := s.hub n
  let mine := h.txns.filter fun t => t.on line && (t.up &&& mask) != 0
  let s := s.mapHub n fun h => { h with txns := h.txns.filter (fun t => !mine.contains t) }
  (mine.foldl (fun s t =>
    let t' := { t with up := t.up &&& ~~~mask }
    if t'.up == 0 then
      let again := s.needUp n t'.req t'.msg
      if again == 0 then s.stage2 n t'
      else (s.sendUp n t'.req line again).mapHub n fun h => { h with txns := h.txns ++ [{ t' with up := again }] }
    else s.mapHub n fun h => { h with txns := h.txns ++ [t'] }) s).pump n line

/-- A unit's words are sent as WbData (R372); it keeps copies of those of `keeps`. -/
def State.sendWbData (s : State) (unit hub : Node) (line : Nat) (mask keeps : Mask) (cells : Nat → WordCell) : State :=
  let ws := wordsOf mask
  s.send .wbData { src := unit, dst := hub, line := line, mask := mask, excl := keeps, data := ws.map fun w => (w, (cells w).val), dirty := mask,
                   poison := maskOfWords (ws.filter fun w => (cells w).poison) }

end Sys2Proof.Machine
end

