-- ==== Sys2Proof/Machine/Order.lean ====
section
/-! DEFINITION. The order an access may be made in: what a release waits for, the flush markers of system scope, and what
an acquire holds back (R218, R228, R232, R239, R240, R373, R374). -/
namespace Sys2Proof.Machine
open Sys2Proof

/-! ### Release and acquire -/

/-- An outstanding result that reads memory and has not its value yet. -/
def OutRes.unbound (o : OutRes) : Bool :=
  match o.kind with
  | .load _ _ _ _ => true | .atom _ _ _ _ => true
  | .ready _ => false | .poisoned _ => false | .uniform _ => false | .submitted => false

/-- No read of the thread is still to be performed. -/
def Thread.readsDone (t : Thread) : Bool := t.out.all fun o => !o.unbound
/-- No acquire of the thread is still to be performed (R232). -/
def Thread.acquired (t : Thread) : Bool := t.out.all fun o => !(o.acquire && o.unbound)

/-- The scope reaches beyond the core (R228). -/
def Scope.beyondCore : Scope → Bool
  | .grp => false | .core => false | .clu => true | .die => true | .qtr => true | .dev => true | .sys => true

/-- A write that is performed elsewhere as its entry settles: to another member's scratchpad (R203), or to a device register (R320). -/
def Effect.isRemoteWrite : Effect → Bool
  | .remoteScratch _ _ _ => true
  | .device _ => true
  | _ => false

/-- Every effect of the core up to number `upto` is performed as far as the scope asks: acknowledged and mirrored (R373,
R375), and for system scope every flush marker answered (R374). -/
def Core.released (k : Core) (sc : Scope) (upto : Nat) : Bool :=
  !Scope.beyondCore sc ||
    (k.writes.all (fun t => decide (upto < t)) && k.unmir.all (fun t => decide (upto < t))
      && k.buffer.all (fun e => !e.eff.isRemoteWrite || decide (upto < e.no))
      && (sc != .sys || (k.paths.isEmpty && k.marksOut.isEmpty)))

/-- The path's release may perform (R218, R239). -/
def State.mayRelease (s : State) (c : Ctx) (sc : Scope) : Bool :=
  c.ms.all fun i =>
    let t := c.group.thread i
    t.readsDone && c.group.kout.all (fun o => !o.unbound) && (s.core c.team.core).released sc (t.rel.getD (s.core c.team.core).effNo)

/-- Sends a flush marker down every path a core has used since its last release at system scope (R374). -/
def State.sendMarks (s : State) (core team : Nat) : State :=
  let k := s.core core
  if k.paths.length ≤ s.room core ∧ k.writes.isEmpty then
    let s := s.mapCore core fun k => { k with paths := [] }
    k.paths.foldl (fun s p =>
      let no := (s.core core).effNo + 1
      (s.produce core team (.mark { src := .core core, dst := p.1, line := 0, mask := 0, tag := no, path := p.2 })).mapCore core fun k =>
        { k with marksOut := k.marksOut ++ [(no, p.1)] }) s
  else s

/-- The first attempt at a release notes the effects it waits for and sends the flush markers of system scope down every
path used since the last (R374). -/
def State.beginRelease (s : State) (c : Ctx) (sc : Scope) : State :=
  let k := s.core c.team.core
  let s := s.putGroup c (c.group.mapAt c.ms fun _ t => { t with rel := some (t.rel.getD k.effNo) })
  if sc == .sys then s.sendMarks c.team.core c.team.id else s

/-- The order field makes the access a release head (R232). -/
def MemOrder.releases : MemOrder → Bool
  | .rlx => false | .acq => false | .rel => true | .ar => true | .sc => true
/-- The order field makes the access an acquire tail (R232). -/
def MemOrder.acquires : MemOrder → Bool
  | .rlx => false | .acq => true | .rel => false | .ar => true | .sc => true

/-- The path's earlier reads have their values: a write is made only then, so that no read depends on it (R238). -/
def Ctx.readsBound (c : Ctx) : Bool := (c.ms.all fun i => (c.group.thread i).readsDone) && c.group.kout.all fun o => !o.unbound

/-- Whether an access of this order, a write or not, may be made now: earlier acquires are performed, and what a write, a release or a
sequentially consistent access waits for is done. -/
def State.orderMay (s : State) (c : Ctx) (o : MemOrder) (sc : Scope) (write : Bool) : Bool :=
  (c.ms.all fun i => (c.group.thread i).acquired) && c.group.kout.all (fun o => !(o.acquire && o.unbound)) && (!write || c.readsBound) && (!(MemOrder.releases o || o == .sc) || s.mayRelease c sc)
/-- What is done while it may not. -/
def State.orderWait (s : State) (c : Ctx) (o : MemOrder) (sc : Scope) : State :=
  if MemOrder.releases o || o == .sc then s.beginRelease c sc else s

end Sys2Proof.Machine
end

