-- ==== Sys2Proof/Machine/Barrier.lean ====
section
/-! DEFINITION. Barriers and `waitchild`: joining a generation, what a waiting thread waits for, and its release
(R156 to R158, R163, R283). -/
namespace Sys2Proof.Machine
open Sys2Proof

/-- Every live thread of the team has joined generation `k` of `bar.team` (R156). -/
def Team.allJoined (t : Team) (k : Nat) : Bool :=
  t.groups.all fun g => g.threads.all fun h => !h.live || decide (k ≤ h.barT)

/-- Threads a launch gives each member of a cluster (R138). -/
def Launch.threadCount (l : Launch) : Nat := 32 * ((List.range l.roleCount).map l.roleGroups).sum

/-- Generation `k` of `bar.clu` is complete as member `t` counts it: its own live threads have joined, and of every
other member each thread's arrival or exit has been counted here (R156, R157). The manual names exited threads alone: of a member
whose team was ended by a cause no exit is reported, and its threads are waited for (DESIGN CHOICE, log 57). -/
def Team.cluJoined (t : Team) (others : List Nat) (threads k : Nat) : Bool :=
  (t.groups.all fun g => g.threads.all fun h => !h.live || decide (k ≤ h.barC))
    && others.all fun m => (List.range threads).all fun i =>
      t.exitSeen.contains (m, i) || t.cluSeen.any fun x => x.1 == m && x.2.1 == i && decide (k ≤ x.2.2)

/-- The members of a team's cluster other than itself; a spawned child has none (R156). -/
def State.peers (s : State) (t : Team) : List Nat :=
  if t.parent.isSome then [] else (List.range (s.clusterSize t)).filter fun m => m != t.member

/-- The group-side phase G of a numbered barrier (R158, R278): over the live threads of the launched groups, or, when
none lives, over what they held when they exited. -/
def Team.phase (t : Team) (n : Nat) : Nat :=
  let all := (t.groups.flatMap (·.threads)).filter fun h => h.status != .absent
  let live := all.filter Thread.live
  match (if live.isEmpty then all else live).map fun h => SMap.getD h.nbA n 0 with
  | [] => 0
  | a :: r => r.foldl min a

/-- Releases whatever of the team no longer has to wait at a barrier. -/
def State.barrierProgress (s : State) (team : Nat) : State :=
  match s.team? team with
  | none => s
  | some t =>
    let peers := s.peers t
    let threads := ((s.launchOf t).map (·.threadCount)).getD 0
    let may := fun (g : Group) (_ : Nat) (h : Thread) => match h.status with
      | .blocked (.barTeam k) => t.allJoined k
      | .blocked (.barClu k) => t.cluJoined peers threads k
      | .blocked (.nbArrive n) => decide (SMap.getD h.nbA n 0 ≤ t.phase n + 15)
      | .blocked (.nbWait n) => decide (SMap.getD h.nbW n 0 + 1 ≤ (SMap.getD t.nbZ n 0).toNat)
      | .blocked .waitChild => g.children == 0
      | _ => false
    let f := fun (h : Thread) => match h.status with
      | .blocked (.nbWait n) => { h with nbW := SMap.put h.nbW n (SMap.getD h.nbW n 0 + 1), spec := [] }
      | .blocked (.barTeam _) => { h with spec := [] }
      | .blocked (.barClu _) => { h with spec := [] }
      | .blocked .waitChild => { h with spec := [] }
      | _ => h
    s.setTeam (t.releaseWhere may f)

/-- The path's threads enter a waiting instruction: each is changed by `f` and blocked, whatever can be released is, and the issue
is counted. -/
def blockPath (c : Ctx) (f : Thread → Thread) (b : Thread → Block) (s : State) : State :=
  ((s.putGroup c (c.group.mapAt c.ms fun _ t => { (f t).tick with status := .blocked (b (f t)) })).barrierProgress c.team.id).issue c

/-- `bar.team` (R156, R157): the arrival is a release at core scope, so it waits until the threads' earlier reads are performed -/
def execBarTeam (s : State) : Result :=
  match s.path? with
  | none => .refused .noIssuer
  | some c =>
    if c.ready {} && !(s.mayRelease c .core) then .next (s.beginRelease c .core)
    else if c.ready {} then .next (blockPath c (fun t => { t with barT := t.barT + 1 }) (fun t => .barTeam t.barT) s)
    else .next s

/-- `bar.clu` (R156, R157): the arrival is a release at cluster scope, so it waits until the threads' earlier coherent
writes have been acknowledged, and it is sent to every other member as an outgoing effect -/
def execBarClu (s : State) : Result :=
  match s.path? with
  | none => .refused .noIssuer
  | some c =>
    let peers := s.peers c.team
    if c.ready {} && !(s.mayRelease c .clu) then .next (s.beginRelease c .clu)
    else if c.ready {} && decide (peers.length ≤ s.room c.team.core) then
      let arrivals := c.ms.map fun i => (32 * c.group.idx + i, (c.group.thread i).barC + 1)
      let s := peers.foldl (fun s m => s.produce c.team.core c.team.id (.barClu (c.team.ref m) c.team.member arrivals)) s
      .next (blockPath c (fun t => { t with barC := t.barC + 1 }) (fun t => .barClu t.barC) s)
    else .next s

/-- The team has a tile stream; a spawned child has none (R158, R162, R276). -/
def Team.hasTile (t : Team) : Bool := t.cooper.isSome

/-- `bar.nb.arrive` (R158), a release at core scope -/
def execBarNbArrive (n : BitVec 4) (s : State) : Result :=
  match s.path? with
  | none => .refused .noIssuer
  | some c =>
    if !c.team.hasTile then .next (s.trapPath c { code := 0x09 })
    else if c.ready {} && !(s.mayRelease c .core) then .next (s.beginRelease c .core)
    else if c.ready {} then
      .next (blockPath c (fun t => { t with nbA := SMap.put t.nbA n.toNat (SMap.getD t.nbA n.toNat 0 + 1) }) (fun _ => .nbArrive n.toNat) s)
    else .next s

/-- `bar.nb.wait` (R158) -/
def execBarNbWait (n : BitVec 4) (s : State) : Result :=
  match s.path? with
  | none => .refused .noIssuer
  | some c =>
    if !c.team.hasTile then .next (s.trapPath c { code := 0x09 })
    else if c.ready {} then .next (blockPath c (fun t => t) (fun _ => .nbWait n.toNat) s)
    else .next s

/-- `waitchild` (R163) -/
def execWaitchild (s : State) : Result :=
  match s.path? with
  | none => .refused .noIssuer
  | some c =>
    if c.ready {} then .next (blockPath c (fun t => t) (fun _ => .waitChild) s)
    else .next s

end Sys2Proof.Machine
end

