-- ==== Sys2Proof/Machine/Exchange.lean ====
section
/-! DEFINITION. The lane exchanges: shuffles, swizzles, votes, matches and reductions among the members a mask names
(R149 to R155). -/
namespace Sys2Proof.Machine
open Sys2Proof

/-- The exchange a thread waits in. -/
def Thread.arrival? (t : Thread) : Option Arrival :=
  match t.status with
  | .blocked (.exchange x) => some x
  | .blocked _ => none
  | .absent => none | .exited => none | .parked => none | .running => none

/-- Thread `t` arriving with `x` disagrees with a thread that has arrived and that one of the two names (R149). -/
def Group.clash (g : Group) (t : Nat) (x : Arrival) : Bool :=
  (List.range 32).any fun u =>
    match (g.thread u).arrival? with
    | some y => (x.mask.getLsbD u || y.mask.getLsbD t) && (x.key != y.key || x.mask != y.mask)
    | none => false

/-- The positions of S: named by the mask and live (R149). -/
def Group.exchangeSet (g : Group) (mask : Mask) : List Nat := (List.range 32).filter fun u => mask.getLsbD u && (g.thread u).live

/-- Every position of S has arrived (R149). -/
def Group.exchangeDone (g : Group) (mask : Mask) : Bool := (g.exchangeSet mask).all fun u => (g.thread u).arrival?.isSome

/-- What a member of an exchange reads of the others: position `j`'s operand where `j` is in S. -/
def sourceOr (S : List Nat) (a : Nat → Word) (j : Nat) (other : Word) : Word := if S.contains j then a j else other

/-- The source position of a shuffle or swizzle, where there is one (R151, R152). -/
def shuffleSource (minor : Nat) (S : List Nat) (t : Nat) (b : Word) : Option Nat :=
  let k := b.toNat % 32
  match minor with
  | 0 => some k
  | 1 => let j : Int := (t : Int) + (b.setWidth 6).toInt
    if 0 ≤ j ∧ j ≤ 31 then some j.toNat else none
  | 2 => S[(S.idxOf t + k) % S.length]?
  | _ => S[k]?

/-- The source position of a swizzle with mode and distance (R152). -/
def swizzleSource (mode c t : Nat) : Nat :=
  match mode with
  | 0 => Nat.xor t c
  | 1 => c
  | _ => (t + c) % 32

/-- The bits of the positions that `f` holds for (R153, R154). -/
def maskOf (S : List Nat) (f : Nat → Bool) : Word := BitVec.ofNat 32 (((S.filter f).map fun u => 2 ^ u).sum)

/-- `vote.span` (R153) -/
def voteSpan (S : List Nat) (f : Nat → Bool) : Word :=
  BitVec.ofNat 32 ((if S.any f then 1 else 0) + (if S.all f then 2 else 0) + (if S.any fun u => !f u then 4 else 0)
    + (if S.all fun u => !f u then 8 else 0))

/-- A reduction over the members (R155). -/
def reduceAll (minor : Nat) (S : List Nat) (a : Nat → Word) : Word :=
  match minor with
  | 15 => (pairwiseTree addRn 5 ((List.range 32).map fun i => if S.contains i then some (a i) else none)).getD 0
  | m =>
    match S.map a with
    | [] => 0
    | x :: r => r.foldl (fun p q => match m with
      | 10 => p + q
      | 11 => if q.toInt < p.toInt then q else p
      | 12 => if p.toInt < q.toInt then q else p
      | 13 => p &&& q
      | _ => p ||| q) x

/-- The result of thread `t` in an exchange with minor `minor` and pattern `pat` (R151 to R155). -/
def exchangeResult (minor pat : Nat) (S : List Nat) (x : Nat → Arrival) (t : Nat) : Word :=
  let a := fun u => lowWord (x u).a
  let p := fun u => (x u).pred
  match minor with
  | 4 => sourceOr S a (swizzleSource (pat / 32) (pat % 32) t) (a t)
  | 5 => BitVec.ofNat 32 (S.filter p).length
  | 6 => maskOf S p
  | 7 => voteSpan S p
  | 8 => maskOf S fun u => a u == a t
  | 9 => maskOf S fun u => (x u).a == (x t).a
  | m =>
    if m < 4 then
      match shuffleSource m S t (x t).b with
      | some j => sourceOr S a j 0
      | none => 0
    else reduceAll m S a

/-- A member leaves a completed exchange: its result is written, or, for a match, becomes an outstanding result. -/
def Thread.exchanged (handler : Bool) (x : Arrival) (r : Word) (t : Thread) : Thread :=
  if x.key % 16 = 8 ∨ x.key % 16 = 9 then
    Thread.release handler { t with
      out := t.out ++ [{ dst := [x.dst], look := x.look, kind := .ready [r] }]
      spec := t.spec.filter fun e => !e.touches x.dst }
  else Thread.release handler (t.writeV x.dst r)

/-- Completes every exchange of the group all of whose members have arrived (R149). -/
def Group.exchangeProgress (g : Group) : Group :=
  { g with threads := g.threads.mapIdx fun i t =>
      match t.arrival? with
      | none => t
      | some x =>
        if g.exchangeDone x.mask then
          Thread.exchanged g.handler x
            (exchangeResult (x.key % 16) (x.key / 16) (g.exchangeSet x.mask) (fun u => ((g.thread u).arrival?).getD x) i) t
        else t }

/-- The threads `ms` arrive one after the other; those that disagree trap with the collective mismatch (R149). -/
def arriveAll (x : Nat → Arrival) : List Nat → Group → List ThreadTrap → Group × List ThreadTrap
  | [], g, fs => (g, fs)
  | i :: r, g, fs =>
    let t := g.thread i
    if !(x i).mask.getLsbD i || g.clash i (x i) then
      arriveAll x r g (fs ++ [{ pos := i, info := { code := 0x0C }, epc := t.pc }])
    else arriveAll x r (g.setThread i { t.tick with status := .blocked (.exchange (x i)) }) fs

/-- An exchange instruction (R149): the members arrive, and whatever exchange of the group is complete is completed. The manual does
not say whether an exchange completes between the arrivals of two threads of one path: every thread of the path arrives first
(DESIGN CHOICE, log 53). -/
def laneExchange (r : Regs) (d minor pat : Nat) (look : Nat) (a : View → DWord) (b : View → Word) (p : View → Bool) (s : State) :
    Result :=
  match s.path? with
  | none => .refused .noIssuer
  | some c =>
    if !r.ok c.group.regs then .next (s.trapPath c { code := 0x02 })
    else if c.poisoned r then .next (s.killGangOf c.team.id 0x11 0)
    else if !c.ready r then .next (s.noteMiss c r)
    else if (minor = 8 ∨ minor = 9) ∧ !c.roomForOut then .next s
    else
      let x := fun (i : Nat) =>
        let w := c.view i
        Arrival.mk (minor + 16 * pat) (w.v d) (a w) (b w) (p w) (vIndex c.group.handler d) look
      let (g, fs) := arriveAll x c.ms c.group []
      .next ((s.putGroup c (g.exchangeProgress.issued c.lead)).takeTraps c.team.id c.group.idx fs)

/-- A shuffle (R151). -/
def shuffle (minor : Nat) (d a b : BitVec 7) (s : State) : Result :=
  laneExchange { reads := [(d.toNat, 1), (a.toNat, 1), (b.toNat, 1)], writes := [(d.toNat, 1)] } d.toNat minor 0 0
    (fun w => (w.v a.toNat).setWidth 64) (fun w => w.v b.toNat) (fun _ => false) s
/-- A swizzle (R152). -/
def swizzle (mode : Nat) (d a : BitVec 7) (c : BitVec 5) (s : State) : Result :=
  laneExchange { reads := [(d.toNat, 1), (a.toNat, 1)], writes := [(d.toNat, 1)] } d.toNat 4 (32 * mode + c.toNat) 0
    (fun w => (w.v a.toNat).setWidth 64) (fun _ => 0) (fun _ => false) s
/-- A vote (R153). -/
def vote (minor : Nat) (d : BitVec 7) (p : BitVec 3) (s : State) : Result :=
  laneExchange { reads := [(d.toNat, 1)], writes := [(d.toNat, 1)], predReads := [p.toNat] } d.toNat minor 0 0
    (fun _ => 0) (fun _ => 0) (fun w => w.p p.toNat) s
/-- A reduction (R155). -/
def redux (minor : Nat) (d a : BitVec 7) (s : State) : Result :=
  laneExchange { reads := [(d.toNat, 1), (a.toNat, 1)], writes := [(d.toNat, 1)] } d.toNat minor 0 0
    (fun w => (w.v a.toNat).setWidth 64) (fun _ => 0) (fun _ => false) s

/-- `shfl.sel` (R151) -/
def execShflSel (d a b : BitVec 7) (s : State) : Result := shuffle 0 d a b s
/-- `shfl.step` (R151) -/
def execShflStep (d a b : BitVec 7) (s : State) : Result := shuffle 1 d a b s
/-- `shfl.wrap` (R151) -/
def execShflWrap (d a b : BitVec 7) (s : State) : Result := shuffle 2 d a b s
/-- `shfl.rank` (R151) -/
def execShflRank (d a b : BitVec 7) (s : State) : Result := shuffle 3 d a b s
/-- `swz.xor` (R152) -/
def execSwzXor (d a : BitVec 7) (c : BitVec 5) (s : State) : Result := swizzle 0 d a c s
/-- `swz.bcast` (R152) -/
def execSwzBcast (d a : BitVec 7) (c : BitVec 5) (s : State) : Result := swizzle 1 d a c s
/-- `swz.rot` (R152) -/
def execSwzRot (d a : BitVec 7) (c : BitVec 5) (s : State) : Result := swizzle 2 d a c s
/-- `vote.count` (R153) -/
def execVoteCount (d : BitVec 7) (p : BitVec 3) (s : State) : Result := vote 5 d p s
/-- `vote.mask` (R153) -/
def execVoteMask (d : BitVec 7) (p : BitVec 3) (s : State) : Result := vote 6 d p s
/-- `vote.span` (R153) -/
def execVoteSpan (d : BitVec 7) (p : BitVec 3) (s : State) : Result := vote 7 d p s
/-- `match.b32` (R154) -/
def execMatchB32 (d a : BitVec 7) (l : BitVec 4) (s : State) : Result :=
  laneExchange { reads := [(d.toNat, 1), (a.toNat, 1)], writes := [(d.toNat, 1)] } d.toNat 8 0 l.toNat
    (fun w => (w.v a.toNat).setWidth 64) (fun _ => 0) (fun _ => false) s
/-- `match.b64` (R154) -/
def execMatchB64 (d a : BitVec 7) (l : BitVec 4) (s : State) : Result :=
  laneExchange { reads := [(d.toNat, 1), (a.toNat, 2)], writes := [(d.toNat, 1)] } d.toNat 9 0 l.toNat
    (fun w => w.pair a.toNat) (fun _ => 0) (fun _ => false) s
/-- `redux.add.i32` (R155) -/
def execReduxAddI32 (d a : BitVec 7) (s : State) : Result := redux 10 d a s
/-- `redux.min.i32` (R155) -/
def execReduxMinI32 (d a : BitVec 7) (s : State) : Result := redux 11 d a s
/-- `redux.max.i32` (R155) -/
def execReduxMaxI32 (d a : BitVec 7) (s : State) : Result := redux 12 d a s
/-- `redux.and.b32` (R155) -/
def execReduxAndB32 (d a : BitVec 7) (s : State) : Result := redux 13 d a s
/-- `redux.or.b32` (R155) -/
def execReduxOrB32 (d a : BitVec 7) (s : State) : Result := redux 14 d a s
/-- `redux.fadd.f32.rn` (R75, R155) -/
def execReduxFaddF32Rn (d a : BitVec 7) (s : State) : Result := redux 15 d a s

end Sys2Proof.Machine
end

