-- ==== Sys2Proof/Machine/Bits.lean ====
section
/-! DEFINITION. The bit-field, saturation, shift, rotate and counting functions of the integer instructions (R58, R80 to
R91), on values alone. -/
namespace Sys2Proof.Machine
open Sys2Proof

/-- Clamps to the signed range of 32 bits (R58). -/
def satS32 (x : Int) : Word := BitVec.ofInt 32 (if x < -2 ^ 31 then -2 ^ 31 else if 2 ^ 31 - 1 < x then 2 ^ 31 - 1 else x)
/-- Clamps to the unsigned range of 32 bits (R58). -/
def satU32 (x : Int) : Word := BitVec.ofInt 32 (if x < 0 then 0 else if 2 ^ 32 - 1 < x then 2 ^ 32 - 1 else x)
/-- The high word of a signed product (R80). -/
def mulHiS (a b : Word) : Word := BitVec.ofInt 32 (a.toInt * b.toInt / 2 ^ 32)
/-- The high word of an unsigned product (R80). -/
def mulHiU (a b : Word) : Word := BitVec.ofNat 32 (a.toNat * b.toNat / 2 ^ 32)
/-- A signed product to 64 bits (R81). -/
def mulWideS (a b : Word) : DWord := BitVec.ofInt 64 (a.toInt * b.toInt)
/-- An unsigned product to 64 bits (R81). -/
def mulWideU (a b : Word) : DWord := BitVec.ofNat 64 (a.toNat * b.toNat)
/-- The lesser and the greater by signed and unsigned value; of equal operands the first (R80). -/
def minS {n : Nat} (a b : BitVec n) : BitVec n := if a.toInt ≤ b.toInt then a else b
def maxS {n : Nat} (a b : BitVec n) : BitVec n := if b.toInt ≤ a.toInt then a else b
def minU {n : Nat} (a b : BitVec n) : BitVec n := if a.toNat ≤ b.toNat then a else b
def maxU {n : Nat} (a b : BitVec n) : BitVec n := if b.toNat ≤ a.toNat then a else b

/-- Byte `i` of a word. -/
def byteOf (a : Word) (i : Nat) : Byte := (a >>> (8 * i)).setWidth 8
/-- Halfword `h` of a word. -/
def halfOf (a : Word) (h : Nat) : BitVec 16 := (a >>> (16 * h)).setWidth 16
/-- A word of two halfwords, the second the higher. -/
def ofHalves (lo hi : BitVec 16) : Word := hi ++ lo

/-- The dot products and the sum of absolute differences, exact before reduction modulo 2^32 (R82). -/
def dot4S (d a b : Word) : Word :=
  BitVec.ofInt 32 (d.toNat + ((List.range 4).map fun i => (byteOf a i).toInt * (byteOf b i).toInt).sum)
def dot4U (d a b : Word) : Word :=
  BitVec.ofNat 32 (d.toNat + ((List.range 4).map fun i => (byteOf a i).toNat * (byteOf b i).toNat).sum)
def dot2S (d a b : Word) : Word :=
  BitVec.ofInt 32 (d.toNat + ((List.range 2).map fun i => (halfOf a i).toInt * (halfOf b i).toInt).sum)
def dot2U (d a b : Word) : Word :=
  BitVec.ofNat 32 (d.toNat + ((List.range 2).map fun i => (halfOf a i).toNat * (halfOf b i).toNat).sum)
def sad4 (d a b : Word) : Word :=
  BitVec.ofNat 32 (d.toNat + ((List.range 4).map fun i => ((byteOf a i).toNat - (byteOf b i).toNat : Int).natAbs).sum)

/-- Shifts by a whole register value: a count at or beyond the width shifts every bit out (R83, R84). -/
def shl {n : Nat} (a : BitVec n) (k : Nat) : BitVec n := if n ≤ k then 0 else a <<< k
def shrU {n : Nat} (a : BitVec n) (k : Nat) : BitVec n := if n ≤ k then 0 else a >>> k
def shrS {n : Nat} (a : BitVec n) (k : Nat) : BitVec n := a.sshiftRight (min k (n - 1))
/-- Rotates by the count modulo 32 (R83, R84). -/
def rol32 (a : Word) (k : Nat) : Word := a.rotateLeft (k % 32)
def ror32 (a : Word) (k : Nat) : Word := a.rotateRight (k % 32)

/-- Field position and length of the bit-field forms (R85). -/
def fieldPos (b : Word) : Nat := b.toNat % 256
def fieldLen (b : Word) : Nat := min (b.toNat / 256 % 256) 32
/-- Extraction of an unsigned and of a signed field (R85). -/
def bfeU (a b : Word) : Word := BitVec.ofNat 32 (a.toNat / 2 ^ fieldPos b % 2 ^ fieldLen b)
def bfeS (a b : Word) : Word :=
  if fieldLen b = 0 then 0
  else
    let f := (a.toInt / 2 ^ fieldPos b) % 2 ^ fieldLen b
    BitVec.ofInt 32 (if 2 ^ (fieldLen b - 1) ≤ f then f - 2 ^ fieldLen b else f)
/-- The bits a field covers in a word. -/
def fieldMask (pos len : Nat) : Word := BitVec.ofNat 32 ((2 ^ len - 1) * 2 ^ pos)
/-- Insertion of a field (R85). -/
def bfi (d a b : Word) : Word :=
  (d &&& ~~~(fieldMask (fieldPos b) (fieldLen b)))
    ||| (BitVec.ofNat 32 (a.toNat * 2 ^ fieldPos b) &&& fieldMask (fieldPos b) (fieldLen b))

/-- Source byte a selector nibble names (R86). -/
def permByte (a : DWord) (b : Word) (j : Nat) : Byte := (a >>> (8 * (b.toNat / 2 ^ (4 * j) % 8))).setWidth 8
/-- Result byte from which the lowest enabled fill starts; 3 where none does (R86). -/
def permTop (b : Word) : Nat := ((List.range 3).find? fun j => b.getLsbD (16 + 2 * j)).getD 3
/-- A result byte after the fill. -/
def permFilled (a : DWord) (b : Word) (j : Nat) : Byte :=
  if j ≤ permTop b then permByte a b j
  else if b.getLsbD (17 + 2 * permTop b) && (permByte a b (permTop b)).getLsbD 7 then 0xFF else 0
/-- The byte permutation (R86). -/
def bperm (a : DWord) (b : Word) : Word :=
  ((permFilled a b 3 ++ permFilled a b 2) ++ permFilled a b 1) ++ permFilled a b 0

/-- Counts of bits (R87). -/
def popc (a : Word) : Word := BitVec.ofNat 32 ((List.range 32).filter fun i => a.getLsbD i).length
def clz (a : Word) : Word := BitVec.ofNat 32 (((List.range 32).find? fun i => a.getLsbD (31 - i)).getD 32)
def ctz (a : Word) : Word := BitVec.ofNat 32 (((List.range 32).find? fun i => a.getLsbD i).getD 32)
/-- Reversal of the 32 bits (R87). -/
def brev (a : Word) : Word :=
  BitVec.ofNat 32 (((List.range 32).map fun i => if a.getLsbD (31 - i) then 2 ^ i else 0).sum)

end Sys2Proof.Machine
end

