-- ==== Sys2Proof/Machine/Flags.lean ====
section
/-! DEFINITION. The conditions that compares, selects and uniform branches test: a Brixtum has no flag register, its
flags are the predicates `p0` to `p7`, and these functions give what a compare writes to one (R14, R88, R92, R117). -/
namespace Sys2Proof.Machine
open Sys2Proof

/-- The 32-bit conditions, minors 0 to 9 of major 0x06 (R88). -/
def condHolds (c : Cond) (a b : Word) : Bool :=
  match c with
  | .eq => a == b
  | .ne => a != b
  | .ltI => decide (a.toInt < b.toInt)
  | .leI => decide (a.toInt ≤ b.toInt)
  | .gtI => decide (b.toInt < a.toInt)
  | .geI => decide (b.toInt ≤ a.toInt)
  | .ltN => decide (a.toNat < b.toNat)
  | .leN => decide (a.toNat ≤ b.toNat)
  | .gtN => decide (b.toNat < a.toNat)
  | .geN => decide (b.toNat ≤ a.toNat)

/-- A compare of two registers writes one predicate (R88). -/
def laneCmp (p : BitVec 3) (a b : BitVec 7) (f : Word → Word → Bool) (s : State) : Result :=
  laneOp { reads := [(a.toNat, 1), (b.toNat, 1)], predWrites := [p.toNat] }
    (fun w => w.setP p.toNat (f (w.v a.toNat) (w.v b.toNat))) s

/-- A compare of two pairs writes one predicate (R88). -/
def laneCmp64 (p : BitVec 3) (a b : BitVec 7) (f : DWord → DWord → Bool) (s : State) : Result :=
  laneOp { reads := [(a.toNat, 2), (b.toNat, 2)], predWrites := [p.toNat] }
    (fun w => w.setP p.toNat (f (w.pair a.toNat) (w.pair b.toNat))) s

/-- Predicate logic on two predicates (R89). -/
def lanePred (p q r : BitVec 3) (f : Bool → Bool → Bool) (s : State) : Result :=
  laneOp { predReads := [q.toNat, r.toNat], predWrites := [p.toNat] }
    (fun w => w.setP p.toNat (f (w.p q.toNat) (w.p r.toNat))) s

end Sys2Proof.Machine
end

