-- ==== Sys2Proof/Machine/Integer.lean ====
section
/-! DEFINITION. Integer, logic, bit-field, compare, select, move, predicate and immediate instructions of the lane set
(R80 to R92). Every source is read at issue, so a destination may coincide with a source (R77). -/
namespace Sys2Proof.Machine
open Sys2Proof

/-- A form vd, va, vb. -/
def lane3 (d a b : BitVec 7) (f : Word → Word → Word) (s : State) : Result :=
  laneOp { reads := [(a.toNat, 1), (b.toNat, 1)], writes := [(d.toNat, 1)] }
    (fun w => w.setV d.toNat (f (w.v a.toNat) (w.v b.toNat))) s
/-- A form vd, va, vb that reads vd first. -/
def lane3d (d a b : BitVec 7) (f : Word → Word → Word → Word) (s : State) : Result :=
  laneOp { reads := [(d.toNat, 1), (a.toNat, 1), (b.toNat, 1)], writes := [(d.toNat, 1)] }
    (fun w => w.setV d.toNat (f (w.v d.toNat) (w.v a.toNat) (w.v b.toNat))) s
/-- A form vd, va. -/
def lane2 (d a : BitVec 7) (f : Word → Word) (s : State) : Result :=
  laneOp { reads := [(a.toNat, 1)], writes := [(d.toNat, 1)] } (fun w => w.setV d.toNat (f (w.v a.toNat))) s
/-- A form vd with no register source. -/
def lane1 (d : BitVec 7) (x : Word) (s : State) : Result :=
  laneOp { writes := [(d.toNat, 1)] } (fun w => w.setV d.toNat x) s
/-- A form on pairs. -/
def lanePair3 (d a b : BitVec 7) (f : DWord → DWord → DWord) (s : State) : Result :=
  laneOp { reads := [(a.toNat, 2), (b.toNat, 2)], writes := [(d.toNat, 2)] }
    (fun w => w.setPair d.toNat (f (w.pair a.toNat) (w.pair b.toNat))) s
/-- A widening form: pair vd from va and vb. -/
def laneWide (d a b : BitVec 7) (f : Word → Word → DWord) (s : State) : Result :=
  laneOp { reads := [(a.toNat, 1), (b.toNat, 1)], writes := [(d.toNat, 2)] }
    (fun w => w.setPair d.toNat (f (w.v a.toNat) (w.v b.toNat))) s
/-- A widening form that reads the pair vd. -/
def laneWideD (d a b : BitVec 7) (f : DWord → Word → Word → DWord) (s : State) : Result :=
  laneOp { reads := [(d.toNat, 2), (a.toNat, 1), (b.toNat, 1)], writes := [(d.toNat, 2)] }
    (fun w => w.setPair d.toNat (f (w.pair d.toNat) (w.v a.toNat) (w.v b.toNat))) s
/-- A shift of a pair by a single register. -/
def laneShift64 (d a b : BitVec 7) (f : DWord → Nat → DWord) (s : State) : Result :=
  laneOp { reads := [(a.toNat, 2), (b.toNat, 1)], writes := [(d.toNat, 2)] }
    (fun w => w.setPair d.toNat (f (w.pair a.toNat) (w.v b.toNat).toNat)) s

/-- `iadd.i32` (R80) -/
def execIaddI32 (d a b : BitVec 7) (s : State) : Result := lane3 d a b (fun a b => (a + b)) s
/-- `isub.i32` (R80) -/
def execIsubI32 (d a b : BitVec 7) (s : State) : Result := lane3 d a b (fun a b => (a - b)) s
/-- `iadd.sat.i32` (R80) -/
def execIaddSatI32 (d a b : BitVec 7) (s : State) : Result := lane3 d a b (fun a b => satS32 (a.toInt + b.toInt)) s
/-- `iadd.sat.n32` (R80) -/
def execIaddSatN32 (d a b : BitVec 7) (s : State) : Result := lane3 d a b (fun a b => satU32 (a.toNat + b.toNat : Int)) s
/-- `isub.sat.i32` (R80) -/
def execIsubSatI32 (d a b : BitVec 7) (s : State) : Result := lane3 d a b (fun a b => satS32 (a.toInt - b.toInt)) s
/-- `isub.sat.n32` (R80) -/
def execIsubSatN32 (d a b : BitVec 7) (s : State) : Result := lane3 d a b (fun a b => satU32 ((a.toNat : Int) - b.toNat)) s
/-- `imul.lo.b32` (R80) -/
def execImulLoB32 (d a b : BitVec 7) (s : State) : Result := lane3 d a b (fun a b => (a * b)) s
/-- `imul.hi.i32` (R80) -/
def execImulHiI32 (d a b : BitVec 7) (s : State) : Result := lane3 d a b (fun a b => mulHiS a b) s
/-- `imul.hi.n32` (R80) -/
def execImulHiN32 (d a b : BitVec 7) (s : State) : Result := lane3 d a b (fun a b => mulHiU a b) s
/-- `imad.lo.b32` (R80) -/
def execImadLoB32 (d a b : BitVec 7) (s : State) : Result := lane3d d a b (fun d a b => a * b + d) s
/-- `ineg.i32`; it wraps (R80) -/
def execInegI32 (d a : BitVec 7) (s : State) : Result := lane2 d a (fun a => -a) s
/-- `iabs.i32`; it wraps (R80) -/
def execIabsI32 (d a : BitVec 7) (s : State) : Result := lane2 d a (fun a => BitVec.ofNat 32 a.toInt.natAbs) s
/-- lesser or greater (R80) -/
def execIminI32 (d a b : BitVec 7) (s : State) : Result := lane3 d a b (fun a b => minS a b) s
/-- lesser or greater (R80) -/
def execImaxI32 (d a b : BitVec 7) (s : State) : Result := lane3 d a b (fun a b => maxS a b) s
/-- lesser or greater (R80) -/
def execIminN32 (d a b : BitVec 7) (s : State) : Result := lane3 d a b (fun a b => minU a b) s
/-- lesser or greater (R80) -/
def execImaxN32 (d a b : BitVec 7) (s : State) : Result := lane3 d a b (fun a b => maxU a b) s
/-- `iadd.b64` (R81) -/
def execIaddB64 (d a b : BitVec 7) (s : State) : Result := lanePair3 d a b (fun a b => a + b) s
/-- `isub.b64` (R81) -/
def execIsubB64 (d a b : BitVec 7) (s : State) : Result := lanePair3 d a b (fun a b => a - b) s
/-- `imul.wide.i32` (R81) -/
def execImulWideI32 (d a b : BitVec 7) (s : State) : Result := laneWide d a b mulWideS s
/-- `imul.wide.n32` (R81) -/
def execImulWideN32 (d a b : BitVec 7) (s : State) : Result := laneWide d a b mulWideU s
/-- `imad.wide.i32` (R81) -/
def execImadWideI32 (d a b : BitVec 7) (s : State) : Result := laneWideD d a b (fun d a b => mulWideS a b + d) s
/-- `imad.wide.n32` (R81) -/
def execImadWideN32 (d a b : BitVec 7) (s : State) : Result := laneWideD d a b (fun d a b => mulWideU a b + d) s
/-- lesser or greater of pairs (R81) -/
def execIminI64 (d a b : BitVec 7) (s : State) : Result := lanePair3 d a b (fun a b => minS a b) s
/-- lesser or greater of pairs (R81) -/
def execImaxI64 (d a b : BitVec 7) (s : State) : Result := lanePair3 d a b (fun a b => maxS a b) s
/-- lesser or greater of pairs (R81) -/
def execIminN64 (d a b : BitVec 7) (s : State) : Result := lanePair3 d a b (fun a b => minU a b) s
/-- lesser or greater of pairs (R81) -/
def execImaxN64 (d a b : BitVec 7) (s : State) : Result := lanePair3 d a b (fun a b => maxU a b) s
/-- accumulates into vd (R82) -/
def execIdot4I8 (d a b : BitVec 7) (s : State) : Result := lane3d d a b dot4S s
/-- accumulates into vd (R82) -/
def execIdot4N8 (d a b : BitVec 7) (s : State) : Result := lane3d d a b dot4U s
/-- accumulates into vd (R82) -/
def execIdot2I16 (d a b : BitVec 7) (s : State) : Result := lane3d d a b dot2S s
/-- accumulates into vd (R82) -/
def execIdot2N16 (d a b : BitVec 7) (s : State) : Result := lane3d d a b dot2U s
/-- accumulates into vd (R82) -/
def execIsad4N8 (d a b : BitVec 7) (s : State) : Result := lane3d d a b sad4 s
/-- packed halfwords (R82) -/
def execIaddN16x2 (d a b : BitVec 7) (s : State) : Result := lane3 d a b (fun a b => ofHalves (halfOf a 0 + halfOf b 0) (halfOf a 1 + halfOf b 1)) s
/-- packed halfwords (R82) -/
def execIsubN16x2 (d a b : BitVec 7) (s : State) : Result := lane3 d a b (fun a b => ofHalves (halfOf a 0 - halfOf b 0) (halfOf a 1 - halfOf b 1)) s
/-- shift, rotate or logic by vb (R84) -/
def execShlB32 (d a b : BitVec 7) (s : State) : Result := lane3 d a b (fun a b => shl a b.toNat) s
/-- shift, rotate or logic by vb (R84) -/
def execShrN32 (d a b : BitVec 7) (s : State) : Result := lane3 d a b (fun a b => shrU a b.toNat) s
/-- shift, rotate or logic by vb (R84) -/
def execShrI32 (d a b : BitVec 7) (s : State) : Result := lane3 d a b (fun a b => shrS a b.toNat) s
/-- shift, rotate or logic by vb (R84) -/
def execRolB32 (d a b : BitVec 7) (s : State) : Result := lane3 d a b (fun a b => rol32 a b.toNat) s
/-- shift, rotate or logic by vb (R84) -/
def execRorB32 (d a b : BitVec 7) (s : State) : Result := lane3 d a b (fun a b => ror32 a b.toNat) s
/-- shift, rotate or logic by vb (R84) -/
def execAndB32 (d a b : BitVec 7) (s : State) : Result := lane3 d a b (fun a b => (a &&& b)) s
/-- shift, rotate or logic by vb (R84) -/
def execOrB32 (d a b : BitVec 7) (s : State) : Result := lane3 d a b (fun a b => (a ||| b)) s
/-- shift, rotate or logic by vb (R84) -/
def execXorB32 (d a b : BitVec 7) (s : State) : Result := lane3 d a b (fun a b => (a ^^^ b)) s
/-- shift, rotate or logic by vb (R84) -/
def execAndnB32 (d a b : BitVec 7) (s : State) : Result := lane3 d a b (fun a b => (a &&& ~~~b)) s
/-- shift, rotate or logic by vb (R84) -/
def execOrnB32 (d a b : BitVec 7) (s : State) : Result := lane3 d a b (fun a b => (a ||| ~~~b)) s
/-- shift, rotate or logic by vb (R84) -/
def execXnorB32 (d a b : BitVec 7) (s : State) : Result := lane3 d a b (fun a b => ~~~(a ^^^ b)) s
/-- `not.b32` (R84) -/
def execNotB32 (d a : BitVec 7) (s : State) : Result := lane2 d a (fun a => ~~~a) s
/-- shift of a pair (R84) -/
def execShlB64 (d a b : BitVec 7) (s : State) : Result := laneShift64 d a b (fun a n => shl a n) s
/-- shift of a pair (R84) -/
def execShrN64 (d a b : BitVec 7) (s : State) : Result := laneShift64 d a b (fun a n => shrU a n) s
/-- shift of a pair (R84) -/
def execShrI64 (d a b : BitVec 7) (s : State) : Result := laneShift64 d a b (fun a n => shrS a n) s
/-- `bfe.n32` (R85) -/
def execBfeN32 (d a b : BitVec 7) (s : State) : Result := lane3 d a b bfeU s
/-- `bfe.i32` (R85) -/
def execBfeI32 (d a b : BitVec 7) (s : State) : Result := lane3 d a b bfeS s
/-- `bfi.b32` (R85) -/
def execBfiB32 (d a b : BitVec 7) (s : State) : Result := lane3d d a b bfi s
/-- `bperm.b32` (R86) -/
def execBpermB32 (d a b : BitVec 7) (s : State) : Result :=
  laneOp { reads := [(a.toNat, 2), (b.toNat, 1)], writes := [(d.toNat, 1)] }
    (fun w => w.setV d.toNat (bperm (w.pair a.toNat) (w.v b.toNat))) s
/-- counts or reverses bits (R87) -/
def execPopcB32 (d a : BitVec 7) (s : State) : Result := lane2 d a popc s
/-- counts or reverses bits (R87) -/
def execClzB32 (d a : BitVec 7) (s : State) : Result := lane2 d a clz s
/-- counts or reverses bits (R87) -/
def execCtzB32 (d a : BitVec 7) (s : State) : Result := lane2 d a ctz s
/-- counts or reverses bits (R87) -/
def execBrevB32 (d a : BitVec 7) (s : State) : Result := lane2 d a brev s
/-- compare of words (R88) -/
def execIcmpEqB32 (p : BitVec 3) (a b : BitVec 7) (s : State) : Result := laneCmp p a b (condHolds .eq) s
/-- compare of words (R88) -/
def execIcmpNeB32 (p : BitVec 3) (a b : BitVec 7) (s : State) : Result := laneCmp p a b (condHolds .ne) s
/-- compare of words (R88) -/
def execIcmpLtI32 (p : BitVec 3) (a b : BitVec 7) (s : State) : Result := laneCmp p a b (condHolds .ltI) s
/-- compare of words (R88) -/
def execIcmpLeI32 (p : BitVec 3) (a b : BitVec 7) (s : State) : Result := laneCmp p a b (condHolds .leI) s
/-- compare of words (R88) -/
def execIcmpGtI32 (p : BitVec 3) (a b : BitVec 7) (s : State) : Result := laneCmp p a b (condHolds .gtI) s
/-- compare of words (R88) -/
def execIcmpGeI32 (p : BitVec 3) (a b : BitVec 7) (s : State) : Result := laneCmp p a b (condHolds .geI) s
/-- compare of words (R88) -/
def execIcmpLtN32 (p : BitVec 3) (a b : BitVec 7) (s : State) : Result := laneCmp p a b (condHolds .ltN) s
/-- compare of words (R88) -/
def execIcmpLeN32 (p : BitVec 3) (a b : BitVec 7) (s : State) : Result := laneCmp p a b (condHolds .leN) s
/-- compare of words (R88) -/
def execIcmpGtN32 (p : BitVec 3) (a b : BitVec 7) (s : State) : Result := laneCmp p a b (condHolds .gtN) s
/-- compare of words (R88) -/
def execIcmpGeN32 (p : BitVec 3) (a b : BitVec 7) (s : State) : Result := laneCmp p a b (condHolds .geN) s
/-- compare of pairs (R88) -/
def execIcmpEqB64 (p : BitVec 3) (a b : BitVec 7) (s : State) : Result := laneCmp64 p a b (fun a b => a == b) s
/-- compare of pairs (R88) -/
def execIcmpNeB64 (p : BitVec 3) (a b : BitVec 7) (s : State) : Result := laneCmp64 p a b (fun a b => a != b) s
/-- compare of pairs (R88) -/
def execIcmpLtI64 (p : BitVec 3) (a b : BitVec 7) (s : State) : Result := laneCmp64 p a b (fun a b => decide (a.toInt < b.toInt)) s
/-- compare of pairs (R88) -/
def execIcmpGeI64 (p : BitVec 3) (a b : BitVec 7) (s : State) : Result := laneCmp64 p a b (fun a b => decide (b.toInt ≤ a.toInt)) s
/-- compare of pairs (R88) -/
def execIcmpLtN64 (p : BitVec 3) (a b : BitVec 7) (s : State) : Result := laneCmp64 p a b (fun a b => decide (a.toNat < b.toNat)) s
/-- compare of pairs (R88) -/
def execIcmpGeN64 (p : BitVec 3) (a b : BitVec 7) (s : State) : Result := laneCmp64 p a b (fun a b => decide (b.toNat ≤ a.toNat)) s
/-- `sel.b32` (R89) -/
def execSelB32 (d a b : BitVec 7) (p : BitVec 3) (s : State) : Result :=
  laneOp { reads := [(a.toNat, 1), (b.toNat, 1)], writes := [(d.toNat, 1)], predReads := [p.toNat] }
    (fun w => w.setV d.toNat (if w.p p.toNat then w.v a.toNat else w.v b.toNat)) s
/-- `mov.b32` (R89) -/
def execMovB32 (d a : BitVec 7) (s : State) : Result := lane2 d a (fun a => a) s
/-- `mov.b64` (R89) -/
def execMovB64 (d a : BitVec 7) (s : State) : Result :=
  laneOp { reads := [(a.toNat, 2)], writes := [(d.toNat, 2)] } (fun w => w.setPair d.toNat (w.pair a.toNat)) s
/-- `pget` (R89) -/
def execPget (d : BitVec 7) (q : BitVec 3) (s : State) : Result :=
  laneOp { writes := [(d.toNat, 1)], predReads := [q.toNat] }
    (fun w => w.setV d.toNat (if w.p q.toNat then 1 else 0)) s
/-- `pset` (R89) -/
def execPset (p : BitVec 3) (a : BitVec 7) (s : State) : Result :=
  laneOp { reads := [(a.toNat, 1)], predWrites := [p.toNat] } (fun w => w.setP p.toNat (w.v a.toNat != 0)) s
/-- `pand` (R89) -/
def execPand (p q r : BitVec 3) (s : State) : Result := lanePred p q r (fun x y => x && y) s
/-- `por` (R89) -/
def execPor (p q r : BitVec 3) (s : State) : Result := lanePred p q r (fun x y => x || y) s
/-- `pxor` (R89) -/
def execPxor (p q r : BitVec 3) (s : State) : Result := lanePred p q r (fun x y => x != y) s

/-- A sign-extended immediate (R90, R95). -/
def immS {n : Nat} (i : BitVec n) : Word := i.signExtend 32
/-- A zero-extended immediate (R90, R95). -/
def immZ {n : Nat} (i : BitVec n) : Word := i.setWidth 32
/-- immediate form (R90) -/
def execIaddi (d a : BitVec 7) (i : BitVec 11) (s : State) : Result := lane2 d a (fun a => a + immS i) s
/-- immediate form (R90) -/
def execAndi (d a : BitVec 7) (i : BitVec 11) (s : State) : Result := lane2 d a (fun a => a &&& immS i) s
/-- immediate form (R90) -/
def execOri (d a : BitVec 7) (i : BitVec 11) (s : State) : Result := lane2 d a (fun a => a ||| immS i) s
/-- immediate form (R90) -/
def execXori (d a : BitVec 7) (i : BitVec 11) (s : State) : Result := lane2 d a (fun a => a ^^^ immS i) s
/-- immediate form (R90) -/
def execShlori (d a : BitVec 7) (i : BitVec 11) (s : State) : Result := lane2 d a (fun a => (a <<< 11) ||| immZ i) s
/-- `movi` (R90) -/
def execMovi (d : BitVec 7) (i : BitVec 11) (s : State) : Result := lane1 d (immS i) s
/-- shift by an immediate count (R91) -/
def execShliB32 (d a : BitVec 7) (n : BitVec 5) (s : State) : Result := lane2 d a (fun a => shl a n.toNat) s
/-- shift by an immediate count (R91) -/
def execShriN32 (d a : BitVec 7) (n : BitVec 5) (s : State) : Result := lane2 d a (fun a => shrU a n.toNat) s
/-- shift by an immediate count (R91) -/
def execShriI32 (d a : BitVec 7) (n : BitVec 5) (s : State) : Result := lane2 d a (fun a => shrS a n.toNat) s
/-- shift by an immediate count (R91) -/
def execRoliB32 (d a : BitVec 7) (n : BitVec 5) (s : State) : Result := lane2 d a (fun a => rol32 a n.toNat) s
/-- shift by an immediate count (R91) -/
def execRoriB32 (d a : BitVec 7) (n : BitVec 5) (s : State) : Result := lane2 d a (fun a => ror32 a n.toNat) s
/-- `icmpi` (R92) -/
def execIcmpi (p : BitVec 3) (a : BitVec 7) (c : Cond) (i : BitVec 7) (s : State) : Result :=
  laneOp { reads := [(a.toNat, 1)], predWrites := [p.toNat] }
    (fun w => w.setP p.toNat (condHolds c (w.v a.toNat) (immS i))) s

end Sys2Proof.Machine
end

