-- ==== Sys2Proof/Machine/System.lean ====
section
/-! DEFINITION. System instructions: no-operations, `yield`, `exit`, breakpoints, moves from and to special, control and
`k` registers, `eret`, and words that are no instruction (R16 to R19, R130 to R136, R222, R299, R334, R335, R42). -/
namespace Sys2Proof.Machine
open Sys2Proof

/-- `nop` (R130) -/
def execNop (s : State) : Result := laneOp {} (fun w => w.t) s
/-- `land` has no effect when it executes (R116) -/
def execLand (s : State) : Result := laneOp {} (fun w => w.t) s
/-- `knop` (R133) -/
def execKnop (s : State) : Result := uniOp {} (fun g => g) s

/-- The path goes on at its next word and the group rotates (R131, R143). -/
def yieldPath (s : State) : Result :=
  match s.path? with
  | none => .refused .noIssuer
  | some c =>
    if c.ready {} then .next (s.putGroup c (((c.group.mapAt c.ms fun _ t => t.tick.next).rotate c.lead).settleFavour c.lead))
    else .next s

/-- `yield` (R131) -/
def execYield (s : State) : Result := yieldPath s
/-- `kyield` (R131) -/
def execKyield (s : State) : Result := yieldPath s

/-- `trap n`: the breakpoint trap of every active thread, resuming after it (R134) -/
def execTrap (n : BitVec 7) (s : State) : Result :=
  match s.path? with
  | none => .refused .noIssuer
  | some c =>
    if c.ready {} then
      .next ((s.putGroup c (c.group.issued c.lead)).takeTraps c.team.id c.group.idx (c.ms.map fun i =>
        { pos := i, info := { code := 0x0D, detail := n.toNat }, epc := (c.group.thread i).pc + 4 }))
    else .next s

/-- A thread ended (R29, R132). -/
def Thread.end (t : Thread) : Thread := { t with status := .exited, spec := [] }

/-- `exit` issues once every outstanding result of the thread is available; the exit is reported to the cluster's other
cores as an outgoing effect (R132, R29, R157) -/
def execExit (s : State) : Result :=
  match s.path? with
  | none => .refused .noIssuer
  | some c =>
    let others := s.peers c.team
    if c.ms.all (fun i => (c.group.thread i).out.isEmpty) && decide (others.length ≤ s.room c.team.core) then
      let g := (((c.group.mapAt c.ms fun _ t => t.tick.end).issued c.lead).dropFavour).retireIfDone
      let s := others.foldl (fun s m => s.produce c.team.core c.team.id
        (.exitReport (c.team.ref m) c.team.member (c.ms.map fun i => 32 * c.group.idx + i))) (s.putGroup c g.exchangeProgress)
      .next (s.barrierProgress c.team.id)
    else .next s

/-- The lane of a position of a group (R138). -/
def laneOf (g : Group) (i : Nat) : Nat := 32 * g.side + i

/-- The write pointer of a channel for a team; 0 where the team does not use it (R213). -/
def Team.writePointer (t : Team) (ch : Nat) : DWord :=
  match SMap.get? t.engs ch with
  | some e => if e.used then e.w else 0
  | none => 0

/-- A special register of the thread at position `i` (R16); none for a reserved index. -/
def State.special (s : State) (c : Ctx) (i x : Nat) : Option Word :=
  let n := fun (k : Nat) => some (BitVec.ofNat 32 k)
  match x with
  | 0x00 => n (laneOf c.group i)
  | 0x01 => n (laneOf c.group i / 4)
  | 0x02 => n (laneOf c.group i / 4 / 8)
  | 0x03 => n c.group.idx
  | 0x04 => n i
  | 0x05 => n c.team.x
  | 0x06 => n c.team.y
  | 0x07 => n c.team.z
  | 0x08 => n c.team.member
  | 0x09 => n (c.team.core % Config.coresPerDie)
  | 0x0A => n (dieOf c.team.core)
  | 0x0B => n c.team.asid
  | 0x0C => n (s.now c.team.core)
  | 0x0D => some (c.group.thread i).clockHi
  | 0x0E => n c.group.role
  | 0x0F => n c.group.depth
  | x => if 0x10 ≤ x ∧ x ≤ 0x17 then some (lowWord (c.team.writePointer (x - 0x10))) else none

/-- The side effects of reading a special register on its thread: `sr.clock` latches `sr.clock.hi` (R17), and a read of
`sr.wpN` takes the speculation entries (R125). -/
def State.latch (s : State) (c : Ctx) (x : Nat) (t : Thread) : Thread :=
  if x = 0x0C then { t with clockHi := BitVec.ofNat 32 (s.now c.team.core / 2 ^ 32) }
  else if 0x10 ≤ x then { t with spec := [] } else t

/-- `smov vd, sr.X` (R133) -/
def execSmovSr (d x : BitVec 7) (s : State) : Result :=
  match s.path? with
  | none => .refused .noIssuer
  | some c =>
    if (s.special c c.lead x.toNat).isNone then .next (s.trapPath c { code := 0x01 })
    else if x.toNat = 0x0C && !(s.journalRoom c.team.core c.ms.length) then .next s
    else
      match laneTry { writes := [(d.toNat, 1)] } (fun c i w =>
        .ok (s.latch c x.toNat ((w.setV d.toNat ((s.special c i x.toNat).getD 0)).next))) s with
      | .next s' =>
        .next (if x.toNat = 0x0C then s'.mapCore c.team.core fun k =>
            { k with journal := (c.ms.map fun _ => (s.now c.team.core, BitVec.ofNat 32 (s.now c.team.core))) ++ k.journal } else s')
      | .fault f => .fault f
      | .refused r => .refused r

/-- The half of a 56-bit address a pair of control registers shows. -/
def addrLo (a : VAddr) : Word := a.setWidth 32
def addrHi (a : VAddr) : Word := (a >>> 32).setWidth 32
/-- The address with its low half written, the bits below `low` reading 0. -/
def setAddrLo (a : VAddr) (x : Word) (low : Nat) : VAddr :=
  BitVec.ofNat 56 (a.toNat / 2 ^ 32 * 2 ^ 32 + x.toNat / 2 ^ low * 2 ^ low)
/-- The address with bits [55:32] written. -/
def setAddrHi (a : VAddr) (x : Word) : VAddr := BitVec.ofNat 56 (a.toNat % 2 ^ 32 + x.toNat % 2 ^ 24 * 2 ^ 32)

/-- A control register read by a thread in handler mode or, for `cr.quantum`, in any mode (R18, R334); none where the
index is unassigned or its register is not accessible. -/
def controlReg (team : Team) (g : Group) (t : Thread) (x : Nat) : Option Word :=
  if x = 0x00 then some (g.quantum.setWidth 32)
  else if !g.handler then none
  else match x with
    | 0x02 => some (addrLo t.epc)
    | 0x03 => some (addrHi t.epc)
    | 0x04 => some t.cause
    | 0x05 => some g.fmask
    | 0x06 => some (addrLo t.tval)
    | 0x07 => some (addrHi t.tval)
    | 0x08 => some team.tcause
    | 0x09 => some (addrLo team.tpc)
    | 0x0A => some (addrHi team.tpc)
    | 0x18 => some (BitVec.ofNat 32 (t.p.toNat / 2 * 2 + 1))
    | 0x20 => some (addrLo g.cfl)
    | 0x21 => some (addrHi g.cfl)
    | 0x28 => some (addrLo team.log.ptr)
    | 0x29 => some (addrHi team.log.ptr)
    | 0x2A => some (addrLo team.log.lim)
    | 0x2B => some (addrHi team.log.lim)
    | 0x2C => some team.log.need
    | x => if 0x10 ≤ x ∧ x ≤ 0x17 then some (t.v.getD (x - 0x10) 0) else none

/-- `smov vd, cr.X` (R133, R18) -/
def execSmovCr (d x : BitVec 7) (s : State) : Result :=
  match s.path? with
  | none => .refused .noIssuer
  | some c =>
    if (controlReg c.team c.group (c.group.thread c.lead) x.toNat).isNone then .next (s.trapPath c { code := 0x01 })
    else laneTry { writes := [(d.toNat, 1)] } (fun c _ w =>
      .ok (w.setV d.toNat ((controlReg c.team c.group w.t x.toNat).getD 0)).next) s

/-- `smov vd, kN` (R130) -/
def execSmovK (d : BitVec 7) (x : BitVec 6) (s : State) : Result :=
  laneTry { writes := [(d.toNat, 1)], kReads := [x.toNat] } (fun c _ w => .ok (w.setV d.toNat (c.group.kv x.toNat)).next) s

/-- A per-thread control register written by its own thread (R335). -/
def Thread.setControl (t : Thread) (x : Nat) (w : Word) : Thread :=
  match x with
  | 0x02 => { t with epc := setAddrLo t.epc w 2 }
  | 0x03 => { t with epc := setAddrHi t.epc w }
  | 0x18 => { t with p := BitVec.ofNat 8 (w.toNat % 256 / 2 * 2 + 1) }
  | x => if 0x10 ≤ x ∧ x ≤ 0x17 then t.writeV (x - 0x10) w else t

/-- A group control register written (R335): `cr.quantum` also restarts the count (R19). -/
def Group.setControl (g : Group) (x : Nat) (w : Word) : Group :=
  match x with
  | 0x00 => { g with quantum := w.setWidth 16, n := 0 }
  | 0x20 => { g with cfl := setAddrLo g.cfl w 4 }
  | 0x21 => { g with cfl := setAddrHi g.cfl w }
  | _ => g

/-- A team control register written (R299, R334, R335). -/
def Team.setControl (t : Team) (x : Nat) (w : Word) : Team :=
  match x with
  | 0x09 => { t with tpc := setAddrLo t.tpc w 2 }
  | 0x0A => { t with tpc := setAddrHi t.tpc w }
  | 0x28 => { t with log := { t.log with ptr := setAddrLo t.log.ptr w 4 } }
  | 0x29 => { t with log := { t.log with ptr := setAddrHi t.log.ptr w } }
  | 0x2A => { t with log := { t.log with lim := setAddrLo t.log.lim w 4 } }
  | 0x2B => { t with log := { t.log with lim := setAddrHi t.log.lim w } }
  | _ => t

/-- The active thread with the highest `sr.thread` (R19, R135). -/
def Ctx.highest (c : Ctx) : Nat := c.ms.getLast?.getD c.lead

/-- `sset cr.X, va` (R135, R335): per-thread registers take each thread's own value, group and team registers that of
the highest active thread; read-only registers ignore the write -/
def execSsetCr (a x : BitVec 7) (s : State) : Result :=
  match s.path? with
  | none => .refused .noIssuer
  | some c =>
    let r : Regs := { reads := [(a.toNat, 1)] }
    if (controlReg c.team c.group (c.group.thread c.lead) x.toNat).isNone then .next (s.trapPath c { code := 0x01 })
    else if !r.ok c.group.regs then .next (s.trapPath c { code := 0x02 })
    else if c.poisoned r then .next (s.killGangOf c.team.id 0x11 0)
    else if !c.ready r then .next (s.noteMiss c r)
    else
      let w := (c.view c.highest).v a.toNat
      let g := ((c.group.mapAt c.ms fun i t => (t.setControl x.toNat ((c.view i).v a.toNat)).tick.next).issued c.lead).setControl x.toNat w
      .next ((s.putGroup c g).mapTeam c.team.id fun t => t.setControl x.toNat w)

/-- `sset kN, va` (R135) -/
def execSsetK (a : BitVec 7) (x : BitVec 6) (s : State) : Result :=
  match s.path? with
  | none => .refused .noIssuer
  | some c =>
    let r : Regs := { reads := [(a.toNat, 1)], kWrites := [x.toNat] }
    if !r.ok c.group.regs then .next (s.trapPath c { code := 0x02 })
    else if c.poisoned r then .next (s.killGangOf c.team.id 0x11 0)
    else if !c.ready r then .next (s.noteMiss c r)
    else .next (s.putGroup c (((c.group.setK x.toNat ((c.view c.highest).v a.toNat)).mapAt c.ms fun _ t => t.tick.next).issued c.lead))

/-- A waiting pop whose threads still wait in it. -/
def Team.popStands (t : Team) (p : PopWait) : Bool :=
  match t.group? p.group with
  | some g => p.ms.all fun i => (g.thread i).status == .blocked (.pop p.q)
  | none => false

/-- `eret` (R136, R332, R336): illegal outside handler mode; the team handler's return resumes the team -/
def execEret (s : State) : Result :=
  match s.path? with
  | none => .refused .noIssuer
  | some c =>
    if !c.group.handler then .next (s.trapPath c { code := 0x01 })
    else if !c.ready {} then .next s
    else
      let s' := (s.putGroup c (Group.leave { c.group with n := c.group.n + 1 } c.lead)).mapTeam c.team.id fun t =>
        { t with pops := t.pops.filter t.popStands }
      .next (if c.group.teamHandler then s'.teamReturn c.team.id else s')

/-- Special registers a uniform read may name: those with one value for the group (R133). -/
def ksrLegal (x : Nat) : Bool := !(x == 0x00 || x == 0x01 || x == 0x04 || x == 0x0D || decide (0x18 ≤ x))

/-- A uniform read of `sr.wpN` is an acquire of the path's lowest thread, whose speculation entries it takes (R125, R225, R232). -/
def Group.latchK (g : Group) (lead x : Nat) : Group := if 0x10 ≤ x then g.setThread lead { g.thread lead with spec := [] } else g

/-- `ksr` (R133): reading `sr.clock` latches nothing -/
def execKsr (d x : BitVec 6) (s : State) : Result :=
  match s.path? with
  | none => .refused .noIssuer
  | some c =>
    if !ksrLegal x.toNat then .next (s.trapPath c { code := 0x01 })
    else if x.toNat = 0x0C && !(s.journalRoom c.team.core 1) then .next s
    else
      match uniStep { writes := [(d.toNat, 1)] } (fun g => (g.setK d.toNat ((s.special c c.lead x.toNat).getD 0)).latchK c.lead x.toNat)
        (fun _ pc => pc + 4) s with
      | .next s' => .next (if x.toNat = 0x0C then s'.journal c.team.core (BitVec.ofNat 32 (s.now c.team.core)) else s')
      | .fault f => .fault f
      | .refused r => .refused r

end Sys2Proof.Machine
end

