-- ==== Sys2Proof/Machine/Access.lean ====
section
/-! DEFINITION. What every global access of a thread or a group shares: the order it may be made in (R218, R232, R239,
R240, R373, R374), throttling (R187), filling an L1 line (R209), storing into an L1 (R209, R347) and the interlocks that keep
one thread's accesses in order (R121). -/
namespace Sys2Proof.Machine
open Sys2Proof

/-! ### Throttling (R187) -/

/-- The group's slot as the victim tag array names it. -/
def Group.slotKey (g : Group) : Nat := 2 * g.slot + g.side

/-- The active groups of throttled launches on a side of a core: team, group and its score. -/
def State.throttledGroups (s : State) (core side : Nat) : List (Nat × Group) :=
  (s.teams.filter fun t => t.core == core && ((s.launchOf t).map (·.throttled)).getD false).flatMap fun t =>
    (t.groups.filter fun g => g.side == side && g.active && !g.retired).map fun g => (t.id, g)

/-- Locality-aware throttling holds the group's global accesses back: the groups of higher score, and of equal score the older (R184),
come first. -/
def State.throttleHolds (s : State) (c : Ctx) : Bool :=
  if !(((s.launchOf c.team).map (·.throttled)).getD false) then false
  else
    let gs := s.throttledGroups c.team.core c.group.side
    let sum := (gs.map fun x => x.2.score).sum
    let m := max 1 (8 - sum / 64)
    let ahead := gs.filter fun x => decide (c.group.score < x.2.score) || (x.2.score == c.group.score
      && (decide (x.2.age < c.group.age) || (x.2.age == c.group.age && decide (x.2.slot < c.group.slot))))
    decide (m ≤ ahead.length)

/-- An L1 miss whose tag stands in the victim tag array adds 8 to the score of the group slot it names, to 255 at most. -/
def State.noteVictim (s : State) (core line : Nat) : State :=
  match (s.core core).vta.find? fun v => v.1 == line with
  | none => s
  | some v => { s with teams := s.teams.map fun t =>
      if t.core = core then { t with groups := t.groups.map fun g =>
        if g.slotKey = v.2 then { g with score := min 255 (g.score + 8) } else g } else t }

/-! ### Filling and storing -/

/-- The page is in transition, so that the access waits (R224). -/
def State.inTransition (s : State) (pa : Nat) : Bool :=
  s.transition.any fun p => decide (p.1 ≤ pa) && decide (pa < p.1 + p.2.1)

/-- The line of a coherent page is private or read-shared: its words are not registered (R205). -/
def isCoherent (attr : Nat) : Bool := attr == 2

/-- A word as a private or read-shared page's miss finds it: in the die's RDC, where that holds it (R211), or at its home. -/
def State.fillWord (s : State) (core line w : Nat) : Word × Bool :=
  let r := (s.die (dieOf core)).rdcCell line w
  if r.st = .i then s.homeWord (line * 32 + w) else (r.val, r.poison)

/-- Fills those of some words of a line that are invalid (R209): at once on private and read-shared pages (DESIGN CHOICE, log 6), by RdS
on coherent ones. -/
def State.fillLine (s : State) (core line : Nat) (attr : Nat) (ws : List Nat) : State :=
  if isCoherent attr then s.fetchWords core line ws
  else ws.foldl (fun s w =>
    let c := (s.core core).cell line w
    if c.st = .i ∧ c.pendMask = 0 then
      let (v, p) := s.fillWord core line w
      s.mapCore core fun k => k.putCell line w { c with st := .e, val := v, poison := p, tracked := false }
    else s) (s.useL2 line)

/-- A load's line in the L1: allocated and being filled; none where it must wait for room. -/
def State.loadLine (s : State) (core slot attr pa n : Nat) : Option State :=
  let line := pa / 128
  let hit := ((s.core core).l1.line? line).isSome
  match (if isDevice pa || (!isCoherent attr && !s.inReach line) then none else s.allocLine core line slot) with
  | none => none
  | some s =>
    let s := if hit then s else s.noteVictim core line
    if ((s.core core).readL1 pa n).isSome then some s
    else some ((s.fillLine core line attr (List.range 32)).mapCore core fun k => { k with l1 := k.l1.map fun (nl : Nat × Line) =>
      if nl.1 = line then (nl.1, { nl.2 with slot := slot }) else nl })

/-- The bytes of a store: byte addresses and values, low byte first. -/
def storeBytes (pa n : Nat) (ws : List Word) : List (Nat × Byte) :=
  (List.range n).map fun i => (pa + i, BitVec.ofNat 8 ((ws.getD (i / 4) 0).toNat / 256 ^ (i % 4)))

/-- What a list of byte writes, in order, does to one physical word: the bytes and which. -/
def wordWrite (bs : List (Nat × Byte)) (w : Nat) : Word × BitVec 4 :=
  (bs.filter fun b => b.1 / 4 == w).foldl (fun (a : Word × BitVec 4) b =>
    let m : BitVec 4 := BitVec.ofNat 4 (2 ^ (b.1 % 4))
    (mergeBytes a.1 (BitVec.ofNat 32 (b.2.toNat * 256 ^ (b.1 % 4))) m, a.2 ||| m)) (0, 0)

/-- A word after a store of the bytes `mask` (R209, R371): into an owned or unregistered copy at once, as into a registered one where the
page is not coherent (R207); on a coherent page into an invalid or shared word beside its value until the grant comes. -/
def WordCell.store (coherent : Bool) (x : Word) (mask : BitVec 4) (c : WordCell) : WordCell :=
  let registered := c.tracked && c.st != .i
  let direct := c.pendMask == 0 && (!coherent || if registered then c.owned && !c.shr else c.st != .i)
  if direct then
    { c with st := if registered && c.st == .s then .s else .m, val := mergeBytes c.val x mask, unset := c.unset + 1,
             poison := c.poison && mask != 15, tracked := registered, loose := registered && c.st == .s }
  else
    { c with pend := mergeBytes c.pend x mask, pendMask := c.pendMask ||| mask, unset := c.unset + 1, tracked := true }

/-- The ownership requests of the words a store touched and does not own (R371). -/
def State.askOwn (s : State) (core line : Nat) (ws : List (Nat × BitVec 4)) : State :=
  let cell := fun w => (s.core core).cell line w
  let need := ws.filter fun w => (cell w.1).pendMask != 0 && !s.asked (.l1 core) line w.1 true
  let send := fun (s : State) (k : MsgKind) (l : List (Nat × BitVec 4)) =>
    if l.isEmpty then s
    else s.send k { src := .l1 core, dst := parentOf core line, line := line, mask := maskOfWords (l.map (·.1)) }
  let s := send s .upg (need.filter fun w => (cell w.1).st != .i)
  let s := send s .ownNd (need.filter fun w => (cell w.1).st == .i && (cell w.1).pendMask == 15)
  send s .rdOwn (need.filter fun w => (cell w.1).st == .i && (cell w.1).pendMask != 15)

/-- A store of one path to one line (R346): the L1 takes the bytes at once, one settling-buffer entry keeps what they
replaced, and ownership is asked for. Bytes for device registers wait in their entry (R320). -/
def State.storeLine (s : State) (core team slot line attr : Nat) (bs : List (Nat × Byte)) : Option State :=
  let coherent := isCoherent attr
  let ws := sortNat ((bs.map fun b => b.1 / 4 % 32).eraseDups)
  let writes := ws.map fun w => (w, wordWrite bs (line * 32 + w))
  let hit := ((s.core core).l1.line? line).isSome
  if isDevice (line * 128) then some (s.produce core team (.device bs))
  else match (if coherent || s.inReach line then s.allocLine core line slot else none) with
  | none => none
  | some s =>
    let s := if hit then s else s.noteVictim core line
    let s := if coherent then s else s.fillLine core line attr ((writes.filter fun w => w.2.2 != 15).map (·.1))
    let k := s.core core
    let undo := ws.map fun w => (w, k.cell line w)
    let k' := writes.foldl (fun (k : Core) w => k.putCell line w.1 (WordCell.store coherent w.2.1 w.2.2 (k.cell line w.1))) k
    let s := (s.setCore core k').produce core team (.l1 line undo)
    let s := if coherent then s.mapCore core fun k => { k with writes := k.writes ++ [k.effNo] } else s
    some (if coherent then s.askOwn core line (writes.map fun w => (w.1, w.2.2)) else s)

/-- A store of several byte writes, in order, to physical addresses of pages with the given attribute: one entry for each
line, in the order the lines are first written. -/
def State.storeLines (s : State) (core team slot : Nat) (bs : List (Nat × Nat × Byte)) : Option State :=
  ((bs.map fun b => (b.2.1 / 128, b.1)).eraseDups).foldl (fun acc l => acc.bind fun s =>
    s.storeLine core team slot l.1 l.2 ((bs.filter fun b => b.2.1 / 128 == l.1).map fun b => b.2)) (some s)

/-- A core's write to a device register has not left it yet: its later reads of registers wait for it (R121, R320). -/
def Core.deviceWaits (k : Core) : Bool := k.buffer.any fun e => match e.eff with
  | .device _ => true
  | _ => false

/-- Lines a list of byte writes touches. -/
def linesOf (bs : List (Nat × Nat × Byte)) : Nat := ((bs.map fun b => b.2.1 / 128).eraseDups).length

/-! ### One thread's accesses stay in order (R121) -/

/-- An unbound read of overlapping bytes is outstanding. -/
def OutRes.overlapsPa (pa n : Nat) (o : OutRes) : Bool :=
  match o.kind with
  | .load p b _ _ => overlaps p (p + b) pa (pa + n)
  | .atom _ _ p _ => overlaps p (p + 4) pa (pa + n)
  | _ => false

/-- A read of the thread, or of its group for the path, that an access of these bytes must wait for. -/
def Ctx.mustWait (c : Ctx) (i pa n : Nat) : Bool :=
  (c.group.thread i).out.any (OutRes.overlapsPa pa n) || c.group.kout.any (OutRes.overlapsPa pa n)

/-- The speculation entries a thread keeps after an access of bytes `a` to `a + n - 1`, an acquiring one taking all (R125). An overlap is
judged on virtual addresses: two pages that map one frame do not overlap (DESIGN CHOICE, log 56). -/
def Thread.dropSpec (t : Thread) (acq : Bool) (a n : Nat) : Thread :=
  { t with spec := if acq then [] else t.spec.filter fun e => !overlaps e.addr.toNat (e.addr.toNat + e.bytes) a (a + n) }

/-- One thread's access: its position, its address and what the checks say. -/
structure Attempt where
  pos : Nat
  va : VAddr
  acc : Access

/-- The accesses of threads of a path through the pair `a`, checked (R119). -/
def State.attempts (s : State) (c : Ctx) (ms : List Nat) (a n : Nat) (store : Bool) : List Attempt :=
  ms.map fun i => Attempt.mk i (vaddr ((c.view i).pair a))
    (s.checkAccess c.team (some (laneOf c.group i)) ((c.view i).pair a) n store)

/-- The physical address and attribute of an access that passed its checks. -/
def Attempt.ok? (x : Attempt) : Option (Nat × Nat × TlbEntry) :=
  match x.acc with
  | .ok pa attr e => some (pa, attr, e)
  | .trap _ => none | .violation _ _ => none | .wait => none
/-- The first lease violation. -/
def firstViolation (xs : List Attempt) : Option (Nat × VAddr) :=
  xs.findSome? fun x => match x.acc with
    | .violation sub va => some (sub, va)
    | .ok _ _ _ => none | .trap _ => none | .wait => none
/-- The traps. -/
def trapsOf (c : Ctx) (xs : List Attempt) : List ThreadTrap :=
  xs.filterMap fun x => match x.acc with
    | .trap i => some { pos := x.pos, info := i, epc := (c.group.thread x.pos).pc }
    | .ok _ _ _ => none | .violation _ _ => none | .wait => none
/-- Some access must wait: for a table word in flight, for a page in transition, or for an earlier read. -/
def State.someWait (s : State) (c : Ctx) (n : Nat) (xs : List Attempt) : Bool :=
  xs.any fun x => match x.acc with
    | .wait => true
    | .ok pa _ _ => s.inTransition pa || c.mustWait x.pos pa n
    | .trap _ => false | .violation _ _ => false

/-- The translations used stand in the TLB and the last-page registers (R325, R326). -/
def State.keepAll (s : State) (c : Ctx) (xs : List Attempt) : State :=
  xs.foldl (fun s x => match x.ok? with
    | some (_, _, e) => s.keep c.team.core (some (laneOf c.group x.pos)) e
    | none => s) s

end Sys2Proof.Machine
end

