-- ==== Sys2Proof/Machine/Global.lean ====
section
/-! DEFINITION. Loads and stores of global memory, lane-set and uniform (R118 to R122). -/
namespace Sys2Proof.Machine
open Sys2Proof

/-- A checked access of one thread: its position, virtual and physical address, and the page's attribute. -/
structure Spot where
  pos : Nat
  va : VAddr
  pa : Nat
  attr : Nat

/-- The accesses that passed their checks. -/
def spotsOf (xs : List Attempt) : List Spot :=
  xs.filterMap fun x => x.ok?.map fun k => { pos := x.pos, va := x.va, pa := k.1, attr := k.2.1 }

/-- The lines of private pages that accesses wait for are asked for (DESIGN CHOICE, log 7). -/
def State.askSpots (s : State) (xs : List Spot) : State :=
  (s.askAll? ((xs.filter fun x => !isCoherent x.attr).map fun x => x.pa / 128).eraseDups).getD s

/-- The shape of a lane-set access through the pair `a` (R119): registers, interlocks, room for a result, throttling, order;
then the checks of every thread for which `who` holds, of which a lease violation ends the team and a trap parks its
thread, while `f` performs the others' accesses and says what becomes of the threads; none where the path must wait. -/
def laneAccess (r : Regs) (a n : Nat) (store out : Bool) (o : MemOrder) (sc : Scope) (who : View → Bool)
    (f : State → Ctx → List Spot → Option (State × (Nat → Thread → Thread))) (s : State) : Result :=
  match s.path? with
  | none => .refused .noIssuer
  | some c =>
    if !r.ok c.group.regs then .next (s.trapPath c { code := 0x02 })
    else if c.poisoned r then .next (s.killGangOf c.team.id 0x11 0)
    else if !c.ready r then .next (s.noteMiss c r)
    else if out && !c.roomForOut then .next s
    else if s.throttleHolds c then .next s
    else if !s.orderMay c o sc store then .next (s.orderWait c o sc)
    else
      let xs := s.attempts c (c.ms.filter fun i => who (c.view i)) a n store
      if s.someWait c n xs then .next s
      else match firstViolation xs with
        | some (sub, va) => .next (s.breach c.team.id sub va)
        | none =>
          let spots := spotsOf xs
          match f (s.keepAll c xs) c spots with
          | none => .next (s.askSpots spots)
          | some (s', upd) =>
            .next ((s'.mapGroup c.team.id c.group.idx fun g =>
                (g.mapAt ((c.ms.filter fun i => !who (c.view i)) ++ spots.map (·.pos)) upd).issued c.lead).takeTraps
              c.team.id c.group.idx (trapsOf c xs))

/-- A load of `n` bytes performed or asked for (R119, R209): where its value comes from; none where its line has no room. A device
register is read at once (R320). -/
def State.startLoad (s : State) (core slot attr pa n : Nat) (signed : Bool) (va : VAddr) : Option (State × OutKind) :=
  if isDevice pa then
    if (s.core core).deviceWaits then none else some (s, .ready (loadValue pa n signed ((accessWords pa n).map s.regWord)))
  else (s.loadLine core slot attr pa n).map fun s =>
    match (s.core core).readL1 pa n with
    | some (ws, false) => (s, .ready (loadValue pa n signed ws))
    | some (_, true) => (s, .poisoned ((s.core core).badWord pa n va))
    | none => (s, .load pa n signed va)

/-- The loads of a path's threads, in ascending order. -/
def State.startLoads (s : State) (c : Ctx) (n : Nat) (signed : Bool) : List Spot → Option (State × List (Nat × OutKind))
  | [] => some (s, [])
  | x :: r =>
    match s.startLoad c.team.core c.group.slotKey x.attr x.pa n signed x.va with
    | none => none
    | some (s, k) => (State.startLoads s c n signed r).map fun a => (a.1, (x.pos, k) :: a.2)

/-- The outstanding result with which a load leaves its thread. -/
def Thread.loading (t : Thread) (dst : List Nat) (look : Nat) (acq : Bool) (va : VAddr) (n : Nat) (k : OutKind) : Thread :=
  (t.dropSpec acq va.toNat n).ask { dst := dst, look := look, acquire := acq, ext := true, kind := k }

/-- The source of the result that a position of a path is to have. -/
def kindAt (ks : List (Nat × OutKind)) (i : Nat) : OutKind := ((ks.find? fun k => k.1 == i).map (·.2)).getD .submitted

/-- The virtual address of the access at a position. -/
def vaAt (xs : List Spot) (i : Nat) : VAddr := ((xs.find? fun x => x.pos == i).map (·.va)).getD 0

/-- A load of `n` bytes into `span` registers from `t` (R118, R119). -/
def laneLoad (n span : Nat) (signed : Bool) (t a : BitVec 7) (l : BitVec 4) (sc : Scope) (o : MemOrder) (s : State) : Result :=
  laneAccess { reads := [(a.toNat, 2)], writes := [(t.toNat, span)] } a.toNat n false true o sc (fun _ => true)
    (fun s c xs => (s.startLoads c n signed xs).map fun r =>
      (r.1, fun i u => u.loading (operandIdx c.group.handler (t.toNat, span)) l.toNat (MemOrder.acquires o) (vaAt xs i) n (kindAt r.2 i))) s

/-- The words of an operand. -/
def View.words (w : View) (i span : Nat) : List Word := (List.range span).map fun k => w.v (i + k)

/-- The byte writes of a path's store, in ascending thread order. -/
def storeWrites (n : Nat) (ws : Nat → List Word) (xs : List Spot) : List (Nat × Nat × Byte) :=
  xs.flatMap fun x => (storeBytes x.pa n (ws x.pos)).map fun b => (x.attr, b.1, b.2)

/-- A store of `n` bytes from `span` registers from `t` (R118, R119). -/
def laneStore (n span : Nat) (t a : BitVec 7) (sc : Scope) (o : MemOrder) (s : State) : Result :=
  laneAccess { reads := [(a.toNat, 2), (t.toNat, span)] } a.toNat n true false o sc (fun _ => true)
    (fun s c xs =>
      let bs := storeWrites n (fun i => (c.view i).words t.toNat span) xs
      if s.room c.team.core < linesOf bs then none
      else (s.storeLines c.team.core c.team.id c.group.slotKey bs).map fun s =>
        (s, fun i u => (u.dropSpec (o == .sc) (vaAt xs i).toNat n).tick.next)) s

/-- `ld.n8` (R118) -/
def execLdN8 (t a : BitVec 7) (l : BitVec 4) (sc : Scope) (o : MemOrder) (s : State) : Result := laneLoad 1 1 false t a l sc o s
/-- `ld.i8` (R118) -/
def execLdI8 (t a : BitVec 7) (l : BitVec 4) (sc : Scope) (o : MemOrder) (s : State) : Result := laneLoad 1 1 true t a l sc o s
/-- `st.b8` (R118) -/
def execStB8 (t a : BitVec 7) (sc : Scope) (o : MemOrder) (s : State) : Result := laneStore 1 1 t a sc o s
/-- `ld.n16` (R118) -/
def execLdN16 (t a : BitVec 7) (l : BitVec 4) (sc : Scope) (o : MemOrder) (s : State) : Result := laneLoad 2 1 false t a l sc o s
/-- `ld.i16` (R118) -/
def execLdI16 (t a : BitVec 7) (l : BitVec 4) (sc : Scope) (o : MemOrder) (s : State) : Result := laneLoad 2 1 true t a l sc o s
/-- `st.b16` (R118) -/
def execStB16 (t a : BitVec 7) (sc : Scope) (o : MemOrder) (s : State) : Result := laneStore 2 1 t a sc o s
/-- `ld.b32` (R118) -/
def execLdB32 (t a : BitVec 7) (l : BitVec 4) (sc : Scope) (o : MemOrder) (s : State) : Result := laneLoad 4 1 false t a l sc o s
/-- `st.b32` (R118) -/
def execStB32 (t a : BitVec 7) (sc : Scope) (o : MemOrder) (s : State) : Result := laneStore 4 1 t a sc o s
/-- `ld.b64` (R118) -/
def execLdB64 (t a : BitVec 7) (l : BitVec 4) (sc : Scope) (o : MemOrder) (s : State) : Result := laneLoad 8 2 false t a l sc o s
/-- `st.b64` (R118) -/
def execStB64 (t a : BitVec 7) (sc : Scope) (o : MemOrder) (s : State) : Result := laneStore 8 2 t a sc o s
/-- `ld.b128` (R118) -/
def execLdB128 (t a : BitVec 7) (l : BitVec 4) (sc : Scope) (o : MemOrder) (s : State) : Result := laneLoad 16 4 false t a l sc o s
/-- `st.b128` (R118) -/
def execStB128 (t a : BitVec 7) (sc : Scope) (o : MemOrder) (s : State) : Result := laneStore 16 4 t a sc o s

/-! ### Uniform accesses (R122) -/

/-- The shape of a uniform access through the `k` pair `a`: one access for the path, every trap precise for the group. -/
def uniAccess (r : KRegs) (a n : Nat) (store out : Bool) (o : MemOrder) (sc : Scope)
    (f : State → Ctx → Spot → Option (State × (Group → Group))) (s : State) : Result :=
  match s.path? with
  | none => .refused .noIssuer
  | some c =>
    if !r.ok then .next (s.trapPath c { code := 0x02 })
    else if c.kPoisoned r then .next (s.killGangOf c.team.id 0x11 0)
    else if !c.kReady r then .next (s.noteKMiss c r)
    else if out && !c.roomForOut then .next s
    else if s.throttleHolds c then .next s
    else if !s.orderMay c o sc store then .next (s.orderWait c o sc)
    else
      let va := vaddr (c.group.kpair a)
      match s.checkAccess c.team none (c.group.kpair a) n store with
      | .wait => .next s
      | .violation sub va => .next (s.breach c.team.id sub va)
      | .trap i => .next (s.trapPath c i)
      | .ok pa attr e =>
        if s.inTransition pa || c.mustWait c.lead pa n then .next s
        else match f (s.keep c.team.core none e) c { pos := c.lead, va := va, pa := pa, attr := attr } with
          | none => .next (s.askSpots [{ pos := c.lead, va := va, pa := pa, attr := attr }])
          | some (s', upd) => .next (s'.mapGroup c.team.id c.group.idx fun g => (upd g).issued c.lead)

/-- The group leaves a uniform instruction with an outstanding result whose window is open for every thread of the path
(R122): each thread's window closes when the result is written. -/
def Group.kAsk (g : Group) (ms : List Nat) (tag : Nat) (o : OutRes) (keep : Thread → Thread) : Group :=
  { g.mapAt ms (fun _ t => (keep t).ask { dst := [], look := o.look, tag := tag, kind := .uniform tag }) with kout := g.kout ++ [{ o with tag := tag }] }

/-- `kld` of `n` bytes (R122). -/
def uniLoad (n span : Nat) (t a : BitVec 6) (l : BitVec 4) (sc : Scope) (o : MemOrder) (s : State) : Result :=
  uniAccess { reads := [(a.toNat, 2)], writes := [(t.toNat, span)] } a.toNat n false true o sc
    (fun s c x => (s.startLoad c.team.core c.group.slotKey x.attr x.pa n false x.va).map fun r =>
      let (tag, s') := r.1.ticket
      (s', fun g => g.kAsk c.ms tag { dst := (List.range span).map fun k => kIndex c.group.handler (t.toNat + k), look := l.toNat,
                                      acquire := MemOrder.acquires o, ext := true, kind := r.2 }
        fun u => u.dropSpec (MemOrder.acquires o) x.va.toNat n)) s

/-- `kst` of `n` bytes (R122). -/
def uniStore (n span : Nat) (t a : BitVec 6) (sc : Scope) (o : MemOrder) (s : State) : Result :=
  uniAccess { reads := [(a.toNat, 2), (t.toNat, span)] } a.toNat n true false o sc
    (fun s c x =>
      let bs := (storeBytes x.pa n ((List.range span).map fun k => c.group.kv (t.toNat + k))).map fun b => (x.attr, b.1, b.2)
      if s.room c.team.core < linesOf bs then none
      else (s.storeLines c.team.core c.team.id c.group.slotKey bs).map fun s =>
        (s, fun g => g.mapAt c.ms fun _ u => (u.dropSpec (o == .sc) x.va.toNat n).tick.next)) s

/-- `kld.b32` (R122) -/
def execKldB32 (t a : BitVec 6) (l : BitVec 4) (sc : Scope) (o : MemOrder) (s : State) : Result := uniLoad 4 1 t a l sc o s
/-- `kst.b32` (R122) -/
def execKstB32 (t a : BitVec 6) (sc : Scope) (o : MemOrder) (s : State) : Result := uniStore 4 1 t a sc o s
/-- `kld.b64` (R122) -/
def execKldB64 (t a : BitVec 6) (l : BitVec 4) (sc : Scope) (o : MemOrder) (s : State) : Result := uniLoad 8 2 t a l sc o s
/-- `kst.b64` (R122) -/
def execKstB64 (t a : BitVec 6) (sc : Scope) (o : MemOrder) (s : State) : Result := uniStore 8 2 t a sc o s

end Sys2Proof.Machine
end

