-- ==== Sys2Proof/Machine/Atomics.lean ====
section
/-! DEFINITION. Atomics of the lane and uniform sets (R214 to R216). -/
namespace Sys2Proof.Machine
open Sys2Proof

/-- Where an atomic on a coherent line is performed (R214): at its home die, or, of a host's or another package's line, at the I/O die of
the core's quarter. -/
def atomHome (core line : Nat) : Node :=
  match homeOf (line * 128) with
  | .home d => .home d
  | n => if isDevice (line * 128) then n else .ioHome (dieOf core / 6)

/-- One thread's part of a path's atomic: where it acts and its operand words (R215). -/
structure AtomPart where
  spot : Spot
  args : List Word

/-- The words the parts touch, ascending. -/
def atomWords (ps : List AtomPart) : List Nat := sortNat ((ps.map fun p => p.spot.pa / 4).eraseDups)
/-- The parts that touch a word, in thread order. -/
def atomOn (ps : List AtomPart) (w : Nat) : List AtomPart := ps.filter fun p => p.spot.pa / 4 == w

/-- Atomics on one coherent line (R214): a request for each word, sent to the place of R214 once their entry settles. -/
def State.atomCoherent (s : State) (core team : Nat) (op : AtomOp) (line : Nat) (ps : List AtomPart) : State × List (Nat × OutKind) :=
  let tag := (s.core core).effNo + 1
  let ws := atomWords ps
  let msgs := ws.map fun w => ({ src := .core core, dst := atomHome core line, line := line, mask := bitOf (w % 32), tag := tag, op := op,
                                 args := (atomOn ps w).flatMap (·.args) } : Msg)
  ((s.produce core team (.atom msgs)).mapCore core fun k => { k with writes := k.writes ++ List.replicate ws.length tag },
   ps.map fun p => (p.spot.pos, .atom tag (((atomOn ps (p.spot.pa / 4)).map (·.spot.pos)).idxOf p.spot.pos) p.spot.pa p.spot.va))

/-- Atomics on one word of a private page, performed in the issuing L1 (R206): the new word, if any, and each thread's old
value; a poisoned word is consumed (R356). -/
def Core.atomWord (k : Core) (op : AtomOp) (w : Nat) (ps : List AtomPart) : Option Word × List (Nat × OutKind) :=
  let mine := atomOn ps w
  match k.readL1 (4 * w) 4 with
  | some (v :: _, false) =>
    let (v', olds) := atomAll op v (atomOperands op (mine.flatMap (·.args)))
    (some v', (mine.map (·.spot.pos)).zip (olds.map fun x => .ready [x]))
  | _ => (none, mine.map fun p => (p.spot.pos, .poisoned p.spot.va))

/-- Atomics on one line of a private page. -/
def State.atomPrivate (s : State) (core team slot : Nat) (op : AtomOp) (line attr : Nat) (ps : List AtomPart) :
    Option (State × List (Nat × OutKind)) :=
  let ws := atomWords ps
  match s.loadLine core slot attr (4 * ws.headD 0) 4 with
  | none => none
  | some s =>
    let s := if ws.all fun w => ((s.core core).readL1 (4 * w) 4).isSome then s else s.fillLine core line attr (List.range 32)
    let rs := ws.map fun w => (w, (s.core core).atomWord op w ps)
    let bs := rs.flatMap fun r => match r.2.1 with
      | some v => storeBytes (4 * r.1) 4 [v]
      | none => []
    let ks := rs.flatMap fun r => r.2.2
    if bs.isEmpty then some (s, ks) else (s.storeLine core team slot line attr bs).map fun s => (s, ks)

/-- The atomics of a path, line by line in the order its threads first name them (R214, R346). -/
def State.startAtoms (s : State) (core team slot : Nat) (op : AtomOp) (ps : List AtomPart) : List Nat → Option (State × List (Nat × OutKind))
  | [] => some (s, [])
  | line :: r =>
    let mine := ps.filter fun p => p.spot.pa / 128 == line
    let attr := (mine.head?.map (·.spot.attr)).getD 0
    let here :=
      if isCoherent attr || isDevice (line * 128) then
        if mine.any fun p => ((s.core core).cell line (p.spot.pa / 4 % 32)).pendMask != 0 then none
        else some (s.atomCoherent core team op line mine)
      else s.atomPrivate core team slot op line attr mine
    match here with
    | none => none
    | some (s, ks) => (State.startAtoms s core team slot op ps r).map fun a => (a.1, ks ++ a.2)

/-- Atomics of a path where the settling buffer has room for them. -/
def State.atoms (s : State) (core team slot : Nat) (op : AtomOp) (ps : List AtomPart) : Option (State × List (Nat × OutKind)) :=
  let lines := (ps.map fun p => p.spot.pa / 128).eraseDups
  if s.room core < lines.length then none else s.startAtoms core team slot op ps lines

/-- Registers an atomic's operand takes: two for `cas` (R215). -/
def atomSpan (op : AtomOp) : Nat := if op == .cas then 2 else 1

/-- A lane-set atomic (R215); `a` numbers the address pair. -/
def laneAtom (op : AtomOp) (t : BitVec 7) (a : BitVec 6) (l : BitVec 4) (sc : Scope) (o : MemOrder) (s : State) : Result :=
  laneAccess { reads := [(2 * a.toNat, 2), (t.toNat, atomSpan op)], writes := [(t.toNat, 1)] } (2 * a.toNat) 4 true true o sc (fun _ => true)
    (fun s c xs =>
      (s.atoms c.team.core c.team.id c.group.slotKey op (xs.map fun x => { spot := x, args := (c.view x.pos).words t.toNat (atomSpan op) })).map fun r =>
        (r.1, fun i u => u.loading [vIndex c.group.handler t.toNat] l.toNat (MemOrder.acquires o) (vaAt xs i) 4 (kindAt r.2 i))) s

/-- A uniform atomic (R216). -/
def uniAtom (op : AtomOp) (t a : BitVec 6) (l : BitVec 4) (sc : Scope) (o : MemOrder) (s : State) : Result :=
  uniAccess { reads := [(a.toNat, 2), (t.toNat, atomSpan op)], writes := [(t.toNat, 1)] } a.toNat 4 true true o sc
    (fun s c x =>
      (s.atoms c.team.core c.team.id c.group.slotKey op
        [{ spot := x, args := (List.range (atomSpan op)).map fun k => c.group.kv (t.toNat + k) }]).map fun r =>
        let (tag, s') := r.1.ticket
        (s', fun g => g.kAsk c.ms tag { dst := [kIndex c.group.handler t.toNat], look := l.toNat, acquire := MemOrder.acquires o, ext := true,
                                        kind := kindAt r.2 x.pos }
          fun u => u.dropSpec (MemOrder.acquires o) x.va.toNat 4)) s

/-- `atom.add.i32` (R215) -/
def execAtomAddI32 (t : BitVec 7) (a : BitVec 6) (l : BitVec 4) (sc : Scope) (o : MemOrder) (s : State) : Result := laneAtom .add t a l sc o s
/-- `atom.and.b32` (R215) -/
def execAtomAndB32 (t : BitVec 7) (a : BitVec 6) (l : BitVec 4) (sc : Scope) (o : MemOrder) (s : State) : Result := laneAtom .and t a l sc o s
/-- `atom.or.b32` (R215) -/
def execAtomOrB32 (t : BitVec 7) (a : BitVec 6) (l : BitVec 4) (sc : Scope) (o : MemOrder) (s : State) : Result := laneAtom .or t a l sc o s
/-- `atom.xor.b32` (R215) -/
def execAtomXorB32 (t : BitVec 7) (a : BitVec 6) (l : BitVec 4) (sc : Scope) (o : MemOrder) (s : State) : Result := laneAtom .xor t a l sc o s
/-- `atom.min.i32` (R215) -/
def execAtomMinI32 (t : BitVec 7) (a : BitVec 6) (l : BitVec 4) (sc : Scope) (o : MemOrder) (s : State) : Result := laneAtom .minI t a l sc o s
/-- `atom.max.i32` (R215) -/
def execAtomMaxI32 (t : BitVec 7) (a : BitVec 6) (l : BitVec 4) (sc : Scope) (o : MemOrder) (s : State) : Result := laneAtom .maxI t a l sc o s
/-- `atom.min.n32` (R215) -/
def execAtomMinN32 (t : BitVec 7) (a : BitVec 6) (l : BitVec 4) (sc : Scope) (o : MemOrder) (s : State) : Result := laneAtom .minN t a l sc o s
/-- `atom.max.n32` (R215) -/
def execAtomMaxN32 (t : BitVec 7) (a : BitVec 6) (l : BitVec 4) (sc : Scope) (o : MemOrder) (s : State) : Result := laneAtom .maxN t a l sc o s
/-- `atom.exch.b32` (R215) -/
def execAtomExchB32 (t : BitVec 7) (a : BitVec 6) (l : BitVec 4) (sc : Scope) (o : MemOrder) (s : State) : Result := laneAtom .exch t a l sc o s
/-- `atom.cas.b32` (R215) -/
def execAtomCasB32 (t : BitVec 7) (a : BitVec 6) (l : BitVec 4) (sc : Scope) (o : MemOrder) (s : State) : Result := laneAtom .cas t a l sc o s
/-- `atom.fadd.f32.rn` (R215) -/
def execAtomFaddF32Rn (t : BitVec 7) (a : BitVec 6) (l : BitVec 4) (sc : Scope) (o : MemOrder) (s : State) : Result := laneAtom .fadd t a l sc o s
/-- `atom.fadd2.bf16.rn` (R215) -/
def execAtomFadd2Bf16Rn (t : BitVec 7) (a : BitVec 6) (l : BitVec 4) (sc : Scope) (o : MemOrder) (s : State) : Result := laneAtom .fadd2 t a l sc o s
/-- `katom.add.i32` (R216) -/
def execKatomAddI32 (t a : BitVec 6) (l : BitVec 4) (sc : Scope) (o : MemOrder) (s : State) : Result := uniAtom .add t a l sc o s
/-- `katom.and.b32` (R216) -/
def execKatomAndB32 (t a : BitVec 6) (l : BitVec 4) (sc : Scope) (o : MemOrder) (s : State) : Result := uniAtom .and t a l sc o s
/-- `katom.or.b32` (R216) -/
def execKatomOrB32 (t a : BitVec 6) (l : BitVec 4) (sc : Scope) (o : MemOrder) (s : State) : Result := uniAtom .or t a l sc o s
/-- `katom.xor.b32` (R216) -/
def execKatomXorB32 (t a : BitVec 6) (l : BitVec 4) (sc : Scope) (o : MemOrder) (s : State) : Result := uniAtom .xor t a l sc o s
/-- `katom.min.i32` (R216) -/
def execKatomMinI32 (t a : BitVec 6) (l : BitVec 4) (sc : Scope) (o : MemOrder) (s : State) : Result := uniAtom .minI t a l sc o s
/-- `katom.max.i32` (R216) -/
def execKatomMaxI32 (t a : BitVec 6) (l : BitVec 4) (sc : Scope) (o : MemOrder) (s : State) : Result := uniAtom .maxI t a l sc o s
/-- `katom.min.n32` (R216) -/
def execKatomMinN32 (t a : BitVec 6) (l : BitVec 4) (sc : Scope) (o : MemOrder) (s : State) : Result := uniAtom .minN t a l sc o s
/-- `katom.max.n32` (R216) -/
def execKatomMaxN32 (t a : BitVec 6) (l : BitVec 4) (sc : Scope) (o : MemOrder) (s : State) : Result := uniAtom .maxN t a l sc o s
/-- `katom.exch.b32` (R216) -/
def execKatomExchB32 (t a : BitVec 6) (l : BitVec 4) (sc : Scope) (o : MemOrder) (s : State) : Result := uniAtom .exch t a l sc o s
/-- `katom.cas.b32` (R216) -/
def execKatomCasB32 (t a : BitVec 6) (l : BitVec 4) (sc : Scope) (o : MemOrder) (s : State) : Result := uniAtom .cas t a l sc o s
/-- `katom.fadd.f32.rn` (R216) -/
def execKatomFaddF32Rn (t a : BitVec 6) (l : BitVec 4) (sc : Scope) (o : MemOrder) (s : State) : Result := uniAtom .fadd t a l sc o s

end Sys2Proof.Machine
end

