-- ==== Sys2Proof/Machine/CacheCtl.lean ====
section
/-! DEFINITION. Fences (R218, R247) and cache control (R219, R220). -/
namespace Sys2Proof.Machine
open Sys2Proof

/-- A fence of a path: a release side waits for what a release waits for, an acquire side for the reads made before it, and
takes the speculation entries (R125, R218). -/
def fencePath (acq rel : Bool) (sc : Scope) (s : State) : Result :=
  match s.path? with
  | none => .refused .noIssuer
  | some c =>
    if !c.ready {} then .next s
    else if rel && !s.mayRelease c sc then .next (s.beginRelease c sc)
    else if acq && !((c.ms.all fun i => (c.group.thread i).readsDone) && c.group.kout.all fun o => !o.unbound) then .next s
    else .next (s.putGroup c ((c.group.mapAt c.ms fun _ t => Thread.next (Thread.tick { t with spec := if acq then [] else t.spec })).issued c.lead))

/-- `fence` (R218) -/
def execFence (sc : Scope) (o : MemOrder) (s : State) : Result := fencePath (MemOrder.acquires o) (MemOrder.releases o) sc s
/-- `fence.eng`: a fence of both sides at its scope, `grp` acting as `core` (R247); an operation completes only when its last
write has been performed (R245) -/
def execFenceEng (sc : Scope) (s : State) : Result := fencePath true true (if sc = .grp then .core else sc) s

/-! ### Which caches take part -/

/-- The cores whose caches take part (R219). -/
def State.scopeCores (s : State) (t : Team) (sc : Scope) : List Nat :=
  let all := s.cores.map (·.1)
  match sc with
  | .grp => [t.core] | .core => [t.core]
  | .clu => all.filter fun c => c == t.core || t.clusterCores.contains c
  | .die => all.filter fun c => dieOf c == dieOf t.core
  | .qtr => all.filter fun c => dieOf c / 6 == dieOf t.core / 6
  | .dev => all | .sys => all
/-- The dies whose RDC takes part (R219). -/
def scopeDies (t : Team) (sc : Scope) : List Nat :=
  match sc with
  | .grp => [] | .core => [] | .clu => []
  | .die => [dieOf t.core]
  | .qtr => (List.range Config.numDies).filter fun d => d / 6 == dieOf t.core / 6
  | .dev => List.range Config.numDies | .sys => List.range Config.numDies

/-- Nothing of a line is unsettled, unmirrored, unowned or in flight in the caches named. -/
def State.lineQuiet (s : State) (cores dies : List Nat) (line : Nat) : Bool :=
  !s.lineBusy line
    && (cores.all fun c => (List.range 32).all fun w =>
      let x := (s.core c).cell line w
      x.unset == 0 && x.mirs == 0 && x.pendMask == 0)
    && dies.all fun d => (List.range 32).all fun w => ((s.die d).rdcCell line w).mirs == 0

/-- A core's copy of a word goes, with its registration and, of a dirty word, its mirror entry (R375). -/
def State.dropL1 (s : State) (core line w : Nat) : State :=
  let c := (s.core core).cell line w
  if c.st = .i then s
  else
    let s := s.mapCore core fun k => k.putCell line w {}
    let s := if c.tracked then s.mapEntry (parentOf core line) line fun e => e.forget w (.l1 core) else s
    if c.tracked && c.st == .m && s.mirrors core line then
      s.send .mirClr { src := .rdc (dieOf core), dst := .mirror (buddyOf (dieOf core)), line := line, mask := bitOf w }
    else s

/-- An RDC's copy of a word goes, with its registration and its mirror entry. -/
def State.dropRdc (s : State) (d line w : Nat) : State :=
  let c := (s.die d).rdcCell line w
  if c.st = .i then s
  else
    let s := s.mapDie d fun k => k.putRdc line w {}
    let s := s.mapEntry (homeOf (line * 128)) line fun e => e.forget w (.rdc d)
    if c.st = .m then s.send .mirClr { src := .rdc d, dst := .mirror (buddyOf d), line := line, mask := bitOf w } else s

/-- The words of a line that an L1 holds dirty, each settled and mirrored: those its directory registers it as the owner of, or the
others. -/
def State.dirtyL1 (s : State) (core line : Nat) (owned : Bool) : List (Nat × WordCell) :=
  ((List.range 32).map fun w => (w, (s.core core).cell line w)).filter fun x =>
    x.2.dirty && x.2.unset == 0 && x.2.mirs == 0 && x.2.pendMask == 0 && (x.2.tracked && !x.2.loose) == owned

/-- `cwb` at an L1 (R219): unregistered words go to their home, owned ones to it or into the die's RDC; all stay valid and clean. -/
def State.cwbL1 (s : State) (core line : Nat) : State :=
  let past := s.dirtyL1 core line false
  let s := (s.dirtyL1 core line true).foldl (fun s x => s.lowerWord core line x.1 x.2) s
  if past.isEmpty then s
  else (s.writeHome core line past).mapCore core fun k => past.foldl (fun k x =>
    k.putCell line x.1 { x.2 with st := if x.2.loose then .s else .e, loose := false }) k

/-- An L1 that owns a clean word of which the RDC writes its dirty copy back shares it from then on (R385). -/
def State.softenL1 (s : State) (d line w : Nat) : State :=
  match ((s.die d).rdcHub.entry line).ownerOf w with
  | some (.l1 c) =>
    (s.mapCore c fun k => k.mapWord line w fun x => if x.st = .e then { x with st := .s, shr := false } else x).demote (.rdc d) (.l1 c) line w
  | _ => s

/-- Words an RDC writes back and keeps (R219): WbReq names them, and at its WbGnt they become shared (R372, R385). -/
def State.wbRdc (s : State) (d line : Nat) (ws : List Nat) : State :=
  if ws.isEmpty then s
  else
    let s := ws.foldl (fun s w => s.softenL1 d line w) s
    (s.mapDie d fun k => { k with writing := k.writing ++ [(line, maskOfWords ws)] }).send .wbReq
      { src := .rdc d, dst := homeOf (line * 128), line := line, mask := maskOfWords ws }

/-- The dirty words of an RDC of which no L1 of the die holds a newer value (R219). -/
def State.dirtyRdc (s : State) (d line : Nat) : List Nat :=
  (List.range 32).filter fun w =>
    let c := (s.die d).rdcCell line w
    c.st == .m && c.mirs == 0 && !(match ((s.die d).rdcHub.entry line).ownerOf w with
      | some (.l1 k) => ((s.core k).cell line w).st == .m
      | _ => false)

/-- The clean words of an L1 go (R219). -/
def State.cinvL1 (s : State) (core line : Nat) : State :=
  (List.range 32).foldl (fun s w => if ((s.core core).cell line w).dirty then s else s.dropL1 core line w) s
/-- The clean words of an RDC that no L1 of its die holds go (R219, R366). -/
def State.cinvRdc (s : State) (d line : Nat) : State :=
  (List.range 32).foldl (fun s w =>
    let e := (s.die d).rdcHub.entry line
    if ((s.die d).rdcCell line w).st = .m || (e.ownerOf w).isSome || !(e.sharersOf w).isEmpty then s else s.dropRdc d line w) s

/-- The cores that hold a line. -/
def State.holdingCores (s : State) (cs : List Nat) (line : Nat) : List Nat :=
  cs.filter fun c => ((s.core c).l1.line? line).isSome || ((s.core c).victim.line? line).isSome
/-- The dies whose RDC holds a line. -/
def State.holdingDies (s : State) (ds : List Nat) (line : Nat) : List Nat :=
  ds.filter fun d => ((s.die d).rdc.line? line).isSome || ((s.die d).rdcVictim.line? line).isSome

/-- The words that `cwb` at the L1s of a die puts into its RDC, on their way home. -/
def State.lowered (s : State) (cs : List Nat) (d line : Nat) : List Nat :=
  (List.range 32).filter fun w => cs.any fun c => dieOf c == d && (s.dirtyL1 c line true).any fun x => x.1 == w

/-- `cwb` of a line in the caches of a scope (R219): the L1s first, then the RDCs of the scope, and of other dies what their L1s
wrote. -/
def State.cwbLine (s : State) (cs ds : List Nat) (line : Nat) : State :=
  let held := s.holdingCores cs line
  let t := held.foldl (fun s c => s.cwbL1 c line) s
  (List.range Config.numDies).foldl (fun u d => u.wbRdc d line (if ds.contains d then t.dirtyRdc d line
    else (t.dirtyRdc d line).filter (s.lowered held d line).contains)) t
/-- `cinv` of a line in the caches of a scope. -/
def State.cinvLine (s : State) (cs ds : List Nat) (line : Nat) : State :=
  (s.holdingDies ds line).foldl (fun s d => s.cinvRdc d line) ((s.holdingCores cs line).foldl (fun s c => s.cinvL1 c line) s)
/-- `cwbinv` of a line in the caches of a scope (R219): an RDC of the scope recalls the line from its L1s and gives it up (R372). -/
def State.cwbinvLine (s : State) (cs ds : List Nat) (line : Nat) : State :=
  let held := s.holdingCores cs line
  let t := held.foldl (fun s c => (s.cwbL1 c line).cinvL1 c line) s
  (List.range Config.numDies).foldl (fun u d =>
    if ds.contains d then (if (s.holdingDies [d] line).isEmpty then u else u.recall (.rdc d) line)
    else u.wbRdc d line ((t.dirtyRdc d line).filter (s.lowered held d line).contains)) t

/-- What the address of a cache-control operation leads to: every permission serves (R220). -/
def State.checkCache (s : State) (t : Team) (lane : Nat) (ea : DWord) : Access :=
  let va := vaddr ea
  if !canonical ea then .violation 1 va
  else if !leaseCovers (s.leases t) va.toNat 1 .load then .violation 0 va
  else match s.translate t.core (some lane) t.asid va with
    | .wait => .wait
    | .invalid => .violation 2 va
    | .poisoned => .violation tablePoison va
    | .found e => .ok (e.phys va.toNat) e.attr e

/-- The shape of a cache-control operation (R220): it waits until what it acts on is settled and nothing of it is in flight,
then acts on each thread's line in ascending order. -/
def cacheOp (a : BitVec 7) (sc : Scope) (quiet : Bool) (f : State → Ctx → Nat → State) (s : State) : Result :=
  match s.path? with
  | none => .refused .noIssuer
  | some c =>
    let r : Regs := { reads := [(a.toNat, 2)] }
    if !r.ok c.group.regs then .next (s.trapPath c { code := 0x02 })
    else if c.poisoned r then .next (s.killGangOf c.team.id 0x11 0)
    else if !c.ready r then .next (s.noteMiss c r)
    else
      let xs := c.ms.map fun i => Attempt.mk i (vaddr ((c.view i).pair a.toNat)) (s.checkCache c.team (laneOf c.group i) ((c.view i).pair a.toNat))
      match firstViolation xs with
      | some (sub, va) => .next (s.breach c.team.id sub va)
      | none =>
        let waits := xs.any fun x => match x.ok? with
          | some (pa, _, _) => s.inTransition pa || c.mustWait x.pos (pa / 128 * 128) 128
              || (quiet && !s.lineQuiet (s.scopeCores c.team sc) (scopeDies c.team sc) (pa / 128))
          | none => true
        if waits then .next s
        else
          let s' := (spotsOf xs).foldl (fun s x => f s c (x.pa / 128)) (s.keepAll c xs)
          .next (s'.mapGroup c.team.id c.group.idx fun g => (g.mapAt c.ms fun _ t => t.tick.next).issued c.lead)

/-- `cwb` (R219) -/
def execCwb (a : BitVec 7) (sc : Scope) (s : State) : Result :=
  cacheOp a sc true (fun s c l => s.cwbLine (s.scopeCores c.team sc) (scopeDies c.team sc) l) s
/-- `cinv` (R219) -/
def execCinv (a : BitVec 7) (sc : Scope) (s : State) : Result :=
  cacheOp a sc true (fun s c l => s.cinvLine (s.scopeCores c.team sc) (scopeDies c.team sc) l) s
/-- `cwbinv` (R219) -/
def execCwbinv (a : BitVec 7) (sc : Scope) (s : State) : Result :=
  cacheOp a sc true (fun s c l => s.cwbinvLine (s.scopeCores c.team sc) (scopeDies c.team sc) l) s
/-- `icinv` (R219, R27) -/
def execIcinv (a : BitVec 7) (sc : Scope) (s : State) : Result :=
  cacheOp a sc false (fun s c l => (s.scopeCores c.team sc).foldl (fun s k =>
    s.mapCore k fun x => { x with icache := x.icache.filter fun e => e.1 != l }) s) s

/-- The shape of a prefetch (R219, R220): an address it cannot use does nothing. -/
def prefetch (a : BitVec 7) (f : State → Ctx → Spot → State) (s : State) : Result :=
  match s.path? with
  | none => .refused .noIssuer
  | some c =>
    let r : Regs := { reads := [(a.toNat, 2)] }
    if !r.ok c.group.regs then .next (s.trapPath c { code := 0x02 })
    else if c.poisoned r then .next (s.killGangOf c.team.id 0x11 0)
    else if !c.ready r then .next (s.noteMiss c r)
    else
      let xs := c.ms.map fun i => Attempt.mk i (vaddr ((c.view i).pair a.toNat)) (s.checkCache c.team (laneOf c.group i) ((c.view i).pair a.toNat))
      let spots := (spotsOf xs).filter fun x => !s.inTransition x.pa
      let s' := spots.foldl (fun s x => f s c x) (s.keepAll c xs)
      .next (s'.mapGroup c.team.id c.group.idx fun g => (g.mapAt c.ms fun _ t => t.tick.next).issued c.lead)

/-- `pf.l1`: the line is filled as a load would fill it (R219); its scope orders nothing -/
def execPfL1 (a : BitVec 7) (_sc : Scope) (s : State) : Result :=
  prefetch a (fun s c x => (s.loadLine c.team.core c.group.slotKey x.attr (x.pa / 128 * 128) 128).getD s) s

/-- The words of a line a home gives an RDC for a page that is not coherent: copies no directory registers (R205, R219). -/
def State.fillRdc (s : State) (d line : Nat) : State :=
  (List.range 32).foldl (fun s w =>
    if ((s.die d).rdcCell line w).st = .i then
      let (v, p) := s.homeWord (line * 32 + w)
      s.mapDie d fun k => k.putRdc line w { st := .e, val := v, poison := p }
    else s) (s.useL2 line)

/-- A prefetch into the L2 of a local line, or into the die's RDC of another (R219); an RDC without room first recalls its least recently
used line (R368), and one that must wait for the line to come into reach asks for it. -/
def State.prefetchL2 (s : State) (core line : Nat) (coherent : Bool) : State :=
  match parentOf core line with
  | .rdc d =>
    let need := (List.range 32).filter fun w => ((s.die d).rdcCell line w).st == .i && !s.asked (.rdc d) line w false
    if need.isEmpty || isDevice (line * 128) then s
    else if !s.hubRoom (.rdc d) line then (match s.recallLine (.rdc d) line with
      | some l => s.recall (.rdc d) l
      | none => s)
    else if coherent then s.sendUp (.rdc d) .rds line (maskOfWords need)
    else if s.inReach line then s.fillRdc d line
    else (s.ask? line).getD s
  | _ => s.useL2 line

/-- `pf.l2` (R219, R211) -/
def execPfL2 (a : BitVec 7) (_sc : Scope) (s : State) : Result :=
  prefetch a (fun s c x => s.prefetchL2 c.team.core (x.pa / 128) (isCoherent x.attr)) s

/-! ### Pages and their cached lines -/

/-- The page is homed on a compute die of this package. -/
def onPackage (pa : Nat) : Bool := match homeOf pa with
  | .home _ => true
  | _ => false

/-- The lines of a page that some cache holds, ascending. -/
def State.cachedLines (s : State) (pa size : Nat) : List Nat :=
  let inPage := fun (l : Nat × Line) => decide (pa ≤ l.1 * 128) && decide (l.1 * 128 < pa + size)
  sortNat ((s.cores.flatMap fun c => ((c.2.l1 ++ c.2.victim).filter inPage).map (·.1))
    ++ (s.dies.flatMap fun d => ((d.rdc ++ d.rdcVictim).filter inPage).map (·.1))).eraseDups

/-- Everything of the page's lines is settled and nothing is in flight (R210, R224). -/
def State.pageQuiet (s : State) (pa size : Nat) : Bool :=
  (s.cachedLines pa size).all fun l => s.lineQuiet (s.cores.map (·.1)) (List.range Config.numDies) l
    && !(s.wires.any fun w => decide (pa ≤ w.msg.line * 128) && decide (w.msg.line * 128 < pa + size))

/-- The lines with dirty words in some cache. -/
def State.dirtyLines (s : State) : List Nat :=
  let dirty := fun (l : Nat × Line) => l.2.ws.any fun wc => wc.2.dirty
  ((s.cores.flatMap fun c => ((c.2.l1 ++ c.2.victim).filter dirty).map (·.1))
    ++ s.dies.flatMap fun d => ((d.rdc ++ d.rdcVictim).filter dirty).map (·.1)).eraseDups

end Sys2Proof.Machine
end

