-- ==== Sys2Proof/Machine/Coherence.lean ====
section
/-! DEFINITION. The protocol's messages, each the arrival of one message at its destination (R369 to R375). -/
namespace Sys2Proof.Machine
open Sys2Proof

/-- A write that came from another package is the next of its line from there (R374). -/
def State.nextWrite (s : State) (p : Nat) (w : Wire) : Bool :=
  w.kind != .wbData || w.msg.seq == 0 || w.msg.seq == SMap.getD s.tookFar (farKey w.msg.line p) 0 + 1

/-- Notes a write from another package as performed. -/
def State.tookWrite (s : State) (p : Nat) (w : Wire) : State :=
  if w.kind == .wbData && w.msg.seq != 0 then { s with tookFar := SMap.put s.tookFar (farKey w.msg.line p) w.msg.seq } else s

/-- Takes a message off the wires where it is the next of its route, and a route is left to it (R379); one from another package comes from
outside, through a Varard port that carries traffic (R404). -/
def State.takeWire (s : State) (w : Wire) : Option State :=
  if !s.isDead w.msg.src && (s.routeOf w.msg).isNone then none
  else match w.msg.src with
    | .pkg p =>
      if !s.nextWrite p w || !s.wires.contains w && (s.mgmt.fabricNum == 0 || s.isDead w.msg.src) then none
      else some ({ s with wires := s.wires.erase w }.tookWrite p w)
    | _ => match s.wires.find? fun x => sameRoute x.msg w.msg with
      | some x => if x == w then some { s with wires := s.wires.erase w } else none
      | none => none

/-- A write that came from another package ahead of an earlier one of its line waits for that (R374). -/
def State.early? (s : State) (w : Wire) : Option State :=
  match w.msg.src with
  | .pkg p =>
    if s.mgmt.fabricNum = 0 ∨ s.isDead w.msg.src ∨ s.wires.contains w ∨ (s.routeOf w.msg).isNone ∨ s.nextWrite p w then none
    else some { s with wires := s.wires ++ [w] }
  | _ => none

/-- The common shape of a message's arrival: what it does at its destination, after which its sender's directory may have
more to send to that unit (R370). -/
def onMessage (k : MsgKind) (f : Msg → State → State) (m : Msg) (s : State) : Result :=
  match m.dst with
  | .pkg _ => .refused .notDue
  | _ =>
    match s.takeWire { kind := k, msg := m } with
    | none => orAsk (s.early? { kind := k, msg := m })
    | some s => .next ((f m s).pump m.src m.line)

/-- A request arrives at its directory. -/
def requestArrives (k : MsgKind) (m : Msg) (s : State) : State := s.arrive m.dst { kind := k, msg := m }

/-- RDS (R370) -/
def execRds (m : Msg) (s : State) : Result := onMessage .rds (requestArrives .rds) m s
/-- RD_OWN (R370) -/
def execRdOwn (m : Msg) (s : State) : Result := onMessage .rdOwn (requestArrives .rdOwn) m s
/-- OWN_ND (R370) -/
def execOwnNd (m : Msg) (s : State) : Result := onMessage .ownNd (requestArrives .ownNd) m s
/-- UPG (R370) -/
def execUpg (m : Msg) (s : State) : Result := onMessage .upg (requestArrives .upg) m s
/-- ATOM_REQ (R370, R214) -/
def execAtomReq (m : Msg) (s : State) : Result := onMessage .atomReq (requestArrives .atomReq) m s
/-- WB_REQ (R372) -/
def execWbReq (m : Msg) (s : State) : Result := onMessage .wbReq (requestArrives .wbReq) m s

/-- The value a message carries for a word. -/
def msgValue (m : Msg) (w : Nat) : Option Word := (m.data.find? fun x => x.1 == w).map (·.2)

/-- A grant reaches an L1 (R371): its words are merged with what was stored early, outstanding loads take their values. -/
def grantL1 (core : Nat) (m : Msg) (s : State) : State :=
  let s := s.mapCore core fun k => k.mapWords m.line (fun w c => match msgValue m w with
    | some v => WordCell.grant (m.excl.getLsbD w) (m.dirty.getLsbD w) (m.poison.getLsbD w) v c
    | none => c) (wordsOf m.mask)
  let s := s.l1Progress core
  s.fetchWords core m.line (s.wantedWords core m.line)

/-- A grant reaches an RDC (R211). Dirty words that come to the die are mirrored first (R375): until the MirAck they are
supplied to no other unit. -/
def grantRdc (d : Nat) (m : Msg) (s : State) : State :=
  let mir := if s.alive (buddyOf d) then (wordsOf m.mask).filter fun w => m.dirty.getLsbD w && !((s.die d).rdcCell m.line w).owned else []
  let s := (wordsOf m.mask).foldl (fun s w => match msgValue m w with
    | some v => s.mapDie d fun k =>
        let c := k.rdcCell m.line w
        let c' := if c.owned then { c with shr := c.shr && !m.excl.getLsbD w }
          else { c with st := if m.dirty.getLsbD w then .m else if m.excl.getLsbD w then .e else .s, val := v, tracked := true, shr := false,
                        poison := m.poison.getLsbD w, mirs := if mir.contains w then c.mirs + 1 else c.mirs }
        k.putRdc m.line w c'
    | none => s) s
  let s := if mir.isEmpty then s
    else s.send .mir { src := .rdc d, dst := .mirror (buddyOf d), line := m.line, mask := maskOfWords mir,
                       data := mir.map (fun w => (w, (msgValue m w).getD 0)), poison := m.poison &&& maskOfWords mir }
  s.grantedUp (.rdc d) m.line (m.mask &&& ~~~(maskOfWords mir))

/-- A grant of a line of another package, or of another port's host, reaches the I/O die that asked for it (R214, R380). -/
def grantIo (i : Nat) (m : Msg) (s : State) : State :=
  let new := m.data.filter fun x => s.homeWord (m.line * 32 + x.1) != (x.2, m.poison.getLsbD x.1)
  let s := new.foldl (fun s x => s.setHomeWord (m.line * 32 + x.1) x.2 (m.poison.getLsbD x.1)) s
  let asked := (s.ios.getD i {}).d2h.any fun x => x.1 == m.line
  ({ s with ios := s.ios.modify i fun io =>
    { io with
      lines := SMap.put io.lines m.line { st := .e, kept := asked }
      d2h := io.d2h.filter (fun x => x.1 != m.line) } }).grantedUp (.ioHome i) m.line m.mask

/-- The words of a list that a message has data of, with their values and their dirty and poison marks. -/
def dataOf (m : Msg) (ws : List Nat) : List (Nat × Word × Bool × Bool) :=
  ws.filterMap fun w => (msgValue m w).map fun v => (w, v, m.dirty.getLsbD w, m.poison.getLsbD w)

/-- A grant with the data that its words' former owners sent (R370); none while some of it is still to come. Words granted without data
are to be overwritten. -/
def State.completeGrant (s : State) (m : Msg) : Option (Msg × State) :=
  let mine := s.early.filter fun x => x.dst == m.dst && x.line == m.line
  let got := mine.flatMap fun x => dataOf x ((wordsOf m.mask).filter fun w => (msgValue m w).isNone)
  let lacks := (wordsOf m.mask).filter fun w => (msgValue m w).isNone && !(got.any fun g => g.1 == w)
  if lacks.any m.asked.getLsbD then none
  else some ({ m with
    data := m.data ++ got.map (fun g => (g.1, g.2.1)) ++ lacks.map fun w => (w, 0)
    dirty := m.dirty ||| maskOfWords ((got.filter fun g => g.2.2.1).map (·.1))
    poison := m.poison ||| maskOfWords ((got.filter fun g => g.2.2.2).map (·.1)) },
    { s with early := s.early.filterMap fun x =>
        if x.dst == m.dst && x.line == m.line then
          (let left := x.data.filter fun y => !m.mask.getLsbD y.1
           if left.isEmpty then none else some { x with data := left })
        else some x })

/-- What a grant does at the unit that gets it. -/
def grantArrives (m : Msg) (s : State) : State :=
  match m.dst with
    | .l1 c => grantL1 c m s
    | .rdc d => grantRdc d m s
    | .ioHome i => match homeOf (m.line * 128) with
      | .home _ => s
      | _ => grantIo i m s
    | _ => s

/-- GNT (R371, R211); it waits for data that the words' owners send; a host's or an application core's copy is registered at the home -/
def execGnt (m : Msg) (s : State) : Result :=
  match s.completeGrant m with
  | none => .refused .notDue
  | some _ => onMessage .gnt (fun m s => match s.completeGrant m with
    | some (m, s) => grantArrives m s
    | none => s) m s

/-- A snoop arrives: an L1 answers it, or holds it while a dirty word of it has not settled (R210); an RDC asks its L1s; an
application core's copy is clean and goes. -/
def snoopArrives (k : MsgKind) (m : Msg) (s : State) : State :=
  match m.dst with
  | .l1 c =>
    if (s.core c).snoopWaits m then s.mapCore c fun x => { x with heldSnoops := x.heldSnoops ++ [{ kind := k, msg := m }] }
    else s.answerSnoop c k m
  | .app i => (s.breakLr (some i) m.line m.mask).answerWith m { src := m.dst, dst := m.src, line := m.line, mask := m.mask } false
  | n => s.arrive n { kind := k, msg := m }

/-- SNP_FWD (R371) -/
def execSnpFwd (m : Msg) (s : State) : Result := onMessage .snpFwd (snoopArrives .snpFwd) m s
/-- SNP_OWN (R371) -/
def execSnpOwn (m : Msg) (s : State) : Result := onMessage .snpOwn (snoopArrives .snpOwn) m s
/-- SNP_INV (R371) -/
def execSnpInv (m : Msg) (s : State) : Result := onMessage .snpInv (snoopArrives .snpInv) m s
/-- SNP_RCL (R371, R368) -/
def execSnpRcl (m : Msg) (s : State) : Result := onMessage .snpRcl (snoopArrives .snpRcl) m s
/-- Data for a requester is kept until its grant comes; that of a dead home's line is of no use (R377). -/
def dataArrives (m : Msg) (s : State) : State :=
  if m.reader == some m.dst then (if s.isDead (homeOf (m.line * 128)) then s else { s with early := s.early ++ [m] })
  else s.answered m.dst m.src m

/-- SNP_ACK (R369) -/
def execSnpAck (m : Msg) (s : State) : Result := onMessage .snpAck (fun m s => s.answered m.dst m.src m) m s
/-- SNP_DATA (R369) -/
def execSnpData (m : Msg) (s : State) : Result := onMessage .snpData dataArrives m s

/-- WB_GNT (R372): the words still registered leave the victim buffer as WbData, or an RDC that writes them back and keeps them, where they
are shared from then on (R219, R385); words of another package's home leave the mirror with it, as no acknowledgement follows (R374) -/
def execWbGnt (m : Msg) (s : State) : Result :=
  onMessage .wbGnt (fun m s =>
    match m.dst with
    | .l1 c =>
      let k := s.core c
      let s := s.setCore c { k with victim := k.victim.dropLine m.line }
      (if m.mask == 0 then s else s.sendWbData m.dst m.src m.line m.mask 0 fun w => k.victim.cell m.line w).flushPosted c
    | .rdc d =>
      let k := s.die d
      let keeps := k.writing.any fun x => x.1 == m.line
      let s := s.setDie d (if keeps then (wordsOf m.mask).foldl (fun (k : Die) w =>
            k.putRdc m.line w { k.rdcCell m.line w with st := .s, shr := false })
          { k with writing := k.writing.filter fun x => x.1 != m.line }
        else { k with rdcVictim := k.rdcVictim.dropLine m.line })
      let s := if keeps then s else s.pumpAll (.rdc d)
      let s := if m.mask == 0 then s else s.sendWbData m.dst m.src m.line m.mask (if keeps then m.mask else 0) fun w => k.rdcCell m.line w
      match m.src with
      | .pkg _ => (s.send .mirClr { src := m.dst, dst := .mirror (buddyOf d), line := m.line, mask := m.mask }).pump m.dst m.line
      | _ => s.pump m.dst m.line
    | _ => s) m s

/-- WB_DATA (R372): the words are written and registered to no owner, the sender sharing those it keeps, and the write-back is
acknowledged (R373); an RDC passes a host line's words on at once -/
def execWbData (m : Msg) (s : State) : Result :=
  onMessage .wbData (fun m s =>
    let s := m.data.foldl (fun s x => (s.setBase m.dst m.line x.1 x.2 (m.poison.getLsbD x.1)).mapEntry m.dst m.line fun e =>
      if m.excl.getLsbD x.1 then (e.forget x.1 m.src).addSharer x.1 m.src else e.forget x.1 m.src) s
    let s := s.mapHub m.dst fun h => { h with txns := h.txns.filter fun t => !(t.on m.line && t.req == .wb && t.msg.src == m.src && (t.msg.mask &&& m.mask) != 0) }
    let s := match m.src with
      | .l1 c => s.send .cmp { src := m.dst, dst := .core c, line := m.line, mask := m.mask }
      | .rdc d => s.send .cmp { src := m.dst, dst := .rdc d, line := m.line, mask := m.mask }
      | _ => s
    let s := s.pump m.dst m.line
    match m.dst, homeOf (m.line * 128) with
    | .rdc d, .ioHome _ => s.recall (.rdc d) m.line
    | _, _ => s) m s

/-- CLEAN_EV (R371) -/
def execCleanEv (m : Msg) (s : State) : Result :=
  onMessage .cleanEv (fun m s =>
    ((wordsOf m.mask).foldl (fun s w => s.mapEntry m.dst m.line fun e => e.forget w m.src) s).pump m.dst m.line) m s

/-- An atomic's old value, or the consumption of a poisoned word, reaches its outstanding result. -/
def OutRes.atomDone (tag : Nat) (word : Nat) (olds : List Word) (o : OutRes) : OutRes :=
  match o.kind with
  | .atom t nth pa va =>
    if t = tag ∧ pa / 4 = word then { o with kind := match olds[nth]? with
      | some x => .ready [x]
      | none => .poisoned va } else o
  | _ => o

/-- The old value of a signal word reaches the engine operation that wrote it (R360). -/
def EngOp.signalDone (tag : Nat) (olds : List Word) (o : EngOp) : EngOp :=
  if o.sigEntry = some tag then { o with sigOld := some olds.head? } else o

/-- What an acknowledgement brings to a core, with the states it could be rolled back to (R350). -/
def State.ackCore (s : State) (core tag word : Nat) (olds : List Word) : State :=
  let f := fun (t : Team) => { t with groups := t.groups.map fun (g : Group) => g.mapOut (OutRes.atomDone tag word olds) }
  let ops := fun (m : SMap (List EngOp)) => m.map fun (x : Nat × List EngOp) => (x.1, x.2.map (EngOp.signalDone tag olds))
  let s := { s with teams := s.teams.map fun (t : Team) => if t.core = core then f t else t }
  s.mapCore core fun k => { k.mapSaved (fun v => { v with
    teams := v.teams.map f
    ops := ops v.ops }) with
    ops := ops k.ops }

/-- CMP (R373): a write, an atomic or a write-back has been performed; an RDC's mirror entry of the words it wrote back goes (R375) -/
def execCmp (m : Msg) (s : State) : Result :=
  onMessage .cmp (fun m s => match m.dst with
    | .core c => (s.ackWrite c m.tag).ackCore c m.tag (m.line * 32 + (wordsOf m.mask).headD 0) m.args
    | .rdc d => s.send .mirClr { src := m.dst, dst := .mirror (buddyOf d), line := m.line, mask := m.mask }
    | _ => s) m s

/-- The words a mirror store holds of a line for its buddy, with other values put in. -/
def mirrorPut (d line : Nat) (data : List (Nat × Word × Bool)) : List (Nat × Nat × SMap (Word × Bool)) → List (Nat × Nat × SMap (Word × Bool))
  | [] => [(d, line, data.foldl (fun g x => SMap.put g x.1 x.2) [])]
  | e :: r => if e.1 = d ∧ e.2.1 = line then (d, line, data.foldl (fun g x => SMap.put g x.1 x.2) e.2.2) :: r else e :: mirrorPut d line data r

/-- MIR (R375): the buddy holds the words and answers; a full store has the owner write back its oldest mirrored line
while the Mir waits; a Mir of a dead die is discarded (R376) -/
def execMir (m : Msg) (s : State) : Result :=
  onMessage .mir (fun m s =>
    match m.dst, nodeDie m.src with
    | .mirror b, some d =>
      let k := s.die b
      if k.told.contains d then s
      else if !(k.mirror.any fun e => e.1 == d && e.2.1 == m.line) && decide (Config.mirrorEntries ≤ k.mirror.length) then
        let s := { s with wires := s.wires ++ [{ kind := .mir, msg := m }] }
        match k.mirror.find? fun e => e.1 == d && !((s.die d).rdcHub.busy e.2.1) with
        | some e => s.recall (.rdc d) e.2.1
        | none => s
      else (s.setDie b { k with mirror := mirrorPut d m.line (m.data.map fun x => (x.1, x.2, m.poison.getLsbD x.1)) k.mirror }).send .mirAck { m with src := m.dst, dst := m.src, data := [] }
    | _, _ => s) m s

/-- MIR_ACK (R375) -/
def execMirAck (m : Msg) (s : State) : Result :=
  onMessage .mirAck (fun m s => match m.dst with
    | .l1 c =>
      let s := s.mapCore c fun k => k.mapWords m.line (fun _ x => { x with mirs := x.mirs - 1 }) (wordsOf m.mask)
      (s.mapCore c fun k => { k with unmir := k.unmir.erase m.tag }).l1Progress c
    | .rdc d =>
      let s := (wordsOf m.mask).foldl (fun s w => s.mapDie d fun k =>
        k.putRdc m.line w { k.rdcCell m.line w with mirs := (k.rdcCell m.line w).mirs - 1 }) s
      s.grantedUp (.rdc d) m.line m.mask
    | _ => s) m s

/-- A mirror entry without some of a line's words. -/
def mirrorDrop (d line : Nat) (mask : Mask) (e : Nat × Nat × SMap (Word × Bool)) : Option (Nat × Nat × SMap (Word × Bool)) :=
  if e.1 = d ∧ e.2.1 = line then
    if (e.2.2.filter fun x => !mask.getLsbD x.1).isEmpty then none
    else some (e.1, e.2.1, e.2.2.filter fun x => !mask.getLsbD x.1)
  else some e

/-- MIR_CLR (R372, R375) -/
def execMirClr (m : Msg) (s : State) : Result :=
  onMessage .mirClr (fun m s => match m.dst, nodeDie m.src with
    | .mirror b, some d => s.mapDie b fun k => { k with mirror := k.mirror.filterMap (mirrorDrop d m.line m.mask) }
    | _, _ => s) m s

/-- Words of host lines that a core's posted traffic still has on their way (R374). -/
def State.postedLeft (s : State) (core : Nat) (n : Node) : Bool :=
  let mine := fun (l : Nat × Line) => homeOf (l.1 * 128) == n && l.2.ws.any fun wc => wc.2.tracked && wc.2.st == .m
  let k := s.core core
  let d := s.die (dieOf core)
  k.l1.any mine || k.victim.any mine || d.rdc.any mine || d.rdcVictim.any mine
    || s.wires.any (fun w => w.kind == .wbData && homeOf (w.msg.line * 128) == n && nodeDie w.msg.src == some (dieOf core))

/-- MARK (R374): the destination answers once it has performed what came ahead of the marker -/
def execMark (m : Msg) (s : State) : Result :=
  onMessage .mark (fun m s => match m.src with
    | .core c => if s.postedLeft c m.dst then { s with wires := s.wires ++ [{ kind := .mark, msg := m }] }
      else s.send .markAck { m with src := m.dst, dst := m.src }
    | _ => s.send .markAck { m with src := m.dst, dst := m.src }) m s

/-- MARK_ACK (R374) -/
def execMarkAck (m : Msg) (s : State) : Result :=
  onMessage .markAck (fun m s => match m.dst with
    | .core c => s.mapCore c fun k => { k with marksOut := k.marksOut.filter fun x => x != (m.tag, m.src) }
    | _ => s) m s

end Sys2Proof.Machine
end

