-- ==== Sys2Proof/Machine/Control.lean ====
section
/-! DEFINITION. Branches, calls, indirect transfers and landing pads (R113 to R116). -/
namespace Sys2Proof.Machine
open Sys2Proof

/-- The address a word offset leads to (R33). -/
def branchTarget {n : Nat} (pc : VAddr) (o : BitVec n) : VAddr := pc + (o.signExtend 56 <<< 2)

/-- `bra` (R113) -/
def execBra (o : BitVec 25) (s : State) : Result := laneStep {} (fun w => w.t.goTo (branchTarget w.t.pc o)) s

/-- A conditional branch: each thread decides by its own predicate (R113). -/
def laneBranch (p : BitVec 3) (o : BitVec 21) (invert : Bool) (s : State) : Result :=
  laneStep { predReads := [p.toNat] }
    (fun w => if (w.p p.toNat != invert) then w.t.goTo (branchTarget w.t.pc o) else w.t.next) s

/-- `bra.t` (R113) -/
def execBraT (p : BitVec 3) (o : BitVec 21) (s : State) : Result := laneBranch p o false s
/-- `bra.f` (R113) -/
def execBraF (p : BitVec 3) (o : BitVec 21) (s : State) : Result := laneBranch p o true s

/-- The link a call writes: the canonical form of the next address (R114). -/
def linkOf (pc : VAddr) : DWord := (pc + 4).signExtend 64

/-- `call`: the link goes to `v0:v1` (R114) -/
def execCall (o : BitVec 25) (s : State) : Result :=
  laneStep { writes := [(0, 2)] } (fun w => (w.setPair 0 (linkOf w.t.pc)).goTo (branchTarget w.t.pc o)) s

/-- What the target of an indirect transfer turns out to be (R115). -/
inductive Landing
  | ok
  | bad
  | wait
  /-- the target's page has no valid or permitted translation -/
  | violation (sub : Nat)
deriving DecidableEq, Repr

/-- The checks of an indirect transfer's target; `land` says that the word there must be `land` (R115). -/
def State.landing (s : State) (t : Team) (x : DWord) (land : Bool) : Landing :=
  if !canonical x || x.toNat % 4 != 0 || !leaseCovers (s.leases t) (vaddr x).toNat 4 .fetch then .bad
  else if !land then .ok
  else match s.checkFetch t (vaddr x) with
    | .ok pa _ _ => match s.codeWord t.core pa with
      | some (w, _) => if w = 2 then .ok else .bad
      | none => .wait
    | .wait => .wait
    | .violation sub _ => .violation sub
    | .trap _ => .bad

/-- An indirect transfer (R115, R116): a thread whose target fails takes the landing-pad trap, the others continue. -/
def indirect (a : BitVec 7) (land link : Bool) (s : State) : Result :=
  match s.path? with
  | none => .refused .noIssuer
  | some c =>
    let at' := fun i => s.landing c.team ((c.view i).pair a.toNat) land
    let r : Regs := { reads := [(a.toNat, 2)], writes := if link then [(0, 2)] else [] }
    let go := r.ok c.group.regs && !c.poisoned r && c.ready r
    if go && c.ms.any (fun i => at' i == .wait) then .next s
    else
      match if go then
          c.ms.findSome? fun i => match at' i with
            | .violation sub => some (sub, vaddr ((c.view i).pair a.toNat))
            | _ => none
        else none with
      | some (sub, va) => .next (s.breach c.team.id sub va)
      | none =>
        laneTry r (fun c i w =>
          let x := w.pair a.toNat
          match s.landing c.team x land with
          | .ok => .ok ((if link then w.setPair 0 (linkOf w.t.pc) else w.t).goTo (vaddr x))
          | _ => .error { pos := i, info := { code := 0x04, tval := vaddr x }, epc := w.t.pc }) s

/-- `jmpi` (R115) -/
def execJmpi (a : BitVec 7) (s : State) : Result := indirect a true false s
/-- `calli` (R115) -/
def execCalli (a : BitVec 7) (s : State) : Result := indirect a true true s
/-- `ret` (R115) -/
def execRet (a : BitVec 7) (s : State) : Result := indirect a false false s

end Sys2Proof.Machine
end

