-- ==== Sys2Proof/Machine/Sync.lean ====
section
/-! DEFINITION. Reads and writes of parties that have no L1: the distributor, application cores and CXL hosts. A write is
performed at the word's home once nothing of the word is in flight, after the copies registered for it have gone (DESIGN CHOICE, log 7). -/
namespace Sys2Proof.Machine
open Sys2Proof

/-- The word may be written at its home by a party: the I/O die of a host owns its line, and no other host or package holds the word
(R381). -/
def State.writable (s : State) (w : Nat) (me : Option Node := none) : Bool :=
  let free := fun (n : Node) => !(((s.hub n).entry (w / 32)).heldAway (w % 32) me)
  let owned := fun (i : Nat) => (let st := (SMap.getD (s.ios.getD i {}).lines (w / 32) {}).st; st == .e || st == .m)
  s.inReach (w / 32) && (isDevice (4 * w) || match homeOf (4 * w) with
    | .ioHome i => owned i && free (.ioHome i)
    | .pkg p => s.lostPkgs.contains p || owned 0
    | n => free n)

/-- A registered copy of the word has nothing unsettled, unmirrored or unowned, and its line nothing in flight. -/
def State.wordQuiet (s : State) (w : Nat) (me : Option Node := none) : Bool :=
  let line := w / 32
  !s.lineBusy line && s.writable w me
    && (s.cores.all fun c =>
      let x := c.2.cell line (w % 32)
      !x.tracked || (x.unset == 0 && x.mirs == 0 && x.pendMask == 0))
    && s.dies.all fun d => (d.rdcCell line (w % 32)).mirs == 0

/-- The registered copies of a word go, and the reservations on it (R227). -/
def State.dropCopies (s : State) (w : Nat) : State :=
  let line := w / 32
  let s := (s.cores.map (·.1)).foldl (fun s c => if ((s.core c).cell line (w % 32)).tracked then s.dropL1 c line (w % 32) else s) s
  let s := (List.range Config.numDies).foldl (fun s d => s.dropRdc d line (w % 32)) s
  let n := homeOf (4 * w)
  let s := if ((s.hub n).entry line).nodes.isEmpty then s else s.mapEntry n line fun e => e.clear (w % 32)
  s.breakLr none line (bitOf (w % 32))

/-- A word written at its home by a party without an L1. -/
def State.homeWrite (s : State) (w : Nat) (x : Word) : State := (s.dropCopies w).setHomeWord w x false

/-- A page-table entry changed at its home, from the value its words have in memory or in the cache that owns them; their poison stays
(R356). -/
def State.changeEntry (s : State) (a : Nat) (f : DWord → DWord) : State :=
  let now := fun (w : Nat) => (s.view none w).getD (s.homeWord w)
  let x := f (joinWords (now (a / 4)).1 (now (a / 4 + 1)).1)
  let put := fun (s : State) (w : Nat) (v : Word) => (s.dropCopies w).setHomeWord w v (now w).2
  put (put s (a / 4) (x.setWidth 32)) (a / 4 + 1) ((x >>> 32).setWidth 32)

/-- The physical address of a virtual address in an address space, by a walk; none where it must wait, and otherwise what
the walk found. -/
def State.walkPa (s : State) (asid va : Nat) : Option (Option TlbEntry) :=
  match s.walk asid (BitVec.ofNat 56 va) with
  | .wait => none
  | .invalid => some none
  | .poisoned => some none
  | .found e => some (some e)

/-- What a read by the distributor comes to. -/
inductive DistRead
  | ok (ws : List Word)
  | bad
  | wait
deriving DecidableEq, Repr

/-- `n` words from a virtual address of an address space, read coherently (R164, R328). -/
def State.distRead (s : State) (asid va : Nat) : Nat → DistRead
  | 0 => .ok []
  | n + 1 =>
    if 2 ^ 56 ≤ va then .bad
    else match s.walkPa asid va with
    | none => .wait
    | some none => .bad
    | some (some e) =>
      if !permits e.perm .load then .bad
      else match s.view none (e.phys va / 4) with
        | none => .wait
        | some (w, _) => match State.distRead s asid (va + 4) n with
          | .ok ws => .ok (w :: ws)
          | x => x

/-- A virtual word written by the distributor; none where it must wait. An address without a translation is not written. -/
def State.distWrite (s : State) (asid va : Nat) (x : Word) : Option State :=
  match s.walkPa asid va with
  | none => none
  | some none => some s
  | some (some e) => if s.wordQuiet (e.phys va / 4) && !s.inTransition (e.phys va) then some (s.homeWrite (e.phys va / 4) x) else none

end Sys2Proof.Machine
end

