-- ==== Sys2Proof/Machine/Image.lean ====
section
/-! DEFINITION. What a restore reads back of a team's image (R341, R342): the `v` registers of every thread and the scratchpads. -/
namespace Sys2Proof.Machine
open Sys2Proof

/-- Words of an image from a virtual address on, with their poison, by coherent reads, one 4 KiB unit after the other: none where one must
wait, `some none` where a page is not readable. -/
def State.readUnits (s : State) (asid : Nat) : Nat → Nat → Nat → Option (Option (List (Word × Bool)))
  | 0, _, _ => some (some [])
  | fuel + 1, va, n =>
    if n = 0 then some (some [])
    else match s.walk asid (BitVec.ofNat 56 va) with
      | .wait => none
      | .invalid => some none
      | .poisoned => some none
      | .found e =>
        let m := min n ((4096 - va % 4096) / 4)
        match (if permits e.perm .load then (List.range m).mapM fun i => s.view none (e.phys va / 4 + i) else none),
            State.readUnits s asid fuel (va + 4 * m) (n - m) with
        | some ws, some (some r) => some (some (ws ++ r))
        | _, some none => some none
        | none, some (some _) => if permits e.perm .load then none else some none
        | _, none => none

/-- `n` words from a virtual address on. -/
def State.imageWords (s : State) (asid va n : Nat) : Option (Option (List (Word × Bool))) := s.readUnits asid (n / 1024 + 2) va n

/-- The places of poisoned words in a list. -/
def poisonedAt (ws : List (Word × Bool)) : List Nat := ws.zipIdx.filterMap fun x => if x.1.2 then some x.2 else none

/-- A group with the `v` registers its image holds, thread by thread (R341). -/
def Group.withImage (g : Group) (ws : List (Word × Bool)) : Group :=
  { g with threads := g.threads.mapIdx fun i t =>
      let mine := (ws.drop (g.regs * i)).take g.regs
      { t with v := mine.map (·.1), poison := poisonedAt mine } }

/-- A team with the scratchpad its image holds (R341). -/
def Team.withImage (t : Team) (ws : List (Word × Bool)) : Team :=
  { t with scratch := Memory.ofWords 0 (ws.map (·.1)), scratchPoison := poisonedAt ws }

/-- The groups of a team read back from their sections, the first at `va`; an unreadable one stays as it was saved (DESIGN CHOICE,
log 16). -/
def State.loadGroups (s : State) (asid : Nat) : Nat → List Group → Option (List Group × Nat)
  | va, [] => some ([], va)
  | va, g :: r =>
    match s.imageWords asid (va + 832) (32 * g.regs), s.loadGroups asid (va + 832 + 128 * g.regs) r with
    | some ws, some (gs, stop) => some ((match ws with | some ws => g.withImage ws | none => g) :: gs, stop)
    | _, _ => none

/-- The groups of a family, team after team. -/
def State.loadFamilyGroups (s : State) (asid : Nat) : Nat → List Team → Option (List Team × Nat)
  | va, [] => some ([], va)
  | va, t :: r =>
    match s.loadGroups asid va t.groups with
    | none => none
    | some (gs, va) => (State.loadFamilyGroups s asid va r).map fun x => ({ t with groups := gs } :: x.1, x.2)

/-- The scratchpads of a family, team after team. -/
def State.loadScratches (s : State) (asid : Nat) : Nat → List Team → Option (List Team)
  | _, [] => some []
  | va, t :: r =>
    match s.imageWords asid va (t.granules.length * Config.granuleBytes / 4),
        State.loadScratches s asid (va + t.granules.length * Config.granuleBytes) r with
    | some ws, some ts => some ((match ws with | some ws => t.withImage ws | none => t) :: ts)
    | _, _ => none

/-- A saved family as its image at `va` gives it back; none where a word must wait (R342). -/
def State.loadFamily (s : State) (asid va : Nat) (ts : List Team) : Option (List Team) :=
  (s.loadFamilyGroups asid (va + 1024) ts).bind fun x => s.loadScratches asid (x.2 + 8192 + 1024) x.1

/-- A launch with the saved members of a cluster read back from their images; none where a word must wait. -/
def State.loadCluster (s : State) (l : Launch) (cluster : Nat) : Option Launch :=
  (l.clusterIndices cluster).foldl (fun o i => o.bind fun l =>
    match SMap.get? l.saved i, SMap.get? l.savedAt i with
    | some ts, some va => (s.loadFamily l.asid va ts).map fun ts => { l with saved := SMap.put l.saved i ts }
    | _, _ => some l) (some l)

end Sys2Proof.Machine
end

