-- ==== Sys2Proof/Machine/Queues.lean ====
section
/-! DEFINITION. Queue registers: bindings (R168), pushes (R128), pops and try-pops (R129), the admission of entries (R252,
R253, R359). -/
namespace Sys2Proof.Machine
open Sys2Proof

/-! ### Bindings (R127, R162, R168) -/

/-- The binding of a queue register for a group's role; a spawned child has none. -/
def State.binding (s : State) (t : Team) (g : Group) (q : Nat) : Nat :=
  if t.parent.isSome then 0
  else match s.launchOf t with
    | none => 0
    | some l => match l.entryOf g.role with
      | some r => l.bind r q
      | none => 0

/-- What a queue register leads to: an engine's endpoint, or the link with the member that field m of R168 names. -/
inductive QueueEnd
  | engine (e : Nat)
  | link (m : Nat)
deriving DecidableEq, Repr

/-- A binding byte is a link: its role kind is 0 to 2 and its member field 13 to 15. -/
def linkByte (b : Nat) : Bool := decide (b / 16 % 4 < 3) && decide (13 ≤ b % 16)

/-- Where a push goes; none for a queue-binding trap (R127). -/
def pushEnd (b : Nat) : Option QueueEnd :=
  if 0x10 ≤ b ∧ b ≤ 0x17 then some (.engine (b - 0x10))
  else if b = 0x20 then some (.engine 8)
  else if b / 64 = 1 ∧ linkByte b then some (.link (b % 16))
  else none

/-- Where a pop of a role comes from; none for a queue-binding trap. An outgoing link to the role's own kind is its incoming
link too: entries of a push to the next member come to it from the previous one (R127, R169). -/
def popEnd (role b : Nat) : Option QueueEnd :=
  if 0x18 ≤ b ∧ b ≤ 0x1F then some (.engine (b - 0x18))
  else if b = 0x21 then some (.engine 8)
  else if b / 64 = 2 ∧ linkByte b then some (.link (b % 16))
  else if b / 64 = 1 ∧ linkByte b ∧ b / 16 % 4 = role then some (.link (b % 16))
  else none

/-- The member a link's member field names (R168). -/
def State.linkMember (s : State) (t : Team) (m : Nat) : Nat :=
  let n := s.clusterSize t
  if m = 14 then (t.member + 1) % n else if m = 13 then (t.member + n - 1) % n else t.member

/-- A binding byte is an outgoing or an incoming link (R168). -/
def outLink (b : Nat) : Bool := decide (b / 64 = 1) && linkByte b
def inLink (b : Nat) : Bool := decide (b / 64 = 2) && linkByte b

/-! ### Laps (R343) -/

/-- The queue whose entries a role's laps count: the lowest-numbered it binds as a link, with whether its pushes count. -/
def Launch.lapQueue (l : Launch) (kind : Nat) : Option (Nat × Bool) :=
  (l.entryOf kind).bind fun r =>
    ((List.range 16).find? fun q => outLink (l.bind r q) || inLink (l.bind r q)).map fun q => (q, outLink (l.bind r q))

/-- `n` more entries pushed to, or popped from, queue `q` by a role of a team count towards its laps; where no vintage is taken,
the lap the next would stop at moves on. -/
def State.countLap (s : State) (team kind q n : Nat) (push : Bool) : State :=
  match s.team? team with
  | none => s
  | some t =>
    match s.launchOf t with
    | none => s
    | some l =>
      if l.laps = 0 ∨ t.parent.isSome ∨ l.lapQueue kind ≠ some (q, push) then s
      else
        let x := SMap.getD t.laps kind 0 + n
        let s := s.mapTeam team fun t => { t with laps := SMap.put t.laps kind x }
        if (s.port t.asid).vintOn then s
        else s.mapLaunch t.asid t.seq fun l =>
          { l with vintageNext := SMap.put l.vintageNext t.cluster (max (SMap.getD l.vintageNext t.cluster l.laps) ((x / 32 / l.laps + 1) * l.laps)) }

/-! ### Admission -/

/-- Entries of a queue, as a pop finds them. -/
def Team.entries (t : Team) (eng : Option Nat) (q : Nat) : List Word :=
  match eng with
  | some e => (SMap.getD t.engs e {}).res
  | none => (SMap.getD t.links q {}).q
/-- A queue with its first `n` entries taken. -/
def Team.takeEntries (t : Team) (eng : Option Nat) (q n : Nat) : Team :=
  match eng with
  | some e => t.mapEng e fun p => { p with res := p.res.drop n }
  | none => t.mapLink q fun l => { l with q := l.q.drop n }

/-- Admits the entries that wait at a link, in order, as far as there is room; an entry below the expected count is dropped as
a repeat (R359). `n` bounds the entries looked at. -/
def State.admitEntries (s : State) (team q : Nat) : Nat → State
  | 0 => s
  | n + 1 =>
    match s.team? team with
    | none => s
    | some t =>
      let l := SMap.getD t.links q {}
      match l.arrived with
      | [] => s
      | (count, w, sender) :: r =>
        if count = l.expected then
          if l.q.length < 32 then
            State.admitEntries ((s.mapTeam team fun t => t.mapLink q fun l =>
              { l with q := l.q ++ [w], expected := l.expected + 1, arrived := r }).admitLink t.core sender q count) team q n
          else s
        else State.admitEntries ((s.mapTeam team fun t => t.mapLink q fun l => { l with arrived := r }).admitLink t.core sender q count) team q n

/-- Admits the settled words of an engine's command endpoint, in turn `now`, as far as there is room (R252, R253). -/
def EngPort.takeWords (now : Nat) (p : EngPort) : EngPort :=
  let k := min p.arrived.length (64 - p.cmd.length)
  { p with cmd := p.cmd ++ p.arrived.take k, stamps := p.stamps ++ List.replicate k now, arrived := p.arrived.drop k, admitted := p.admitted + BitVec.ofNat 32 k }

/-! ### Pops -/

/-- Gives entries to the threads of a pop in ascending order, each up to its span (R129). -/
def fillCarried (span : Nat) : List Nat → List Word → Group → Group
  | [], _, g => g
  | i :: r, ws, g =>
    let t := g.thread i
    let k := span - t.carried.length
    fillCarried span r (ws.drop k) (g.setThread i { t with carried := t.carried ++ ws.take k })

/-- Entries a pop still has to claim. -/
def PopWait.missing (p : PopWait) (g : Group) : Nat := (p.ms.map fun i => p.span - (g.thread i).carried.length).sum

/-- A thread whose pop has all its entries leaves it (R141): its values are a result that is ready, and the pop acquires, which
takes its speculation entries (R125, R244). -/
def Thread.popped (handler : Bool) (p : PopWait) (far : Bool) (t : Thread) : Thread :=
  let t := { t with out := t.out ++ [{ dst := p.dst, look := p.look, ext := far, kind := .ready t.carried }], carried := [], spec := [] }
  if t.isBlocked then Thread.release handler t else t.next

/-- What one waiting pop may claim now: all it needs at once, or, where it needs more than the queue holds, what is there. -/
def PopWait.claim (p : PopWait) (g : Group) (there : Nat) : Nat :=
  let need := p.missing g
  if p.ms.length * p.span ≤ 32 then (if need ≤ there then need else 0) else min need there

/-- Serves the pops that wait at a team's queues, in the order they reached them; a pop that still waits holds back the later
ones of its queue. -/
def servePops (t : Team) : List PopWait → List (Option Nat × Nat) → List PopWait → Team
  | [], _, kept => { t with pops := kept }
  | p :: r, busy, kept =>
    match t.group? p.group with
    | none => servePops t r busy kept
    | some g =>
      let key := (p.eng, if p.eng.isSome then 0 else p.q)
      if busy.contains key then servePops t r busy (kept ++ [p])
      else
        let there := t.entries p.eng p.q
        let k := p.claim g there.length
        let g' := fillCarried p.span p.ms (there.take k) g
        let t' := t.takeEntries p.eng p.q k
        if p.missing g' = 0 then
          servePops (t'.setGroup (g'.mapAt p.ms fun _ h => Thread.popped g.handler p p.far h)) r busy kept
        else servePops (t'.setGroup g') r (key :: busy) (kept ++ [p])

/-- Entries a pop has claimed count towards the laps of a role that binds the queue as an incoming link only. -/
def State.countPop (s : State) (team kind : Nat) (p : PopWait) (n : Nat) : State :=
  if p.eng.isSome then s else s.countLap team kind p.q n false

/-- Entries of its threads a pop holds: those its group carries, or all it asked for once it is served. -/
def PopWait.held (p : PopWait) (t : Team) : Nat :=
  if t.pops.contains p then (p.ms.map fun i => ((t.group? p.group).map fun g => (g.thread i).carried.length).getD 0).sum
  else p.ms.length * p.span

/-- Counts what the pops `ps` claimed since the team stood as `before`. -/
def State.countClaims (s : State) (team : Nat) (before : Team) (ps : List PopWait) : State :=
  ps.foldl (fun s p =>
    match s.team? team with
    | none => s
    | some t => s.countPop team (((t.group? p.group).map (·.role)).getD 0) p (p.held t - p.held before)) s

/-- What may go on at a team's queues: entries are admitted, pops claim them, and room so made lets more in. -/
def State.queueRound (s : State) (team : Nat) : State :=
  match s.team? team with
  | none => s
  | some t =>
    let s := s.mapTeam team fun t => { t with engs := t.engs.map fun p => (p.1, p.2.takeWords s.turn) }
    let s := t.links.foldl (fun s l => s.admitEntries team l.1 (l.2.arrived.length + 1)) s
    match s.team? team with
    | none => s
    | some t => (s.mapTeam team fun t => servePops t t.pops [] []).countClaims team t t.pops

/-- Rounds until nothing more can move, at most `n`. -/
def State.queueRounds (s : State) (team : Nat) : Nat → State
  | 0 => s
  | n + 1 => State.queueRounds (s.queueRound team) team n

/-- Everything that may go on at a team's queues, and the pushes this lets go on. -/
def State.queueProgress (s : State) (team : Nat) : State :=
  let n := match s.team? team with
    | some t => (t.links.map fun l => l.2.arrived.length).sum + t.pops.length + 1
    | none => 0
  (s.queueRounds team n).releasePushes

/-- Entries reach a member's core (R128, R359): they wait for room there, or are discarded where the team has retired or ended,
which counts as their admission and as remote drops. -/
def State.linkArrives (s : State) (rcv : MemberRef) (q sender : Nat) (first : Word) (ws : List Word) : State :=
  let numbered := ws.mapIdx fun i w => (first + BitVec.ofNat 32 i, w, sender)
  let drop := ((numbered.foldl (fun (s : State) a => s.admitLink rcv.core sender q a.1) s).mapCore rcv.core fun k =>
    { k with remoteDrops := min (2 ^ 32 - 1) (k.remoteDrops + ws.length) }).releasePushes
  match s.member? rcv with
  | some t =>
    let add := fun (t : Team) => t.mapLink q fun l => { l with arrived := l.arrived ++ numbered }
    let near := ((s.team? sender).map fun u => u.core == t.core).getD false
    if t.retiring then drop
    else (if near then s.mapTeam t.id add else s.inputTeam t.id add).queueProgress t.id
  | none => drop

/-! ### The instructions -/

/-- Words in pieces of at most 32: the entries of 128 bytes they settle in (R346). -/
def chunks32 : Nat → List Word → List (List Word)
  | 0, _ => []
  | n + 1, ws => if ws.isEmpty then [] else ws.take 32 :: chunks32 n (ws.drop 32)

/-- Chunks of a push with the count of each one's first entry. -/
def pushChunks (first : Word) (ws : List Word) : List (Word × List Word) :=
  (chunks32 (ws.length / 32 + 1) ws).mapIdx fun i c => (first + BitVec.ofNat 32 (32 * i), c)

/-- The path's threads wait inside a push until its last entry is admitted. -/
def pushWait (c : Ctx) (eng : Option Nat) (q : Nat) (upto : Word) (s : State) : State :=
  s.mapGroup c.team.id c.group.idx fun g => g.mapAt c.ms fun _ t => { t.tick with status := .blocked (.push eng q upto) }

/-- A push of `span` words of each thread (R127, R128): to an engine or another core as outgoing effects, to a role on the same
core at once. A link's push is a release at core scope, or at cluster scope to another member (R244). -/
def qpush (span : Nat) (q : BitVec 4) (a : BitVec 7) (s : State) : Result :=
  match s.path? with
  | none => .refused .noIssuer
  | some c =>
    let r : Regs := { reads := [(a.toNat, span)] }
    let qn := q.toNat
    if !r.ok c.group.regs then .next (s.trapPath c { code := 0x02 })
    else match pushEnd (s.binding c.team c.group qn) with
    | none => .next (s.trapPath c { code := 0x08, detail := qn })
    | some e =>
      if c.poisoned r then .next (s.killGangOf c.team.id 0x11 0)
      else if !c.ready r then .next (s.noteMiss c r)
      else
        let ws := c.ms.flatMap fun i => (List.range span).map fun k => (c.view i).v (a.toNat + k)
        let n := BitVec.ofNat 32 ws.length
        let me := c.team.id
        match e with
        | .engine eng =>
          let cs := chunks32 (ws.length / 32 + 1) ws
          if s.room c.team.core < cs.length then .next s
          else
            let s := cs.foldl (fun s w => s.produce c.team.core me (.command me eng w)) s
            let s := s.mapTeam me fun t => t.mapEng eng fun p => { p with pushed := p.pushed + n, used := true }
            .next (((pushWait c (some eng) qn ((SMap.getD c.team.engs eng {}).pushed + n) s).queueProgress me).issue c)
        | .link m =>
          let rcv := c.team.ref (s.linkMember c.team m)
          let first := (SMap.getD c.team.links qn {}).pushed
          let near := decide (m = 15) || rcv.core == c.team.core
          let sc : Scope := if near then .core else .clu
          if !s.mayRelease c sc then .next (s.beginRelease c sc)
          else
            let cs := pushChunks first ws
            if !near && decide (s.room c.team.core < cs.length) then .next s
            else
              let s := (s.mapTeam me fun t => t.mapLink qn fun l => { l with pushed := l.pushed + n }).countLap me c.group.role qn ws.length true
              let s := pushWait c none qn (first + n) s
              if near then .next ((s.linkArrives rcv qn me first ws).issue c)
              else .next ((cs.foldl (fun s k => s.produce c.team.core me (.link rcv qn k.1 k.2)) s).issue c)

/-- `qpush.b32` (R127) -/
def execQpushB32 (q : BitVec 4) (a : BitVec 7) (s : State) : Result := qpush 1 q a s
/-- `qpush.b64` (R127) -/
def execQpushB64 (q : BitVec 4) (a : BitVec 7) (s : State) : Result := qpush 2 q a s

/-- The pop of a path at a queue. -/
def popOf (s : State) (c : Ctx) (e : QueueEnd) (q span d look : Nat) : PopWait :=
  { q := q, eng := (match e with | .engine k => some k | .link _ => none),
    far := (match e with | .engine _ => false | .link m => decide (m ≠ 15) && (c.team.ref (s.linkMember c.team m)).core != c.team.core),
    group := c.group.idx, ms := c.ms, span := span, dst := operandIdx c.group.handler (d, span), look := look }

/-- The checks a pop and a try-pop share: registers, binding, interlocks. -/
def popShape (span : Nat) (d : BitVec 7) (q : BitVec 4) (pw : List Nat) (f : Ctx → QueueEnd → Result) (s : State) : Result :=
  match s.path? with
  | none => .refused .noIssuer
  | some c =>
    let r : Regs := { writes := [(d.toNat, span)], predWrites := pw }
    if !r.ok c.group.regs then .next (s.trapPath c { code := 0x02 })
    else match popEnd c.group.role (s.binding c.team c.group q.toNat) with
    | none => .next (s.trapPath c { code := 0x08, detail := q.toNat })
    | some e => if !c.ready r then .next (s.noteMiss c r) else if !c.roomForOut then .next s else f c e

/-- A pop of `span` entries for each thread (R129): it waits at its queue for its turn and its entries. -/
def qpop (span : Nat) (d : BitVec 7) (q l : BitVec 4) (s : State) : Result :=
  popShape span d q [] (fun c e =>
    let p := popOf s c e q.toNat span d.toNat l.toNat
    let s := s.mapGroup c.team.id c.group.idx fun g => g.mapAt c.ms fun _ t => { t.tick with status := .blocked (.pop q.toNat) }
    .next (((s.mapTeam c.team.id fun t => { t with pops := t.pops ++ [p] }).queueProgress c.team.id).issue c)) s

/-- A try-pop (R129): it claims its entries if all are there and no pop waits, and otherwise writes 0 to the predicate. -/
def qtry (span : Nat) (d : BitVec 7) (q l : BitVec 4) (pr : BitVec 3) (s : State) : Result :=
  popShape span d q [pr.toNat] (fun c e =>
    let p := popOf s c e q.toNat span d.toNat l.toNat
    let there := c.team.entries p.eng p.q
    let n := c.ms.length * span
    let waiting := c.team.pops.any fun w => w.eng == p.eng && (w.eng.isSome || w.q == p.q)
    if n ≤ 32 ∧ n ≤ there.length ∧ !waiting then
      let upd := fun (g : Group) =>
        ((fillCarried span c.ms (there.take n) (g.mapAt c.ms fun _ t => { t with carried := [] })).mapAt c.ms fun _ t =>
          (Thread.popped g.handler p p.far (t.tick.writeP g.handler pr.toNat true))).issued c.lead
      .next ((((s.mapTeam c.team.id fun t => t.takeEntries p.eng p.q n).mapGroup c.team.id c.group.idx upd).countPop c.team.id c.group.role p n).queueProgress
        c.team.id)
    else
      .next (s.mapGroup c.team.id c.group.idx fun g =>
        (g.mapAt c.ms fun _ t => Thread.next { (t.tick.writeP g.handler pr.toNat false) with spec := [] }).issued c.lead)) s

/-- `qpop.b32` (R127) -/
def execQpopB32 (d : BitVec 7) (q l : BitVec 4) (s : State) : Result := qpop 1 d q l s
/-- `qpop.b64` (R127) -/
def execQpopB64 (d : BitVec 7) (q l : BitVec 4) (s : State) : Result := qpop 2 d q l s
/-- `qtry.b32` (R127) -/
def execQtryB32 (d : BitVec 7) (q l : BitVec 4) (p : BitVec 3) (s : State) : Result := qtry 1 d q l p s
/-- `qtry.b64` (R127) -/
def execQtryB64 (d : BitVec 7) (q l : BitVec 4) (p : BitVec 3) (s : State) : Result := qtry 2 d q l p s

end Sys2Proof.Machine
end

