-- ==== Sys2Proof/Machine/Spawn.lean ====
section
/-! DEFINITION. `spawn` and `kspawn` (R159 to R161) and `klaunch` (R175). -/
namespace Sys2Proof.Machine
open Sys2Proof

/-- A word of a spawn descriptor. -/
def descWord (d : List Word) (off : Nat) : Nat := (d.getD (off / 4) 0).toNat
/-- The fields of a descriptor (R159). -/
def descEntry (d : List Word) : Nat := descWord d 0 + 2 ^ 32 * descWord d 4
def descThreads (d : List Word) : Nat := nbits (descWord d 8) 23 16
def descRegs (d : List Word) : Nat := nbits (descWord d 8) 7 0
def descQuantum (d : List Word) : Nat := nbits (descWord d 12) 31 16
def descGranules (d : List Word) : Nat := nbits (descWord d 12) 5 0

/-- Every rule of R159 holds. -/
def validDescriptor (d : List Word) : Bool :=
  canonical (BitVec.ofNat 64 (descEntry d)) && decide (descEntry d % 4 = 0)
    && decide (nbits (descWord d 8) 31 24 = 0) && decide (nbits (descWord d 8) 15 8 = 0)
    && decide (1 ≤ descThreads d) && decide (descThreads d ≤ 32)
    && decide (descRegs d % 8 = 0) && decide (8 ≤ descRegs d) && decide (descRegs d ≤ 128)
    && decide (nbits (descWord d 12) 15 6 = 0) && decide (descGranules d ≤ 32)
    && (d.drop 4).all fun w => w == 0

/-- What reading a descriptor comes to (R160). -/
inductive DescRead
  | ok (desc : List Word)
  | trap (i : TrapInfo)
  | violation (sub : Nat) (addr : VAddr)
  | poisoned (addr : VAddr)
  | wait
deriving DecidableEq, Repr

/-- The checks and the load of R160 for one thread, and the core's L1 after it. -/
def State.readDesc (s : State) (c : Ctx) (lane : Option Nat) (da : DWord) : State × DescRead :=
  let va := vaddr da
  if c.group.depth = 4 then (s, .trap { code := 0x0A })
  else if va.toNat % 32 ≠ 0 then (s, .trap { code := 0x03, tval := va })
  else if !canonical da then (s, .violation 1 va)
  else if !leaseCovers (s.leases c.team) va.toNat 32 .load then (s, .violation 0 va)
  else match s.translate c.team.core lane c.team.asid va with
    | .wait => (s, .wait)
    | .invalid => (s, .violation 2 va)
    | .poisoned => (s, .violation tablePoison va)
    | .found e =>
      if !permits e.perm .load then (s, .violation 3 va)
      else if s.inTransition (e.phys va.toNat) then (s, .wait)
      else match (s.keep c.team.core lane e).loadLine c.team.core c.group.slotKey e.attr (e.phys va.toNat) 32 with
        | none => (if isCoherent e.attr then s else (s.ask? (e.phys va.toNat / 128)).getD s, .wait)
        | some s =>
          match (s.core c.team.core).readL1 (e.phys va.toNat) 32 with
          | none => (s, .wait)
          | some (_, true) => (s, .poisoned ((s.core c.team.core).badWord (e.phys va.toNat) 32 va))
          | some (ws, false) => if validDescriptor ws then (s, .ok ws) else (s, .trap { code := 0x0B, tval := va })

/-- A thread at position `i`, or the path whose `kspawn` it leads, leaves its spawn: the request is in the queue (R160, R161). -/
def Group.spawned (g : Group) (i : Nat) : Group :=
  { g with
    children := g.children + 1
    threads := g.threads.mapIdx fun j t => if j == i || t.status == .blocked (.spawnPath i) then Thread.release g.handler t else t }

/-- The requests a group's blocked threads wait to make, by position. -/
def Group.spawnReqs (team : Nat) (g : Group) : List (Nat × SpawnReq) :=
  g.threads.zipIdx.filterMap fun x => match x.1.status with
    | .blocked (.spawn desc da arg pos) =>
      some (x.2, { parent := { team := team, group := g.idx }, desc := desc, da := da, arg := arg, pos := pos, depth := g.depth + 1 })
    | _ => none

/-- Spawn requests wait while the core's queue is full (R160): those of blocked threads enter it as room appears, in team,
group and position order. -/
def State.spawnProgress (s : State) (core : Nat) : State :=
  (s.teams.filter fun t => t.core == core).foldl (fun s t => t.groups.foldl (fun s g => (g.spawnReqs t.id).foldl (fun s q =>
    if Config.spawnEntries ≤ (s.core core).spawnQ.length then s
    else (s.mapCore core fun k => { k with spawnQ := k.spawnQ ++ [q.2] }).mapGroup t.id g.idx fun g => g.spawned q.1) s) s) s

/-- A spawn of the threads `who` (R160), each with its descriptor address and argument: the descriptors are read, the threads
that trap are parked, and the others' requests enter the spawn queue in order. -/
def spawnFor (c : Ctx) (who : List Nat) (lane : Nat → Option Nat) (da arg : Nat → DWord) (group : Bool) (s : State) : Result :=
  if !s.mayRelease c .clu then .next (s.beginRelease c .clu)
  else if !s.journalRoom c.team.core (8 * who.length) then .next s
  else
    let (s, rs) := who.foldl (fun (a : State × List (Nat × DescRead)) i =>
      let (s, r) := a.1.readDesc c (lane i) (da i)
      (s, a.2 ++ [(i, r)])) (s, [])
    match rs.findSome? fun (r : Nat × DescRead) => match r.2 with
        | .violation sub va => some (sub, va)
        | _ => none with
    | some (sub, va) => .next (s.breach c.team.id sub va)
    | none =>
      match rs.findSome? fun (r : Nat × DescRead) => match r.2 with
        | .poisoned va => some va
        | _ => none with
      | some va => .next (s.killGangOf c.team.id 0x11 va)
      | none =>
      if rs.any fun (r : Nat × DescRead) => r.2 == .wait then .next s
      else
        let faults : List ThreadTrap := rs.flatMap fun (r : Nat × DescRead) => match r.2 with
          | .trap info => if group then c.ms.map fun i => { pos := i, info := info, epc := (c.group.thread i).pc }
              else [{ pos := r.1, info := info, epc := (c.group.thread r.1).pc }]
          | _ => []
        let going : List (Nat × List Word) := rs.filterMap fun (r : Nat × DescRead) => match r.2 with
          | .ok d => some (r.1, d)
          | _ => none
        let s := going.foldl (fun s g => g.2.foldl (fun s w => s.journal c.team.core w) s) s
        let descOf := fun (i : Nat) => ((going.find? fun g => g.1 == i).map (·.2)).getD []
        let ms := if group then (if going.isEmpty then [] else c.ms) else going.map (·.1)
        let upd := fun (i : Nat) (t : Thread) =>
          { t.tick with
            status := .blocked (if going.any fun g => g.1 == i then .spawn (descOf i) (da i) (arg i) i else .spawnPath (c.ms.headD c.lead))
            spec := [] }
        .next ((((s.mapGroup c.team.id c.group.idx fun g => g.mapAt ms upd).spawnProgress c.team.core).issue c).takeTraps
          c.team.id c.group.idx faults)

/-- `spawn` (R160) -/
def execSpawn (a b : BitVec 7) (s : State) : Result :=
  match s.path? with
  | none => .refused .noIssuer
  | some c =>
    let r : Regs := { reads := [(a.toNat, 2), (b.toNat, 2)] }
    if !r.ok c.group.regs then .next (s.trapPath c { code := 0x02 })
    else if c.poisoned r then .next (s.killGangOf c.team.id 0x11 0)
    else if !c.ready r then .next (s.noteMiss c r)
    else spawnFor c c.ms (fun i => some (laneOf c.group i)) (fun i => (c.view i).pair a.toNat) (fun i => (c.view i).pair b.toNat) false s

/-- `kspawn` (R161): once for the path, from its lowest position -/
def execKspawn (a b : BitVec 6) (s : State) : Result :=
  match s.path? with
  | none => .refused .noIssuer
  | some c =>
    let r : KRegs := { reads := [(a.toNat, 2), (b.toNat, 2)] }
    if !r.ok then .next (s.trapPath c { code := 0x02 })
    else if c.kPoisoned r then .next (s.killGangOf c.team.id 0x11 0)
    else if !c.kReady r then .next (s.noteKMiss c r)
    else spawnFor c (c.ms.take 1) (fun _ => none) (fun _ => c.group.kpair a.toNat) (fun _ => c.group.kpair b.toNat) true s

/-- `klaunch` (R175): the submission is an outgoing effect and a release at device scope; the sequence number is its result -/
def execKlaunch (d a : BitVec 6) (s : State) : Result :=
  match s.path? with
  | none => .refused .noIssuer
  | some c =>
    let r : KRegs := { reads := [(a.toNat, 2)], writes := [(d.toNat, 1)] }
    if !r.ok then .next (s.trapPath c { code := 0x02 })
    else if c.kPoisoned r then .next (s.killGangOf c.team.id 0x11 0)
    else if !c.kReady r then .next (s.noteKMiss c r)
    else
      let ra := c.group.kpair a.toNat
      let k := s.core c.team.core
      if ra.toNat % 256 ≠ 0 then .next (s.trapPath c { code := 0x03, tval := vaddr ra })
      else if !canonical ra then .next (s.endTeam c.team.id 0x0F 1 (vaddr ra))
      else if !leaseCovers (s.leases c.team) (vaddr ra).toNat 256 .load then .next (s.endTeam c.team.id 0x0F 0 (vaddr ra))
      else if k.submission.isSome || k.buffer.any (fun e => match e.eff with | .submit _ _ _ => true | _ => false)
          || s.room c.team.core = 0 then .next s
      else if !s.mayRelease c .dev then .next (s.beginRelease c .dev)
      else
        let (tag, s) := s.ticket
        let s := s.produce c.team.core c.team.id (.submit c.team.asid tag (vaddr ra))
        let o : OutRes := { dst := [kIndex c.group.handler d.toNat], look := 0, tag := tag, ext := true, kind := .submitted }
        .next (s.mapGroup c.team.id c.group.idx fun g =>
          Group.issued { g.mapAt c.ms (fun _ t => t.tick.next) with kout := g.kout ++ [o] } c.lead)

end Sys2Proof.Machine
end

