-- ==== Sys2Proof/Machine/Launch.lean ====
section
/-! DEFINITION. Launch ports and the distributor (R164 to R191): submissions, the checks of a record, dependencies, leases,
placement of teams, clusters and spawned children, retirement, the flush and the completion signal. -/
namespace Sys2Proof.Machine
open Sys2Proof

/-! ### Ports (R172, R173) -/

/-- The sequence number after `n` (R173). -/
def nextSeq (n : Word) : Word := if n = 0xFFFFFFFF then 1 else n + 1

/-- How many acceptances lie between two sequence numbers, through the wrap (R177). -/
def seqDelta (n d : Nat) : Nat := (n + (2 ^ 32 - 1) - d) % (2 ^ 32 - 1)

/-- A launch that may still ask whether another has signalled: its record is not read, or it waits. -/
def Launch.mayAsk (l : Launch) : Bool := l.state == .accepted || l.state == .waiting

/-- The signalled state of number `d` is remembered: it is one of the latest 4,096, as the next number or a launch that may still
ask counts them (R177). -/
def Port.remembers (p : Port) (d : Nat) : Bool :=
  decide (seqDelta p.lastSeq.toNat d < Config.rememberedSeqs)
    || p.launches.any fun l => l.mayAsk && decide (seqDelta l.seq d ≤ Config.rememberedSeqs)

/-- A number counts as signalled (R177). -/
def Port.noteSignal (p : Port) (seq : Nat) : Port :=
  { p with signalled := ((if p.signalled.contains seq then p.signalled else seq :: p.signalled)).filter p.remembers }

/-- The sequence number of an accepted submission reaches the `klaunch` that waits for it (R175). -/
def Group.launched (tag : Nat) (seq : Word) (g : Group) : Group :=
  { g with kout := g.kout.map fun o => if o.kind == .submitted && o.tag == tag then { o with kind := .ready [seq] } else o }

/-- A port accepts an address (R173): it takes the next sequence number, which goes back to a `klaunch`. -/
def State.accept (s : State) (asid : Nat) (addr : VAddr) (writer : Submitter) : State :=
  let (order, s) := s.ticket
  let seq := nextSeq (s.port asid).lastSeq
  let s := s.mapPort asid fun p => { p with
    lastAddr := addr
    lastSeq := seq
    accepted := p.accepted + 1
    queue := p.queue ++ [addr]
    launches := p.launches ++ [{ asid := asid, seq := seq.toNat, addr := addr, before := p.accepted, order := order }] }
  match writer with
  | .store _ => s
  | .app _ => s
  | .other => s
  | .klaunch core =>
    match (s.core core).submission with
    | none => s
    | some (_, tag, _) =>
      let s := (s.teams.filter fun t => t.core == core).foldl (fun s t =>
        s.inputTeam t.id fun t => { t with groups := t.groups.map (Group.launched tag seq) }) s
      s.mapCore core fun k => { k with submission := none }

/-- A submission reaches its port: it is accepted, or waits in arrival order while the port is full (R173). -/
def State.submit (s : State) (asid : Nat) (addr : VAddr) (writer : Submitter) : State :=
  let p := s.port asid
  if p.queue.length < Config.portQueue ∧ p.stalled.isEmpty then s.accept asid addr writer
  else s.mapPort asid fun p => { p with stalled := p.stalled ++ [(addr, writer)] }

/-- A write to `lp_submit` (R172): it names bits [55:8] of a record address. -/
def State.submitWrite (s : State) (asid : Nat) (value : DWord) (writer : Submitter) : State :=
  s.submit asid (BitVec.ofNat 56 (value.toNat % 2 ^ 56 / 256 * 256)) writer

/-- LP_SUBMIT (R172, R173) -/
def execLpSubmit (asid : Nat) (value : DWord) (s : State) : Result :=
  if asid < Config.numAsids then .next (s.submitWrite asid value .other) else .refused .notDue

/-! ### The checks of a record (R165 to R171) -/

/-- The reserved bits of the header and the role entries are 0 (R165 to R167). -/
def Launch.reservedClear (l : Launch) : Bool :=
  let z := fun (off hi lo : Nat) => decide (nbits (l.word off) hi lo = 0)
  z 0x00 31 24 && z 0x04 31 5 && z 0x0C 31 24 && z 0x10 31 19 && z 0x14 15 9 && z 0x1C 15 10 && decide (l.word 0x3C = 0)
    && (List.range 3).all fun r =>
      if r < l.roleCount then decide (nbits (l.word (0x40 + 32 * r + 8)) 31 18 = 0) && decide (l.word (0x40 + 32 * r + 12) = 0)
      else (List.range 8).all fun k => decide (l.word (0x40 + 32 * r + 4 * k) = 0)

/-- The shapes a cluster may have (R181). -/
def clusterShapeOk (w h : Nat) : Bool :=
  decide (w * h ≤ 12) && ((decide (w ≤ 3) && decide (h ≤ 4)) || (decide (w ≤ 4) && decide (h ≤ 3)) || (decide (w ≤ 2) && decide (h ≤ 6))
    || (decide (w ≤ 6) && decide (h ≤ 2)))

/-- Every field but the tokens is inside its range (R165, R167). -/
def Launch.fieldsInRange (l : Launch) : Bool :=
  decide (1 ≤ l.roleCount) && decide (l.roleCount ≤ 3) && decide (1 ≤ l.gridX) && decide (1 ≤ l.gridY) && decide (1 ≤ l.gridZ)
    && decide (1 ≤ l.clusterW) && decide (l.clusterW ≤ 6) && decide (1 ≤ l.clusterH) && decide (l.clusterH ≤ 6)
    && decide (l.scratchBytes ≤ 262144) && decide (l.accs ≤ 16) && decide (l.mregs ≤ 8)
    && (List.range l.roleCount).all fun r =>
      decide (l.roleKind r ≠ 3) && decide (1 ≤ l.roleGroups r) && decide (l.roleGroups r ≤ 32) && decide (l.roleRegs r % 8 = 0)
        && decide (8 ≤ l.roleRegs r) && decide (l.roleRegs r ≤ 128)

/-- `depends_on` names an earlier launch, or none (R177). -/
def Launch.dependsOk (l : Launch) : Bool :=
  decide (l.dependsOn = 0) ||
    (decide (1 ≤ seqDelta l.seq l.dependsOn) && decide (seqDelta l.seq l.dependsOn ≤ 2 ^ 31) && decide (seqDelta l.seq l.dependsOn ≤ l.before))

/-- The signal address passes its checks of code 0x01. -/
def Launch.signalOk (l : Launch) : Bool :=
  decide (l.signal % 8 = 0) && canonical (BitVec.ofNat 64 l.signal) && leaseCovers l.leases (l.signal % 2 ^ 56) 8 .store

/-- The kinds of the roles in use are all different. -/
def Launch.kindsDistinct (l : Launch) : Bool :=
  let ks := (List.range l.roleCount).map l.roleKind
  decide (ks.eraseDups.length = ks.length)

/-- Case 0x01 of R171 does not hold. -/
def Launch.formOk (l : Launch) : Bool :=
  decide (nbits (l.word 0) 15 0 = 1) && l.reservedClear && l.fieldsInRange && l.kindsDistinct
    && decide (((List.range l.roleCount).map l.roleGroups).sum ≤ 32) && clusterShapeOk l.clusterW l.clusterH
    && decide (l.teamCount % l.clusterSize = 0) && !(decide (l.laps ≠ 0) && decide (l.roleCount < 2))
    && l.signalOk && l.dependsOk

/-- The role entries' first instructions (R171, code 0x02). -/
def Launch.entriesOk (l : Launch) : Bool :=
  (List.range l.roleCount).all fun r => decide (l.roleEntry r % 4 = 0) && canonical (BitVec.ofNat 64 (l.roleEntry r))

/-- A binding byte names an engine endpoint. -/
def engineByte (b : Nat) : Bool := decide (0x10 ≤ b) && decide (b ≤ 0x21)
/-- The member field that answers another (R169). -/
def answerMember (m : Nat) : Nat := if m = 14 then 13 else if m = 13 then 14 else 15

/-- One queue's bindings, by role kind, satisfy R169. -/
def queueOk (clustered : Bool) (bs : List (Nat × Nat)) : Bool :=
  let used := bs.filter fun b => decide (b.2 ≠ 0)
  used.isEmpty
    || ((used.all fun b => engineByte b.2) && used.all fun b => used.all fun c => b.2 == c.2)
    || ((used.all fun b => (outLink b.2 || inLink b.2) && (clustered || decide (b.2 % 16 = 15)))
      && decide (used.length ≤ 2)
      && used.all fun b => !outLink b.2 ||
        (if b.2 / 16 % 4 = b.1 then decide (used.length = 1)
         else decide (used.length = 2) && used.any fun c => decide (c.1 = b.2 / 16 % 4) && decide (c.2 = 128 + 16 * b.1 + answerMember (b.2 % 16))))

/-- The queue bindings are consistent (R168, R169, R343). -/
def Launch.bindingsOk (l : Launch) : Bool :=
  ((List.range 16).all fun q => queueOk (decide (1 < l.clusterSize)) ((List.range l.roleCount).map fun r => (l.roleKind r, l.bind r q)))
    && (decide (l.laps = 0) || (List.range l.roleCount).all fun r => (List.range 16).any fun q => outLink (l.bind r q) || inLink (l.bind r q))

/-! ### Room on a core (R178, R179) -/

/-- What teams take of a core: by side, group slots and registers of each lane; granules, matrix registers, accumulators,
Coopers, tokens. A group takes one thread slot of each lane with its slot. -/
structure Room where
  slots0 : Nat := 0
  slots1 : Nat := 0
  regs0 : Nat := 0
  regs1 : Nat := 0
  granules : Nat := 0
  mregs : Nat := 0
  accs : Nat := 0
  coopers : Nat := 0
  tensor : Nat := 0
  sfu : Nat := 0
deriving DecidableEq, Repr

/-- Two needs together. -/
def Room.add (a b : Room) : Room :=
  { slots0 := a.slots0 + b.slots0, slots1 := a.slots1 + b.slots1, regs0 := a.regs0 + b.regs0, regs1 := a.regs1 + b.regs1,
    granules := a.granules + b.granules, mregs := a.mregs + b.mregs, accs := a.accs + b.accs, coopers := a.coopers + b.coopers,
    tensor := a.tensor + b.tensor, sfu := a.sfu + b.sfu }

/-- Within the capacities of R179; the 24 thread slots of a lane bind before the 32 group slots. -/
def Room.fits (r : Room) : Bool :=
  decide (r.slots0 ≤ 24) && decide (r.slots1 ≤ 24) && decide (r.regs0 ≤ 768) && decide (r.regs1 ≤ 768) && decide (r.granules ≤ 32)
    && decide (r.mregs ≤ 8) && decide (r.accs ≤ 16) && decide (r.coopers ≤ 8) && decide (r.tensor ≤ 1024) && decide (r.sfu ≤ 1024)

/-- What a group takes. -/
def Group.room (g : Group) : Room :=
  if g.side = 0 then { slots0 := 1, regs0 := g.regs } else { slots1 := 1, regs1 := g.regs }

/-- What a resident or saved team takes; a child runs on its parent's tokens (R162). -/
def Team.room (t : Team) : Room :=
  t.groups.foldl (fun r g => r.add g.room)
    { granules := t.granules.length, mregs := t.mregs.length, accs := t.accs.length, coopers := if t.cooper.isSome then 1 else 0,
      tensor := if t.parent.isSome then 0 else t.tensorTokens, sfu := if t.parent.isSome then 0 else t.sfuTokens }

/-- What is taken of a core. -/
def State.taken (s : State) (core : Nat) : Room := (s.teams.filter fun t => t.core == core).foldl (fun r t => r.add t.room) {}

/-- The role entries of a team's groups, in order (R167). -/
def Launch.groupRoles (l : Launch) : List Nat := (List.range l.roleCount).flatMap fun r => List.replicate (l.roleGroups r) r

/-- What a team of a launch needs (R178). -/
def Launch.room (l : Launch) : Room :=
  let sides := l.groupRoles.mapIdx fun g r => (g % 2, l.roleRegs r)
  let side := fun (k : Nat) => sides.filter fun x => x.1 == k
  { slots0 := (side 0).length, slots1 := (side 1).length, regs0 := ((side 0).map (·.2)).sum, regs1 := ((side 1).map (·.2)).sum,
    granules := (l.scratchBytes + Config.granuleBytes - 1) / Config.granuleBytes, mregs := l.mregs, accs := l.accs,
    coopers := if l.hasTile then 1 else 0, tensor := l.tensorTokens, sfu := l.sfuTokens }

/-- A core may receive teams of a port: its bit is set, its die serves and it is not fenced (R172, R355). -/
def State.eligible (s : State) (asid core : Nat) : Bool :=
  (SMap.getD (s.port asid).coreSet (core / 64) 0).getLsbD (core % 64) && decide (core < Config.numCores) && s.alive (dieOf core)
    && !(s.core core).fenced

/-- The rectangle of w by h cores with a top-left core, in row-major order; a die is 6 rows of 8 cores (R3, R181). -/
def rectangle (w h top : Nat) : Option (List Nat) :=
  let c := top % Config.coresPerDie
  if c % 8 + w ≤ 8 ∧ c / 8 + h ≤ 6 then some ((List.range (w * h)).map fun m => top + m / w * 8 + m % w) else none

/-- The rectangles of eligible cores of a launch's cluster, in ascending number of their top-left core. -/
def State.rectangles (s : State) (l : Launch) : List (List Nat) :=
  (List.range Config.numCores).filterMap fun t =>
    match rectangle l.clusterW l.clusterH t with
    | some cs => if cs.all (s.eligible l.asid) then some cs else none
    | none => none

/-- A team or cluster of the launch could be held by eligible cores, all empty (R171, code 0x05); its tokens are judged under
code 0x07. -/
def State.couldPlace (s : State) (l : Launch) : Bool :=
  ({ l.room with tensor := 0, sfu := 0 } : Room).fits && !(s.rectangles l).isEmpty

/-- The lowest failing code of R171, in order; none where all pass. -/
def State.recordCode (s : State) (l : Launch) : Option Nat :=
  if !l.formOk then some 1
  else if !l.entriesOk then some 2
  else if l.asidField ≠ l.asid then some 3
  else if (l.coloc = 1 ∧ 1 < l.clusterSize) ∨ (l.coloc = 2 ∧ l.clusterSize = 1) then some 4
  else if !s.couldPlace l then some 5
  else if !l.bindingsOk then some 6
  else if 1024 < l.tensorTokens ∨ 1024 < l.sfuTokens then some 7
  else none

/-! ### Reading the record and the lease list -/

/-- The ranges of a lease list, from its header and its entries' words; none where it breaks R328. -/
def leaseRanges : Nat → List Word → Option (List (Nat × Nat × Nat))
  | 0, _ => some []
  | n + 1, b0 :: b1 :: len :: k :: r =>
    let base := joinWords b0 b1
    if canonical base && decide (len.toNat ≠ 0) && decide (base.toNat % 2 ^ 56 + len.toNat ≤ 2 ^ 56) && decide (k.toNat < 3) then
      (leaseRanges n r).map fun x => (base.toNat % 2 ^ 56, len.toNat, k.toNat) :: x
    else none
  | _ + 1, _ => none

/-- What reading a launch's lease list comes to. -/
inductive LeaseRead
  | ok (rs : List (Nat × Nat × Nat))
  | bad
  | wait
deriving DecidableEq, Repr

/-- The lease list of a record (R328). -/
def State.readLeases (s : State) (asid list : Nat) : LeaseRead :=
  if list % 16 ≠ 0 ∨ !canonical (BitVec.ofNat 64 list) then .bad
  else match s.distRead asid (list % 2 ^ 56) 4 with
    | .bad => .bad
    | .wait => .wait
    | .ok h =>
      let n := (h.getD 0 0).toNat
      if n = 0 ∨ 64 < n ∨ h.getD 1 0 ≠ 0 ∨ h.getD 2 0 ≠ 0 ∨ h.getD 3 0 ≠ 0 then .bad
      else match s.distRead asid (list % 2 ^ 56 + 16) (4 * n) with
        | .bad => .bad
        | .wait => .wait
        | .ok ws => match leaseRanges n ws with
          | some rs => .ok rs
          | none => .bad

/-- A refused launch (R171): it is reported in `lp_refusal`, counts as signalled (R177), and is reported through its signal
word if that may be written. -/
def State.refuseLaunch (s : State) (asid seq reason : Nat) (signal : Bool) : State :=
  let s := s.mapPort asid fun p => (Port.noteSignal { p with refused := true, reason := BitVec.ofNat 8 reason, refusedSeq := BitVec.ofNat 32 seq } seq)
  if signal then s.mapLaunch asid seq fun l => { l with state := .refused, reason := reason, refuseSignal := true }
  else s.mapPort asid fun p => { p with launches := p.launches.filter fun l => l.seq != seq }

/-- A place in the port's queue is free again: the first waiting submission is accepted (R173). -/
def State.admitStalled (s : State) (asid : Nat) : State :=
  match (s.port asid).stalled with
  | [] => s
  | (a, c) :: r =>
    if (s.port asid).queue.length < Config.portQueue then (s.mapPort asid fun p => { p with stalled := r }).accept asid a c else s

/-- The ASID is enabled and its root table lies in region 0x0 (R324). -/
def Port.rootOk (p : Port) : Bool := p.root.getLsbD 63 && regionOf p.rootTable == 0

/-- LAUNCH_RECORD_CHECK (R164, R171): the distributor reads the record of the oldest accepted address, and its lease list, and
checks them -/
def execLaunchRecordCheck (asid : Nat) (s : State) : Result :=
  match (s.port asid).launches.find? fun l => l.state == .accepted, (s.port asid).queue with
  | some l, _ :: rest =>
    let go := fun (f : State → State) =>
      Host.Outcome.next (f ((s.mapPort asid fun p => { p with queue := rest }).admitStalled asid))
    if !(s.port asid).rootOk then go fun s => s.refuseLaunch asid l.seq 8 false
    else match s.distRead asid l.addr.toNat 64 with
    | .wait => orAsk (s.askRange? asid l.addr.toNat 256)
    | .bad => go fun s => s.refuseLaunch asid l.seq 8 false
    | .ok ws =>
      let l := { l with record := ws }
      match s.readLeases asid l.leaseList with
      | .wait => orAsk (s.askRange? asid (l.leaseList % 2 ^ 56) 1040)
      | .bad => go fun s => s.refuseLaunch asid l.seq 8 false
      | .ok rs =>
        let l := { l with leases := rs }
        go fun s =>
          let s := s.mapLaunch asid l.seq fun _ => l
          match s.recordCode l with
          | some c => s.refuseLaunch asid l.seq c l.signalOk
          | none => s.mapLaunch asid l.seq fun l => { l with state := .waiting, toPlace := List.range l.teamCount }
  | _, _ => .refused .notDue

/-- The launch a launch depends on has signalled (R177). -/
def Port.dependencyMet (p : Port) (l : Launch) : Bool :=
  decide (l.dependsOn = 0) || decide (Config.rememberedSeqs < seqDelta l.seq l.dependsOn) || p.signalled.contains l.dependsOn

/-- A launch that holds a root write pending (R324). -/
def LState.holdsRoot : LState → Bool
  | .leasing => true | .placing => true | .running => true | .preempting => true | .preempted => true | .flushing => true
  | .accepted => false | .waiting => false | .refused => false | .signalled => false | .ended => false

/-- A write to the port's root that no launch holds any more takes effect before another launch holds it (R324). -/
def Port.rootDue (p : Port) : Bool := p.rootPending.isSome && !(p.launches.any fun l => l.state.holdsRoot)

/-- DEPENDENCY_SATISFIED (R177): the launch enters leasing, or is refused where its ASID is not enabled any more (R324) -/
def execDependencySatisfied (asid seq : Nat) (s : State) : Result :=
  match s.launch? asid seq with
  | none => .refused .notDue
  | some l =>
    if l.state = .waiting ∧ (s.port asid).dependencyMet l ∧ (s.port asid).rootDue = false then
      (if (s.port asid).rootOk then .next (s.mapLaunch asid seq fun l => { l with state := .leasing })
       else .next (s.refuseLaunch asid seq 8 true))
    else .refused .notDue

/-! ### Leases (R329) -/

/-- Every page that overlaps bytes `a` to `stop - 1` is valid with r and what the kind asks for. -/
def State.resident (s : State) (asid kind : Nat) : Nat → Nat → Nat → Bool
  | 0, a, stop => decide (stop ≤ a)
  | fuel + 1, a, stop =>
    if stop ≤ a then true
    else match s.walk asid (BitVec.ofNat 56 a) with
      | .found e => permits e.perm .load && (decide (kind ≠ 1) || permits e.perm .store) && (decide (kind ≠ 2) || permits e.perm .fetch)
          && State.resident s asid kind fuel (e.va + e.size) stop
      | .invalid => false
      | .poisoned => false
      | .wait => false

/-- A walk for a page that overlaps bytes `a` to `stop - 1` is Invalid (R323). -/
def State.unmapped (s : State) (asid : Nat) : Nat → Nat → Nat → Bool
  | 0, _, _ => false
  | fuel + 1, a, stop =>
    if stop ≤ a then false
    else match s.walk asid (BitVec.ofNat 56 a) with
      | .found e => State.unmapped s asid fuel (e.va + e.size) stop
      | .invalid => true
      | .poisoned => true
      | .wait => false

/-- The places a launch's co-location leaves it, settled when it enters placing (R182), or, where no core is eligible then, when one
first is and a team is placed (DESIGN CHOICE, log 65). -/
def State.settlePlace (s : State) (l : Launch) : Option (List Nat) :=
  match (s.rectangles l).head? with
  | none => none
  | some cs =>
    if l.coloc = 1 ∨ l.coloc = 2 then some cs
    else if l.coloc = 3 then some ((List.range Config.coresPerDie).map fun i => dieOf (cs.headD 0) * Config.coresPerDie + i)
    else none

/-- LEASING_COMPLETE (R176, R329): every lease range is resident; an Invalid walk during leasing refuses the launch (R323, DEDUCED, log 52) -/
def execLeasingComplete (asid seq : Nat) (s : State) : Result :=
  match s.launch? asid seq with
  | none => .refused .notDue
  | some l =>
    if l.state = .leasing ∧ l.leases.all (fun r => s.resident asid r.2.2 (r.2.1 / 65536 + 2) r.1 (r.1 + r.2.1)) then
      .next (s.mapLaunch asid seq fun l => { l with state := .placing, place := s.settlePlace l })
    else if l.state = .leasing ∧ l.leases.any (fun r => s.unmapped asid (r.2.1 / 65536 + 2) r.1 (r.1 + r.2.1)) then .next (s.refuseLaunch asid seq 8 true)
    else .refused .notDue

/-- LEASE_DECLINED (R176): system software declines to make a range resident -/
def execLeaseDeclined (asid seq : Nat) (s : State) : Result :=
  match s.launch? asid seq with
  | none => .refused .notDue
  | some l => if l.state = .leasing then .next (s.refuseLaunch asid seq 8 true) else .refused .notDue

/-! ### Placement (R180 to R183) -/

/-- The cluster of the next team to place. -/
def Launch.nextCluster (l : Launch) : Option Nat := l.toPlace.head?.map fun i => i / l.clusterSize

/-- What a member of a cluster needs: its saved image's room, descendants included (R342), or a new team's; one that has
retired needs none. -/
def Launch.memberRoom (l : Launch) (cluster m : Nat) : Room :=
  match SMap.get? l.saved (cluster * l.clusterSize + m) with
  | some ts => ts.foldl (fun r t => r.add t.room) {}
  | none => if l.toPlace.contains (cluster * l.clusterSize + m) then l.room else {}

/-- Every core of a place has room for its member of the cluster. -/
def State.holds (s : State) (l : Launch) (cluster : Nat) (cores : List Nat) : Bool :=
  (List.range cores.length).all fun m => ((s.taken (cores.getD m 0)).add (l.memberRoom cluster m)).fits

/-- The cores of the next cluster of a placing launch, one for each member (R180 to R182, R191): those a killed gang had, if they
are still eligible; otherwise, for teams one at a time, the first pass over the cores and then the room retired teams freed;
otherwise the first rectangle with room. -/
def State.nextSpot (s : State) (l : Launch) : Option (List Nat) :=
  match (if l.state = .placing ∨ l.state = .running then l.nextCluster else none) with
  | some k =>
    let allowed := fun (cs : List Nat) => match (match l.place with
        | some p => some p
        | none => s.settlePlace l) with
      | none => decide (l.coloc = 0)
      | some p => cs.all p.contains
    let old := SMap.getD l.again k []
    if !old.isEmpty && (old.all (s.eligible l.asid)) then (if s.holds l k old then some old else none)
    else
      let all := (s.rectangles l).filter allowed
      if l.clusterSize = 1 then
        let first := all.filter fun cs => decide (l.cursor ≤ cs.headD 0) && !l.freed.contains (cs.headD 0)
        let later := (l.freed.filterMap fun c => if all.contains [c] then some [c] else none) ++ all
        (first ++ later).find? (s.holds l k)
      else all.find? (s.holds l k)
  | none => none

/-- The side of a core on which a spawned child finds all it needs (R162): side 0 where both have it, which the manual leaves open
(DESIGN CHOICE, log 58). -/
def State.childSide (s : State) (core : Nat) (q : SpawnReq) : Option Nat :=
  [0, 1].find? fun side =>
    ((s.taken core).add { (if side = 0 then { slots0 := 1, regs0 := descRegs q.desc } else { slots1 := 1, regs1 := descRegs q.desc } : Room) with
      granules := descGranules q.desc }).fits

/-- A core may take a child: its die serves, it is not fenced (R355), and its journal has room for the placement (R350). -/
def State.takesChild (s : State) (core : Nat) : Bool := s.alive (dieOf core) && !(s.core core).fenced && s.journalRoom core 1

/-- The first core in the order of R162 that has room for a request of the queue of `core`. A request that another core has
handed over looks there only, unless that core has been fenced (R355). -/
def State.childSpot (s : State) (core : Nat) (q : SpawnReq) : Option (Nat × Nat) :=
  let cores := match s.team? q.parent.team with
    | some p => if p.core = core || !s.takesChild core then core :: p.clusterCores.filter (· != core) else [core]
    | none => [core]
  cores.findSome? fun c => if s.takesChild c then (s.childSide c q).map fun side => (c, side) else none

/-- A child waits for a core and would fit there: it goes before any team (R162, R183). -/
def State.childWaits (s : State) (core : Nat) : Bool :=
  s.cores.any fun ck => ck.2.spawnQ.any fun q => (s.childSpot ck.1 q).map (·.1) == some core

/-- Which of two launches the room goes to: the one whose teams freed it, then the one accepted first (R183). -/
def claimBefore (spotA spotB : List Nat) (a b : Launch) : Bool :=
  let fa := spotA.any a.freed.contains
  let fb := spotB.any b.freed.contains
  if fa != fb then fa else decide (a.order < b.order)

/-- No other launch has a better claim to a core of the place, and the journals of its cores have room for the placements (R350). -/
def State.mayPlace (s : State) (l : Launch) (spot : List Nat) : Bool :=
  !(spot.any s.childWaits) && (spot.all fun c => s.journalRoom c (spot.count c)) &&
    s.ports.all fun p => p.2.launches.all fun m =>
      (m.asid == l.asid && m.seq == l.seq) ||
        (match s.nextSpot m with
         | some other => !(other.any spot.contains) || claimBefore spot other l m
         | none => true)

/-- The lowest `n` numbers below `total` that are not in use. -/
def lowestFree (total n : Nat) (used : List Nat) : List Nat := ((List.range total).filter fun i => !used.contains i).take n

/-- Group slots in use on a side of a core. -/
def State.slotsUsed (s : State) (core side : Nat) : List Nat :=
  ((s.teams.filter fun t => t.core == core).flatMap fun t => t.groups.filter fun g => g.side == side).map (·.slot)

/-- A thread at its entry state (R28). -/
def entryThread (pc : VAddr) (regs : Nat) : Thread := { pc := pc, v := List.replicate regs 0 }

/-- The `k` registers of a group at entry: role, record or descriptor address, and a child's argument and position. -/
def entryK (role : Nat) (addr : DWord) (rest : List Word) : List Word :=
  ([0, BitVec.ofNat 32 role, addr.setWidth 32, (addr >>> 32).setWidth 32] ++ rest ++ List.replicate 60 0).take 64

/-- A team of a launch at its entry state (R28, R138, R165, R167, R179, R276). -/
def State.freshTeam (s : State) (l : Launch) (id age index core cluster member : Nat) (cores : List Nat) : Team :=
  let here := s.teams.filter fun t => t.core == core
  let free := fun (side : Nat) => lowestFree 32 32 (s.slotsUsed core side)
  { id := id, asid := l.asid, seq := l.seq, index := index
    x := index % l.gridX, y := index / l.gridX % l.gridY, z := index / (l.gridX * l.gridY)
    cluster := cluster, member := member, core := core, clusterCores := cores
    groups := l.groupRoles.mapIdx fun g r =>
      { idx := g, side := g % 2, slot := (free (g % 2)).getD (g / 2) 0, age := age, active := false, role := l.roleKind r,
        regs := l.roleRegs r, quantum := BitVec.ofNat 16 l.quantum,
        threads := List.replicate 32 (entryThread (BitVec.ofNat 56 (l.roleEntry r)) (l.roleRegs r)),
        k := entryK (l.roleKind r) (l.addr.signExtend 64) [] }
    granules := lowestFree 32 l.room.granules (here.flatMap (·.granules))
    mregs := lowestFree 8 l.mregs (here.flatMap (·.mregs))
    accs := lowestFree 16 l.accs (here.flatMap (·.accs))
    scratchBytes := l.scratchBytes, tensorTokens := l.tensorTokens, sfuTokens := l.sfuTokens
    cooper := if l.hasTile then
        some { cpc := l.addr + 256, inst := (lowestFree 8 1 (here.filterMap fun t => t.cooper.map (·.inst))).headD 0 }
      else none }

/-- A team put on a core: its placement is an input of the core, in its journal (R350, R405); the latest snapshot of a core that never
held one is empty. -/
def State.addTeam (s : State) (t : Team) : State :=
  let start : Saved := { at' := s.now t.core - s.now t.core % s.bound t.core, effNo := (s.core t.core).effNo, spawnQ := (s.core t.core).spawnQ }
  let s := ({ s with teams := s.teams ++ [t] } : State).journal t.core (BitVec.ofNat 32 t.index)
  s.mapCore t.core fun k => ({ k with snaps := if k.snaps.isEmpty then [start] else k.snaps } : Core).mapSaved fun v =>
    { v with teams := v.teams ++ [t] }

/-- Slots, granules, `m` registers and accumulators of a restored team on its new core (R179, R342). -/
def State.resettle (s : State) (core age : Nat) (cores : List Nat) (t : Team) : Team :=
  let here := s.teams.filter fun u => u.core == core
  let slot := fun (g : Group) =>
    (lowestFree 32 32 (s.slotsUsed core g.side)).getD ((t.groups.filter fun h => h.side == g.side && decide (h.idx < g.idx)).length) 0
  { t with
    core := core
    clusterCores := cores
    groups := t.groups.map fun g => { g with slot := slot g, age := age, active := false }
    granules := lowestFree 32 t.granules.length (here.flatMap (·.granules))
    mregs := lowestFree 8 t.mregs.length (here.flatMap (·.mregs))
    accs := lowestFree 16 t.accs.length (here.flatMap (·.accs))
    tensorSpent := 0
    sfuSpent := 0
    tensorIssued := false
    sfuIssued := false
    cooper := t.cooper.map fun k => { k with inst := (lowestFree 8 1 (here.filterMap fun t => t.cooper.map (·.inst))).headD 0 } }

/-- One member of a cluster is placed: restored from its image with its descendants, which clears the core's last-page registers (R326),
or at its entry state. -/
def State.placeMember (s : State) (l : Launch) (cluster m age : Nat) (cores : List Nat) : State :=
  let index := cluster * l.clusterSize + m
  let core := cores.getD m 0
  match SMap.get? l.saved index with
  | some ts =>
    (ts.foldl (fun s t => s.addTeam (s.resettle core age cores t)) s).mapCore core fun k =>
      { k.mapSaved (fun v => { v with spawnQ := v.spawnQ ++ SMap.getD l.savedReqs index [] }) with
        lastPage := []
        spawnQ := k.spawnQ ++ SMap.getD l.savedReqs index [] }
  | none =>
    let (id, s) := s.ticket
    s.addTeam (s.freshTeam l id age index core cluster m cores)

/-- TEAM_PLACEMENT (R180 to R183, R28): the next team, or cluster of teams, of a placing launch is placed -/
def execTeamPlacement (asid seq : Nat) (s : State) : Result :=
  match s.launch? asid seq with
  | none => .refused .notDue
  | some l =>
    match s.nextSpot l, l.nextCluster with
    | some spot, some k =>
      if s.mayPlace l spot then
        match s.loadCluster l k with
        | none => orAsk ((l.clusterIndices k).foldl (fun o i => match o, SMap.get? l.saved i, SMap.get? l.savedAt i with
            | none, some _, some va => s.askRange? asid va (2 ^ 20)
            | o, _, _ => o) none)
        | some l =>
        let (age, s) := s.ticket
        let idx := l.clusterIndices k
        let s := (List.range l.clusterSize).foldl (fun s m => if l.toPlace.contains (k * l.clusterSize + m) then s.placeMember l k m age spot else s) s
        .next ((s.mapLaunch asid seq fun l =>
          let left := l.toPlace.filter fun i => !idx.contains i
          { l with
            toPlace := left
            saved := l.saved.filter (fun x => !idx.contains x.1)
            savedReqs := l.savedReqs.filter (fun x => !idx.contains x.1)
            savedAt := l.savedAt.filter (fun x => !idx.contains x.1)
            again := SMap.del l.again k
            place := match l.place with
              | some p => some p
              | none => s.settlePlace l
            freed := spot.foldl (fun f c => f.erase c) l.freed
            cursor := if l.clusterSize = 1 && decide (l.cursor ≤ spot.headD 0) then spot.headD 0
              else if l.clusterSize = 1 then Config.numCores else l.cursor }).launchProgress asid seq)
      else .refused .notDue
    | _, _ => .refused .notDue

/-! ### Spawned children (R162) -/

/-- A child's team at its entry state (R162). -/
def State.childTeam (s : State) (q : SpawnReq) (p : Team) (role id age core side : Nat) : Team :=
  let here := s.teams.filter fun t => t.core == core
  let n := descThreads q.desc
  let regs := descRegs q.desc
  { id := id, asid := p.asid, seq := p.seq, index := p.index, x := p.x, y := p.y, z := p.z, cluster := p.cluster, member := p.member
    core := core, clusterCores := p.clusterCores, parent := some q.parent
    spawnArgs := q.desc
    groups := [{ idx := 0, side := side, slot := (lowestFree 32 1 (s.slotsUsed core side)).headD 0, age := age, active := false,
                 role := role, regs := regs, count := n, depth := q.depth, quantum := BitVec.ofNat 16 (descQuantum q.desc),
                 threads := (List.replicate n (entryThread (BitVec.ofNat 56 (descEntry q.desc)) regs))
                   ++ List.replicate (32 - n) { entryThread 0 regs with status := .absent }
                 k := entryK role q.da [q.arg.setWidth 32, (q.arg >>> 32).setWidth 32, BitVec.ofNat 32 q.pos] }]
    granules := lowestFree 32 (descGranules q.desc) (here.flatMap (·.granules))
    scratchBytes := descGranules q.desc * Config.granuleBytes
    tensorTokens := p.tensorTokens, sfuTokens := p.sfuTokens }

/-- A child is placed on a core; one that comes from another core is an input there (R405). -/
def State.placeChild (s : State) (q : SpawnReq) (core side : Nat) (outside : Bool) : State :=
  match s.team? q.parent.team with
  | none => s
  | some p =>
    let (id, s) := s.ticket
    let (age, s) := s.ticket
    let role := ((p.group? q.parent.group).map (·.role)).getD 0
    let t := s.childTeam q p role id age core side
    if outside then s.addTeam t else ({ s with teams := s.teams ++ [t] } : State).journal core (BitVec.ofNat 32 t.index)

/-- The first request of a core's spawn queue that a core has room for. -/
def State.placeable (s : State) (core : Nat) : Option (SpawnReq × Nat × Nat) :=
  (s.core core).spawnQ.findSome? fun q => (s.childSpot core q).map fun x => (q, x.1, x.2)

/-- CHILD_PLACEMENT (R162): a request of the core's spawn queue finds room: on its own core the child is placed, to another
core the request goes as an outgoing effect -/
def execChildPlacement (core : Nat) (s : State) : Result :=
  match s.placeable core with
  | none => .refused .notDue
  | some (q, rcv, side) =>
    let outside := ((s.team? q.parent.team).map fun p => p.core != core).getD false
    let take := fun (s : State) => s.mapCore core fun k =>
      { (if outside then k.mapSaved (fun v => { v with spawnQ := v.spawnQ.erase q }) else k) with spawnQ := k.spawnQ.erase q }
    if rcv = core then .next (((take s).placeChild q core side outside).spawnProgress core)
    else if s.room core = 0 then .refused .notDue
    else .next (((take s).produce core q.parent.team (.spawn rcv q.parent q.desc q.da q.arg q.pos q.depth)).spawnProgress core)

/-! ### Retirement (R189, R163, R278) -/

/-- Every tile-stream instruction of the team has retired: what it sent to other members is performed, what it had to write to
memory is written (R283, R304). -/
def State.coopRetired (s : State) (t : Team) : Bool :=
  t.log.pend.isEmpty && !((s.core t.core).buffer.any fun e => e.team == t.id && (match e.eff with
    | .remoteScratch _ _ _ => true
    | .accAdd _ _ _ _ _ => true
    | .accZero _ _ _ _ => true
    | _ => false))

/-- The conditions of R189 and R278: every group has retired, no descendant is left, the engine operations and tasks are done,
nothing the team pushed is unparsed but an incomplete command, and the Cooper has stopped, each of its instructions retired. -/
def State.teamDone (s : State) (t : Team) : Bool :=
  let k := s.core t.core
  t.groups.all (·.retired)
    && !(s.teams.any fun u => (u.parent.map (·.team)) == some t.id && !u.retiring)
    && !(k.ops.any fun o => o.2.any fun x => x.team == t.id)
    && !(k.buffer.any fun e => e.team == t.id && (match e.eff with | .command _ _ _ => true | .taskCommand _ _ => true | _ => false))
    && t.engs.all (fun p => p.2.arrived.isEmpty)
    && t.tasks.isEmpty
    && t.log.pend.isEmpty
    && (match t.cooper with
        | none => true
        | some c => c.wait == .stopped && s.coopRetired t)

/-- A child's retirement is a release at cluster scope (R163): every effect of its core so far is performed. -/
def State.childReleased (s : State) (t : Team) : Bool :=
  match t.parent with
  | none => true
  | some p => match s.team? p.team with
    | none => true
    | some _ => (s.core t.core).released .clu (s.core t.core).effNo && (s.core t.core).buffer.all fun e => e.team != t.id

/-- TEAM_RETIREMENT (R189, R163): the retirement is reported as an outgoing effect; a child's parent group has one child less.
`ready` says that no engine could still parse a command the team has pushed whole -/
def retireTeam (ready : Team → Bool) (team : Nat) (s : State) : Result :=
  match s.team? team with
  | none => .refused .notDue
  | some t =>
    if t.retiring || !s.teamDone t || !ready t || !s.childReleased t || decide (s.room t.core < 2) then .refused .notDue
    else
      let s := s.mapTeam team fun t => { t with retiring := true, engs := t.engs.map fun p => (p.1, { p.2 with cmd := [] }) }
      .next ((s.childGone t).produce t.core team (.retire team))

/-- One more team counts as retired (R190). -/
def State.countRetired (s : State) (asid seq index : Nat) : State :=
  (s.mapLaunch asid seq fun l => { l with retired := if l.retired.contains index then l.retired else l.retired ++ [index] }).launchProgress
    asid seq

/-- The room of a retired team is freed and offered to its launch first (R180, R189). -/
def State.freeTeam (s : State) (t : Team) : State := (s.dropTeams [t.id]).offerRoom t

/-- A retirement report settles (R189, R344): the team is counted and its room freed; of a launch with vintages, only once every
team of its gang has reported. -/
def State.settleRetire (s : State) (team : Nat) : State :=
  match s.team? team with
  | none => s
  | some t =>
    if t.parent.isSome then s.dropTeams [team]
    else
      let laps := match s.launchOf t with
        | some l => decide (l.laps ≠ 0)
        | none => false
      if !laps then (s.freeTeam t).countRetired t.asid t.seq t.index
      else
        let s := s.inputTeam team fun t => { t with reported := true }
        let gang := s.teams.filter fun u => u.asid == t.asid && u.seq == t.seq && u.cluster == t.cluster && u.parent.isNone
        if gang.all (·.reported) then gang.foldl (fun s u => (s.freeTeam u).countRetired u.asid u.seq u.index) s else s

/-! ### The flush and the signal (R190, R212) -/

/-- A line is written back by a launch's flush: of a page of its ASID, and homed on the package, or, with signal_sys, anywhere. -/
def Launch.flushes (l : Launch) (pages : List (Nat × Nat)) (line : Nat) : Bool :=
  (l.signalSys || onPackage (line * 128)) && pages.any fun p => decide (p.1 ≤ line * 128) && decide (line * 128 < p.1 + p.2)

/-- Everything the launch's cores had produced when its last team was counted is performed (DESIGN CHOICE, log 29). -/
def State.flushMay (s : State) (l : Launch) : Bool :=
  l.flushUpto.all fun x => (s.core x.1).writes.all (fun n => decide (x.2 < n)) && (s.core x.1).unmir.all (fun n => decide (x.2 < n))
    && (s.core x.1).buffer.all fun e => decide (x.2 < e.no)

/-- The lines a flush has still to write back, and those it has begun to: at its start the dirty lines of its pages; none where a table word
is in flight. -/
def State.flushLines (s : State) (l : Launch) : Option (List Nat × List Nat) :=
  match l.flush with
  | some x => some x
  | none => (s.pagesOf l.asid).map fun ps => (s.dirtyLines.filter (l.flushes ps), [])

/-- No write-back of these lines is under way. -/
def State.writtenBack (s : State) (lines : List Nat) : Bool := lines.all fun n => !s.lineBusy n

/-- LAUNCH_FLUSH (R190, R212): lines of which nothing is in flight are written back as by `cwb`; once all are, and every write-back has
reached its home, the launch is to signal -/
def execLaunchFlush (asid seq : Nat) (s : State) : Result :=
  match s.launch? asid seq with
  | none => .refused .notDue
  | some l =>
    match (if l.state = .flushing ∧ s.flushMay l = true then s.flushLines l else none) with
    | none => .refused .notDue
    | some (todo, sent) =>
      let ready := todo.filter fun n => !s.lineBusy n
      let rest := todo.filter s.lineBusy
      let u := ready.foldl (fun s n => s.cwbLine (s.cores.map (·.1)) (List.range Config.numDies) n) s
      if rest.isEmpty && u.writtenBack (sent ++ ready) then .next (u.mapLaunch asid seq fun l => { l with state := .signalled, flush := none })
      else if ready.isEmpty && l.flush.isSome then .refused .notDue
      else .next (u.mapLaunch asid seq fun l => { l with flush := some (rest, sent ++ ready) })

/-- The status a launch signals with (R190). -/
def Launch.status (l : Launch) : Nat :=
  if l.state == .refused then l.reason else if l.gangKilled then 0x11 else if l.teamEnded then 0x10 else l.reason

/-- A word of a launch's signal written: where the walk before a reset found it (R402), or where one leads now. -/
def State.signalWrite (s : State) (asid : Nat) (l : Launch) (off : Nat) (x : Word) : Option State :=
  match l.signalPa with
  | none => s.distWrite asid (l.signal % 2 ^ 56 + off) x
  | some pa => let w := (pa + off) / 4; if s.wordQuiet w && !s.inTransition (pa + off) then some (s.homeWrite w x) else none

/-- What a signal write that must wait asks for. -/
def State.signalAsk (s : State) (asid : Nat) (l : Launch) : Option State :=
  match l.signalPa with
  | none => s.askRange? asid (l.signal % 2 ^ 56) 8 true
  | some pa => s.askAll? [pa / 128] true

/-- LAUNCH_SIGNAL_WRITE (R190, R177): the status is written at signal + 4, then the sequence number at signal, and the launch
ends -/
def execLaunchSignalWrite (asid seq : Nat) (s : State) : Result :=
  match s.launch? asid seq with
  | none => .refused .notDue
  | some l =>
    if l.state = .signalled ∨ l.state = .refused then
      match s.signalWrite asid l 4 (BitVec.ofNat 32 l.status) with
      | none => orAsk (s.signalAsk asid l)
      | some s =>
        match s.signalWrite asid l 0 (BitVec.ofNat 32 seq) with
        | none => .refused .notDue
        | some s => .next (s.mapPort asid fun p =>
            Port.noteSignal { p with launches := p.launches.filter fun m => m.seq != seq } seq)
    else .refused .notDue

end Sys2Proof.Machine
end

