-- ==== Sys2Proof/Machine/Events.lean ====
section
/-! DEFINITION. Events of the groups and of the windows of a core: rotation (R143), the active set (R184, R185), token windows and
throttling scores (R187, R188), handler entries (R332, R336), and the translation roots (R324). -/
namespace Sys2Proof.Machine
open Sys2Proof

/-! ### Paths of a group (R141, R142) -/

/-- The positions that lead a path each, ascending by PC (R141). -/
def Group.leads (g : Group) : List Nat :=
  let first := fun (i : Nat) => (g.members i).head? == some i
  sortBy (fun i j => decide ((g.thread i).pc.toNat ≤ (g.thread j).pc.toNat)) ((List.range 32).filter first)

/-- The slices of a path (R138, R140). -/
def slicesOf (ms : List Nat) : List Nat := (ms.map (· / 4)).eraseDups

/-- The paths a group offers, P1 before P2 (R142). -/
def Group.offers (g : Group) : List Nat :=
  let favoured := match g.favour with
    | none => []
    | some f => g.leads.filter fun l => (g.members l).contains f
  let order := favoured ++ g.leads.filter fun l => !favoured.contains l
  match order with
  | [] => []
  | p1 :: r => p1 :: ((r.find? fun l => !((slicesOf (g.members l)).any (slicesOf (g.members p1)).contains)).toList)

/-- The group may issue: no trap of it is pending, and nothing stops it but what a handler runs through (R332, R336, R340). -/
def Group.mayIssue (g : Group) : Bool := g.pending == .none && (g.handler || !g.stopped) && !g.retired

/-- A path could issue as far as long-latency results go (R25): every window of its threads is open, and no register its next
instruction was found to name waits for one. What that instruction names is known once it has been tried (DESIGN CHOICE, log 2). -/
def Group.pathOpen (g : Group) (lead : Nat) : Bool :=
  (g.members lead).all fun i => (g.thread i).inWindow && (g.thread i).clear (g.thread i).stall && g.kClear (g.thread i).kstall
/-- A path is stalled on a long-latency result, beyond its window or inside it (R25, R184). -/
def Group.pathWaits (g : Group) (lead : Nat) : Bool :=
  (g.members lead).any fun i => !(g.thread i).inWindow || (g.thread i).out.any (fun o => o.longLatency && o.hits (g.thread i).stall)
    || g.kout.any fun o => o.longLatency && o.hits (g.thread i).kstall
/-- Ready (R184). -/
def Group.isReady (g : Group) : Bool := g.mayIssue && g.leads.any g.pathOpen
/-- Waiting (R184): a blocked thread leads no path. -/
def Group.isWaiting (g : Group) : Bool := g.leads.all g.pathWaits

/-! ### Rotation -/

/-- QUANTUM_ROTATION (R143): a group that has become divided with its count at the quantum rotates; the lowest live position starts
where it holds no favour -/
def execQuantumRotation (team group : Nat) (s : State) : Result :=
  match (s.team? team).bind (·.group? group) with
  | none => .refused .notDue
  | some g =>
    if g.divided ∧ g.quantum.toNat ≠ 0 ∧ g.quantum.toNat ≤ g.n then
      .next (s.mapGroup team group fun g => g.rotate (((List.range 32).find? fun i => (g.thread i).live).getD 0))
    else .refused .notDue

/-! ### The active set (R184, R185) -/

/-- A resident group with its team. -/
structure Seat where
  team : Nat
  group : Nat
  age : Nat
  slot : Nat
  active : Bool
  ready : Bool
  waiting : Bool
deriving DecidableEq, Repr

/-- Older: placed before, or with the lower slot. -/
def Seat.older (a b : Seat) : Bool := decide (a.age < b.age) || (a.age == b.age && decide (a.slot ≤ b.slot))

/-- The groups of a side of a core that have not retired, oldest first. -/
def State.seats (s : State) (core side : Nat) : List Seat :=
  sortBy Seat.older ((s.teams.filter fun t => t.core == core).flatMap fun t => (t.groups.filter fun g => g.side == side && !g.retired).map fun g =>
    ({ team := t.id, group := g.idx, age := g.age, slot := g.slot, active := g.active, ready := g.isReady, waiting := g.isWaiting } : Seat))

/-- Makes a group active or pending. -/
def State.seat (s : State) (x : Seat) (active : Bool) : State := s.mapGroup x.team x.group fun g => { g with active := active }

/-- GROUP_SWAP (R185): the oldest ready pending group fills a place of the active set, or takes that of the oldest waiting active
group -/
def execGroupSwap (core side : Nat) (s : State) : Result :=
  let all := s.seats core side
  let act := all.filter (·.active)
  match all.find? (fun x => !x.active && x.ready) with
  | none => .refused .notDue
  | some p =>
    if act.length < 8 then .next (s.seat p true)
    else match act.find? (·.waiting) with
      | some a => .next ((s.seat a false).seat p true)
      | none => .refused .notDue

/-! ### Windows of 1,024 ccyc -/

/-- Changes every team of a core. -/
def State.mapTeamsOn (s : State) (core : Nat) (f : Team → Team) : State :=
  { s with teams := s.teams.map fun t => if t.core = core then f t else t }

/-- TOKEN_WINDOW_START (R188) -/
def execTokenWindowStart (core : Nat) (s : State) : Result :=
  let w := s.now core / Config.tokenWindow
  if w ≤ (s.core core).window then .refused .notDue
  else
    .next ((s.mapTeamsOn core fun t => { t with tensorSpent := 0, sfuSpent := 0, tensorIssued := false, sfuIssued := false }).mapCore core fun k =>
      { k with window := w })

/-- THROTTLE_SCORE_HALVING (R187) -/
def execThrottleScoreHalving (core : Nat) (s : State) : Result :=
  let w := s.now core / Config.tokenWindow
  if w ≤ (s.core core).halved then .refused .notDue
  else
    .next ((s.mapTeamsOn core fun t => { t with groups := t.groups.map fun (g : Group) => { g with score := g.score / 2 } }).mapCore core fun k =>
      { k with halved := w })

/-! ### Handlers (R332, R336, R337) -/

/-- TRAP_HANDLER_ENTRY (R332): a group whose traps are pending has drained its outstanding results -/
def execTrapHandlerEntry (team group : Nat) (s : State) : Result :=
  match (s.team? team).bind (·.group? group) with
  | none => .refused .notDue
  | some g => if g.pending ≠ .none ∧ g.drained then .next (s.enterIfDrained team group) else .refused .notDue

/-- A team cause waits for its handler: no group of the team is in handler mode or about to be (R337). -/
def Team.handlerDue (t : Team) : Bool :=
  (match t.cooper with
    | some k => k.trapped
    | none => false)
    && t.groups.all fun g => !g.handler && g.pending == .none

/-- TEAM_HANDLER_ENTRY (R336): the team handler runs on the lowest-numbered group with a live thread that is not blocked; with
none, the team ends -/
def execTeamHandlerEntry (team : Nat) (s : State) : Result :=
  match s.team? team with
  | none => .refused .notDue
  | some t =>
    if !t.handlerDue then .refused .notDue
    else match t.handlerGroup with
      | none => .next (s.endTeam team (t.tcause.toNat % 64) 0 0)
      | some g => .next ((s.mapGroup team g fun g => { g with pending := .team }).enterIfDrained team g)

/-! ### Translation roots (R324) -/

/-- A root takes effect: every translation of the ASID in the package is dropped. -/
def State.applyRoot (s : State) (asid : Nat) (v : DWord) : State :=
  let s := s.mapPort asid fun p => { p with root := v, rootPending := none }
  { s with cores := s.cores.map fun (ck : Nat × Core) =>
      (ck.1, if ck.2.tlb.any (fun e => e.asid == asid) || ck.2.lastPage.any (fun e => e.2.asid == asid) then
        { ck.2 with tlb := ck.2.tlb.filter (fun e => e.asid != asid), lastPage := [] } else ck.2) }

/-- The fields of `at_root`: enable and root. -/
def rootFields (v : DWord) : DWord := v &&& 0x800FFFFFFFF00000

/-- A write to `at_root` (R324): held pending while a launch of the ASID holds its root. -/
def State.rootWrite (s : State) (asid : Nat) (value : DWord) : State :=
  if (s.port asid).launches.any fun l => l.state.holdsRoot then
    s.mapPort asid fun p => { p with rootPending := some (rootFields value) }
  else s.applyRoot asid (rootFields value)

/-- AT_ROOT_WRITE (R324) -/
def execAtRootWrite (asid : Nat) (value : DWord) (s : State) : Result :=
  if asid < Config.numAsids then .next (s.rootWrite asid value) else .refused .notDue

/-- AT_ROOT_APPLY (R324): the last launch that held a root write has left its states -/
def execAtRootApply (asid : Nat) (s : State) : Result :=
  match (s.port asid).rootPending with
  | none => .refused .notDue
  | some v => if (s.port asid).launches.any fun l => l.state.holdsRoot then .refused .notDue else .next (s.applyRoot asid v)

end Sys2Proof.Machine
end

