-- ==== Sys2Proof/WellFormed.lean ====
section
/-! DEFINITION. Which terms of `Instr` stand for words the encodings of R39 to R41 and the commands of R255 can carry. -/
namespace Sys2Proof

/-- Loads and `lds` have no release-only and no acquire-release form (R36). -/
def MemOrder.okLoad : MemOrder → Bool
  | .rlx => true | .acq => true | .rel => false | .ar => false | .sc => true
/-- Stores and `sts` have no acquire form (R36). -/
def MemOrder.okStore : MemOrder → Bool
  | .rlx => true | .acq => false | .rel => true | .ar => false | .sc => true
/-- An atomic has no code of its own for release-only order (R36). -/
def MemOrder.okAtom : MemOrder → Bool
  | .rlx => true | .acq => true | .rel => false | .ar => true | .sc => true
/-- A fence is never relaxed (R36). -/
def MemOrder.okFence : MemOrder → Bool
  | .rlx => false | .acq => true | .rel => true | .ar => true | .sc => true
/-- Cache control and prefetch have no group scope (R219). -/
def Scope.okCache : Scope → Bool
  | .grp => false | .core => true | .clu => true | .die => true | .qtr => true | .dev => true | .sys => true
/-- `sts` has no sign-extending width (R39, major 0x26). -/
def LpWidth.okStore : LpWidth → Bool
  | .n8 => true | .i8 => false | .n16 => true | .i16 => false | .b32 => true | .b64 => true | .b128 => true
/-- The rounding field of a word holds four of the five roundings (R39, majors 0x10 to 0x14). -/
def Rnd.ok : Rnd → Bool
  | .rn => true | .rz => true | .rd => true | .ru => true | .rna => false

/-- An engine command has its code in word 0, its fixed words, and two more when `sig` is set (R255). -/
def commandOk (code fixed : Nat) : List Word → Bool
  | [] => false
  | w :: r => decide (w.toNat / 2^24 = code)
      && decide (r.length + 1 = fixed + (if w.toNat / 2^23 % 2 = 1 then 2 else 0))

/-- The terms an encoding can carry; an event is well-formed whatever it carries. -/
def Instr.wf : Instr → Bool
  | .nop => true
  | .trap _ => true
  | .land => true
  | .yield => true
  | .exit => true
  | .smovSr _ _ => true
  | .smovCr _ _ => true
  | .smovK _ _ => true
  | .ssetCr _ _ => true
  | .ssetK _ _ => true
  | .eret => true
  | .iaddI32 _ _ _ => true
  | .isubI32 _ _ _ => true
  | .iaddSatI32 _ _ _ => true
  | .iaddSatN32 _ _ _ => true
  | .isubSatI32 _ _ _ => true
  | .isubSatN32 _ _ _ => true
  | .imulLoB32 _ _ _ => true
  | .imulHiI32 _ _ _ => true
  | .imulHiN32 _ _ _ => true
  | .imadLoB32 _ _ _ => true
  | .inegI32 _ _ => true
  | .iabsI32 _ _ => true
  | .iminI32 _ _ _ => true
  | .imaxI32 _ _ _ => true
  | .iminN32 _ _ _ => true
  | .imaxN32 _ _ _ => true
  | .iaddB64 _ _ _ => true
  | .isubB64 _ _ _ => true
  | .imulWideI32 _ _ _ => true
  | .imulWideN32 _ _ _ => true
  | .imadWideI32 _ _ _ => true
  | .imadWideN32 _ _ _ => true
  | .iminI64 _ _ _ => true
  | .imaxI64 _ _ _ => true
  | .iminN64 _ _ _ => true
  | .imaxN64 _ _ _ => true
  | .idot4I8 _ _ _ => true
  | .idot4N8 _ _ _ => true
  | .idot2I16 _ _ _ => true
  | .idot2N16 _ _ _ => true
  | .isad4N8 _ _ _ => true
  | .iaddN16x2 _ _ _ => true
  | .isubN16x2 _ _ _ => true
  | .shlB32 _ _ _ => true
  | .shrN32 _ _ _ => true
  | .shrI32 _ _ _ => true
  | .rolB32 _ _ _ => true
  | .rorB32 _ _ _ => true
  | .andB32 _ _ _ => true
  | .orB32 _ _ _ => true
  | .xorB32 _ _ _ => true
  | .andnB32 _ _ _ => true
  | .ornB32 _ _ _ => true
  | .xnorB32 _ _ _ => true
  | .notB32 _ _ => true
  | .shlB64 _ _ _ => true
  | .shrN64 _ _ _ => true
  | .shrI64 _ _ _ => true
  | .bfeN32 _ _ _ => true
  | .bfeI32 _ _ _ => true
  | .bfiB32 _ _ _ => true
  | .bpermB32 _ _ _ => true
  | .popcB32 _ _ => true
  | .clzB32 _ _ => true
  | .ctzB32 _ _ => true
  | .brevB32 _ _ => true
  | .icmpEqB32 _ _ _ => true
  | .icmpNeB32 _ _ _ => true
  | .icmpLtI32 _ _ _ => true
  | .icmpLeI32 _ _ _ => true
  | .icmpGtI32 _ _ _ => true
  | .icmpGeI32 _ _ _ => true
  | .icmpLtN32 _ _ _ => true
  | .icmpLeN32 _ _ _ => true
  | .icmpGtN32 _ _ _ => true
  | .icmpGeN32 _ _ _ => true
  | .icmpEqB64 _ _ _ => true
  | .icmpNeB64 _ _ _ => true
  | .icmpLtI64 _ _ _ => true
  | .icmpGeI64 _ _ _ => true
  | .icmpLtN64 _ _ _ => true
  | .icmpGeN64 _ _ _ => true
  | .selB32 _ _ _ _ => true
  | .movB32 _ _ => true
  | .movB64 _ _ => true
  | .pget _ _ => true
  | .pset _ _ => true
  | .pand _ _ _ => true
  | .por _ _ _ => true
  | .pxor _ _ _ => true
  | .iaddi _ _ _ => true
  | .andi _ _ _ => true
  | .ori _ _ _ => true
  | .xori _ _ _ => true
  | .shliB32 _ _ _ => true
  | .shriN32 _ _ _ => true
  | .shriI32 _ _ _ => true
  | .roliB32 _ _ _ => true
  | .roriB32 _ _ _ => true
  | .movi _ _ => true
  | .shlori _ _ _ => true
  | .icmpi _ _ _ _ => true
  | .faddF32 r _ _ _ => r.ok
  | .fsubF32 r _ _ _ => r.ok
  | .fmulF32 r _ _ _ => r.ok
  | .faddSatF32 r _ _ _ => r.ok
  | .fsubSatF32 r _ _ _ => r.ok
  | .fmulSatF32 r _ _ _ => r.ok
  | .fmaF32 _ _ _ r => r.ok
  | .fmsF32 _ _ _ r => r.ok
  | .fnmaF32 _ _ _ r => r.ok
  | .fmaSatF32 _ _ _ r => r.ok
  | .fminF32 _ _ _ => true
  | .fmaxF32 _ _ _ => true
  | .fminnumF32 _ _ _ => true
  | .fmaxnumF32 _ _ _ => true
  | .fabsF32 _ _ => true
  | .fnegF32 _ _ => true
  | .frintF32Rn _ _ => true
  | .frintF32Rz _ _ => true
  | .frintF32Rd _ _ => true
  | .frintF32Ru _ _ => true
  | .frintF32Rna _ _ => true
  | .fcopysignF32 _ _ _ => true
  | .fcmpEqF32 _ _ _ => true
  | .fcmpNeF32 _ _ _ => true
  | .fcmpLtF32 _ _ _ => true
  | .fcmpLeF32 _ _ _ => true
  | .fcmpGtF32 _ _ _ => true
  | .fcmpGeF32 _ _ _ => true
  | .fcmpOrdF32 _ _ _ => true
  | .fcmpUnoF32 _ _ _ => true
  | .faddBf16x2Rn _ _ _ => true
  | .fmulBf16x2Rn _ _ _ => true
  | .fmaBf16x2Rn _ _ _ => true
  | .fminBf16x2 _ _ _ => true
  | .fmaxBf16x2 _ _ _ => true
  | .faddF16x2Rn _ _ _ => true
  | .fmulF16x2Rn _ _ _ => true
  | .fmaF16x2Rn _ _ _ => true
  | .fminF16x2 _ _ _ => true
  | .fmaxF16x2 _ _ _ => true
  | .cvtF32I32Rn _ _ => true
  | .cvtF32N32Rn _ _ => true
  | .cvtI32F32Rn _ _ => true
  | .cvtI32F32Rz _ _ => true
  | .cvtI32F32Rd _ _ => true
  | .cvtI32F32Ru _ _ => true
  | .cvtN32F32Rn _ _ => true
  | .cvtN32F32Rz _ _ => true
  | .cvtN32F32Rd _ _ => true
  | .cvtN32F32Ru _ _ => true
  | .cvtF32Bf16 _ _ => true
  | .cvtF32F16 _ _ => true
  | .cvtBf16F32Rn _ _ => true
  | .cvtBf16F32Rz _ _ => true
  | .cvtF16F32Rn _ _ => true
  | .cvtF16F32Rz _ _ => true
  | .cvtE4m3x2F32Rn _ _ _ => true
  | .cvtE4m3x2F32RnSat _ _ _ => true
  | .cvtE5m2x2F32Rn _ _ _ => true
  | .cvtE5m2x2F32RnSat _ _ _ => true
  | .cvtBf16x2F32Rn _ _ _ => true
  | .cvtF16x2F32Rn _ _ _ => true
  | .cvtF16x2E4m3x2 _ _ => true
  | .cvtF16x2E5m2x2 _ _ => true
  | .rcpF32 _ _ _ => true
  | .rsqrtF32 _ _ _ => true
  | .sqrtF32 _ _ _ => true
  | .exp2F32 _ _ _ => true
  | .log2F32 _ _ _ => true
  | .sinF32 _ _ _ => true
  | .cosF32 _ _ _ => true
  | .sinpiF32 _ _ _ => true
  | .cospiF32 _ _ _ => true
  | .tanhF32 _ _ _ => true
  | .shflSel _ _ _ => true
  | .shflStep _ _ _ => true
  | .shflWrap _ _ _ => true
  | .shflRank _ _ _ => true
  | .swzXor _ _ _ => true
  | .swzBcast _ _ _ => true
  | .swzRot _ _ _ => true
  | .voteCount _ _ => true
  | .voteMask _ _ => true
  | .voteSpan _ _ => true
  | .matchB32 _ _ _ => true
  | .matchB64 _ _ _ => true
  | .reduxAddI32 _ _ => true
  | .reduxMinI32 _ _ => true
  | .reduxMaxI32 _ _ => true
  | .reduxAndB32 _ _ => true
  | .reduxOrB32 _ _ => true
  | .reduxFaddF32Rn _ _ => true
  | .ldN8 _ _ _ _ o => o.okLoad
  | .ldI8 _ _ _ _ o => o.okLoad
  | .stB8 _ _ _ o => o.okStore
  | .ldN16 _ _ _ _ o => o.okLoad
  | .ldI16 _ _ _ _ o => o.okLoad
  | .stB16 _ _ _ o => o.okStore
  | .ldB32 _ _ _ _ o => o.okLoad
  | .stB32 _ _ _ o => o.okStore
  | .ldB64 _ _ _ _ o => o.okLoad
  | .stB64 _ _ _ o => o.okStore
  | .ldB128 _ _ _ _ o => o.okLoad
  | .stB128 _ _ _ o => o.okStore
  | .atomAddI32 _ _ _ _ o => o.okAtom
  | .atomAndB32 _ _ _ _ o => o.okAtom
  | .atomOrB32 _ _ _ _ o => o.okAtom
  | .atomXorB32 _ _ _ _ o => o.okAtom
  | .atomMinI32 _ _ _ _ o => o.okAtom
  | .atomMaxI32 _ _ _ _ o => o.okAtom
  | .atomMinN32 _ _ _ _ o => o.okAtom
  | .atomMaxN32 _ _ _ _ o => o.okAtom
  | .atomExchB32 _ _ _ _ o => o.okAtom
  | .atomCasB32 _ _ _ _ o => o.okAtom
  | .atomFaddF32Rn _ _ _ _ o => o.okAtom
  | .atomFadd2Bf16Rn _ _ _ _ o => o.okAtom
  | .lds _ _ _ _ o => o.okLoad
  | .sts _ _ w o => w.okStore && o.okStore
  | .ldSpecB32 _ _ _ _ => true
  | .ldSpecB64 _ _ _ _ => true
  | .chkB32 _ _ _ _ => true
  | .chkB64 _ _ _ _ => true
  | .fence _ o => o.okFence
  | .fenceEng _ => true
  | .cwb _ s => s.okCache
  | .cinv _ s => s.okCache
  | .cwbinv _ s => s.okCache
  | .icinv _ s => s.okCache
  | .pfL1 _ s => s.okCache
  | .pfL2 _ s => s.okCache
  | .rgnConv _ _ => true
  | .qpushB32 _ _ => true
  | .qpushB64 _ _ => true
  | .qpopB32 _ _ _ => true
  | .qpopB64 _ _ _ => true
  | .qtryB32 _ _ _ _ => true
  | .qtryB64 _ _ _ _ => true
  | .bra _ => true
  | .braT _ _ => true
  | .braF _ _ => true
  | .call _ => true
  | .jmpi _ => true
  | .calli _ => true
  | .ret _ => true
  | .barTeam => true
  | .barClu => true
  | .barNbArrive _ => true
  | .barNbWait _ => true
  | .spawn _ _ => true
  | .waitchild => true
  | .knop => true
  | .ksr _ _ => true
  | .kyield => true
  | .kaddB32 _ _ _ => true
  | .ksubB32 _ _ _ => true
  | .kmulLoB32 _ _ _ => true
  | .kmulHiI32 _ _ _ => true
  | .kmulHiN32 _ _ _ => true
  | .kminI32 _ _ _ => true
  | .kmaxI32 _ _ _ => true
  | .kminN32 _ _ _ => true
  | .kmaxN32 _ _ _ => true
  | .kaddB64 _ _ _ => true
  | .ksubB64 _ _ _ => true
  | .kandB32 _ _ _ => true
  | .korB32 _ _ _ => true
  | .kxorB32 _ _ _ => true
  | .kandnB32 _ _ _ => true
  | .knotB32 _ _ => true
  | .kshlB32 _ _ _ => true
  | .kshrN32 _ _ _ => true
  | .kshrI32 _ _ _ => true
  | .kpopcB32 _ _ => true
  | .kclzB32 _ _ => true
  | .kbfeN32 _ _ _ => true
  | .kbra _ => true
  | .kbrEqB32 _ _ _ => true
  | .kbrNeB32 _ _ _ => true
  | .kbrLtI32 _ _ _ => true
  | .kbrGeI32 _ _ _ => true
  | .kbrLtN32 _ _ _ => true
  | .kbrGeN32 _ _ _ => true
  | .kaddi _ _ _ => true
  | .kandi _ _ _ => true
  | .kori _ _ _ => true
  | .kxori _ _ _ => true
  | .kmovi _ _ => true
  | .kshlori _ _ _ => true
  | .kshliB32 _ _ _ => true
  | .kshriN32 _ _ _ => true
  | .kshriI32 _ _ _ => true
  | .kldB32 _ _ _ _ o => o.okLoad
  | .kstB32 _ _ _ o => o.okStore
  | .kldB64 _ _ _ _ o => o.okLoad
  | .kstB64 _ _ _ o => o.okStore
  | .katomAddI32 _ _ _ _ o => o.okAtom
  | .katomAndB32 _ _ _ _ o => o.okAtom
  | .katomOrB32 _ _ _ _ o => o.okAtom
  | .katomXorB32 _ _ _ _ o => o.okAtom
  | .katomMinI32 _ _ _ _ o => o.okAtom
  | .katomMaxI32 _ _ _ _ o => o.okAtom
  | .katomMinN32 _ _ _ _ o => o.okAtom
  | .katomMaxN32 _ _ _ _ o => o.okAtom
  | .katomExchB32 _ _ _ _ o => o.okAtom
  | .katomCasB32 _ _ _ _ o => o.okAtom
  | .katomFaddF32Rn _ _ _ _ o => o.okAtom
  | .klaunch _ _ => true
  | .kspawn _ _ => true
  | .tld _ _ => true
  | .tstBf16Rn _ _ _ => true
  | .tstF32 _ _ => true
  | .tmmaW _ _ _ _ => true
  | .tmmaS _ _ _ _ => true
  | .tmmaI8 _ _ _ _ => true
  | .tzero _ => true
  | .tewLd _ _ => true
  | .tewAdd _ _ => true
  | .tewMul _ _ => true
  | .tewAddrow _ _ => true
  | .tewMulrow _ _ => true
  | .tewRelu _ => true
  | .tewSq _ => true
  | .tewTanh _ => true
  | .tewNeg _ => true
  | .twait _ => true
  | .tsig _ => true
  | .tbar _ => true
  | .dtask n ext => decide (0 < n.toNat) && decide (ext.length = n.toNat)
  | .recBeg _ _ _ _ => true
  | .recEnd => true
  | .reverse _ _ _ _ => true
  | .rkLoad ws => commandOk 0x01 9 ws
  | .rkStore ws => commandOk 0x02 9 ws
  | .rkCopy ws => commandOk 0x03 9 ws
  | .rkGather ws => commandOk 0x04 11 ws
  | .rkScale ws => commandOk 0x05 4 ws
  | .pressCommand ws => commandOk 0x10 12 ws
  | .engineOperationComplete _ _ => true
  | .resultEntryWrite _ _ => true
  | .taskIssue _ _ => true
  | .lpSubmit _ _ => true
  | .launchRecordCheck _ => true
  | .dependencySatisfied _ _ => true
  | .leasingComplete _ _ => true
  | .teamPlacement _ _ => true
  | .childPlacement _ => true
  | .teamRetirement _ => true
  | .launchFlush _ _ => true
  | .launchSignalWrite _ _ => true
  | .atRootWrite _ _ => true
  | .atRootApply _ => true
  | .lpPreemptWrite _ _ => true
  | .preemptSaved _ => true
  | .lpResumeWrite _ _ => true
  | .vintageWrite _ _ _ => true
  | .registerWrite _ _ => true
  | .trapHandlerEntry _ _ => true
  | .teamHandlerEntry _ => true
  | .quantumRotation _ _ => true
  | .tokenWindowStart _ => true
  | .throttleScoreHalving _ => true
  | .settle _ => true
  | .snapshot _ => true
  | .strikeReport _ _ => true
  | .checkerMismatch _ _ _ => true
  | .uncorrectableError _ => true
  | .rds _ => true
  | .rdOwn _ => true
  | .ownNd _ => true
  | .upg _ => true
  | .atomReq _ => true
  | .gnt _ => true
  | .snpFwd _ => true
  | .snpOwn _ => true
  | .snpInv _ => true
  | .snpRcl _ => true
  | .snpAck _ => true
  | .snpData _ => true
  | .wbReq _ => true
  | .wbGnt _ => true
  | .wbData _ => true
  | .cleanEv _ => true
  | .cmp _ => true
  | .mir _ => true
  | .mirAck _ => true
  | .mirClr _ => true
  | .mark _ => true
  | .markAck _ => true
  | .nack _ => true
  | .dieDown _ => true
  | .rbReport _ _ => true
  | .takeReq _ => true
  | .sliceRebuildComplete _ => true
  | .snoopTimeout _ => true
  | .ddStateKill _ => true
  | .linkRateStep _ _ => true
  | .packageSnoopTimeout _ => true
  | .cxlSnpData _ _ => true
  | .cxlSnpInv _ _ => true
  | .cxlSnpCur _ _ => true
  | .hostMemAccess _ => true
  | .mgCtlGo _ => true
  | .pageMigrationComplete => true
  | .moveWindowEnd _ _ => true
  | .hkCtlWrite _ => true
  | .fabricNumApply => true
  | .tamperAlarm _ => true
  | .dieThrottle _ _ _ => true
  | .ioDie0ResetRelease => true
  | .firmwareVerifyDone => true
  | .selfTestPass _ => true
  | .serviceTransitionStart _ => true
  | .serviceTransitionEnd _ => true
  | .identify _ => true
  | .regRead _ => true
  | .regWrite _ => true
  | .powerStep _ => true
  | .fwWrite _ => true
  | .fwCommit _ => true
  | .attest _ => true
  | .sessionOpen _ => true
  | .sessionProve _ => true
  | .sessionClose _ => true
  | .sessionTimeout => true
  | .challengeExpiry => true
  | .illegalInstructionWord _ => true
  | .longLatencyResult _ _ _ => true
  | .groupSwap _ _ => true
  | .leaseDeclined _ _ => true
  | .applicationCoreAccess _ => true
  | .cxlH2dResponse _ _ _ _ => true
  | .backInvalidateResponse _ _ => true
  | .dieOvertemperature _ => true
  | .linkLevelRetry _ _ => true
  | .mladlithUnknownCode _ => true

end Sys2Proof
end

