-- ==== Sys2Proof/Decode.lean ====
section
/-! DEFINITION. The decoder of the lane set, the uniform set and the tile stream (R30 to R43), total on any words and
rejecting by name, and after it the encoder, both written from the tables of R39, R40 and R41. -/
namespace Sys2Proof

/- A constructor of `Instr` past the 244th cannot be built by compiled code (a limit of Lean's runtime), so what builds
one is noncomputable; the kernel evaluates it. -/
noncomputable section

/-- Bits hi to lo of a word. -/
def fld (w hi lo : Nat) : Nat := w / 2 ^ lo % 2 ^ (hi - lo + 1)
/-- Bits hi to lo of a word as a field. -/
def bits (w hi lo : Nat) : BitVec (hi - lo + 1) := BitVec.ofNat _ (fld w hi lo)

/-- The scope of a code of R4; code 7 names none (R35). -/
def scopeOf : Nat → Option Scope
  | 0 => some .grp | 1 => some .core | 2 => some .clu | 3 => some .die | 4 => some .qtr | 5 => some .dev
  | 6 => some .sys | _ => none
/-- The scope of cache control and prefetch, for which code 0 is reserved (R219). -/
def cacheScope (k : Nat) : Option Scope := if k = 0 then none else scopeOf k
/-- The order of a load's code (R36). -/
def loadOrder : Nat → Option MemOrder
  | 0 => some .rlx | 1 => some .acq | 3 => some .sc | _ => none
/-- The order of a store's code (R36). -/
def storeOrder : Nat → Option MemOrder
  | 0 => some .rlx | 1 => some .rel | 3 => some .sc | _ => none
/-- The order of an atomic's code (R36). -/
def atomOrder : Nat → Option MemOrder
  | 0 => some .rlx | 1 => some .acq | 2 => some .ar | 3 => some .sc | _ => none
/-- The order of a fence's code (R36). -/
def fenceOrder : Nat → Option MemOrder
  | 0 => some .rel | 1 => some .acq | 2 => some .ar | 3 => some .sc | _ => none
/-- The width of an `lds` code; 7 is reserved (R39). -/
def ldsWidth : Nat → Option LpWidth
  | 0 => some .n8 | 1 => some .i8 | 2 => some .n16 | 3 => some .i16 | 4 => some .b32 | 5 => some .b64
  | 6 => some .b128 | _ => none
/-- The width of an `sts` code; 1, 3 and 7 are reserved (R39). -/
def stsWidth : Nat → Option LpWidth
  | 0 => some .n8 | 2 => some .n16 | 4 => some .b32 | 5 => some .b64 | 6 => some .b128 | _ => none
/-- The condition of an `icmpi` code; 10 to 15 are reserved (R39). -/
def condOf : Nat → Option Cond
  | 0 => some .eq | 1 => some .ne | 2 => some .ltI | 3 => some .leI | 4 => some .gtI | 5 => some .geI
  | 6 => some .ltN | 7 => some .leN | 8 => some .gtN | 9 => some .geN | _ => none
/-- The rounding of a 2-bit code (R39, majors 0x10 to 0x14). -/
def rndOf : Nat → Rnd
  | 0 => .rn | 1 => .rz | 2 => .rd | _ => .ru

/-- Major 0x00 of the lane set (R39). -/
def dec00 (w : Nat) : Option Instr :=
  if fld w 3 0 = 0 then
    if fld w 24 4 = 0 then some .nop else none
  else if fld w 3 0 = 1 then
    if fld w 24 11 = 0 then some (.trap (bits w 10 4)) else none
  else if fld w 3 0 = 2 then
    if fld w 24 4 = 0 then some .land else none
  else if fld w 3 0 = 3 then
    if fld w 24 4 = 0 then some .yield else none
  else if fld w 3 0 = 4 then
    if fld w 24 4 = 0 then some .exit else none
  else if fld w 3 0 = 5 then
    if fld w 17 11 = 0 then some (.smovSr (bits w 24 18) (bits w 10 4)) else none
  else if fld w 3 0 = 6 then
    if fld w 17 11 = 0 then some (.smovCr (bits w 24 18) (bits w 10 4)) else none
  else if fld w 3 0 = 7 then
    if fld w 17 10 = 0 then some (.smovK (bits w 24 18) (bits w 9 4)) else none
  else if fld w 3 0 = 8 then
    if fld w 24 18 = 0 then some (.ssetCr (bits w 17 11) (bits w 10 4)) else none
  else if fld w 3 0 = 9 then
    if fld w 10 10 = 0 ∧ fld w 24 18 = 0 then some (.ssetK (bits w 17 11) (bits w 9 4)) else none
  else if fld w 3 0 = 10 then
    if fld w 24 4 = 0 then some .eret else none
  else none

/-- Major 0x01 of the lane set (R39). -/
def dec01 (w : Nat) : Option Instr :=
  if fld w 3 0 = 0 then
    some (.iaddI32 (bits w 24 18) (bits w 17 11) (bits w 10 4))
  else if fld w 3 0 = 1 then
    some (.isubI32 (bits w 24 18) (bits w 17 11) (bits w 10 4))
  else if fld w 3 0 = 2 then
    some (.iaddSatI32 (bits w 24 18) (bits w 17 11) (bits w 10 4))
  else if fld w 3 0 = 3 then
    some (.iaddSatN32 (bits w 24 18) (bits w 17 11) (bits w 10 4))
  else if fld w 3 0 = 4 then
    some (.isubSatI32 (bits w 24 18) (bits w 17 11) (bits w 10 4))
  else if fld w 3 0 = 5 then
    some (.isubSatN32 (bits w 24 18) (bits w 17 11) (bits w 10 4))
  else if fld w 3 0 = 6 then
    some (.imulLoB32 (bits w 24 18) (bits w 17 11) (bits w 10 4))
  else if fld w 3 0 = 7 then
    some (.imulHiI32 (bits w 24 18) (bits w 17 11) (bits w 10 4))
  else if fld w 3 0 = 8 then
    some (.imulHiN32 (bits w 24 18) (bits w 17 11) (bits w 10 4))
  else if fld w 3 0 = 9 then
    some (.imadLoB32 (bits w 24 18) (bits w 17 11) (bits w 10 4))
  else if fld w 3 0 = 10 then
    if fld w 10 4 = 0 then some (.inegI32 (bits w 24 18) (bits w 17 11)) else none
  else if fld w 3 0 = 11 then
    if fld w 10 4 = 0 then some (.iabsI32 (bits w 24 18) (bits w 17 11)) else none
  else if fld w 3 0 = 12 then
    some (.iminI32 (bits w 24 18) (bits w 17 11) (bits w 10 4))
  else if fld w 3 0 = 13 then
    some (.imaxI32 (bits w 24 18) (bits w 17 11) (bits w 10 4))
  else if fld w 3 0 = 14 then
    some (.iminN32 (bits w 24 18) (bits w 17 11) (bits w 10 4))
  else if fld w 3 0 = 15 then
    some (.imaxN32 (bits w 24 18) (bits w 17 11) (bits w 10 4))
  else none

/-- Major 0x02 of the lane set (R39). -/
def dec02 (w : Nat) : Option Instr :=
  if fld w 3 0 = 0 then
    some (.iaddB64 (bits w 24 18) (bits w 17 11) (bits w 10 4))
  else if fld w 3 0 = 1 then
    some (.isubB64 (bits w 24 18) (bits w 17 11) (bits w 10 4))
  else if fld w 3 0 = 2 then
    some (.imulWideI32 (bits w 24 18) (bits w 17 11) (bits w 10 4))
  else if fld w 3 0 = 3 then
    some (.imulWideN32 (bits w 24 18) (bits w 17 11) (bits w 10 4))
  else if fld w 3 0 = 4 then
    some (.imadWideI32 (bits w 24 18) (bits w 17 11) (bits w 10 4))
  else if fld w 3 0 = 5 then
    some (.imadWideN32 (bits w 24 18) (bits w 17 11) (bits w 10 4))
  else if fld w 3 0 = 6 then
    some (.iminI64 (bits w 24 18) (bits w 17 11) (bits w 10 4))
  else if fld w 3 0 = 7 then
    some (.imaxI64 (bits w 24 18) (bits w 17 11) (bits w 10 4))
  else if fld w 3 0 = 8 then
    some (.iminN64 (bits w 24 18) (bits w 17 11) (bits w 10 4))
  else if fld w 3 0 = 9 then
    some (.imaxN64 (bits w 24 18) (bits w 17 11) (bits w 10 4))
  else none

/-- Major 0x03 of the lane set (R39). -/
def dec03 (w : Nat) : Option Instr :=
  if fld w 3 0 = 0 then
    some (.idot4I8 (bits w 24 18) (bits w 17 11) (bits w 10 4))
  else if fld w 3 0 = 1 then
    some (.idot4N8 (bits w 24 18) (bits w 17 11) (bits w 10 4))
  else if fld w 3 0 = 2 then
    some (.idot2I16 (bits w 24 18) (bits w 17 11) (bits w 10 4))
  else if fld w 3 0 = 3 then
    some (.idot2N16 (bits w 24 18) (bits w 17 11) (bits w 10 4))
  else if fld w 3 0 = 4 then
    some (.isad4N8 (bits w 24 18) (bits w 17 11) (bits w 10 4))
  else if fld w 3 0 = 5 then
    some (.iaddN16x2 (bits w 24 18) (bits w 17 11) (bits w 10 4))
  else if fld w 3 0 = 6 then
    some (.isubN16x2 (bits w 24 18) (bits w 17 11) (bits w 10 4))
  else none

/-- Major 0x04 of the lane set (R39). -/
def dec04 (w : Nat) : Option Instr :=
  if fld w 3 0 = 0 then
    some (.shlB32 (bits w 24 18) (bits w 17 11) (bits w 10 4))
  else if fld w 3 0 = 1 then
    some (.shrN32 (bits w 24 18) (bits w 17 11) (bits w 10 4))
  else if fld w 3 0 = 2 then
    some (.shrI32 (bits w 24 18) (bits w 17 11) (bits w 10 4))
  else if fld w 3 0 = 3 then
    some (.rolB32 (bits w 24 18) (bits w 17 11) (bits w 10 4))
  else if fld w 3 0 = 4 then
    some (.rorB32 (bits w 24 18) (bits w 17 11) (bits w 10 4))
  else if fld w 3 0 = 5 then
    some (.andB32 (bits w 24 18) (bits w 17 11) (bits w 10 4))
  else if fld w 3 0 = 6 then
    some (.orB32 (bits w 24 18) (bits w 17 11) (bits w 10 4))
  else if fld w 3 0 = 7 then
    some (.xorB32 (bits w 24 18) (bits w 17 11) (bits w 10 4))
  else if fld w 3 0 = 8 then
    some (.andnB32 (bits w 24 18) (bits w 17 11) (bits w 10 4))
  else if fld w 3 0 = 9 then
    some (.ornB32 (bits w 24 18) (bits w 17 11) (bits w 10 4))
  else if fld w 3 0 = 10 then
    some (.xnorB32 (bits w 24 18) (bits w 17 11) (bits w 10 4))
  else if fld w 3 0 = 11 then
    if fld w 10 4 = 0 then some (.notB32 (bits w 24 18) (bits w 17 11)) else none
  else if fld w 3 0 = 12 then
    some (.shlB64 (bits w 24 18) (bits w 17 11) (bits w 10 4))
  else if fld w 3 0 = 13 then
    some (.shrN64 (bits w 24 18) (bits w 17 11) (bits w 10 4))
  else if fld w 3 0 = 14 then
    some (.shrI64 (bits w 24 18) (bits w 17 11) (bits w 10 4))
  else none

/-- Major 0x05 of the lane set (R39). -/
def dec05 (w : Nat) : Option Instr :=
  if fld w 3 0 = 0 then
    some (.bfeN32 (bits w 24 18) (bits w 17 11) (bits w 10 4))
  else if fld w 3 0 = 1 then
    some (.bfeI32 (bits w 24 18) (bits w 17 11) (bits w 10 4))
  else if fld w 3 0 = 2 then
    some (.bfiB32 (bits w 24 18) (bits w 17 11) (bits w 10 4))
  else if fld w 3 0 = 3 then
    some (.bpermB32 (bits w 24 18) (bits w 17 11) (bits w 10 4))
  else if fld w 3 0 = 4 then
    if fld w 10 4 = 0 then some (.popcB32 (bits w 24 18) (bits w 17 11)) else none
  else if fld w 3 0 = 5 then
    if fld w 10 4 = 0 then some (.clzB32 (bits w 24 18) (bits w 17 11)) else none
  else if fld w 3 0 = 6 then
    if fld w 10 4 = 0 then some (.ctzB32 (bits w 24 18) (bits w 17 11)) else none
  else if fld w 3 0 = 7 then
    if fld w 10 4 = 0 then some (.brevB32 (bits w 24 18) (bits w 17 11)) else none
  else none

/-- Major 0x06 of the lane set (R39). -/
def dec06 (w : Nat) : Option Instr :=
  if fld w 3 0 = 0 then
    if fld w 24 21 = 0 then some (.icmpEqB32 (bits w 20 18) (bits w 17 11) (bits w 10 4)) else none
  else if fld w 3 0 = 1 then
    if fld w 24 21 = 0 then some (.icmpNeB32 (bits w 20 18) (bits w 17 11) (bits w 10 4)) else none
  else if fld w 3 0 = 2 then
    if fld w 24 21 = 0 then some (.icmpLtI32 (bits w 20 18) (bits w 17 11) (bits w 10 4)) else none
  else if fld w 3 0 = 3 then
    if fld w 24 21 = 0 then some (.icmpLeI32 (bits w 20 18) (bits w 17 11) (bits w 10 4)) else none
  else if fld w 3 0 = 4 then
    if fld w 24 21 = 0 then some (.icmpGtI32 (bits w 20 18) (bits w 17 11) (bits w 10 4)) else none
  else if fld w 3 0 = 5 then
    if fld w 24 21 = 0 then some (.icmpGeI32 (bits w 20 18) (bits w 17 11) (bits w 10 4)) else none
  else if fld w 3 0 = 6 then
    if fld w 24 21 = 0 then some (.icmpLtN32 (bits w 20 18) (bits w 17 11) (bits w 10 4)) else none
  else if fld w 3 0 = 7 then
    if fld w 24 21 = 0 then some (.icmpLeN32 (bits w 20 18) (bits w 17 11) (bits w 10 4)) else none
  else if fld w 3 0 = 8 then
    if fld w 24 21 = 0 then some (.icmpGtN32 (bits w 20 18) (bits w 17 11) (bits w 10 4)) else none
  else if fld w 3 0 = 9 then
    if fld w 24 21 = 0 then some (.icmpGeN32 (bits w 20 18) (bits w 17 11) (bits w 10 4)) else none
  else if fld w 3 0 = 10 then
    if fld w 24 21 = 0 then some (.icmpEqB64 (bits w 20 18) (bits w 17 11) (bits w 10 4)) else none
  else if fld w 3 0 = 11 then
    if fld w 24 21 = 0 then some (.icmpNeB64 (bits w 20 18) (bits w 17 11) (bits w 10 4)) else none
  else if fld w 3 0 = 12 then
    if fld w 24 21 = 0 then some (.icmpLtI64 (bits w 20 18) (bits w 17 11) (bits w 10 4)) else none
  else if fld w 3 0 = 13 then
    if fld w 24 21 = 0 then some (.icmpGeI64 (bits w 20 18) (bits w 17 11) (bits w 10 4)) else none
  else if fld w 3 0 = 14 then
    if fld w 24 21 = 0 then some (.icmpLtN64 (bits w 20 18) (bits w 17 11) (bits w 10 4)) else none
  else if fld w 3 0 = 15 then
    if fld w 24 21 = 0 then some (.icmpGeN64 (bits w 20 18) (bits w 17 11) (bits w 10 4)) else none
  else none

/-- Major 0x07 of the lane set (R39). -/
def dec07 (w : Nat) : Option Instr :=
  if fld w 3 3 = 0 then some (.selB32 (bits w 24 18) (bits w 17 11) (bits w 10 4) (bits w 2 0))
  else if fld w 3 0 = 8 then
    if fld w 10 4 = 0 then some (.movB32 (bits w 24 18) (bits w 17 11)) else none
  else if fld w 3 0 = 9 then
    if fld w 10 4 = 0 then some (.movB64 (bits w 24 18) (bits w 17 11)) else none
  else if fld w 3 0 = 10 then
    if fld w 10 4 = 0 ∧ fld w 17 14 = 0 then some (.pget (bits w 24 18) (bits w 13 11)) else none
  else if fld w 3 0 = 11 then
    if fld w 10 4 = 0 ∧ fld w 24 21 = 0 then some (.pset (bits w 20 18) (bits w 17 11)) else none
  else if fld w 3 0 = 12 then
    if fld w 10 7 = 0 ∧ fld w 17 14 = 0 ∧ fld w 24 21 = 0 then some (.pand (bits w 20 18) (bits w 13 11) (bits w 6 4)) else none
  else if fld w 3 0 = 13 then
    if fld w 10 7 = 0 ∧ fld w 17 14 = 0 ∧ fld w 24 21 = 0 then some (.por (bits w 20 18) (bits w 13 11) (bits w 6 4)) else none
  else if fld w 3 0 = 14 then
    if fld w 10 7 = 0 ∧ fld w 17 14 = 0 ∧ fld w 24 21 = 0 then some (.pxor (bits w 20 18) (bits w 13 11) (bits w 6 4)) else none
  else none

/-- Major 0x08 of the lane set (R39). -/
def dec08 (w : Nat) : Option Instr :=
  some (.iaddi (bits w 24 18) (bits w 17 11) (bits w 10 0))

/-- Major 0x09 of the lane set (R39). -/
def dec09 (w : Nat) : Option Instr :=
  some (.andi (bits w 24 18) (bits w 17 11) (bits w 10 0))

/-- Major 0x0A of the lane set (R39). -/
def dec0A (w : Nat) : Option Instr :=
  some (.ori (bits w 24 18) (bits w 17 11) (bits w 10 0))

/-- Major 0x0B of the lane set (R39). -/
def dec0B (w : Nat) : Option Instr :=
  some (.xori (bits w 24 18) (bits w 17 11) (bits w 10 0))

/-- Major 0x0C of the lane set (R39). -/
def dec0C (w : Nat) : Option Instr :=
  if fld w 10 5 = 0 then
    some (.shliB32 (bits w 24 18) (bits w 17 11) (bits w 4 0))
  else if fld w 10 5 = 1 then
    some (.shriN32 (bits w 24 18) (bits w 17 11) (bits w 4 0))
  else if fld w 10 5 = 2 then
    some (.shriI32 (bits w 24 18) (bits w 17 11) (bits w 4 0))
  else if fld w 10 5 = 3 then
    some (.roliB32 (bits w 24 18) (bits w 17 11) (bits w 4 0))
  else if fld w 10 5 = 4 then
    some (.roriB32 (bits w 24 18) (bits w 17 11) (bits w 4 0))
  else none

/-- Major 0x0D of the lane set (R39). -/
def dec0D (w : Nat) : Option Instr :=
  if fld w 17 11 = 0 then some (.movi (bits w 24 18) (bits w 10 0)) else none

/-- Major 0x0E of the lane set (R39). -/
def dec0E (w : Nat) : Option Instr :=
  some (.shlori (bits w 24 18) (bits w 17 11) (bits w 10 0))

/-- Major 0x0F of the lane set (R39). -/
def dec0F (w : Nat) : Option Instr :=
  if fld w 24 21 = 0 then (condOf (fld w 10 7)).bind fun c => some (.icmpi (bits w 20 18) (bits w 17 11) c (bits w 6 0)) else none

/-- Major 0x10 of the lane set (R39). -/
def dec10 (r : Rnd) (w : Nat) : Option Instr :=
  if fld w 3 0 = 0 then
    some (.faddF32 r (bits w 24 18) (bits w 17 11) (bits w 10 4))
  else if fld w 3 0 = 1 then
    some (.fsubF32 r (bits w 24 18) (bits w 17 11) (bits w 10 4))
  else if fld w 3 0 = 2 then
    some (.fmulF32 r (bits w 24 18) (bits w 17 11) (bits w 10 4))
  else if fld w 3 0 = 3 then
    some (.faddSatF32 r (bits w 24 18) (bits w 17 11) (bits w 10 4))
  else if fld w 3 0 = 4 then
    some (.fsubSatF32 r (bits w 24 18) (bits w 17 11) (bits w 10 4))
  else if fld w 3 0 = 5 then
    some (.fmulSatF32 r (bits w 24 18) (bits w 17 11) (bits w 10 4))
  else none

/-- Major 0x14 of the lane set (R39). -/
def dec14 (w : Nat) : Option Instr :=
  if fld w 1 0 = 0 then
    some (.fmaF32 (bits w 24 18) (bits w 17 11) (bits w 10 4) (rndOf (fld w 3 2)))
  else if fld w 1 0 = 1 then
    some (.fmsF32 (bits w 24 18) (bits w 17 11) (bits w 10 4) (rndOf (fld w 3 2)))
  else if fld w 1 0 = 2 then
    some (.fnmaF32 (bits w 24 18) (bits w 17 11) (bits w 10 4) (rndOf (fld w 3 2)))
  else if fld w 1 0 = 3 then
    some (.fmaSatF32 (bits w 24 18) (bits w 17 11) (bits w 10 4) (rndOf (fld w 3 2)))
  else none

/-- Major 0x15 of the lane set (R39). -/
def dec15 (w : Nat) : Option Instr :=
  if fld w 3 0 = 0 then
    some (.fminF32 (bits w 24 18) (bits w 17 11) (bits w 10 4))
  else if fld w 3 0 = 1 then
    some (.fmaxF32 (bits w 24 18) (bits w 17 11) (bits w 10 4))
  else if fld w 3 0 = 2 then
    some (.fminnumF32 (bits w 24 18) (bits w 17 11) (bits w 10 4))
  else if fld w 3 0 = 3 then
    some (.fmaxnumF32 (bits w 24 18) (bits w 17 11) (bits w 10 4))
  else if fld w 3 0 = 4 then
    if fld w 10 4 = 0 then some (.fabsF32 (bits w 24 18) (bits w 17 11)) else none
  else if fld w 3 0 = 5 then
    if fld w 10 4 = 0 then some (.fnegF32 (bits w 24 18) (bits w 17 11)) else none
  else if fld w 3 0 = 6 then
    if fld w 10 4 = 0 then some (.frintF32Rn (bits w 24 18) (bits w 17 11)) else none
  else if fld w 3 0 = 7 then
    if fld w 10 4 = 0 then some (.frintF32Rz (bits w 24 18) (bits w 17 11)) else none
  else if fld w 3 0 = 8 then
    if fld w 10 4 = 0 then some (.frintF32Rd (bits w 24 18) (bits w 17 11)) else none
  else if fld w 3 0 = 9 then
    if fld w 10 4 = 0 then some (.frintF32Ru (bits w 24 18) (bits w 17 11)) else none
  else if fld w 3 0 = 10 then
    if fld w 10 4 = 0 then some (.frintF32Rna (bits w 24 18) (bits w 17 11)) else none
  else if fld w 3 0 = 11 then
    some (.fcopysignF32 (bits w 24 18) (bits w 17 11) (bits w 10 4))
  else none

/-- Major 0x16 of the lane set (R39). -/
def dec16 (w : Nat) : Option Instr :=
  if fld w 3 0 = 0 then
    if fld w 24 21 = 0 then some (.fcmpEqF32 (bits w 20 18) (bits w 17 11) (bits w 10 4)) else none
  else if fld w 3 0 = 1 then
    if fld w 24 21 = 0 then some (.fcmpNeF32 (bits w 20 18) (bits w 17 11) (bits w 10 4)) else none
  else if fld w 3 0 = 2 then
    if fld w 24 21 = 0 then some (.fcmpLtF32 (bits w 20 18) (bits w 17 11) (bits w 10 4)) else none
  else if fld w 3 0 = 3 then
    if fld w 24 21 = 0 then some (.fcmpLeF32 (bits w 20 18) (bits w 17 11) (bits w 10 4)) else none
  else if fld w 3 0 = 4 then
    if fld w 24 21 = 0 then some (.fcmpGtF32 (bits w 20 18) (bits w 17 11) (bits w 10 4)) else none
  else if fld w 3 0 = 5 then
    if fld w 24 21 = 0 then some (.fcmpGeF32 (bits w 20 18) (bits w 17 11) (bits w 10 4)) else none
  else if fld w 3 0 = 6 then
    if fld w 24 21 = 0 then some (.fcmpOrdF32 (bits w 20 18) (bits w 17 11) (bits w 10 4)) else none
  else if fld w 3 0 = 7 then
    if fld w 24 21 = 0 then some (.fcmpUnoF32 (bits w 20 18) (bits w 17 11) (bits w 10 4)) else none
  else none

/-- Major 0x17 of the lane set (R39). -/
def dec17 (w : Nat) : Option Instr :=
  if fld w 3 0 = 0 then
    some (.faddBf16x2Rn (bits w 24 18) (bits w 17 11) (bits w 10 4))
  else if fld w 3 0 = 1 then
    some (.fmulBf16x2Rn (bits w 24 18) (bits w 17 11) (bits w 10 4))
  else if fld w 3 0 = 2 then
    some (.fmaBf16x2Rn (bits w 24 18) (bits w 17 11) (bits w 10 4))
  else if fld w 3 0 = 3 then
    some (.fminBf16x2 (bits w 24 18) (bits w 17 11) (bits w 10 4))
  else if fld w 3 0 = 4 then
    some (.fmaxBf16x2 (bits w 24 18) (bits w 17 11) (bits w 10 4))
  else if fld w 3 0 = 5 then
    some (.faddF16x2Rn (bits w 24 18) (bits w 17 11) (bits w 10 4))
  else if fld w 3 0 = 6 then
    some (.fmulF16x2Rn (bits w 24 18) (bits w 17 11) (bits w 10 4))
  else if fld w 3 0 = 7 then
    some (.fmaF16x2Rn (bits w 24 18) (bits w 17 11) (bits w 10 4))
  else if fld w 3 0 = 8 then
    some (.fminF16x2 (bits w 24 18) (bits w 17 11) (bits w 10 4))
  else if fld w 3 0 = 9 then
    some (.fmaxF16x2 (bits w 24 18) (bits w 17 11) (bits w 10 4))
  else none

/-- Major 0x18 of the lane set (R39). -/
def dec18 (w : Nat) : Option Instr :=
  if fld w 3 0 = 0 then
    if fld w 10 4 = 0 then some (.cvtF32I32Rn (bits w 24 18) (bits w 17 11)) else none
  else if fld w 3 0 = 1 then
    if fld w 10 4 = 0 then some (.cvtF32N32Rn (bits w 24 18) (bits w 17 11)) else none
  else if fld w 3 0 = 2 then
    if fld w 10 4 = 0 then some (.cvtI32F32Rn (bits w 24 18) (bits w 17 11)) else none
  else if fld w 3 0 = 3 then
    if fld w 10 4 = 0 then some (.cvtI32F32Rz (bits w 24 18) (bits w 17 11)) else none
  else if fld w 3 0 = 4 then
    if fld w 10 4 = 0 then some (.cvtI32F32Rd (bits w 24 18) (bits w 17 11)) else none
  else if fld w 3 0 = 5 then
    if fld w 10 4 = 0 then some (.cvtI32F32Ru (bits w 24 18) (bits w 17 11)) else none
  else if fld w 3 0 = 6 then
    if fld w 10 4 = 0 then some (.cvtN32F32Rn (bits w 24 18) (bits w 17 11)) else none
  else if fld w 3 0 = 7 then
    if fld w 10 4 = 0 then some (.cvtN32F32Rz (bits w 24 18) (bits w 17 11)) else none
  else if fld w 3 0 = 8 then
    if fld w 10 4 = 0 then some (.cvtN32F32Rd (bits w 24 18) (bits w 17 11)) else none
  else if fld w 3 0 = 9 then
    if fld w 10 4 = 0 then some (.cvtN32F32Ru (bits w 24 18) (bits w 17 11)) else none
  else if fld w 3 0 = 10 then
    if fld w 10 4 = 0 then some (.cvtF32Bf16 (bits w 24 18) (bits w 17 11)) else none
  else if fld w 3 0 = 11 then
    if fld w 10 4 = 0 then some (.cvtF32F16 (bits w 24 18) (bits w 17 11)) else none
  else if fld w 3 0 = 12 then
    if fld w 10 4 = 0 then some (.cvtBf16F32Rn (bits w 24 18) (bits w 17 11)) else none
  else if fld w 3 0 = 13 then
    if fld w 10 4 = 0 then some (.cvtBf16F32Rz (bits w 24 18) (bits w 17 11)) else none
  else if fld w 3 0 = 14 then
    if fld w 10 4 = 0 then some (.cvtF16F32Rn (bits w 24 18) (bits w 17 11)) else none
  else if fld w 3 0 = 15 then
    if fld w 10 4 = 0 then some (.cvtF16F32Rz (bits w 24 18) (bits w 17 11)) else none
  else none

/-- Major 0x19 of the lane set (R39). -/
def dec19 (w : Nat) : Option Instr :=
  if fld w 3 0 = 0 then
    some (.cvtE4m3x2F32Rn (bits w 24 18) (bits w 17 11) (bits w 10 4))
  else if fld w 3 0 = 1 then
    some (.cvtE4m3x2F32RnSat (bits w 24 18) (bits w 17 11) (bits w 10 4))
  else if fld w 3 0 = 2 then
    some (.cvtE5m2x2F32Rn (bits w 24 18) (bits w 17 11) (bits w 10 4))
  else if fld w 3 0 = 3 then
    some (.cvtE5m2x2F32RnSat (bits w 24 18) (bits w 17 11) (bits w 10 4))
  else if fld w 3 0 = 4 then
    some (.cvtBf16x2F32Rn (bits w 24 18) (bits w 17 11) (bits w 10 4))
  else if fld w 3 0 = 5 then
    some (.cvtF16x2F32Rn (bits w 24 18) (bits w 17 11) (bits w 10 4))
  else if fld w 3 0 = 6 then
    if fld w 10 4 = 0 then some (.cvtF16x2E4m3x2 (bits w 24 18) (bits w 17 11)) else none
  else if fld w 3 0 = 7 then
    if fld w 10 4 = 0 then some (.cvtF16x2E5m2x2 (bits w 24 18) (bits w 17 11)) else none
  else none

/-- Major 0x1A of the lane set (R39). -/
def dec1A (w : Nat) : Option Instr :=
  if fld w 6 0 = 0 then
    some (.rcpF32 (bits w 24 18) (bits w 17 11) (bits w 10 7))
  else if fld w 6 0 = 1 then
    some (.rsqrtF32 (bits w 24 18) (bits w 17 11) (bits w 10 7))
  else if fld w 6 0 = 2 then
    some (.sqrtF32 (bits w 24 18) (bits w 17 11) (bits w 10 7))
  else if fld w 6 0 = 3 then
    some (.exp2F32 (bits w 24 18) (bits w 17 11) (bits w 10 7))
  else if fld w 6 0 = 4 then
    some (.log2F32 (bits w 24 18) (bits w 17 11) (bits w 10 7))
  else if fld w 6 0 = 5 then
    some (.sinF32 (bits w 24 18) (bits w 17 11) (bits w 10 7))
  else if fld w 6 0 = 6 then
    some (.cosF32 (bits w 24 18) (bits w 17 11) (bits w 10 7))
  else if fld w 6 0 = 7 then
    some (.sinpiF32 (bits w 24 18) (bits w 17 11) (bits w 10 7))
  else if fld w 6 0 = 8 then
    some (.cospiF32 (bits w 24 18) (bits w 17 11) (bits w 10 7))
  else if fld w 6 0 = 9 then
    some (.tanhF32 (bits w 24 18) (bits w 17 11) (bits w 10 7))
  else none

/-- Major 0x1B of the lane set (R39). -/
def dec1B (w : Nat) : Option Instr :=
  if fld w 3 0 = 0 then
    some (.shflSel (bits w 24 18) (bits w 17 11) (bits w 10 4))
  else if fld w 3 0 = 1 then
    some (.shflStep (bits w 24 18) (bits w 17 11) (bits w 10 4))
  else if fld w 3 0 = 2 then
    some (.shflWrap (bits w 24 18) (bits w 17 11) (bits w 10 4))
  else if fld w 3 0 = 3 then
    some (.shflRank (bits w 24 18) (bits w 17 11) (bits w 10 4))
  else if fld w 3 0 = 4 then
    if fld w 10 9 = 0 then
      some (.swzXor (bits w 24 18) (bits w 17 11) (bits w 8 4))
    else if fld w 10 9 = 1 then
      some (.swzBcast (bits w 24 18) (bits w 17 11) (bits w 8 4))
    else if fld w 10 9 = 2 then
      some (.swzRot (bits w 24 18) (bits w 17 11) (bits w 8 4))
    else none
  else if fld w 3 0 = 5 then
    if fld w 17 7 = 0 then some (.voteCount (bits w 24 18) (bits w 6 4)) else none
  else if fld w 3 0 = 6 then
    if fld w 17 7 = 0 then some (.voteMask (bits w 24 18) (bits w 6 4)) else none
  else if fld w 3 0 = 7 then
    if fld w 17 7 = 0 then some (.voteSpan (bits w 24 18) (bits w 6 4)) else none
  else if fld w 3 0 = 8 then
    if fld w 6 4 = 0 then some (.matchB32 (bits w 24 18) (bits w 17 11) (bits w 10 7)) else none
  else if fld w 3 0 = 9 then
    if fld w 6 4 = 0 then some (.matchB64 (bits w 24 18) (bits w 17 11) (bits w 10 7)) else none
  else if fld w 3 0 = 10 then
    if fld w 10 4 = 0 then some (.reduxAddI32 (bits w 24 18) (bits w 17 11)) else none
  else if fld w 3 0 = 11 then
    if fld w 10 4 = 0 then some (.reduxMinI32 (bits w 24 18) (bits w 17 11)) else none
  else if fld w 3 0 = 12 then
    if fld w 10 4 = 0 then some (.reduxMaxI32 (bits w 24 18) (bits w 17 11)) else none
  else if fld w 3 0 = 13 then
    if fld w 10 4 = 0 then some (.reduxAndB32 (bits w 24 18) (bits w 17 11)) else none
  else if fld w 3 0 = 14 then
    if fld w 10 4 = 0 then some (.reduxOrB32 (bits w 24 18) (bits w 17 11)) else none
  else if fld w 3 0 = 15 then
    if fld w 10 4 = 0 then some (.reduxFaddF32Rn (bits w 24 18) (bits w 17 11)) else none
  else none

/-- Major 0x20 of the lane set (R39). -/
def dec20 (w : Nat) : Option Instr :=
  if fld w 1 0 = 0 then
    (scopeOf (fld w 6 4)).bind fun s => (loadOrder (fld w 3 2)).bind fun o => some (.ldN8 (bits w 24 18) (bits w 17 11) (bits w 10 7) s o)
  else if fld w 1 0 = 1 then
    (scopeOf (fld w 6 4)).bind fun s => (loadOrder (fld w 3 2)).bind fun o => some (.ldI8 (bits w 24 18) (bits w 17 11) (bits w 10 7) s o)
  else if fld w 1 0 = 2 then
    if fld w 10 7 = 0 then (scopeOf (fld w 6 4)).bind fun s => (storeOrder (fld w 3 2)).bind fun o => some (.stB8 (bits w 24 18) (bits w 17 11) s o) else none
  else none

/-- Major 0x21 of the lane set (R39). -/
def dec21 (w : Nat) : Option Instr :=
  if fld w 1 0 = 0 then
    (scopeOf (fld w 6 4)).bind fun s => (loadOrder (fld w 3 2)).bind fun o => some (.ldN16 (bits w 24 18) (bits w 17 11) (bits w 10 7) s o)
  else if fld w 1 0 = 1 then
    (scopeOf (fld w 6 4)).bind fun s => (loadOrder (fld w 3 2)).bind fun o => some (.ldI16 (bits w 24 18) (bits w 17 11) (bits w 10 7) s o)
  else if fld w 1 0 = 2 then
    if fld w 10 7 = 0 then (scopeOf (fld w 6 4)).bind fun s => (storeOrder (fld w 3 2)).bind fun o => some (.stB16 (bits w 24 18) (bits w 17 11) s o) else none
  else none

/-- Major 0x22 of the lane set (R39). -/
def dec22 (w : Nat) : Option Instr :=
  if fld w 1 0 = 0 then
    (scopeOf (fld w 6 4)).bind fun s => (loadOrder (fld w 3 2)).bind fun o => some (.ldB32 (bits w 24 18) (bits w 17 11) (bits w 10 7) s o)
  else if fld w 1 0 = 1 then
    if fld w 10 7 = 0 then (scopeOf (fld w 6 4)).bind fun s => (storeOrder (fld w 3 2)).bind fun o => some (.stB32 (bits w 24 18) (bits w 17 11) s o) else none
  else if fld w 1 0 = 2 then
    (scopeOf (fld w 6 4)).bind fun s => (loadOrder (fld w 3 2)).bind fun o => some (.ldB64 (bits w 24 18) (bits w 17 11) (bits w 10 7) s o)
  else if fld w 1 0 = 3 then
    if fld w 10 7 = 0 then (scopeOf (fld w 6 4)).bind fun s => (storeOrder (fld w 3 2)).bind fun o => some (.stB64 (bits w 24 18) (bits w 17 11) s o) else none
  else none

/-- Major 0x23 of the lane set (R39). -/
def dec23 (w : Nat) : Option Instr :=
  if fld w 1 0 = 0 then
    (scopeOf (fld w 6 4)).bind fun s => (loadOrder (fld w 3 2)).bind fun o => some (.ldB128 (bits w 24 18) (bits w 17 11) (bits w 10 7) s o)
  else if fld w 1 0 = 1 then
    if fld w 10 7 = 0 then (scopeOf (fld w 6 4)).bind fun s => (storeOrder (fld w 3 2)).bind fun o => some (.stB128 (bits w 24 18) (bits w 17 11) s o) else none
  else none

/-- Major 0x24 of the lane set (R39). -/
def dec24 (w : Nat) : Option Instr :=
  if fld w 11 11 = 0 then
    if fld w 1 0 = 0 then
      (scopeOf (fld w 6 4)).bind fun s => (atomOrder (fld w 3 2)).bind fun o => some (.atomAddI32 (bits w 24 18) (bits w 17 12) (bits w 10 7) s o)
    else if fld w 1 0 = 1 then
      (scopeOf (fld w 6 4)).bind fun s => (atomOrder (fld w 3 2)).bind fun o => some (.atomAndB32 (bits w 24 18) (bits w 17 12) (bits w 10 7) s o)
    else if fld w 1 0 = 2 then
      (scopeOf (fld w 6 4)).bind fun s => (atomOrder (fld w 3 2)).bind fun o => some (.atomOrB32 (bits w 24 18) (bits w 17 12) (bits w 10 7) s o)
    else if fld w 1 0 = 3 then
      (scopeOf (fld w 6 4)).bind fun s => (atomOrder (fld w 3 2)).bind fun o => some (.atomXorB32 (bits w 24 18) (bits w 17 12) (bits w 10 7) s o)
    else none
  else if fld w 11 11 = 1 then
    if fld w 1 0 = 0 then
      (scopeOf (fld w 6 4)).bind fun s => (atomOrder (fld w 3 2)).bind fun o => some (.atomMinI32 (bits w 24 18) (bits w 17 12) (bits w 10 7) s o)
    else if fld w 1 0 = 1 then
      (scopeOf (fld w 6 4)).bind fun s => (atomOrder (fld w 3 2)).bind fun o => some (.atomMaxI32 (bits w 24 18) (bits w 17 12) (bits w 10 7) s o)
    else if fld w 1 0 = 2 then
      (scopeOf (fld w 6 4)).bind fun s => (atomOrder (fld w 3 2)).bind fun o => some (.atomMinN32 (bits w 24 18) (bits w 17 12) (bits w 10 7) s o)
    else if fld w 1 0 = 3 then
      (scopeOf (fld w 6 4)).bind fun s => (atomOrder (fld w 3 2)).bind fun o => some (.atomMaxN32 (bits w 24 18) (bits w 17 12) (bits w 10 7) s o)
    else none
  else none

/-- Major 0x25 of the lane set (R39). -/
def dec25 (w : Nat) : Option Instr :=
  if fld w 11 11 = 0 then
    if fld w 1 0 = 0 then
      (scopeOf (fld w 6 4)).bind fun s => (atomOrder (fld w 3 2)).bind fun o => some (.atomExchB32 (bits w 24 18) (bits w 17 12) (bits w 10 7) s o)
    else if fld w 1 0 = 1 then
      (scopeOf (fld w 6 4)).bind fun s => (atomOrder (fld w 3 2)).bind fun o => some (.atomCasB32 (bits w 24 18) (bits w 17 12) (bits w 10 7) s o)
    else if fld w 1 0 = 2 then
      (scopeOf (fld w 6 4)).bind fun s => (atomOrder (fld w 3 2)).bind fun o => some (.atomFaddF32Rn (bits w 24 18) (bits w 17 12) (bits w 10 7) s o)
    else if fld w 1 0 = 3 then
      (scopeOf (fld w 6 4)).bind fun s => (atomOrder (fld w 3 2)).bind fun o => some (.atomFadd2Bf16Rn (bits w 24 18) (bits w 17 12) (bits w 10 7) s o)
    else none
  else none

/-- Major 0x26 of the lane set (R39). -/
def dec26 (w : Nat) : Option Instr :=
  if fld w 1 0 = 0 then
    (ldsWidth (fld w 6 4)).bind fun wd => (loadOrder (fld w 3 2)).bind fun o => some (.lds (bits w 24 18) (bits w 17 11) (bits w 10 7) wd o)
  else if fld w 1 0 = 1 then
    if fld w 10 7 = 0 then (stsWidth (fld w 6 4)).bind fun wd => (storeOrder (fld w 3 2)).bind fun o => some (.sts (bits w 24 18) (bits w 17 11) wd o) else none
  else none

/-- Major 0x27 of the lane set (R39). -/
def dec27 (w : Nat) : Option Instr :=
  if fld w 3 0 = 0 then
    (scopeOf (fld w 6 4)).bind fun s => some (.ldSpecB32 (bits w 24 18) (bits w 17 11) (bits w 10 7) s)
  else if fld w 3 0 = 1 then
    (scopeOf (fld w 6 4)).bind fun s => some (.ldSpecB64 (bits w 24 18) (bits w 17 11) (bits w 10 7) s)
  else if fld w 3 0 = 2 then
    (scopeOf (fld w 6 4)).bind fun s => some (.chkB32 (bits w 24 18) (bits w 17 11) (bits w 10 7) s)
  else if fld w 3 0 = 3 then
    (scopeOf (fld w 6 4)).bind fun s => some (.chkB64 (bits w 24 18) (bits w 17 11) (bits w 10 7) s)
  else none

/-- Major 0x28 of the lane set (R39). -/
def dec28 (w : Nat) : Option Instr :=
  if fld w 1 0 = 0 then
    if fld w 24 7 = 0 then (scopeOf (fld w 6 4)).bind fun s => (fenceOrder (fld w 3 2)).bind fun o => some (.fence s o) else none
  else if fld w 1 0 = 1 then
    if fld w 3 2 = 0 ∧ fld w 24 7 = 0 then (scopeOf (fld w 6 4)).bind fun s => some (.fenceEng s) else none
  else if fld w 1 0 = 2 then
    if fld w 24 18 = 0 then
      if fld w 3 2 = 0 ∧ fld w 10 7 = 0 then (cacheScope (fld w 6 4)).bind fun s => some (.cwb (bits w 17 11) s) else none
    else if fld w 24 18 = 1 then
      if fld w 3 2 = 0 ∧ fld w 10 7 = 0 then (cacheScope (fld w 6 4)).bind fun s => some (.cinv (bits w 17 11) s) else none
    else if fld w 24 18 = 2 then
      if fld w 3 2 = 0 ∧ fld w 10 7 = 0 then (cacheScope (fld w 6 4)).bind fun s => some (.cwbinv (bits w 17 11) s) else none
    else if fld w 24 18 = 3 then
      if fld w 3 2 = 0 ∧ fld w 10 7 = 0 then (cacheScope (fld w 6 4)).bind fun s => some (.icinv (bits w 17 11) s) else none
    else if fld w 24 18 = 4 then
      if fld w 3 2 = 0 ∧ fld w 10 7 = 0 then (cacheScope (fld w 6 4)).bind fun s => some (.pfL1 (bits w 17 11) s) else none
    else if fld w 24 18 = 5 then
      if fld w 3 2 = 0 ∧ fld w 10 7 = 0 then (cacheScope (fld w 6 4)).bind fun s => some (.pfL2 (bits w 17 11) s) else none
    else none
  else if fld w 1 0 = 3 then
    if fld w 10 2 = 0 then some (.rgnConv (bits w 24 18) (bits w 17 11)) else none
  else none

/-- Major 0x2C of the lane set (R39). -/
def dec2C (w : Nat) : Option Instr :=
  if fld w 3 0 = 0 then
    if fld w 10 4 = 0 ∧ fld w 24 22 = 0 then some (.qpushB32 (bits w 21 18) (bits w 17 11)) else none
  else if fld w 3 0 = 1 then
    if fld w 10 4 = 0 ∧ fld w 24 22 = 0 then some (.qpushB64 (bits w 21 18) (bits w 17 11)) else none
  else if fld w 3 0 = 2 then
    if fld w 6 4 = 0 ∧ fld w 17 15 = 0 then some (.qpopB32 (bits w 24 18) (bits w 14 11) (bits w 10 7)) else none
  else if fld w 3 0 = 3 then
    if fld w 6 4 = 0 ∧ fld w 17 15 = 0 then some (.qpopB64 (bits w 24 18) (bits w 14 11) (bits w 10 7)) else none
  else if fld w 3 0 = 4 then
    if fld w 17 15 = 0 then some (.qtryB32 (bits w 24 18) (bits w 14 11) (bits w 10 7) (bits w 6 4)) else none
  else if fld w 3 0 = 5 then
    if fld w 17 15 = 0 then some (.qtryB64 (bits w 24 18) (bits w 14 11) (bits w 10 7) (bits w 6 4)) else none
  else none

/-- Major 0x30 of the lane set (R39). -/
def dec30 (w : Nat) : Option Instr :=
  some (.bra (bits w 24 0))

/-- Major 0x31 of the lane set (R39). -/
def dec31 (w : Nat) : Option Instr :=
  if fld w 21 21 = 0 then
    some (.braT (bits w 24 22) (bits w 20 0))
  else if fld w 21 21 = 1 then
    some (.braF (bits w 24 22) (bits w 20 0))
  else none

/-- Major 0x32 of the lane set (R39). -/
def dec32 (w : Nat) : Option Instr :=
  some (.call (bits w 24 0))

/-- Major 0x33 of the lane set (R39). -/
def dec33 (w : Nat) : Option Instr :=
  if fld w 3 0 = 0 then
    if fld w 10 4 = 0 ∧ fld w 24 18 = 0 then some (.jmpi (bits w 17 11)) else none
  else if fld w 3 0 = 1 then
    if fld w 10 4 = 0 ∧ fld w 24 18 = 0 then some (.calli (bits w 17 11)) else none
  else if fld w 3 0 = 2 then
    if fld w 10 4 = 0 ∧ fld w 24 18 = 0 then some (.ret (bits w 17 11)) else none
  else none

/-- Major 0x34 of the lane set (R39). -/
def dec34 (w : Nat) : Option Instr :=
  if fld w 3 0 = 0 then
    if fld w 24 4 = 0 then some .barTeam else none
  else if fld w 3 0 = 1 then
    if fld w 24 4 = 0 then some .barClu else none
  else if fld w 3 0 = 2 then
    if fld w 24 8 = 0 then some (.barNbArrive (bits w 7 4)) else none
  else if fld w 3 0 = 3 then
    if fld w 24 8 = 0 then some (.barNbWait (bits w 7 4)) else none
  else if fld w 3 0 = 4 then
    if fld w 24 18 = 0 then some (.spawn (bits w 17 11) (bits w 10 4)) else none
  else if fld w 3 0 = 5 then
    if fld w 24 4 = 0 then some .waitchild else none
  else none

/-- Major 0x00 of the uniform set (R40). -/
def dec40 (w : Nat) : Option Instr :=
  if fld w 6 0 = 0 then
    if fld w 24 7 = 0 then some .knop else none
  else if fld w 6 0 = 1 then
    if fld w 12 7 = 0 then some (.ksr (bits w 24 19) (bits w 18 13)) else none
  else if fld w 6 0 = 2 then
    if fld w 24 7 = 0 then some .kyield else none
  else none

/-- Major 0x01 of the uniform set (R40). -/
def dec41 (w : Nat) : Option Instr :=
  if fld w 6 0 = 0 then
    some (.kaddB32 (bits w 24 19) (bits w 18 13) (bits w 12 7))
  else if fld w 6 0 = 1 then
    some (.ksubB32 (bits w 24 19) (bits w 18 13) (bits w 12 7))
  else if fld w 6 0 = 2 then
    some (.kmulLoB32 (bits w 24 19) (bits w 18 13) (bits w 12 7))
  else if fld w 6 0 = 3 then
    some (.kmulHiI32 (bits w 24 19) (bits w 18 13) (bits w 12 7))
  else if fld w 6 0 = 4 then
    some (.kmulHiN32 (bits w 24 19) (bits w 18 13) (bits w 12 7))
  else if fld w 6 0 = 5 then
    some (.kminI32 (bits w 24 19) (bits w 18 13) (bits w 12 7))
  else if fld w 6 0 = 6 then
    some (.kmaxI32 (bits w 24 19) (bits w 18 13) (bits w 12 7))
  else if fld w 6 0 = 7 then
    some (.kminN32 (bits w 24 19) (bits w 18 13) (bits w 12 7))
  else if fld w 6 0 = 8 then
    some (.kmaxN32 (bits w 24 19) (bits w 18 13) (bits w 12 7))
  else none

/-- Major 0x02 of the uniform set (R40). -/
def dec42 (w : Nat) : Option Instr :=
  if fld w 6 0 = 0 then
    some (.kaddB64 (bits w 24 19) (bits w 18 13) (bits w 12 7))
  else if fld w 6 0 = 1 then
    some (.ksubB64 (bits w 24 19) (bits w 18 13) (bits w 12 7))
  else none

/-- Major 0x03 of the uniform set (R40). -/
def dec43 (w : Nat) : Option Instr :=
  if fld w 6 0 = 0 then
    some (.kandB32 (bits w 24 19) (bits w 18 13) (bits w 12 7))
  else if fld w 6 0 = 1 then
    some (.korB32 (bits w 24 19) (bits w 18 13) (bits w 12 7))
  else if fld w 6 0 = 2 then
    some (.kxorB32 (bits w 24 19) (bits w 18 13) (bits w 12 7))
  else if fld w 6 0 = 3 then
    some (.kandnB32 (bits w 24 19) (bits w 18 13) (bits w 12 7))
  else if fld w 6 0 = 4 then
    if fld w 12 7 = 0 then some (.knotB32 (bits w 24 19) (bits w 18 13)) else none
  else none

/-- Major 0x04 of the uniform set (R40). -/
def dec44 (w : Nat) : Option Instr :=
  if fld w 6 0 = 0 then
    some (.kshlB32 (bits w 24 19) (bits w 18 13) (bits w 12 7))
  else if fld w 6 0 = 1 then
    some (.kshrN32 (bits w 24 19) (bits w 18 13) (bits w 12 7))
  else if fld w 6 0 = 2 then
    some (.kshrI32 (bits w 24 19) (bits w 18 13) (bits w 12 7))
  else none

/-- Major 0x05 of the uniform set (R40). -/
def dec45 (w : Nat) : Option Instr :=
  if fld w 6 0 = 0 then
    if fld w 12 7 = 0 then some (.kpopcB32 (bits w 24 19) (bits w 18 13)) else none
  else if fld w 6 0 = 1 then
    if fld w 12 7 = 0 then some (.kclzB32 (bits w 24 19) (bits w 18 13)) else none
  else if fld w 6 0 = 2 then
    some (.kbfeN32 (bits w 24 19) (bits w 18 13) (bits w 12 7))
  else none

/-- Major 0x06 of the uniform set (R40). -/
def dec46 (w : Nat) : Option Instr :=
  if fld w 12 10 = 0 then
    if fld w 24 13 = 0 then some (.kbra (bits w 9 0)) else none
  else if fld w 12 10 = 1 then
    some (.kbrEqB32 (bits w 24 19) (bits w 18 13) (bits w 9 0))
  else if fld w 12 10 = 2 then
    some (.kbrNeB32 (bits w 24 19) (bits w 18 13) (bits w 9 0))
  else if fld w 12 10 = 3 then
    some (.kbrLtI32 (bits w 24 19) (bits w 18 13) (bits w 9 0))
  else if fld w 12 10 = 4 then
    some (.kbrGeI32 (bits w 24 19) (bits w 18 13) (bits w 9 0))
  else if fld w 12 10 = 5 then
    some (.kbrLtN32 (bits w 24 19) (bits w 18 13) (bits w 9 0))
  else if fld w 12 10 = 6 then
    some (.kbrGeN32 (bits w 24 19) (bits w 18 13) (bits w 9 0))
  else none

/-- Major 0x08 of the uniform set (R40). -/
def dec48 (w : Nat) : Option Instr :=
  some (.kaddi (bits w 24 19) (bits w 18 13) (bits w 12 0))

/-- Major 0x09 of the uniform set (R40). -/
def dec49 (w : Nat) : Option Instr :=
  some (.kandi (bits w 24 19) (bits w 18 13) (bits w 12 0))

/-- Major 0x0A of the uniform set (R40). -/
def dec4A (w : Nat) : Option Instr :=
  some (.kori (bits w 24 19) (bits w 18 13) (bits w 12 0))

/-- Major 0x0B of the uniform set (R40). -/
def dec4B (w : Nat) : Option Instr :=
  some (.kxori (bits w 24 19) (bits w 18 13) (bits w 12 0))

/-- Major 0x0C of the uniform set (R40). -/
def dec4C (w : Nat) : Option Instr :=
  if fld w 18 13 = 0 then some (.kmovi (bits w 24 19) (bits w 12 0)) else none

/-- Major 0x0D of the uniform set (R40). -/
def dec4D (w : Nat) : Option Instr :=
  some (.kshlori (bits w 24 19) (bits w 18 13) (bits w 12 0))

/-- Major 0x0E of the uniform set (R40). -/
def dec4E (w : Nat) : Option Instr :=
  if fld w 12 5 = 0 then
    some (.kshliB32 (bits w 24 19) (bits w 18 13) (bits w 4 0))
  else if fld w 12 5 = 1 then
    some (.kshriN32 (bits w 24 19) (bits w 18 13) (bits w 4 0))
  else if fld w 12 5 = 2 then
    some (.kshriI32 (bits w 24 19) (bits w 18 13) (bits w 4 0))
  else none

/-- Major 0x10 of the uniform set (R40). -/
def dec50 (w : Nat) : Option Instr :=
  if fld w 3 0 = 0 then
    (scopeOf (fld w 8 6)).bind fun s => (loadOrder (fld w 5 4)).bind fun o => some (.kldB32 (bits w 24 19) (bits w 18 13) (bits w 12 9) s o)
  else if fld w 3 0 = 1 then
    if fld w 12 9 = 0 then (scopeOf (fld w 8 6)).bind fun s => (storeOrder (fld w 5 4)).bind fun o => some (.kstB32 (bits w 24 19) (bits w 18 13) s o) else none
  else if fld w 3 0 = 2 then
    (scopeOf (fld w 8 6)).bind fun s => (loadOrder (fld w 5 4)).bind fun o => some (.kldB64 (bits w 24 19) (bits w 18 13) (bits w 12 9) s o)
  else if fld w 3 0 = 3 then
    if fld w 12 9 = 0 then (scopeOf (fld w 8 6)).bind fun s => (storeOrder (fld w 5 4)).bind fun o => some (.kstB64 (bits w 24 19) (bits w 18 13) s o) else none
  else none

/-- Major 0x11 of the uniform set (R40). -/
def dec51 (w : Nat) : Option Instr :=
  if fld w 3 0 = 0 then
    (scopeOf (fld w 8 6)).bind fun s => (atomOrder (fld w 5 4)).bind fun o => some (.katomAddI32 (bits w 24 19) (bits w 18 13) (bits w 12 9) s o)
  else if fld w 3 0 = 1 then
    (scopeOf (fld w 8 6)).bind fun s => (atomOrder (fld w 5 4)).bind fun o => some (.katomAndB32 (bits w 24 19) (bits w 18 13) (bits w 12 9) s o)
  else if fld w 3 0 = 2 then
    (scopeOf (fld w 8 6)).bind fun s => (atomOrder (fld w 5 4)).bind fun o => some (.katomOrB32 (bits w 24 19) (bits w 18 13) (bits w 12 9) s o)
  else if fld w 3 0 = 3 then
    (scopeOf (fld w 8 6)).bind fun s => (atomOrder (fld w 5 4)).bind fun o => some (.katomXorB32 (bits w 24 19) (bits w 18 13) (bits w 12 9) s o)
  else if fld w 3 0 = 4 then
    (scopeOf (fld w 8 6)).bind fun s => (atomOrder (fld w 5 4)).bind fun o => some (.katomMinI32 (bits w 24 19) (bits w 18 13) (bits w 12 9) s o)
  else if fld w 3 0 = 5 then
    (scopeOf (fld w 8 6)).bind fun s => (atomOrder (fld w 5 4)).bind fun o => some (.katomMaxI32 (bits w 24 19) (bits w 18 13) (bits w 12 9) s o)
  else if fld w 3 0 = 6 then
    (scopeOf (fld w 8 6)).bind fun s => (atomOrder (fld w 5 4)).bind fun o => some (.katomMinN32 (bits w 24 19) (bits w 18 13) (bits w 12 9) s o)
  else if fld w 3 0 = 7 then
    (scopeOf (fld w 8 6)).bind fun s => (atomOrder (fld w 5 4)).bind fun o => some (.katomMaxN32 (bits w 24 19) (bits w 18 13) (bits w 12 9) s o)
  else if fld w 3 0 = 8 then
    (scopeOf (fld w 8 6)).bind fun s => (atomOrder (fld w 5 4)).bind fun o => some (.katomExchB32 (bits w 24 19) (bits w 18 13) (bits w 12 9) s o)
  else if fld w 3 0 = 9 then
    (scopeOf (fld w 8 6)).bind fun s => (atomOrder (fld w 5 4)).bind fun o => some (.katomCasB32 (bits w 24 19) (bits w 18 13) (bits w 12 9) s o)
  else if fld w 3 0 = 10 then
    (scopeOf (fld w 8 6)).bind fun s => (atomOrder (fld w 5 4)).bind fun o => some (.katomFaddF32Rn (bits w 24 19) (bits w 18 13) (bits w 12 9) s o)
  else none

/-- Major 0x12 of the uniform set (R40). -/
def dec52 (w : Nat) : Option Instr :=
  if fld w 6 0 = 0 then
    if fld w 12 7 = 0 then some (.klaunch (bits w 24 19) (bits w 18 13)) else none
  else if fld w 6 0 = 1 then
    if fld w 24 19 = 0 then some (.kspawn (bits w 18 13) (bits w 12 7)) else none
  else none

/-- Major 0x30 of the tile stream (R41). -/
def dec70 (w : Nat) : Option Instr :=
  if fld w 4 0 = 0 then
    if fld w 8 5 = 0 ∧ fld w 17 17 = 0 ∧ fld w 24 21 = 0 then some (.tld (bits w 20 18) (bits w 16 9)) else none
  else if fld w 4 0 = 1 then
    if fld w 8 6 = 0 ∧ fld w 20 17 = 0 then some (.tstBf16Rn (bits w 24 21) (bits w 16 9) (decide (fld w 5 5 = 1))) else none
  else if fld w 4 0 = 2 then
    if fld w 8 5 = 0 ∧ fld w 20 17 = 0 then some (.tstF32 (bits w 24 21) (bits w 16 9)) else none
  else none

/-- Major 0x31 of the tile stream (R41). -/
def dec71 (w : Nat) : Option Instr :=
  if fld w 4 0 = 0 then
    if fld w 8 5 = 0 then some (.tmmaW (bits w 24 21) (bits w 20 18) (decide (fld w 17 17 = 1)) (bits w 16 9)) else none
  else if fld w 4 0 = 1 then
    if fld w 8 5 = 0 then some (.tmmaS (bits w 24 21) (bits w 20 18) (decide (fld w 17 17 = 1)) (bits w 16 9)) else none
  else if fld w 4 0 = 2 then
    if fld w 8 5 = 0 then some (.tmmaI8 (bits w 24 21) (bits w 20 18) (decide (fld w 17 17 = 1)) (bits w 16 9)) else none
  else none

/-- Major 0x32 of the tile stream (R41). -/
def dec72 (w : Nat) : Option Instr :=
  if fld w 4 0 = 0 then
    if fld w 20 5 = 0 then some (.tzero (bits w 24 21)) else none
  else if fld w 4 0 = 1 then
    if fld w 8 5 = 0 then
      if fld w 20 17 = 0 then some (.tewLd (bits w 24 21) (bits w 16 9)) else none
    else if fld w 8 5 = 1 then
      if fld w 20 17 = 0 then some (.tewAdd (bits w 24 21) (bits w 16 9)) else none
    else if fld w 8 5 = 2 then
      if fld w 20 17 = 0 then some (.tewMul (bits w 24 21) (bits w 16 9)) else none
    else if fld w 8 5 = 3 then
      if fld w 20 17 = 0 then some (.tewAddrow (bits w 24 21) (bits w 16 9)) else none
    else if fld w 8 5 = 4 then
      if fld w 20 17 = 0 then some (.tewMulrow (bits w 24 21) (bits w 16 9)) else none
    else if fld w 8 5 = 5 then
      if fld w 20 9 = 0 then some (.tewRelu (bits w 24 21)) else none
    else if fld w 8 5 = 6 then
      if fld w 20 9 = 0 then some (.tewSq (bits w 24 21)) else none
    else if fld w 8 5 = 7 then
      if fld w 20 9 = 0 then some (.tewTanh (bits w 24 21)) else none
    else if fld w 8 5 = 8 then
      if fld w 20 9 = 0 then some (.tewNeg (bits w 24 21)) else none
    else none
  else none

/-- Major 0x33 of the tile stream (R41). -/
def dec73 (w : Nat) : Option Instr :=
  if fld w 4 0 = 0 then
    if fld w 24 9 = 0 then some (.twait (bits w 8 5)) else none
  else if fld w 4 0 = 1 then
    if fld w 24 9 = 0 then some (.tsig (bits w 8 5)) else none
  else if fld w 4 0 = 2 then
    if fld w 24 9 = 0 then some (.tbar (bits w 8 5)) else none
  else none

/-- Major 0x35 of the tile stream (R41). -/
def dec75 (w : Nat) : Option Instr :=
  if fld w 4 0 = 1 then
    if fld w 24 5 = 0 then some .recEnd else none
  else none

/-- The lane-set map (R39), by major. -/
def decLane (m w : Nat) : Option Instr :=
  if m = 0 then dec00 w
  else if m = 1 then dec01 w
  else if m = 2 then dec02 w
  else if m = 3 then dec03 w
  else if m = 4 then dec04 w
  else if m = 5 then dec05 w
  else if m = 6 then dec06 w
  else if m = 7 then dec07 w
  else if m = 8 then dec08 w
  else if m = 9 then dec09 w
  else if m = 10 then dec0A w
  else if m = 11 then dec0B w
  else if m = 12 then dec0C w
  else if m = 13 then dec0D w
  else if m = 14 then dec0E w
  else if m = 15 then dec0F w
  else if m = 16 then dec10 .rn w
  else if m = 17 then dec10 .rz w
  else if m = 18 then dec10 .rd w
  else if m = 19 then dec10 .ru w
  else if m = 20 then dec14 w
  else if m = 21 then dec15 w
  else if m = 22 then dec16 w
  else if m = 23 then dec17 w
  else if m = 24 then dec18 w
  else if m = 25 then dec19 w
  else if m = 26 then dec1A w
  else if m = 27 then dec1B w
  else if m = 32 then dec20 w
  else if m = 33 then dec21 w
  else if m = 34 then dec22 w
  else if m = 35 then dec23 w
  else if m = 36 then dec24 w
  else if m = 37 then dec25 w
  else if m = 38 then dec26 w
  else if m = 39 then dec27 w
  else if m = 40 then dec28 w
  else if m = 44 then dec2C w
  else if m = 48 then dec30 w
  else if m = 49 then dec31 w
  else if m = 50 then dec32 w
  else if m = 51 then dec33 w
  else if m = 52 then dec34 w
  else none

/-- The uniform-set map (R40), by set bit and major. -/
def decUniform (m w : Nat) : Option Instr :=
  if m = 64 then dec40 w
  else if m = 65 then dec41 w
  else if m = 66 then dec42 w
  else if m = 67 then dec43 w
  else if m = 68 then dec44 w
  else if m = 69 then dec45 w
  else if m = 70 then dec46 w
  else if m = 72 then dec48 w
  else if m = 73 then dec49 w
  else if m = 74 then dec4A w
  else if m = 75 then dec4B w
  else if m = 76 then dec4C w
  else if m = 77 then dec4D w
  else if m = 78 then dec4E w
  else if m = 80 then dec50 w
  else if m = 81 then dec51 w
  else if m = 82 then dec52 w
  else none

/-- The tile-stream map (R41) of the words that need no extension word. -/
def decTile (m w : Nat) : Option Instr :=
  if m = 112 then dec70 w
  else if m = 113 then dec71 w
  else if m = 114 then dec72 w
  else if m = 115 then dec73 w
  else if m = 117 then dec75 w
  else none

/-- Why words are no instruction (R42). -/
inductive Reject
  /-- a word that R39 to R41 do not assign -/
  | illegal
  /-- fewer extension words than R41 gives the instruction -/
  | truncated
  /-- no word at all -/
  | empty
deriving DecidableEq, Repr

/-- A word whose set bit and major put it in the tile stream (R30). -/
def isTileWord (w : Word) : Bool := decide (0x70 ≤ w.toNat / 2^25)

/-- A tile-stream word and its extension words (R38, R41). -/
def decodeTile (w : Nat) (rest : List Word) : Except Reject (Instr × List Word) :=
  if w / 2^25 = 0x74 then
    if fld w 4 0 = 0 ∧ fld w 24 9 = 0 ∧ fld w 8 5 ≠ 0 then
      if rest.length < fld w 8 5 then .error .truncated
      else .ok (.dtask (bits w 8 5) (rest.take (fld w 8 5)), rest.drop (fld w 8 5))
    else .error .illegal
  else if w / 2^25 = 0x75 ∧ w % 2^25 = 0 then
    match rest with
    | w1 :: w2 :: w3 :: w4 :: r => .ok (.recBeg w1 w2 w3 w4, r)
    | _ => .error .truncated
  else if w / 2^25 = 0x75 ∧ w % 2^25 = 2 then
    match rest with
    | w1 :: w2 :: w3 :: w4 :: r => .ok (.reverse w1 w2 w3 w4, r)
    | _ => .error .truncated
  else match decTile (w / 2^25) w with
    | some i => .ok (i, rest)
    | none => .error .illegal

/-- The instruction at the head of a list of words, with the words after it. Which set a fetcher may run is the
fetch's own check (R30); every word has at most one reading. -/
def decodeWords : List Word → Except Reject (Instr × List Word)
  | [] => .error .empty
  | w :: rest =>
    if isTileWord w then decodeTile w.toNat rest
    else match (if w.toNat / 2^25 < 64 then decLane (w.toNat / 2^25) w.toNat
                else decUniform (w.toNat / 2^25) w.toNat) with
      | some i => .ok (i, rest)
      | none => .error .illegal

/-- How many extension words follow a tile-stream word (R38, R41): none follow a word that is not assigned (R42). -/
def extWords (w : Word) : Nat :=
  if w.toNat / 2^25 = 0x74 ∧ fld w.toNat 4 0 = 0 ∧ fld w.toNat 24 9 = 0 then fld w.toNat 8 5
  else if w.toNat / 2^25 = 0x75 ∧ (w.toNat % 2^25 = 0 ∨ w.toNat % 2^25 = 2) then 4 else 0

/-- How many words a fetch reads at most: a `dtask` with fifteen extension words (R41). -/
def maxInstrWords : Nat := 16

/-- `nbits` bits of `w` as little-endian 32-bit words, the first at the lowest address, with zero words above. -/
def tableWords (nbits w : Nat) : List Word :=
  (List.range maxInstrWords).map fun k => BitVec.ofNat 32 (w % 2 ^ nbits / 2 ^ (32 * k))

/-- The instruction the decoder reads from a table word, if it reads one. -/
def decodeTableWord (nbits w : Nat) : Option Instr :=
  match decodeWords (tableWords nbits w) with
  | .ok (i, _) => some i
  | .error _ => none

/-- The code of a scope (R4). -/
def Scope.code : Scope → Nat
  | .grp => 0 | .core => 1 | .clu => 2 | .die => 3 | .qtr => 4 | .dev => 5 | .sys => 6
/-- The code of a load's order (R36); a load has no other order. -/
def MemOrder.loadCode : MemOrder → Nat
  | .rlx => 0 | .acq => 1 | .rel => 2 | .ar => 2 | .sc => 3
/-- The code of a store's order (R36); a store has no other order. -/
def MemOrder.storeCode : MemOrder → Nat
  | .rlx => 0 | .rel => 1 | .acq => 2 | .ar => 2 | .sc => 3
/-- The code of an atomic's order; release-only is encoded as acquire-release (R36). -/
def MemOrder.atomCode : MemOrder → Nat
  | .rlx => 0 | .acq => 1 | .rel => 2 | .ar => 2 | .sc => 3
/-- The code of a fence's order (R36); a fence is never relaxed. -/
def MemOrder.fenceCode : MemOrder → Nat
  | .rel => 0 | .acq => 1 | .ar => 2 | .sc => 3 | .rlx => 0
/-- The code of a scratchpad width (R39). -/
def LpWidth.code : LpWidth → Nat
  | .n8 => 0 | .i8 => 1 | .n16 => 2 | .i16 => 3 | .b32 => 4 | .b64 => 5 | .b128 => 6
/-- The code of an `icmpi` condition (R39). -/
def Cond.code : Cond → Nat
  | .eq => 0 | .ne => 1 | .ltI => 2 | .leI => 3 | .gtI => 4 | .geI => 5 | .ltN => 6 | .leN => 7 | .gtN => 8 | .geN => 9
/-- The code of a rounding (R39, majors 0x10 to 0x14). -/
def Rnd.code : Rnd → Nat
  | .rn => 0 | .rz => 1 | .rd => 2 | .ru => 3 | .rna => 0

/-- A word with no field. -/
def put0 (k : Nat) : Nat := k
/-- A word with one field placed at its low bit. -/
def put1 (k a la : Nat) : Nat := k + a * 2 ^ la
/-- A word with two fields. -/
def put2 (k a la b lb : Nat) : Nat := k + a * 2 ^ la + b * 2 ^ lb
/-- A word with three fields. -/
def put3 (k a la b lb c lc : Nat) : Nat := k + a * 2 ^ la + b * 2 ^ lb + c * 2 ^ lc
/-- A word with four fields. -/
def put4 (k a la b lb c lc d ld : Nat) : Nat := k + a * 2 ^ la + b * 2 ^ lb + c * 2 ^ lc + d * 2 ^ ld
/-- A word with five fields. -/
def put5 (k a la b lb c lc d ld e le : Nat) : Nat :=
  k + a * 2 ^ la + b * 2 ^ lb + c * 2 ^ lc + d * 2 ^ ld + e * 2 ^ le

/-- The number whose 32 bits are the instruction's first word; an engine command and an event have none. -/
def Instr.word : Instr → Option Nat
  | .nop => some (put0 0x00000000)
  | .trap n => some (put1 0x00000001 n.toNat 4)
  | .land => some (put0 0x00000002)
  | .yield => some (put0 0x00000003)
  | .exit => some (put0 0x00000004)
  | .smovSr d x => some (put2 0x00000005 d.toNat 18 x.toNat 4)
  | .smovCr d x => some (put2 0x00000006 d.toNat 18 x.toNat 4)
  | .smovK d x => some (put2 0x00000007 d.toNat 18 x.toNat 4)
  | .ssetCr a x => some (put2 0x00000008 a.toNat 11 x.toNat 4)
  | .ssetK a x => some (put2 0x00000009 a.toNat 11 x.toNat 4)
  | .eret => some (put0 0x0000000A)
  | .iaddI32 d a b => some (put3 0x02000000 d.toNat 18 a.toNat 11 b.toNat 4)
  | .isubI32 d a b => some (put3 0x02000001 d.toNat 18 a.toNat 11 b.toNat 4)
  | .iaddSatI32 d a b => some (put3 0x02000002 d.toNat 18 a.toNat 11 b.toNat 4)
  | .iaddSatN32 d a b => some (put3 0x02000003 d.toNat 18 a.toNat 11 b.toNat 4)
  | .isubSatI32 d a b => some (put3 0x02000004 d.toNat 18 a.toNat 11 b.toNat 4)
  | .isubSatN32 d a b => some (put3 0x02000005 d.toNat 18 a.toNat 11 b.toNat 4)
  | .imulLoB32 d a b => some (put3 0x02000006 d.toNat 18 a.toNat 11 b.toNat 4)
  | .imulHiI32 d a b => some (put3 0x02000007 d.toNat 18 a.toNat 11 b.toNat 4)
  | .imulHiN32 d a b => some (put3 0x02000008 d.toNat 18 a.toNat 11 b.toNat 4)
  | .imadLoB32 d a b => some (put3 0x02000009 d.toNat 18 a.toNat 11 b.toNat 4)
  | .inegI32 d a => some (put2 0x0200000A d.toNat 18 a.toNat 11)
  | .iabsI32 d a => some (put2 0x0200000B d.toNat 18 a.toNat 11)
  | .iminI32 d a b => some (put3 0x0200000C d.toNat 18 a.toNat 11 b.toNat 4)
  | .imaxI32 d a b => some (put3 0x0200000D d.toNat 18 a.toNat 11 b.toNat 4)
  | .iminN32 d a b => some (put3 0x0200000E d.toNat 18 a.toNat 11 b.toNat 4)
  | .imaxN32 d a b => some (put3 0x0200000F d.toNat 18 a.toNat 11 b.toNat 4)
  | .iaddB64 d a b => some (put3 0x04000000 d.toNat 18 a.toNat 11 b.toNat 4)
  | .isubB64 d a b => some (put3 0x04000001 d.toNat 18 a.toNat 11 b.toNat 4)
  | .imulWideI32 d a b => some (put3 0x04000002 d.toNat 18 a.toNat 11 b.toNat 4)
  | .imulWideN32 d a b => some (put3 0x04000003 d.toNat 18 a.toNat 11 b.toNat 4)
  | .imadWideI32 d a b => some (put3 0x04000004 d.toNat 18 a.toNat 11 b.toNat 4)
  | .imadWideN32 d a b => some (put3 0x04000005 d.toNat 18 a.toNat 11 b.toNat 4)
  | .iminI64 d a b => some (put3 0x04000006 d.toNat 18 a.toNat 11 b.toNat 4)
  | .imaxI64 d a b => some (put3 0x04000007 d.toNat 18 a.toNat 11 b.toNat 4)
  | .iminN64 d a b => some (put3 0x04000008 d.toNat 18 a.toNat 11 b.toNat 4)
  | .imaxN64 d a b => some (put3 0x04000009 d.toNat 18 a.toNat 11 b.toNat 4)
  | .idot4I8 d a b => some (put3 0x06000000 d.toNat 18 a.toNat 11 b.toNat 4)
  | .idot4N8 d a b => some (put3 0x06000001 d.toNat 18 a.toNat 11 b.toNat 4)
  | .idot2I16 d a b => some (put3 0x06000002 d.toNat 18 a.toNat 11 b.toNat 4)
  | .idot2N16 d a b => some (put3 0x06000003 d.toNat 18 a.toNat 11 b.toNat 4)
  | .isad4N8 d a b => some (put3 0x06000004 d.toNat 18 a.toNat 11 b.toNat 4)
  | .iaddN16x2 d a b => some (put3 0x06000005 d.toNat 18 a.toNat 11 b.toNat 4)
  | .isubN16x2 d a b => some (put3 0x06000006 d.toNat 18 a.toNat 11 b.toNat 4)
  | .shlB32 d a b => some (put3 0x08000000 d.toNat 18 a.toNat 11 b.toNat 4)
  | .shrN32 d a b => some (put3 0x08000001 d.toNat 18 a.toNat 11 b.toNat 4)
  | .shrI32 d a b => some (put3 0x08000002 d.toNat 18 a.toNat 11 b.toNat 4)
  | .rolB32 d a b => some (put3 0x08000003 d.toNat 18 a.toNat 11 b.toNat 4)
  | .rorB32 d a b => some (put3 0x08000004 d.toNat 18 a.toNat 11 b.toNat 4)
  | .andB32 d a b => some (put3 0x08000005 d.toNat 18 a.toNat 11 b.toNat 4)
  | .orB32 d a b => some (put3 0x08000006 d.toNat 18 a.toNat 11 b.toNat 4)
  | .xorB32 d a b => some (put3 0x08000007 d.toNat 18 a.toNat 11 b.toNat 4)
  | .andnB32 d a b => some (put3 0x08000008 d.toNat 18 a.toNat 11 b.toNat 4)
  | .ornB32 d a b => some (put3 0x08000009 d.toNat 18 a.toNat 11 b.toNat 4)
  | .xnorB32 d a b => some (put3 0x0800000A d.toNat 18 a.toNat 11 b.toNat 4)
  | .notB32 d a => some (put2 0x0800000B d.toNat 18 a.toNat 11)
  | .shlB64 d a b => some (put3 0x0800000C d.toNat 18 a.toNat 11 b.toNat 4)
  | .shrN64 d a b => some (put3 0x0800000D d.toNat 18 a.toNat 11 b.toNat 4)
  | .shrI64 d a b => some (put3 0x0800000E d.toNat 18 a.toNat 11 b.toNat 4)
  | .bfeN32 d a b => some (put3 0x0A000000 d.toNat 18 a.toNat 11 b.toNat 4)
  | .bfeI32 d a b => some (put3 0x0A000001 d.toNat 18 a.toNat 11 b.toNat 4)
  | .bfiB32 d a b => some (put3 0x0A000002 d.toNat 18 a.toNat 11 b.toNat 4)
  | .bpermB32 d a b => some (put3 0x0A000003 d.toNat 18 a.toNat 11 b.toNat 4)
  | .popcB32 d a => some (put2 0x0A000004 d.toNat 18 a.toNat 11)
  | .clzB32 d a => some (put2 0x0A000005 d.toNat 18 a.toNat 11)
  | .ctzB32 d a => some (put2 0x0A000006 d.toNat 18 a.toNat 11)
  | .brevB32 d a => some (put2 0x0A000007 d.toNat 18 a.toNat 11)
  | .icmpEqB32 p a b => some (put3 0x0C000000 p.toNat 18 a.toNat 11 b.toNat 4)
  | .icmpNeB32 p a b => some (put3 0x0C000001 p.toNat 18 a.toNat 11 b.toNat 4)
  | .icmpLtI32 p a b => some (put3 0x0C000002 p.toNat 18 a.toNat 11 b.toNat 4)
  | .icmpLeI32 p a b => some (put3 0x0C000003 p.toNat 18 a.toNat 11 b.toNat 4)
  | .icmpGtI32 p a b => some (put3 0x0C000004 p.toNat 18 a.toNat 11 b.toNat 4)
  | .icmpGeI32 p a b => some (put3 0x0C000005 p.toNat 18 a.toNat 11 b.toNat 4)
  | .icmpLtN32 p a b => some (put3 0x0C000006 p.toNat 18 a.toNat 11 b.toNat 4)
  | .icmpLeN32 p a b => some (put3 0x0C000007 p.toNat 18 a.toNat 11 b.toNat 4)
  | .icmpGtN32 p a b => some (put3 0x0C000008 p.toNat 18 a.toNat 11 b.toNat 4)
  | .icmpGeN32 p a b => some (put3 0x0C000009 p.toNat 18 a.toNat 11 b.toNat 4)
  | .icmpEqB64 p a b => some (put3 0x0C00000A p.toNat 18 a.toNat 11 b.toNat 4)
  | .icmpNeB64 p a b => some (put3 0x0C00000B p.toNat 18 a.toNat 11 b.toNat 4)
  | .icmpLtI64 p a b => some (put3 0x0C00000C p.toNat 18 a.toNat 11 b.toNat 4)
  | .icmpGeI64 p a b => some (put3 0x0C00000D p.toNat 18 a.toNat 11 b.toNat 4)
  | .icmpLtN64 p a b => some (put3 0x0C00000E p.toNat 18 a.toNat 11 b.toNat 4)
  | .icmpGeN64 p a b => some (put3 0x0C00000F p.toNat 18 a.toNat 11 b.toNat 4)
  | .selB32 d a b p => some (put4 0x0E000000 d.toNat 18 a.toNat 11 b.toNat 4 p.toNat 0)
  | .movB32 d a => some (put2 0x0E000008 d.toNat 18 a.toNat 11)
  | .movB64 d a => some (put2 0x0E000009 d.toNat 18 a.toNat 11)
  | .pget d q => some (put2 0x0E00000A d.toNat 18 q.toNat 11)
  | .pset p a => some (put2 0x0E00000B p.toNat 18 a.toNat 11)
  | .pand p q r => some (put3 0x0E00000C p.toNat 18 q.toNat 11 r.toNat 4)
  | .por p q r => some (put3 0x0E00000D p.toNat 18 q.toNat 11 r.toNat 4)
  | .pxor p q r => some (put3 0x0E00000E p.toNat 18 q.toNat 11 r.toNat 4)
  | .iaddi d a i => some (put3 0x10000000 d.toNat 18 a.toNat 11 i.toNat 0)
  | .andi d a i => some (put3 0x12000000 d.toNat 18 a.toNat 11 i.toNat 0)
  | .ori d a i => some (put3 0x14000000 d.toNat 18 a.toNat 11 i.toNat 0)
  | .xori d a i => some (put3 0x16000000 d.toNat 18 a.toNat 11 i.toNat 0)
  | .shliB32 d a n => some (put3 0x18000000 d.toNat 18 a.toNat 11 n.toNat 0)
  | .shriN32 d a n => some (put3 0x18000020 d.toNat 18 a.toNat 11 n.toNat 0)
  | .shriI32 d a n => some (put3 0x18000040 d.toNat 18 a.toNat 11 n.toNat 0)
  | .roliB32 d a n => some (put3 0x18000060 d.toNat 18 a.toNat 11 n.toNat 0)
  | .roriB32 d a n => some (put3 0x18000080 d.toNat 18 a.toNat 11 n.toNat 0)
  | .movi d i => some (put2 0x1A000000 d.toNat 18 i.toNat 0)
  | .shlori d a i => some (put3 0x1C000000 d.toNat 18 a.toNat 11 i.toNat 0)
  | .icmpi p a c i => some (put4 0x1E000000 p.toNat 18 a.toNat 11 c.code 7 i.toNat 0)
  | .faddF32 r d a b => some (put4 0x20000000 r.code 25 d.toNat 18 a.toNat 11 b.toNat 4)
  | .fsubF32 r d a b => some (put4 0x20000001 r.code 25 d.toNat 18 a.toNat 11 b.toNat 4)
  | .fmulF32 r d a b => some (put4 0x20000002 r.code 25 d.toNat 18 a.toNat 11 b.toNat 4)
  | .faddSatF32 r d a b => some (put4 0x20000003 r.code 25 d.toNat 18 a.toNat 11 b.toNat 4)
  | .fsubSatF32 r d a b => some (put4 0x20000004 r.code 25 d.toNat 18 a.toNat 11 b.toNat 4)
  | .fmulSatF32 r d a b => some (put4 0x20000005 r.code 25 d.toNat 18 a.toNat 11 b.toNat 4)
  | .fmaF32 d a b r => some (put4 0x28000000 d.toNat 18 a.toNat 11 b.toNat 4 r.code 2)
  | .fmsF32 d a b r => some (put4 0x28000001 d.toNat 18 a.toNat 11 b.toNat 4 r.code 2)
  | .fnmaF32 d a b r => some (put4 0x28000002 d.toNat 18 a.toNat 11 b.toNat 4 r.code 2)
  | .fmaSatF32 d a b r => some (put4 0x28000003 d.toNat 18 a.toNat 11 b.toNat 4 r.code 2)
  | .fminF32 d a b => some (put3 0x2A000000 d.toNat 18 a.toNat 11 b.toNat 4)
  | .fmaxF32 d a b => some (put3 0x2A000001 d.toNat 18 a.toNat 11 b.toNat 4)
  | .fminnumF32 d a b => some (put3 0x2A000002 d.toNat 18 a.toNat 11 b.toNat 4)
  | .fmaxnumF32 d a b => some (put3 0x2A000003 d.toNat 18 a.toNat 11 b.toNat 4)
  | .fabsF32 d a => some (put2 0x2A000004 d.toNat 18 a.toNat 11)
  | .fnegF32 d a => some (put2 0x2A000005 d.toNat 18 a.toNat 11)
  | .frintF32Rn d a => some (put2 0x2A000006 d.toNat 18 a.toNat 11)
  | .frintF32Rz d a => some (put2 0x2A000007 d.toNat 18 a.toNat 11)
  | .frintF32Rd d a => some (put2 0x2A000008 d.toNat 18 a.toNat 11)
  | .frintF32Ru d a => some (put2 0x2A000009 d.toNat 18 a.toNat 11)
  | .frintF32Rna d a => some (put2 0x2A00000A d.toNat 18 a.toNat 11)
  | .fcopysignF32 d a b => some (put3 0x2A00000B d.toNat 18 a.toNat 11 b.toNat 4)
  | .fcmpEqF32 p a b => some (put3 0x2C000000 p.toNat 18 a.toNat 11 b.toNat 4)
  | .fcmpNeF32 p a b => some (put3 0x2C000001 p.toNat 18 a.toNat 11 b.toNat 4)
  | .fcmpLtF32 p a b => some (put3 0x2C000002 p.toNat 18 a.toNat 11 b.toNat 4)
  | .fcmpLeF32 p a b => some (put3 0x2C000003 p.toNat 18 a.toNat 11 b.toNat 4)
  | .fcmpGtF32 p a b => some (put3 0x2C000004 p.toNat 18 a.toNat 11 b.toNat 4)
  | .fcmpGeF32 p a b => some (put3 0x2C000005 p.toNat 18 a.toNat 11 b.toNat 4)
  | .fcmpOrdF32 p a b => some (put3 0x2C000006 p.toNat 18 a.toNat 11 b.toNat 4)
  | .fcmpUnoF32 p a b => some (put3 0x2C000007 p.toNat 18 a.toNat 11 b.toNat 4)
  | .faddBf16x2Rn d a b => some (put3 0x2E000000 d.toNat 18 a.toNat 11 b.toNat 4)
  | .fmulBf16x2Rn d a b => some (put3 0x2E000001 d.toNat 18 a.toNat 11 b.toNat 4)
  | .fmaBf16x2Rn d a b => some (put3 0x2E000002 d.toNat 18 a.toNat 11 b.toNat 4)
  | .fminBf16x2 d a b => some (put3 0x2E000003 d.toNat 18 a.toNat 11 b.toNat 4)
  | .fmaxBf16x2 d a b => some (put3 0x2E000004 d.toNat 18 a.toNat 11 b.toNat 4)
  | .faddF16x2Rn d a b => some (put3 0x2E000005 d.toNat 18 a.toNat 11 b.toNat 4)
  | .fmulF16x2Rn d a b => some (put3 0x2E000006 d.toNat 18 a.toNat 11 b.toNat 4)
  | .fmaF16x2Rn d a b => some (put3 0x2E000007 d.toNat 18 a.toNat 11 b.toNat 4)
  | .fminF16x2 d a b => some (put3 0x2E000008 d.toNat 18 a.toNat 11 b.toNat 4)
  | .fmaxF16x2 d a b => some (put3 0x2E000009 d.toNat 18 a.toNat 11 b.toNat 4)
  | .cvtF32I32Rn d a => some (put2 0x30000000 d.toNat 18 a.toNat 11)
  | .cvtF32N32Rn d a => some (put2 0x30000001 d.toNat 18 a.toNat 11)
  | .cvtI32F32Rn d a => some (put2 0x30000002 d.toNat 18 a.toNat 11)
  | .cvtI32F32Rz d a => some (put2 0x30000003 d.toNat 18 a.toNat 11)
  | .cvtI32F32Rd d a => some (put2 0x30000004 d.toNat 18 a.toNat 11)
  | .cvtI32F32Ru d a => some (put2 0x30000005 d.toNat 18 a.toNat 11)
  | .cvtN32F32Rn d a => some (put2 0x30000006 d.toNat 18 a.toNat 11)
  | .cvtN32F32Rz d a => some (put2 0x30000007 d.toNat 18 a.toNat 11)
  | .cvtN32F32Rd d a => some (put2 0x30000008 d.toNat 18 a.toNat 11)
  | .cvtN32F32Ru d a => some (put2 0x30000009 d.toNat 18 a.toNat 11)
  | .cvtF32Bf16 d a => some (put2 0x3000000A d.toNat 18 a.toNat 11)
  | .cvtF32F16 d a => some (put2 0x3000000B d.toNat 18 a.toNat 11)
  | .cvtBf16F32Rn d a => some (put2 0x3000000C d.toNat 18 a.toNat 11)
  | .cvtBf16F32Rz d a => some (put2 0x3000000D d.toNat 18 a.toNat 11)
  | .cvtF16F32Rn d a => some (put2 0x3000000E d.toNat 18 a.toNat 11)
  | .cvtF16F32Rz d a => some (put2 0x3000000F d.toNat 18 a.toNat 11)
  | .cvtE4m3x2F32Rn d a b => some (put3 0x32000000 d.toNat 18 a.toNat 11 b.toNat 4)
  | .cvtE4m3x2F32RnSat d a b => some (put3 0x32000001 d.toNat 18 a.toNat 11 b.toNat 4)
  | .cvtE5m2x2F32Rn d a b => some (put3 0x32000002 d.toNat 18 a.toNat 11 b.toNat 4)
  | .cvtE5m2x2F32RnSat d a b => some (put3 0x32000003 d.toNat 18 a.toNat 11 b.toNat 4)
  | .cvtBf16x2F32Rn d a b => some (put3 0x32000004 d.toNat 18 a.toNat 11 b.toNat 4)
  | .cvtF16x2F32Rn d a b => some (put3 0x32000005 d.toNat 18 a.toNat 11 b.toNat 4)
  | .cvtF16x2E4m3x2 d a => some (put2 0x32000006 d.toNat 18 a.toNat 11)
  | .cvtF16x2E5m2x2 d a => some (put2 0x32000007 d.toNat 18 a.toNat 11)
  | .rcpF32 d a l => some (put3 0x34000000 d.toNat 18 a.toNat 11 l.toNat 7)
  | .rsqrtF32 d a l => some (put3 0x34000001 d.toNat 18 a.toNat 11 l.toNat 7)
  | .sqrtF32 d a l => some (put3 0x34000002 d.toNat 18 a.toNat 11 l.toNat 7)
  | .exp2F32 d a l => some (put3 0x34000003 d.toNat 18 a.toNat 11 l.toNat 7)
  | .log2F32 d a l => some (put3 0x34000004 d.toNat 18 a.toNat 11 l.toNat 7)
  | .sinF32 d a l => some (put3 0x34000005 d.toNat 18 a.toNat 11 l.toNat 7)
  | .cosF32 d a l => some (put3 0x34000006 d.toNat 18 a.toNat 11 l.toNat 7)
  | .sinpiF32 d a l => some (put3 0x34000007 d.toNat 18 a.toNat 11 l.toNat 7)
  | .cospiF32 d a l => some (put3 0x34000008 d.toNat 18 a.toNat 11 l.toNat 7)
  | .tanhF32 d a l => some (put3 0x34000009 d.toNat 18 a.toNat 11 l.toNat 7)
  | .shflSel d a b => some (put3 0x36000000 d.toNat 18 a.toNat 11 b.toNat 4)
  | .shflStep d a b => some (put3 0x36000001 d.toNat 18 a.toNat 11 b.toNat 4)
  | .shflWrap d a b => some (put3 0x36000002 d.toNat 18 a.toNat 11 b.toNat 4)
  | .shflRank d a b => some (put3 0x36000003 d.toNat 18 a.toNat 11 b.toNat 4)
  | .swzXor d a c => some (put3 0x36000004 d.toNat 18 a.toNat 11 c.toNat 4)
  | .swzBcast d a c => some (put3 0x36000204 d.toNat 18 a.toNat 11 c.toNat 4)
  | .swzRot d a c => some (put3 0x36000404 d.toNat 18 a.toNat 11 c.toNat 4)
  | .voteCount d p => some (put2 0x36000005 d.toNat 18 p.toNat 4)
  | .voteMask d p => some (put2 0x36000006 d.toNat 18 p.toNat 4)
  | .voteSpan d p => some (put2 0x36000007 d.toNat 18 p.toNat 4)
  | .matchB32 d a l => some (put3 0x36000008 d.toNat 18 a.toNat 11 l.toNat 7)
  | .matchB64 d a l => some (put3 0x36000009 d.toNat 18 a.toNat 11 l.toNat 7)
  | .reduxAddI32 d a => some (put2 0x3600000A d.toNat 18 a.toNat 11)
  | .reduxMinI32 d a => some (put2 0x3600000B d.toNat 18 a.toNat 11)
  | .reduxMaxI32 d a => some (put2 0x3600000C d.toNat 18 a.toNat 11)
  | .reduxAndB32 d a => some (put2 0x3600000D d.toNat 18 a.toNat 11)
  | .reduxOrB32 d a => some (put2 0x3600000E d.toNat 18 a.toNat 11)
  | .reduxFaddF32Rn d a => some (put2 0x3600000F d.toNat 18 a.toNat 11)
  | .ldN8 t a l s o => some (put5 0x40000000 t.toNat 18 a.toNat 11 l.toNat 7 s.code 4 o.loadCode 2)
  | .ldI8 t a l s o => some (put5 0x40000001 t.toNat 18 a.toNat 11 l.toNat 7 s.code 4 o.loadCode 2)
  | .stB8 t a s o => some (put4 0x40000002 t.toNat 18 a.toNat 11 s.code 4 o.storeCode 2)
  | .ldN16 t a l s o => some (put5 0x42000000 t.toNat 18 a.toNat 11 l.toNat 7 s.code 4 o.loadCode 2)
  | .ldI16 t a l s o => some (put5 0x42000001 t.toNat 18 a.toNat 11 l.toNat 7 s.code 4 o.loadCode 2)
  | .stB16 t a s o => some (put4 0x42000002 t.toNat 18 a.toNat 11 s.code 4 o.storeCode 2)
  | .ldB32 t a l s o => some (put5 0x44000000 t.toNat 18 a.toNat 11 l.toNat 7 s.code 4 o.loadCode 2)
  | .stB32 t a s o => some (put4 0x44000001 t.toNat 18 a.toNat 11 s.code 4 o.storeCode 2)
  | .ldB64 t a l s o => some (put5 0x44000002 t.toNat 18 a.toNat 11 l.toNat 7 s.code 4 o.loadCode 2)
  | .stB64 t a s o => some (put4 0x44000003 t.toNat 18 a.toNat 11 s.code 4 o.storeCode 2)
  | .ldB128 t a l s o => some (put5 0x46000000 t.toNat 18 a.toNat 11 l.toNat 7 s.code 4 o.loadCode 2)
  | .stB128 t a s o => some (put4 0x46000001 t.toNat 18 a.toNat 11 s.code 4 o.storeCode 2)
  | .atomAddI32 t a l s o => some (put5 0x48000000 t.toNat 18 a.toNat 12 l.toNat 7 s.code 4 o.atomCode 2)
  | .atomAndB32 t a l s o => some (put5 0x48000001 t.toNat 18 a.toNat 12 l.toNat 7 s.code 4 o.atomCode 2)
  | .atomOrB32 t a l s o => some (put5 0x48000002 t.toNat 18 a.toNat 12 l.toNat 7 s.code 4 o.atomCode 2)
  | .atomXorB32 t a l s o => some (put5 0x48000003 t.toNat 18 a.toNat 12 l.toNat 7 s.code 4 o.atomCode 2)
  | .atomMinI32 t a l s o => some (put5 0x48000800 t.toNat 18 a.toNat 12 l.toNat 7 s.code 4 o.atomCode 2)
  | .atomMaxI32 t a l s o => some (put5 0x48000801 t.toNat 18 a.toNat 12 l.toNat 7 s.code 4 o.atomCode 2)
  | .atomMinN32 t a l s o => some (put5 0x48000802 t.toNat 18 a.toNat 12 l.toNat 7 s.code 4 o.atomCode 2)
  | .atomMaxN32 t a l s o => some (put5 0x48000803 t.toNat 18 a.toNat 12 l.toNat 7 s.code 4 o.atomCode 2)
  | .atomExchB32 t a l s o => some (put5 0x4A000000 t.toNat 18 a.toNat 12 l.toNat 7 s.code 4 o.atomCode 2)
  | .atomCasB32 t a l s o => some (put5 0x4A000001 t.toNat 18 a.toNat 12 l.toNat 7 s.code 4 o.atomCode 2)
  | .atomFaddF32Rn t a l s o => some (put5 0x4A000002 t.toNat 18 a.toNat 12 l.toNat 7 s.code 4 o.atomCode 2)
  | .atomFadd2Bf16Rn t a l s o => some (put5 0x4A000003 t.toNat 18 a.toNat 12 l.toNat 7 s.code 4 o.atomCode 2)
  | .lds t a l w o => some (put5 0x4C000000 t.toNat 18 a.toNat 11 l.toNat 7 w.code 4 o.loadCode 2)
  | .sts t a w o => some (put4 0x4C000001 t.toNat 18 a.toNat 11 w.code 4 o.storeCode 2)
  | .ldSpecB32 t a l s => some (put4 0x4E000000 t.toNat 18 a.toNat 11 l.toNat 7 s.code 4)
  | .ldSpecB64 t a l s => some (put4 0x4E000001 t.toNat 18 a.toNat 11 l.toNat 7 s.code 4)
  | .chkB32 t a l s => some (put4 0x4E000002 t.toNat 18 a.toNat 11 l.toNat 7 s.code 4)
  | .chkB64 t a l s => some (put4 0x4E000003 t.toNat 18 a.toNat 11 l.toNat 7 s.code 4)
  | .fence s o => some (put2 0x50000000 s.code 4 o.fenceCode 2)
  | .fenceEng s => some (put1 0x50000001 s.code 4)
  | .cwb a s => some (put2 0x50000002 a.toNat 11 s.code 4)
  | .cinv a s => some (put2 0x50040002 a.toNat 11 s.code 4)
  | .cwbinv a s => some (put2 0x50080002 a.toNat 11 s.code 4)
  | .icinv a s => some (put2 0x500C0002 a.toNat 11 s.code 4)
  | .pfL1 a s => some (put2 0x50100002 a.toNat 11 s.code 4)
  | .pfL2 a s => some (put2 0x50140002 a.toNat 11 s.code 4)
  | .rgnConv t a => some (put2 0x50000003 t.toNat 18 a.toNat 11)
  | .qpushB32 q a => some (put2 0x58000000 q.toNat 18 a.toNat 11)
  | .qpushB64 q a => some (put2 0x58000001 q.toNat 18 a.toNat 11)
  | .qpopB32 d q l => some (put3 0x58000002 d.toNat 18 q.toNat 11 l.toNat 7)
  | .qpopB64 d q l => some (put3 0x58000003 d.toNat 18 q.toNat 11 l.toNat 7)
  | .qtryB32 d q l p => some (put4 0x58000004 d.toNat 18 q.toNat 11 l.toNat 7 p.toNat 4)
  | .qtryB64 d q l p => some (put4 0x58000005 d.toNat 18 q.toNat 11 l.toNat 7 p.toNat 4)
  | .bra o => some (put1 0x60000000 o.toNat 0)
  | .braT p o => some (put2 0x62000000 p.toNat 22 o.toNat 0)
  | .braF p o => some (put2 0x62200000 p.toNat 22 o.toNat 0)
  | .call o => some (put1 0x64000000 o.toNat 0)
  | .jmpi a => some (put1 0x66000000 a.toNat 11)
  | .calli a => some (put1 0x66000001 a.toNat 11)
  | .ret a => some (put1 0x66000002 a.toNat 11)
  | .barTeam => some (put0 0x68000000)
  | .barClu => some (put0 0x68000001)
  | .barNbArrive n => some (put1 0x68000002 n.toNat 4)
  | .barNbWait n => some (put1 0x68000003 n.toNat 4)
  | .spawn a b => some (put2 0x68000004 a.toNat 11 b.toNat 4)
  | .waitchild => some (put0 0x68000005)
  | .knop => some (put0 0x80000000)
  | .ksr d x => some (put2 0x80000001 d.toNat 19 x.toNat 13)
  | .kyield => some (put0 0x80000002)
  | .kaddB32 d a b => some (put3 0x82000000 d.toNat 19 a.toNat 13 b.toNat 7)
  | .ksubB32 d a b => some (put3 0x82000001 d.toNat 19 a.toNat 13 b.toNat 7)
  | .kmulLoB32 d a b => some (put3 0x82000002 d.toNat 19 a.toNat 13 b.toNat 7)
  | .kmulHiI32 d a b => some (put3 0x82000003 d.toNat 19 a.toNat 13 b.toNat 7)
  | .kmulHiN32 d a b => some (put3 0x82000004 d.toNat 19 a.toNat 13 b.toNat 7)
  | .kminI32 d a b => some (put3 0x82000005 d.toNat 19 a.toNat 13 b.toNat 7)
  | .kmaxI32 d a b => some (put3 0x82000006 d.toNat 19 a.toNat 13 b.toNat 7)
  | .kminN32 d a b => some (put3 0x82000007 d.toNat 19 a.toNat 13 b.toNat 7)
  | .kmaxN32 d a b => some (put3 0x82000008 d.toNat 19 a.toNat 13 b.toNat 7)
  | .kaddB64 d a b => some (put3 0x84000000 d.toNat 19 a.toNat 13 b.toNat 7)
  | .ksubB64 d a b => some (put3 0x84000001 d.toNat 19 a.toNat 13 b.toNat 7)
  | .kandB32 d a b => some (put3 0x86000000 d.toNat 19 a.toNat 13 b.toNat 7)
  | .korB32 d a b => some (put3 0x86000001 d.toNat 19 a.toNat 13 b.toNat 7)
  | .kxorB32 d a b => some (put3 0x86000002 d.toNat 19 a.toNat 13 b.toNat 7)
  | .kandnB32 d a b => some (put3 0x86000003 d.toNat 19 a.toNat 13 b.toNat 7)
  | .knotB32 d a => some (put2 0x86000004 d.toNat 19 a.toNat 13)
  | .kshlB32 d a b => some (put3 0x88000000 d.toNat 19 a.toNat 13 b.toNat 7)
  | .kshrN32 d a b => some (put3 0x88000001 d.toNat 19 a.toNat 13 b.toNat 7)
  | .kshrI32 d a b => some (put3 0x88000002 d.toNat 19 a.toNat 13 b.toNat 7)
  | .kpopcB32 d a => some (put2 0x8A000000 d.toNat 19 a.toNat 13)
  | .kclzB32 d a => some (put2 0x8A000001 d.toNat 19 a.toNat 13)
  | .kbfeN32 d a b => some (put3 0x8A000002 d.toNat 19 a.toNat 13 b.toNat 7)
  | .kbra o => some (put1 0x8C000000 o.toNat 0)
  | .kbrEqB32 a b o => some (put3 0x8C000400 a.toNat 19 b.toNat 13 o.toNat 0)
  | .kbrNeB32 a b o => some (put3 0x8C000800 a.toNat 19 b.toNat 13 o.toNat 0)
  | .kbrLtI32 a b o => some (put3 0x8C000C00 a.toNat 19 b.toNat 13 o.toNat 0)
  | .kbrGeI32 a b o => some (put3 0x8C001000 a.toNat 19 b.toNat 13 o.toNat 0)
  | .kbrLtN32 a b o => some (put3 0x8C001400 a.toNat 19 b.toNat 13 o.toNat 0)
  | .kbrGeN32 a b o => some (put3 0x8C001800 a.toNat 19 b.toNat 13 o.toNat 0)
  | .kaddi d a i => some (put3 0x90000000 d.toNat 19 a.toNat 13 i.toNat 0)
  | .kandi d a i => some (put3 0x92000000 d.toNat 19 a.toNat 13 i.toNat 0)
  | .kori d a i => some (put3 0x94000000 d.toNat 19 a.toNat 13 i.toNat 0)
  | .kxori d a i => some (put3 0x96000000 d.toNat 19 a.toNat 13 i.toNat 0)
  | .kmovi d i => some (put2 0x98000000 d.toNat 19 i.toNat 0)
  | .kshlori d a i => some (put3 0x9A000000 d.toNat 19 a.toNat 13 i.toNat 0)
  | .kshliB32 d a n => some (put3 0x9C000000 d.toNat 19 a.toNat 13 n.toNat 0)
  | .kshriN32 d a n => some (put3 0x9C000020 d.toNat 19 a.toNat 13 n.toNat 0)
  | .kshriI32 d a n => some (put3 0x9C000040 d.toNat 19 a.toNat 13 n.toNat 0)
  | .kldB32 t a l s o => some (put5 0xA0000000 t.toNat 19 a.toNat 13 l.toNat 9 s.code 6 o.loadCode 4)
  | .kstB32 t a s o => some (put4 0xA0000001 t.toNat 19 a.toNat 13 s.code 6 o.storeCode 4)
  | .kldB64 t a l s o => some (put5 0xA0000002 t.toNat 19 a.toNat 13 l.toNat 9 s.code 6 o.loadCode 4)
  | .kstB64 t a s o => some (put4 0xA0000003 t.toNat 19 a.toNat 13 s.code 6 o.storeCode 4)
  | .katomAddI32 t a l s o => some (put5 0xA2000000 t.toNat 19 a.toNat 13 l.toNat 9 s.code 6 o.atomCode 4)
  | .katomAndB32 t a l s o => some (put5 0xA2000001 t.toNat 19 a.toNat 13 l.toNat 9 s.code 6 o.atomCode 4)
  | .katomOrB32 t a l s o => some (put5 0xA2000002 t.toNat 19 a.toNat 13 l.toNat 9 s.code 6 o.atomCode 4)
  | .katomXorB32 t a l s o => some (put5 0xA2000003 t.toNat 19 a.toNat 13 l.toNat 9 s.code 6 o.atomCode 4)
  | .katomMinI32 t a l s o => some (put5 0xA2000004 t.toNat 19 a.toNat 13 l.toNat 9 s.code 6 o.atomCode 4)
  | .katomMaxI32 t a l s o => some (put5 0xA2000005 t.toNat 19 a.toNat 13 l.toNat 9 s.code 6 o.atomCode 4)
  | .katomMinN32 t a l s o => some (put5 0xA2000006 t.toNat 19 a.toNat 13 l.toNat 9 s.code 6 o.atomCode 4)
  | .katomMaxN32 t a l s o => some (put5 0xA2000007 t.toNat 19 a.toNat 13 l.toNat 9 s.code 6 o.atomCode 4)
  | .katomExchB32 t a l s o => some (put5 0xA2000008 t.toNat 19 a.toNat 13 l.toNat 9 s.code 6 o.atomCode 4)
  | .katomCasB32 t a l s o => some (put5 0xA2000009 t.toNat 19 a.toNat 13 l.toNat 9 s.code 6 o.atomCode 4)
  | .katomFaddF32Rn t a l s o => some (put5 0xA200000A t.toNat 19 a.toNat 13 l.toNat 9 s.code 6 o.atomCode 4)
  | .klaunch d a => some (put2 0xA4000000 d.toNat 19 a.toNat 13)
  | .kspawn a b => some (put2 0xA4000001 a.toNat 13 b.toNat 7)
  | .tld m s => some (put2 0xE0000000 m.toNat 18 s.toNat 9)
  | .tstBf16Rn c s h => some (put3 0xE0000001 c.toNat 21 s.toNat 9 h.toNat 5)
  | .tstF32 c s => some (put2 0xE0000002 c.toNat 21 s.toNat 9)
  | .tmmaW c m r s => some (put4 0xE2000000 c.toNat 21 m.toNat 18 r.toNat 17 s.toNat 9)
  | .tmmaS c m r s => some (put4 0xE2000001 c.toNat 21 m.toNat 18 r.toNat 17 s.toNat 9)
  | .tmmaI8 c m r s => some (put4 0xE2000002 c.toNat 21 m.toNat 18 r.toNat 17 s.toNat 9)
  | .tzero c => some (put1 0xE4000000 c.toNat 21)
  | .tewLd c s => some (put2 0xE4000001 c.toNat 21 s.toNat 9)
  | .tewAdd c s => some (put2 0xE4000021 c.toNat 21 s.toNat 9)
  | .tewMul c s => some (put2 0xE4000041 c.toNat 21 s.toNat 9)
  | .tewAddrow c s => some (put2 0xE4000061 c.toNat 21 s.toNat 9)
  | .tewMulrow c s => some (put2 0xE4000081 c.toNat 21 s.toNat 9)
  | .tewRelu c => some (put1 0xE40000A1 c.toNat 21)
  | .tewSq c => some (put1 0xE40000C1 c.toNat 21)
  | .tewTanh c => some (put1 0xE40000E1 c.toNat 21)
  | .tewNeg c => some (put1 0xE4000101 c.toNat 21)
  | .twait n => some (put1 0xE6000000 n.toNat 5)
  | .tsig n => some (put1 0xE6000001 n.toNat 5)
  | .tbar n => some (put1 0xE6000002 n.toNat 5)
  | .dtask n _ => some (put1 0xE8000000 n.toNat 5)
  | .recBeg _ _ _ _ => some 0xEA000000
  | .recEnd => some (put0 0xEA000001)
  | .reverse _ _ _ _ => some 0xEA000002
  | .rkLoad _ => none
  | .rkStore _ => none
  | .rkCopy _ => none
  | .rkGather _ => none
  | .rkScale _ => none
  | .pressCommand _ => none
  | .engineOperationComplete _ _ => none
  | .resultEntryWrite _ _ => none
  | .taskIssue _ _ => none
  | .lpSubmit _ _ => none
  | .launchRecordCheck _ => none
  | .dependencySatisfied _ _ => none
  | .leasingComplete _ _ => none
  | .teamPlacement _ _ => none
  | .childPlacement _ => none
  | .teamRetirement _ => none
  | .launchFlush _ _ => none
  | .launchSignalWrite _ _ => none
  | .atRootWrite _ _ => none
  | .atRootApply _ => none
  | .lpPreemptWrite _ _ => none
  | .preemptSaved _ => none
  | .lpResumeWrite _ _ => none
  | .vintageWrite _ _ _ => none
  | .registerWrite _ _ => none
  | .trapHandlerEntry _ _ => none
  | .teamHandlerEntry _ => none
  | .quantumRotation _ _ => none
  | .tokenWindowStart _ => none
  | .throttleScoreHalving _ => none
  | .settle _ => none
  | .snapshot _ => none
  | .strikeReport _ _ => none
  | .checkerMismatch _ _ _ => none
  | .uncorrectableError _ => none
  | .rds _ => none
  | .rdOwn _ => none
  | .ownNd _ => none
  | .upg _ => none
  | .atomReq _ => none
  | .gnt _ => none
  | .snpFwd _ => none
  | .snpOwn _ => none
  | .snpInv _ => none
  | .snpRcl _ => none
  | .snpAck _ => none
  | .snpData _ => none
  | .wbReq _ => none
  | .wbGnt _ => none
  | .wbData _ => none
  | .cleanEv _ => none
  | .cmp _ => none
  | .mir _ => none
  | .mirAck _ => none
  | .mirClr _ => none
  | .mark _ => none
  | .markAck _ => none
  | .nack _ => none
  | .dieDown _ => none
  | .rbReport _ _ => none
  | .takeReq _ => none
  | .sliceRebuildComplete _ => none
  | .snoopTimeout _ => none
  | .ddStateKill _ => none
  | .linkRateStep _ _ => none
  | .packageSnoopTimeout _ => none
  | .cxlSnpData _ _ => none
  | .cxlSnpInv _ _ => none
  | .cxlSnpCur _ _ => none
  | .hostMemAccess _ => none
  | .mgCtlGo _ => none
  | .pageMigrationComplete => none
  | .moveWindowEnd _ _ => none
  | .hkCtlWrite _ => none
  | .fabricNumApply => none
  | .tamperAlarm _ => none
  | .dieThrottle _ _ _ => none
  | .ioDie0ResetRelease => none
  | .firmwareVerifyDone => none
  | .selfTestPass _ => none
  | .serviceTransitionStart _ => none
  | .serviceTransitionEnd _ => none
  | .identify _ => none
  | .regRead _ => none
  | .regWrite _ => none
  | .powerStep _ => none
  | .fwWrite _ => none
  | .fwCommit _ => none
  | .attest _ => none
  | .sessionOpen _ => none
  | .sessionProve _ => none
  | .sessionClose _ => none
  | .sessionTimeout => none
  | .challengeExpiry => none
  | .illegalInstructionWord _ => none
  | .longLatencyResult _ _ _ => none
  | .groupSwap _ _ => none
  | .leaseDeclined _ _ => none
  | .applicationCoreAccess _ => none
  | .cxlH2dResponse _ _ _ _ => none
  | .backInvalidateResponse _ _ => none
  | .dieOvertemperature _ => none
  | .linkLevelRetry _ _ => none
  | .mladlithUnknownCode _ => none

/-- The extension words of a tile-stream instruction (R41). -/
def Instr.ext : Instr → List Word
  | .dtask _ e => e
  | .recBeg w1 w2 w3 w4 => [w1, w2, w3, w4]
  | .reverse w1 w2 w3 w4 => [w1, w2, w3, w4]
  | _ => []

/-- The words of a well-formed instruction, in stream order. -/
def encode (i : Instr) : Option (List Word) :=
  i.word.map fun w => BitVec.ofNat 32 w :: i.ext

end

end Sys2Proof
end

