-- ==== Sys2Proof/Machine/Float.lean ====
section
/-! DEFINITION. Floating-point arithmetic, minimum and maximum, sign operations, round to integral, compares, packed
forms and conversions of the lane set (R96, R97, R99 to R108). -/
namespace Sys2Proof.Machine
open Sys2Proof

/-- `FArith` of R99 on codes of a format; a subtraction flips the sign of its second operand first. -/
def fAdd (f : Fmt) (md : Rnd) (sat : Bool) (a b : Nat) : Nat := roundTo f md sat (FVal.add md (f.decode a) (f.decode b))
/-- The difference. -/
def fSub (f : Fmt) (md : Rnd) (sat : Bool) (a b : Nat) : Nat := roundTo f md sat (FVal.add md (f.decode a) (f.decode b).neg)
/-- The product. -/
def fMul (f : Fmt) (md : Rnd) (sat : Bool) (a b : Nat) : Nat := roundTo f md sat (FVal.mul (f.decode a) (f.decode b))

/-- `FFma` of R100: one rounding of the exact product plus the addend; `np` flips the product, `nd` the addend. -/
def fFma (f : Fmt) (md : Rnd) (sat np nd : Bool) (a b d : Nat) : Nat :=
  let x := f.decode a
  let z := f.decode d
  roundTo f md sat (FVal.add md (FVal.mul (if np then x.neg else x) (f.decode b)) (if nd then z.neg else z))

/-- A value is a NaN. -/
def FVal.isNan : FVal → Bool
  | .nan _ => true | .inf _ => false | .fin _ _ _ => false
/-- A value is a signalling NaN. -/
def FVal.isSnan : FVal → Bool
  | .nan q => !q | .inf _ => false | .fin _ _ _ => false
/-- The sign of a value. -/
def FVal.sign : FVal → Bool
  | .nan _ => false | .inf n => n | .fin n _ _ => n
/-- x < y with −0 below +0 (R101). -/
def FVal.below (x y : FVal) : Bool :=
  match FVal.cmp x y with
  | some .lt => true
  | some .eq => x.sign && !y.sign
  | some .gt => false
  | none => false

/-- `FMinMax` of R101. -/
def fMinMax (f : Fmt) (isMax num : Bool) (a b : Nat) : Nat :=
  let x := f.decode a
  let y := f.decode b
  let dn := f.nan.getD 0
  if num && (x.isSnan || y.isSnan) then dn
  else if x.isNan && y.isNan then dn
  else if x.isNan then (if num then b else dn)
  else if y.isNan then (if num then a else dn)
  else if isMax then (if y.below x then a else if x.below y then b else a)
  else (if x.below y then a else if y.below x then b else a)

/-- `RoundToInteger` of R103 and R106: the magnitude of the integer. -/
def roundInt (md : Rnd) (neg : Bool) (m : Nat) (e : Int) : Nat :=
  let (n, c, inexact) := quantise m e false 0
  if roundUp md neg n c inexact then n + 1 else n

/-- `frint` (R103) -/
def fRint (md : Rnd) (a : Nat) : Nat :=
  match Fmt.f32.decode a with
  | .nan _ => 0x7FC00000
  | .inf _ => a
  | .fin neg m e => if m = 0 then a else roundTo .f32 .rz false (.fin neg (roundInt md neg m e) 0)

/-- `FToInt` of R106. -/
def fToInt (signed : Bool) (md : Rnd) (a : Nat) : Word :=
  let lo : Int := if signed then -(2 ^ 31) else 0
  let hi : Int := if signed then 2 ^ 31 - 1 else 2 ^ 32 - 1
  match Fmt.f32.decode a with
  | .nan _ => 0
  | .inf neg => BitVec.ofInt 32 (if neg then lo else hi)
  | .fin neg m e =>
    let n : Int := if neg then -(roundInt md neg m e : Int) else roundInt md neg m e
    BitVec.ofInt 32 (min (max n lo) hi)

/-- The conditions of `fcmp` (R104), in minor order. -/
inductive FCond | eq | ne | lt | le | gt | ge | ord | uno
deriving DecidableEq, Repr

/-- Whether a compare holds (R104). -/
def fCompare (c : FCond) (a b : Nat) : Bool :=
  match FVal.cmp (Fmt.f32.decode a) (Fmt.f32.decode b), c with
  | none, .ne => true
  | none, .uno => true
  | none, _ => false
  | some o, .eq => o == .eq
  | some o, .ne => o != .eq
  | some o, .lt => o == .lt
  | some o, .le => o != .gt
  | some o, .gt => o == .gt
  | some o, .ge => o != .lt
  | some _, .ord => true
  | some _, .uno => false

/-- A conversion between formats (R107, R108). -/
def fConvert (src dst : Fmt) (md : Rnd) (sat : Bool) (a : Nat) : Nat := roundTo dst md sat (src.decode a)

/-- The elements of a register in halves (R59). -/
def halves (f : Nat → Nat → Nat) (a b : Word) : Word :=
  BitVec.ofNat 32 (f (a.toNat % 2 ^ 16) (b.toNat % 2 ^ 16) + 2 ^ 16 * f (a.toNat / 2 ^ 16) (b.toNat / 2 ^ 16))
/-- The same with the destination's elements read (R105). -/
def halves3 (f : Nat → Nat → Nat → Nat) (d a b : Word) : Word :=
  BitVec.ofNat 32 (f (a.toNat % 2 ^ 16) (b.toNat % 2 ^ 16) (d.toNat % 2 ^ 16)
    + 2 ^ 16 * f (a.toNat / 2 ^ 16) (b.toNat / 2 ^ 16) (d.toNat / 2 ^ 16))

/-- A two-operand FP32 form. -/
def laneF3 (d a b : BitVec 7) (f : Nat → Nat → Nat) (s : State) : Result :=
  lane3 d a b (fun x y => BitVec.ofNat 32 (f x.toNat y.toNat)) s
/-- An FP32 form with the addend in vd. -/
def laneFma (d a b : BitVec 7) (f : Nat → Nat → Nat → Nat) (s : State) : Result :=
  lane3d d a b (fun z x y => BitVec.ofNat 32 (f x.toNat y.toNat z.toNat)) s
/-- A one-operand form. -/
def laneF2 (d a : BitVec 7) (f : Nat → Nat) (s : State) : Result := lane2 d a (fun x => BitVec.ofNat 32 (f x.toNat)) s
/-- An FP32 compare (R104). -/
def laneFcmp (p : BitVec 3) (a b : BitVec 7) (c : FCond) (s : State) : Result :=
  laneCmp p a b (fun x y => fCompare c x.toNat y.toNat) s
/-- A packed pair result of 8-bit elements (R108). -/
def packBytes (f : Nat → Nat) (a b : Nat) : Nat := f a % 256 + 256 * (f b % 256)
/-- A packed pair result of 16-bit elements (R108). -/
def packHalves (f : Nat → Nat) (a b : Nat) : Nat := f a % 2 ^ 16 + 2 ^ 16 * (f b % 2 ^ 16)

/-- `fadd.f32` (R99) -/
def execFaddF32 (r : Rnd) (d a b : BitVec 7) (s : State) : Result := laneF3 d a b (fAdd .f32 r false) s
/-- `fsub.f32` (R99) -/
def execFsubF32 (r : Rnd) (d a b : BitVec 7) (s : State) : Result := laneF3 d a b (fSub .f32 r false) s
/-- `fmul.f32` (R99) -/
def execFmulF32 (r : Rnd) (d a b : BitVec 7) (s : State) : Result := laneF3 d a b (fMul .f32 r false) s
/-- `fadd.sat.f32` (R99) -/
def execFaddSatF32 (r : Rnd) (d a b : BitVec 7) (s : State) : Result := laneF3 d a b (fAdd .f32 r true) s
/-- `fsub.sat.f32` (R99) -/
def execFsubSatF32 (r : Rnd) (d a b : BitVec 7) (s : State) : Result := laneF3 d a b (fSub .f32 r true) s
/-- `fmul.sat.f32` (R99) -/
def execFmulSatF32 (r : Rnd) (d a b : BitVec 7) (s : State) : Result := laneF3 d a b (fMul .f32 r true) s
/-- `fma.f32` (R100) -/
def execFmaF32 (d a b : BitVec 7) (r : Rnd) (s : State) : Result := laneFma d a b (fFma .f32 r false false false) s
/-- `fms.f32` (R100) -/
def execFmsF32 (d a b : BitVec 7) (r : Rnd) (s : State) : Result := laneFma d a b (fFma .f32 r false false true) s
/-- `fnma.f32` (R100) -/
def execFnmaF32 (d a b : BitVec 7) (r : Rnd) (s : State) : Result := laneFma d a b (fFma .f32 r false true false) s
/-- `fma.sat.f32` (R100) -/
def execFmaSatF32 (d a b : BitVec 7) (r : Rnd) (s : State) : Result := laneFma d a b (fFma .f32 r true false false) s
/-- `fmin.f32` (R101) -/
def execFminF32 (d a b : BitVec 7) (s : State) : Result := laneF3 d a b (fMinMax .f32 false false) s
/-- `fmax.f32` (R101) -/
def execFmaxF32 (d a b : BitVec 7) (s : State) : Result := laneF3 d a b (fMinMax .f32 true false) s
/-- `fminnum.f32` (R101) -/
def execFminnumF32 (d a b : BitVec 7) (s : State) : Result := laneF3 d a b (fMinMax .f32 false true) s
/-- `fmaxnum.f32` (R101) -/
def execFmaxnumF32 (d a b : BitVec 7) (s : State) : Result := laneF3 d a b (fMinMax .f32 true true) s
/-- `fabs.f32` (R102) -/
def execFabsF32 (d a : BitVec 7) (s : State) : Result := lane2 d a (fun x => x &&& 0x7FFFFFFF) s
/-- `fneg.f32` (R102) -/
def execFnegF32 (d a : BitVec 7) (s : State) : Result := lane2 d a (fun x => x ^^^ 0x80000000) s
/-- `fcopysign.f32` (R102) -/
def execFcopysignF32 (d a b : BitVec 7) (s : State) : Result := lane3 d a b (fun x y => (x &&& 0x7FFFFFFF) ||| (y &&& 0x80000000)) s
/-- `frint.f32.rn` (R103) -/
def execFrintF32Rn (d a : BitVec 7) (s : State) : Result := laneF2 d a (fRint .rn) s
/-- `frint.f32.rz` (R103) -/
def execFrintF32Rz (d a : BitVec 7) (s : State) : Result := laneF2 d a (fRint .rz) s
/-- `frint.f32.rd` (R103) -/
def execFrintF32Rd (d a : BitVec 7) (s : State) : Result := laneF2 d a (fRint .rd) s
/-- `frint.f32.ru` (R103) -/
def execFrintF32Ru (d a : BitVec 7) (s : State) : Result := laneF2 d a (fRint .ru) s
/-- `frint.f32.rna` (R103) -/
def execFrintF32Rna (d a : BitVec 7) (s : State) : Result := laneF2 d a (fRint .rna) s
/-- `fcmp.eq.f32` (R104) -/
def execFcmpEqF32 (p : BitVec 3) (a b : BitVec 7) (s : State) : Result := laneFcmp p a b .eq s
/-- `fcmp.ne.f32` (R104) -/
def execFcmpNeF32 (p : BitVec 3) (a b : BitVec 7) (s : State) : Result := laneFcmp p a b .ne s
/-- `fcmp.lt.f32` (R104) -/
def execFcmpLtF32 (p : BitVec 3) (a b : BitVec 7) (s : State) : Result := laneFcmp p a b .lt s
/-- `fcmp.le.f32` (R104) -/
def execFcmpLeF32 (p : BitVec 3) (a b : BitVec 7) (s : State) : Result := laneFcmp p a b .le s
/-- `fcmp.gt.f32` (R104) -/
def execFcmpGtF32 (p : BitVec 3) (a b : BitVec 7) (s : State) : Result := laneFcmp p a b .gt s
/-- `fcmp.ge.f32` (R104) -/
def execFcmpGeF32 (p : BitVec 3) (a b : BitVec 7) (s : State) : Result := laneFcmp p a b .ge s
/-- `fcmp.ord.f32` (R104) -/
def execFcmpOrdF32 (p : BitVec 3) (a b : BitVec 7) (s : State) : Result := laneFcmp p a b .ord s
/-- `fcmp.uno.f32` (R104) -/
def execFcmpUnoF32 (p : BitVec 3) (a b : BitVec 7) (s : State) : Result := laneFcmp p a b .uno s
/-- `fadd.bf16x2.rn` (R105) -/
def execFaddBf16x2Rn (d a b : BitVec 7) (s : State) : Result := lane3 d a b (halves (fAdd .bf16 .rn false)) s
/-- `fmul.bf16x2.rn` (R105) -/
def execFmulBf16x2Rn (d a b : BitVec 7) (s : State) : Result := lane3 d a b (halves (fMul .bf16 .rn false)) s
/-- `fma.bf16x2.rn` (R105) -/
def execFmaBf16x2Rn (d a b : BitVec 7) (s : State) : Result := lane3d d a b (halves3 (fFma .bf16 .rn false false false)) s
/-- `fmin.bf16x2` (R105) -/
def execFminBf16x2 (d a b : BitVec 7) (s : State) : Result := lane3 d a b (halves (fMinMax .bf16 false false)) s
/-- `fmax.bf16x2` (R105) -/
def execFmaxBf16x2 (d a b : BitVec 7) (s : State) : Result := lane3 d a b (halves (fMinMax .bf16 true false)) s
/-- `fadd.f16x2.rn` (R105) -/
def execFaddF16x2Rn (d a b : BitVec 7) (s : State) : Result := lane3 d a b (halves (fAdd .f16 .rn false)) s
/-- `fmul.f16x2.rn` (R105) -/
def execFmulF16x2Rn (d a b : BitVec 7) (s : State) : Result := lane3 d a b (halves (fMul .f16 .rn false)) s
/-- `fma.f16x2.rn` (R105) -/
def execFmaF16x2Rn (d a b : BitVec 7) (s : State) : Result := lane3d d a b (halves3 (fFma .f16 .rn false false false)) s
/-- `fmin.f16x2` (R105) -/
def execFminF16x2 (d a b : BitVec 7) (s : State) : Result := lane3 d a b (halves (fMinMax .f16 false false)) s
/-- `fmax.f16x2` (R105) -/
def execFmaxF16x2 (d a b : BitVec 7) (s : State) : Result := lane3 d a b (halves (fMinMax .f16 true false)) s
/-- `cvt.f32.i32.rn` (R106) -/
def execCvtF32I32Rn (d a : BitVec 7) (s : State) : Result := lane2 d a (fun x => toF32 .rn false (FVal.ofInt x.toInt 0 false)) s
/-- `cvt.f32.n32.rn` (R106) -/
def execCvtF32N32Rn (d a : BitVec 7) (s : State) : Result := lane2 d a (fun x => toF32 .rn false (FVal.ofInt x.toNat 0 false)) s
/-- `cvt.i32.f32.rn` (R106) -/
def execCvtI32F32Rn (d a : BitVec 7) (s : State) : Result := lane2 d a (fun x => fToInt true .rn x.toNat) s
/-- `cvt.i32.f32.rz` (R106) -/
def execCvtI32F32Rz (d a : BitVec 7) (s : State) : Result := lane2 d a (fun x => fToInt true .rz x.toNat) s
/-- `cvt.i32.f32.rd` (R106) -/
def execCvtI32F32Rd (d a : BitVec 7) (s : State) : Result := lane2 d a (fun x => fToInt true .rd x.toNat) s
/-- `cvt.i32.f32.ru` (R106) -/
def execCvtI32F32Ru (d a : BitVec 7) (s : State) : Result := lane2 d a (fun x => fToInt true .ru x.toNat) s
/-- `cvt.n32.f32.rn` (R106) -/
def execCvtN32F32Rn (d a : BitVec 7) (s : State) : Result := lane2 d a (fun x => fToInt false .rn x.toNat) s
/-- `cvt.n32.f32.rz` (R106) -/
def execCvtN32F32Rz (d a : BitVec 7) (s : State) : Result := lane2 d a (fun x => fToInt false .rz x.toNat) s
/-- `cvt.n32.f32.rd` (R106) -/
def execCvtN32F32Rd (d a : BitVec 7) (s : State) : Result := lane2 d a (fun x => fToInt false .rd x.toNat) s
/-- `cvt.n32.f32.ru` (R106) -/
def execCvtN32F32Ru (d a : BitVec 7) (s : State) : Result := lane2 d a (fun x => fToInt false .ru x.toNat) s
/-- `cvt.f32.bf16` (R107) -/
def execCvtF32Bf16 (d a : BitVec 7) (s : State) : Result := laneF2 d a (fun x => fConvert .bf16 .f32 .rn false (x % 2 ^ 16)) s
/-- `cvt.f32.f16` (R107) -/
def execCvtF32F16 (d a : BitVec 7) (s : State) : Result := laneF2 d a (fun x => fConvert .f16 .f32 .rn false (x % 2 ^ 16)) s
/-- `cvt.bf16.f32.rn` (R107) -/
def execCvtBf16F32Rn (d a : BitVec 7) (s : State) : Result := laneF2 d a (fConvert .f32 .bf16 .rn false) s
/-- `cvt.bf16.f32.rz` (R107) -/
def execCvtBf16F32Rz (d a : BitVec 7) (s : State) : Result := laneF2 d a (fConvert .f32 .bf16 .rz false) s
/-- `cvt.f16.f32.rn` (R107) -/
def execCvtF16F32Rn (d a : BitVec 7) (s : State) : Result := laneF2 d a (fConvert .f32 .f16 .rn false) s
/-- `cvt.f16.f32.rz` (R107) -/
def execCvtF16F32Rz (d a : BitVec 7) (s : State) : Result := laneF2 d a (fConvert .f32 .f16 .rz false) s
/-- `cvt.e4m3x2.f32.rn` (R108) -/
def execCvtE4m3x2F32Rn (d a b : BitVec 7) (s : State) : Result := laneF3 d a b (packBytes (fConvert .f32 .e4m3 .rn false)) s
/-- `cvt.e4m3x2.f32.rn.sat` (R108) -/
def execCvtE4m3x2F32RnSat (d a b : BitVec 7) (s : State) : Result := laneF3 d a b (packBytes (fConvert .f32 .e4m3 .rn true)) s
/-- `cvt.e5m2x2.f32.rn` (R108) -/
def execCvtE5m2x2F32Rn (d a b : BitVec 7) (s : State) : Result := laneF3 d a b (packBytes (fConvert .f32 .e5m2 .rn false)) s
/-- `cvt.e5m2x2.f32.rn.sat` (R108) -/
def execCvtE5m2x2F32RnSat (d a b : BitVec 7) (s : State) : Result := laneF3 d a b (packBytes (fConvert .f32 .e5m2 .rn true)) s
/-- `cvt.bf16x2.f32.rn` (R108) -/
def execCvtBf16x2F32Rn (d a b : BitVec 7) (s : State) : Result := laneF3 d a b (packHalves (fConvert .f32 .bf16 .rn false)) s
/-- `cvt.f16x2.f32.rn` (R108) -/
def execCvtF16x2F32Rn (d a b : BitVec 7) (s : State) : Result := laneF3 d a b (packHalves (fConvert .f32 .f16 .rn false)) s
/-- `cvt.f16x2.e4m3x2` (R108) -/
def execCvtF16x2E4m3x2 (d a : BitVec 7) (s : State) : Result := laneF2 d a (fun x => packHalves (fConvert .e4m3 .f16 .rn false) (x % 256) (x / 256 % 256)) s
/-- `cvt.f16x2.e5m2x2` (R108) -/
def execCvtF16x2E5m2x2 (d a : BitVec 7) (s : State) : Result := laneF2 d a (fun x => packHalves (fConvert .e5m2 .f16 .rn false) (x % 256) (x / 256 % 256)) s

end Sys2Proof.Machine
end

