-- ==== Sys2Proof/Machine/Sfu.lean ====
section
/-! DEFINITION. The special-function unit (R109 to R111). Every function is computed in fixed point with 400 fraction
bits, over 190 bits more than the distance any FP32 argument's result keeps from a rounding boundary is known to need
(UNVERIFIED, log 5), and rounded once; quotients and roots are computed from exact integers. -/
namespace Sys2Proof.Machine
open Sys2Proof

/-- One in the fixed point of this file: 2^400. -/
def fxOne : Nat := 2 ^ 400
/-- π · 2^400, rounded down. -/
def fxPi : Nat :=
  0x3243f6a8885a308d313198a2e03707344a4093822299f31d0082efa98ec4e6c89452821e638d01377be5466cf34e90c6cc0ac
/-- ln 2 · 2^400, rounded down. -/
def fxLn2 : Nat :=
  0xb17217f7d1cf79abc9e3b39803f2f6af40f343267298b62d8a0d175b8baafa2be7b876206debac98559552fb4afa1b10ed2e
/-- The product of two fixed-point values. -/
def fxMul (a b : Nat) : Nat := a * b / fxOne

/-- Σ term_k with term_(k+1) = term_k · y / ((k+1)(k+2)), the signs alternating: the series of sine and cosine by even or
odd powers; `k` is the last factorial used. -/
def fxTrig : Nat → Nat → Nat → Nat → Int
  | 0, _, _, _ => 0
  | fuel + 1, y, term, k => (term : Int) - fxTrig fuel y (fxMul term y / ((k + 1) * (k + 2))) (k + 2)
/-- sin r for 0 ≤ r < π/2. -/
def fxSin (r : Nat) : Nat := (fxTrig 60 (fxMul r r) r 1).toNat
/-- cos r for 0 ≤ r < π/2. -/
def fxCos (r : Nat) : Nat := (fxTrig 60 (fxMul r r) fxOne 0).toNat
/-- Σ r^k / k!. -/
def fxExpSum : Nat → Nat → Nat → Nat → Nat
  | 0, _, _, _ => 0
  | fuel + 1, r, term, k => term + fxExpSum fuel r (fxMul term r / (k + 1)) (k + 1)
/-- e^r for 0 ≤ r < 1. -/
def fxExp (r : Nat) : Nat := fxExpSum 90 r fxOne 0
/-- Σ u^(2k+1) / (2k+1). -/
def fxAtanhSum : Nat → Nat → Nat → Nat → Nat
  | 0, _, _, _ => 0
  | fuel + 1, y, pow, k => pow / k + fxAtanhSum fuel y (fxMul pow y) (k + 2)
/-- log2 z for 1 ≤ z < 2. -/
def fxLog2 (z : Nat) : Nat :=
  let u := (z - fxOne) * fxOne / (z + fxOne)
  2 * fxAtanhSum 140 (fxMul u u) u 1 * fxOne / fxLn2

/-- A non-negative finite value in fixed point. -/
def fxOf (m : Nat) (e : Int) : Nat := if 0 ≤ e + 400 then m * 2 ^ (e + 400).toNat else m / 2 ^ (-(e + 400)).toNat
/-- A fixed-point result, known not to be exact, rounded to FP32. -/
def fxRound (neg : Bool) (y : Nat) : Nat := if y = 0 then Fmt.f32.withSign neg 0 else roundMag .f32 .rn false neg y (-400) true

/-- The quadrant of an angle in units of `quarter`, and the rest. -/
def quadrant (x quarter : Nat) : Nat × Nat := (x / quarter % 4, x % quarter)
/-- Half of π in fixed point with the fraction bits that keep a reduction of 2^128 exact to 270 bits. -/
def fxHalfPi : Nat := fxPi / 2
/-- |sin| of a quadrant and rest, with its sign. -/
def sinQuad (q r : Nat) : Bool × Nat :=
  match q with
  | 0 => (false, fxSin r) | 1 => (false, fxCos r) | 2 => (true, fxSin r) | _ => (true, fxCos r)
/-- |cos| of a quadrant and rest, with its sign. -/
def cosQuad (q r : Nat) : Bool × Nat :=
  match q with
  | 0 => (false, fxCos r) | 1 => (true, fxSin r) | 2 => (true, fxCos r) | _ => (false, fxSin r)

/-- The default NaN of FP32. -/
def nan32 : Nat := 0x7FC00000
/-- ±∞ and ±0 and ±1 of FP32. -/
def inf32 (neg : Bool) : Nat := Fmt.f32.withSign neg 0x7F800000
def zero32 (neg : Bool) : Nat := Fmt.f32.withSign neg 0
def one32 (neg : Bool) : Nat := Fmt.f32.withSign neg 0x3F800000

/-- `rcp.f32` (R109, R110) -/
def sfuRcp (a : Nat) : Nat :=
  match Fmt.f32.decode a with
  | .nan _ => nan32
  | .inf n => zero32 n
  | .fin n m e =>
    if m = 0 then inf32 n
    else roundMag .f32 .rn false n (2 ^ 400 / m) (-400 - e) (decide (2 ^ 400 % m ≠ 0))

/-- The floor of a square root, bit by bit: `k` bits of the root are still to be decided, `r` are. -/
def isqrt (n : Nat) : Nat → Nat → Nat
  | 0, r => r
  | k + 1, r => isqrt n k (if (r + 2 ^ k) * (r + 2 ^ k) ≤ n then r + 2 ^ k else r)

/-- The integer square root of m · 2^e, e made even, with 200 more bits: significand, exponent and whether a rest stays. -/
def rootParts (m : Nat) (e : Int) : Nat × Int × Bool :=
  let (m, e) := if e % 2 = 0 then (m, e) else (2 * m, e - 1)
  let r := isqrt (m * 2 ^ 400) 216 0
  (r, e / 2 - 200, decide (r * r ≠ m * 2 ^ 400))

/-- `sqrt.f32` (R109, R110) -/
def sfuSqrt (a : Nat) : Nat :=
  match Fmt.f32.decode a with
  | .nan _ => nan32
  | .inf n => if n then nan32 else inf32 false
  | .fin n m e =>
    if m = 0 then zero32 n else if n then nan32
    else let (r, g, st) := rootParts m e
      roundMag .f32 .rn false false r g st

/-- `rsqrt.f32` (R109, R110): the root of the reciprocal, in 400 bits -/
def sfuRsqrt (a : Nat) : Nat :=
  match Fmt.f32.decode a with
  | .nan _ => nan32
  | .inf n => if n then nan32 else zero32 false
  | .fin n m e =>
    if m = 0 then inf32 n else if n then nan32
    else
      let (m, e) := if e % 2 = 0 then (m, e) else (2 * m, e - 1)
      let r := isqrt (2 ^ 800 / m) 402 0
      roundMag .f32 .rn false false r (-400 - e / 2) (decide (r * r * m ≠ 2 ^ 800))

/-- The floor of a signed fixed-point value and its fraction. -/
def floorParts (neg : Bool) (x : Nat) : Int × Nat :=
  if neg then
    if x % fxOne = 0 then (-(x / fxOne : Nat), 0) else (-(x / fxOne : Nat) - 1, fxOne - x % fxOne)
  else ((x / fxOne : Nat), x % fxOne)

/-- `exp2.f32` (R109, R110) -/
def sfuExp2 (a : Nat) : Nat :=
  match Fmt.f32.decode a with
  | .nan _ => nan32
  | .inf n => if n then zero32 false else inf32 false
  | .fin n m e =>
    if m = 0 then one32 false
    else if 10 ≤ (Nat.log2 m : Int) + e then (if n then zero32 false else inf32 false)
    else
      let (k, f) := floorParts n (fxOf m e)
      if f = 0 then roundMag .f32 .rn false false 1 k false
      else roundMag .f32 .rn false false (fxExp (fxMul f fxLn2)) (k - 400) true

/-- `log2.f32` (R109, R110) -/
def sfuLog2 (a : Nat) : Nat :=
  match Fmt.f32.decode a with
  | .nan _ => nan32
  | .inf n => if n then nan32 else inf32 false
  | .fin n m e =>
    if m = 0 then inf32 true else if n then nan32
    else
      let k : Int := (Nat.log2 m : Int) + e
      let z := m * 2 ^ (400 - Nat.log2 m)
      if z = fxOne then roundTo .f32 .rn false (FVal.ofInt k 0 false)
      else
        let y : Int := k * (fxOne : Int) + (fxLog2 z : Int)
        fxRound (decide (y < 0)) y.natAbs

/-- `sin.f32` (R109 to R111) -/
def sfuSin (a : Nat) : Nat :=
  match Fmt.f32.decode a with
  | .nan _ => nan32
  | .inf _ => nan32
  | .fin n m e =>
    if m = 0 then zero32 n
    else
      let (q, r) := quadrant (fxOf m e) fxHalfPi
      let (g, y) := sinQuad q r
      fxRound (n != g) y

/-- `cos.f32` (R109 to R111) -/
def sfuCos (a : Nat) : Nat :=
  match Fmt.f32.decode a with
  | .nan _ => nan32
  | .inf _ => nan32
  | .fin _ m e =>
    if m = 0 then one32 false
    else
      let (q, r) := quadrant (fxOf m e) fxHalfPi
      let (g, y) := cosQuad q r
      fxRound g y

/-- `sinpi.f32` (R110, R111) -/
def sfuSinpi (a : Nat) : Nat :=
  match Fmt.f32.decode a with
  | .nan _ => nan32
  | .inf _ => nan32
  | .fin n m e =>
    let (q, r) := quadrant (fxOf m e) (fxOne / 2)
    if r = 0 then
      match q with
      | 0 => zero32 n | 1 => one32 n | 2 => zero32 n | _ => one32 (!n)
    else
      let (g, y) := sinQuad q (fxMul r fxPi)
      fxRound (n != g) y

/-- `cospi.f32` (R110, R111) -/
def sfuCospi (a : Nat) : Nat :=
  match Fmt.f32.decode a with
  | .nan _ => nan32
  | .inf _ => nan32
  | .fin _ m e =>
    let (q, r) := quadrant (fxOf m e) (fxOne / 2)
    if r = 0 then
      match q with
      | 0 => one32 false | 1 => zero32 false | 2 => one32 true | _ => zero32 false
    else
      let (g, y) := cosQuad q (fxMul r fxPi)
      fxRound g y

/-- `tanh.f32` (R109, R110): (E − 1) / (E + 1) with E = e^(2x); from 16 on it rounds to 1 -/
def sfuTanh (a : Nat) : Nat :=
  match Fmt.f32.decode a with
  | .nan _ => nan32
  | .inf n => one32 n
  | .fin n m e =>
    if m = 0 then zero32 n
    else if 4 ≤ (Nat.log2 m : Int) + e then one32 n
    else
      let t := 2 * fxOf m e * fxOne / fxLn2
      let ex := fxExp (fxMul (t % fxOne) fxLn2) * 2 ^ (t / fxOne)
      fxRound n ((ex - fxOne) * fxOne / (ex + fxOne))

/-- The team's SFU allowance lets an issue proceed (R188). -/
def Team.sfuMay (t : Team) : Bool := decide (t.sfuSpent < t.sfuTokens) || !t.sfuIssued

/-- An SFU instruction: each active thread's result becomes an outstanding one, and the team pays 4 tokens once for the
path (R109, R188). -/
def laneSfu (d a : BitVec 7) (l : BitVec 4) (f : Nat → Nat) (s : State) : Result :=
  match s.path? with
  | none => .refused .noIssuer
  | some c =>
    let r : Regs := { reads := [(a.toNat, 1)], writes := [(d.toNat, 1)] }
    if !r.ok c.group.regs then .next (s.trapPath c { code := 0x02 })
    else if c.poisoned r then .next (s.killGangOf c.team.id 0x11 0)
    else if !c.ready r then .next (s.noteMiss c r)
    else if !c.roomForOut || !c.team.sfuMay then .next s
    else
      let g := (c.group.mapAt c.ms fun i t => t.ask
        { dst := [vIndex c.group.handler d.toNat], look := l.toNat, kind := .ready [BitVec.ofNat 32 (f ((c.view i).v a.toNat).toNat)] }).issued c.lead
      .next ((s.putGroup c g).mapTeam c.team.id fun t => { t with sfuSpent := t.sfuSpent + 4, sfuIssued := true })

/-- `rcp.f32` (R109) -/
def execRcpF32 (d a : BitVec 7) (l : BitVec 4) (s : State) : Result := laneSfu d a l sfuRcp s
/-- `rsqrt.f32` (R109) -/
def execRsqrtF32 (d a : BitVec 7) (l : BitVec 4) (s : State) : Result := laneSfu d a l sfuRsqrt s
/-- `sqrt.f32` (R109) -/
def execSqrtF32 (d a : BitVec 7) (l : BitVec 4) (s : State) : Result := laneSfu d a l sfuSqrt s
/-- `exp2.f32` (R109) -/
def execExp2F32 (d a : BitVec 7) (l : BitVec 4) (s : State) : Result := laneSfu d a l sfuExp2 s
/-- `log2.f32` (R109) -/
def execLog2F32 (d a : BitVec 7) (l : BitVec 4) (s : State) : Result := laneSfu d a l sfuLog2 s
/-- `sin.f32` (R109) -/
def execSinF32 (d a : BitVec 7) (l : BitVec 4) (s : State) : Result := laneSfu d a l sfuSin s
/-- `cos.f32` (R109) -/
def execCosF32 (d a : BitVec 7) (l : BitVec 4) (s : State) : Result := laneSfu d a l sfuCos s
/-- `sinpi.f32` (R109) -/
def execSinpiF32 (d a : BitVec 7) (l : BitVec 4) (s : State) : Result := laneSfu d a l sfuSinpi s
/-- `cospi.f32` (R109) -/
def execCospiF32 (d a : BitVec 7) (l : BitVec 4) (s : State) : Result := laneSfu d a l sfuCospi s
/-- `tanh.f32` (R109) -/
def execTanhF32 (d a : BitVec 7) (l : BitVec 4) (s : State) : Result := laneSfu d a l sfuTanh s

end Sys2Proof.Machine
end

