-- ==== Sys2Proof/Machine/Convert.lean ====
section
/-! DEFINITION. The conversions of the Racking engine and the arithmetic of the Press: canonical elements (R71), block scales
(R64, R73), quantisation (R66, R72), the swizzle of a tile row (R70), Press opcodes (R266). -/
namespace Sys2Proof.Machine
open Sys2Proof

/-- The floating formats of R258, by code. -/
def engFmt : Nat → Option Fmt
  | 0 => some .f32 | 1 => some .bf16 | 2 => some .f16 | 3 => some .e4m3 | 4 => some .e5m2 | 5 => some .e3m2 | 6 => some .e2m3
  | 7 => some .e2m1 | _ => none
/-- A block-scaled format (R258). -/
def scaledFmt (fmt : Nat) : Bool := (decide (3 ≤ fmt) && decide (fmt ≤ 7)) || fmt == 9
/-- Element size for alignment (R259). -/
def elemSize (fmt : Nat) : Nat := if fmt = 0 then 4 else if fmt = 1 ∨ fmt = 2 then 2 else 1
/-- Bytes of a source row of a load (R258). -/
def loadRowBytes (fmt : Nat) : Nat :=
  match fmt with
  | 0 => 256 | 1 => 128 | 2 => 128 | 3 => 64 | 4 => 64 | 7 => 32 | 8 => 128 | 9 => 128 | _ => 0
/-- Bytes of a stored row (R260). -/
def storeRowBytes (fmt : Nat) : Nat :=
  match fmt with
  | 0 => 128 | 1 => 64 | 2 => 64 | 3 => 32 | 4 => 32 | 7 => 16 | 8 => 32 | 9 => 32 | _ => 0
/-- The largest exponent of a block-scaled format (R73). -/
def emax (fmt : Nat) : Int :=
  match fmt with
  | 3 => 8 | 4 => 15 | 5 => 4 | 6 => 2 | 7 => 2 | _ => 0

/-- Where logical byte `b` of a row lies in a tile (R70). -/
def tileOffset (row b : Nat) : Nat := row * 128 + (b / 16 ^^^ row % 8) * 16 + b % 16

/-- The canonical element of a source element with its block scale, and whether it counts as saturated (R71). An infinite E5M2 source in a
block whose scale is 0xFF matches two rows of R71's table; here it is 0x7FC0 and not counted (DESIGN CHOICE, log 55). -/
def canonicalElem (fmt bits : Nat) (scale : Byte) : Nat × Bool :=
  if fmt = 1 then (bits, false)
  else match engFmt fmt with
  | none => (bits, false)
  | some f =>
    if scaledFmt fmt && scale == 0xFF then (0x7FC0, false)
    else match f.decode bits with
    | .nan _ => (0x7FC0, false)
    | .inf neg => (Fmt.bf16.withSign neg 0x7F7F, true)
    | .fin neg m e =>
      let r := roundTo .bf16 .rn false (.fin neg m (if scaledFmt fmt then e + ((scale.toNat : Int) - 127) else e))
      if r % 0x8000 = 0x7F80 then (Fmt.bf16.withSign neg 0x7F7F, true) else (r, false)

/-- The same format with a wider exponent: its codes go on past the format's largest. -/
def Fmt.wide (f : Fmt) : Fmt := { f with exp := f.exp + 1, top := 2 ^ (f.exp + 1 + f.man) - 1, inf := false, nan := none }

/-- Magnitude of the difference of y · 64 = ± m · 2^e and an integer, in units of 2^q. -/
def sp2Gap (y : FVal) (v q : Int) : Nat :=
  match y with
  | .fin neg m e => (scaled neg m (e + 6) q - v * 2 ^ (-q).toNat).natAbs
  | _ => 0
/-- The terms of an SP2 code that are not zero. -/
def sp2Count (x : Byte) : Nat := (if x.toNat / 16 % 8 = 7 then 0 else 1) + (if x.toNat % 8 = 7 then 0 else 1)
/-- Code `a` is chosen before `b` for a value (R66): nearer, else of smaller magnitude, else of fewer terms, else the smaller
number. -/
def sp2Before (y : FVal) (q : Int) (a b : Nat) : Bool :=
  let key := fun (c : Nat) =>
    [sp2Gap y (sp2Value64 (BitVec.ofNat 8 c)) q, (sp2Value64 (BitVec.ofNat 8 c)).natAbs, sp2Count (BitVec.ofNat 8 c), c]
  decide (key a < key b)
/-- The SP2 code of a finite value clamped to [−2, 2], and whether it was clamped (R66). -/
def quantiseSp2 (neg : Bool) (m : Nat) (e : Int) : Nat × Bool :=
  let y : FVal := .fin neg m e
  let big := FVal.cmp (.fin false m e) (.fin false 2 0) == some .gt
  let y' := if big then .fin neg 2 0 else y
  let q := min (e + 6) 0
  ((List.range 256).foldl (fun best c => if sp2Before y' q c best then c else best) 0x77, big)

/-- A stored element (R72): its code and whether it counts as saturated; `k` is the exponent of its block's scale. -/
def quantised (fmt : Nat) (x : Word) (k : Int) : Nat × Bool :=
  let v := f32 x
  if fmt = 0 then (x.toNat, false)
  else if fmt = 8 then
    match v with
    | .nan _ => (0, true)
    | .inf neg => (if neg then 0x80 else 0x7F, true)
    | .fin neg m e =>
      let n := roundInt .rn neg m e
      if neg then (if 128 < n then (0x80, true) else ((256 - n) % 256, false)) else if 127 < n then (0x7F, true) else (n, false)
  else if fmt = 9 then
    match v with
    | .nan _ => (0x77, true)
    | .inf neg => ((quantiseSp2 neg 2 0).1, true)
    | .fin neg m e => quantiseSp2 neg m (e - k)
  else match engFmt fmt with
  | none => (0, false)
  | some f =>
    if fmt < 3 then
      let r := roundTo f .rn false v
      (r, match v with
        | .fin _ _ _ => f.decode r == .inf false || f.decode r == .inf true
        | _ => false)
    else match v with
    | .nan _ => (f.nan.getD 0, true)
    | .inf neg => (f.withSign neg f.top, true)
    | .fin neg m e =>
      (roundTo f .rn true (.fin neg m (e - k)), decide (f.top < roundTo f.wide .rn false (.fin false m (e - k))))

/-- The exponent of a block's scale (R73): of its largest finite magnitude, less the format's largest exponent. -/
def blockExp (fmt : Nat) (block : List Word) : Int :=
  let log := fun (x : Word) => match f32 x with
    | .fin _ m e => if m = 0 then none else some ((Nat.log2 m : Int) + e)
    | _ => none
  match (block.filterMap log) with
  | [] => -127
  | a :: r => max (-127) (r.foldl max a - emax fmt)
/-- The scale byte (R73). -/
def scaleByte (e : Int) : Byte := BitVec.ofNat 8 (e + 127).toNat

/-! ### The Press (R266) -/

/-- One opcode on the running value, with stream B's element and the constant (R266). -/
def pressOp (op : Nat) (x b c : Word) : Word :=
  let w := fun (n : Nat) => BitVec.ofNat 32 n
  match op with
  | 1 => addRn x b
  | 2 => mulRn x b
  | 3 => addRn x c
  | 4 => mulRn x c
  | 5 => w (fFma .f32 .rn false false false x.toNat c.toNat b.toNat)
  | 6 => w (fMinMax .f32 true true x.toNat c.toNat)
  | 7 => w (fMinMax .f32 false true x.toNat c.toNat)
  | 8 => x &&& 0x7FFFFFFF
  | 9 => x ^^^ 0x80000000
  | 10 => mulRn x x
  | 11 => w (sfuExp2 x.toNat)
  | 12 => w (sfuRcp x.toNat)
  | 13 => w (sfuRsqrt x.toNat)
  | 14 => w (sfuTanh x.toNat)
  | _ => x

/-- A chain of opcodes with their constants (R267). -/
def pressChain (ops : List (Nat × Word)) (b x : Word) : Word := ops.foldl (fun x o => pressOp o.1 x b o.2) x

/-- An element of a stream: BF16 is converted as `cvt.f32.bf16` does (R267, R107). -/
def streamElem (fmt : Nat) (bytes : List Byte) : Word :=
  if fmt = 1 then BitVec.ofNat 32 (fConvert .bf16 .f32 .rn false (leNat bytes)) else BitVec.ofNat 32 (leNat bytes)
/-- The bytes of a result (R267). -/
def streamBytes (fmt : Nat) (x : Word) : List Byte :=
  if fmt = 1 then leBytes 2 (toBf16 .rn (f32 x)).toNat else leBytes 4 x.toNat

end Sys2Proof.Machine
end

