-- ==== Sys2Proof/Machine/Log.lean ====
section
/-! DEFINITION. The log of record mode (R299, R303 to R306): the layout of a record, its operand entries, and the queue of
writes a Cooper has still to make. -/
namespace Sys2Proof.Machine
open Sys2Proof

/-- Pieces of consecutive bytes from address `a + off` that each lie in one 128-byte line: offset, bytes. -/
def linePieces (a : Nat) : Nat → Nat → List Byte → List (Nat × List Byte)
  | 0, _, _ => []
  | fuel + 1, off, bs =>
    let n := 128 - (a + off) % 128
    if bs.isEmpty then [] else (off, bs.take n) :: linePieces a fuel (off + n) (bs.drop n)

/-- Bytes a Cooper is to write from an address upward, after those it is to write already. -/
def Team.pendWrite (t : Team) (a : DWord) (bs : List Byte) : Team :=
  let ps := (linePieces a.toNat (bs.length / 128 + 2) 0 bs).map fun p => (a + BitVec.ofNat 64 p.1, p.2)
  { t with log := { t.log with pend := t.log.pend ++ ps } }

/-- Rounded up to 16. -/
def pad16 (n : Nat) : Nat := (n + 15) / 16 * 16
/-- Bytes with zeros up to a multiple of 16. -/
def padded (bs : List Byte) : List Byte := bs ++ List.replicate (pad16 bs.length - bs.length) 0
/-- The bytes of words. -/
def wordsBytes (ws : List Word) : List Byte := ws.flatMap fun w => leBytes 4 w.toNat

/-- An operand of a recorded operation (R306). -/
inductive Opnd
  | unneeded
  | copy (bs : List Byte)
  | recompute (rec : VAddr)
deriving DecidableEq, Repr

/-- The 64-bit address of a virtual address. -/
def full (a : VAddr) : DWord := a.signExtend 64

/-- Operand entries, with the offset the next copy stands at (R305). -/
def opndEntries : Nat → List Opnd → List DWord
  | _, [] => []
  | off, .unneeded :: r => 0 :: opndEntries off r
  | off, .copy bs :: r => BitVec.ofNat 64 (2 ^ 62 + off) :: opndEntries (off + pad16 bs.length) r
  | off, .recompute a :: r => BitVec.ofNat 64 (2 ^ 63 + a.toNat) :: opndEntries off r

/-- The saved copies, in operand order. -/
def opndCopies (os : List Opnd) : List Byte := os.flatMap fun o => match o with
  | .copy bs => padded bs
  | .unneeded => []
  | .recompute _ => []

/-- The size of a record (R305). -/
def recordSize (copied : List Word) (os : List Opnd) : Nat := 64 + pad16 (4 * copied.length) + (opndCopies os).length

/-- A record (R305). The size of one of more than 65,535 units is written modulo 2^16 (DESIGN CHOICE, log 64). -/
def recordBytes (word seq : Word) (policy : Byte) (prev : DWord) (copied : List Word) (os : List Opnd) : List Byte :=
  leBytes 4 word.toNat ++ leBytes 4 (recordSize copied os / 16 % 2 ^ 16) ++ leBytes 4 seq.toNat
    ++ leBytes 4 (copied.length % 256 + 2 ^ 24 * policy.toNat) ++ leBytes 8 prev.toNat ++ leBytes 8 0
    ++ ((opndEntries (64 + pad16 (4 * copied.length)) (os ++ List.replicate (4 - os.length) .unneeded)).flatMap fun e => leBytes 8 e.toNat)
    ++ padded (wordsBytes copied) ++ opndCopies os

/-- A reserved record is written: it takes the next sequence number and becomes the last (R304). -/
def Team.appendRecord (t : Team) (place : VAddr) (word : Word) (copied : List Word) (os : List Opnd) : Team :=
  let l := t.log
  let t := { t with log := { l with count := l.count + 1, last := place } }
  t.pendWrite (full place) (recordBytes word (l.count + 1) l.policy (full l.last) copied os)

/-- A record's space, reserved at the pointer (R303). -/
def Team.reserve (t : Team) (u : Nat) : Team := { t with log := { t.log with ptr := t.log.ptr + BitVec.ofNat 56 u } }
/-- The log has room for a record of `u` bytes (R303). -/
def Team.logRoom (t : Team) (u : Nat) : Bool := decide (t.log.ptr.toNat + u ≤ t.log.lim.toNat)

end Sys2Proof.Machine
end

