-- ==== Sys2Proof/Machine/Scratch.lean ====
section
/-! DEFINITION. Scratchpad loads and stores (R123, R203, R204, R348). -/
namespace Sys2Proof.Machine
open Sys2Proof

/-- Bytes of a width (R39). -/
def LpWidth.bytes : LpWidth → Nat
  | .n8 => 1 | .i8 => 1 | .n16 => 2 | .i16 => 2 | .b32 => 4 | .b64 => 8 | .b128 => 16
/-- A load of the width extends the sign. -/
def LpWidth.signed : LpWidth → Bool
  | .i8 => true | .i16 => true | .n8 => false | .n16 => false | .b32 => false | .b64 => false | .b128 => false
/-- Registers the width takes. -/
def LpWidth.span (w : LpWidth) : Nat := (LpWidth.bytes w + 3) / 4

/-- What the checks of a scratch access say: the member's team (none where it is gone) and the offset, or a trap. -/
inductive ScratchAt
  | at (member : Option Nat) (own : Bool) (off : Nat)
  | trap (i : TrapInfo)
deriving DecidableEq, Repr

/-- The checks of R123 in order. A spawned child addresses only its own scratchpad (R162); a load from a member that is gone
traps (R203). -/
def State.checkScratch (s : State) (t : Team) (sa : Word) (n : Nat) (store : Bool) : ScratchAt :=
  let tv : VAddr := sa.setWidth 56
  let mem := if sa.toNat / 2 ^ 28 = 15 then t.member else sa.toNat / 2 ^ 28
  let off := sa.toNat % 2 ^ 28
  let own := mem == t.member
  let who := if own then some t.id else (s.member? (t.ref mem)).map (·.id)
  if !own && (t.parent.isSome || decide (s.clusterSize t ≤ mem)) then .trap { code := 0x06, tval := tv }
  else if t.scratchBytes < off + n then .trap { code := 0x06, tval := tv }
  else if off % n ≠ 0 then .trap { code := 0x03, tval := tv }
  else match who with
    | none => if store then .at none own off else .trap { code := 0x06, tval := tv }
    | some id => if s.rangeLocked t.core true id off n store then .trap { code := 0x07, tval := tv } else .at (some id) own off

/-- The words that byte writes touch. -/
def touchedWords (bs : List (Nat × Byte)) : List Nat := (bs.map fun b => b.1 / 4).eraseDups

/-- The latest write of some of the words on their own core has not settled (R348). -/
def State.scratchUnsettled (s : State) (team off n : Nat) : Bool :=
  match s.team? team with
  | none => false
  | some t => (s.core t.core).buffer.any fun e => match e.eff with
    | .own tm ws => tm == team && ws.any fun w => overlaps off (off + n) (4 * w) (4 * w + 4)
    | _ => false

/-- A store of the core to bytes of another member has not been written there yet (R121, R203). -/
def State.remotePending (s : State) (core team off n : Nat) : Bool :=
  (s.core core).buffer.any fun e => match e.eff with
    | .remoteScratch rcv bs _ => ((s.member? rcv).map (·.id)) == some team && bs.any fun b => decide (off ≤ b.1) && decide (b.1 < off + n)
    | _ => false

/-- Some of the bytes are poisoned (R356). -/
def Team.scratchBad (t : Team) (off n : Nat) : Bool := t.scratchPoison.any fun w => overlaps off (off + n) (4 * w) (4 * w + 4)

/-- The scratch address of the first poisoned word among the bytes, in the member that `at'` names (R123, R357). -/
def Team.badScratch (t : Team) (at' off n : Nat) : VAddr :=
  BitVec.ofNat 56 (at' * 2 ^ 28 + 4 * (((List.range (off % 4 + n)).find? fun i => t.scratchPoison.contains ((off / 4 * 4 + i) / 4)).map fun i => (off / 4 * 4 + i) / 4).getD (off / 4))

/-- Words of a scratchpad as a load of `n` bytes at `off` reads them. -/
def Team.scratchWords (t : Team) (off n : Nat) : List Word := (accessWords off n).map fun w => t.scratch.word (4 * w)

/-- A scratch access of one thread. -/
structure ScratchSpot where
  pos : Nat
  rcv : Option Nat
  own : Bool
  off : Nat

/-- The shape of a scratch access (R123): `f` performs the accesses that passed their checks; none where the path must wait. -/
def scratchAccess (r : Regs) (a n : Nat) (store : Bool) (o : MemOrder)
    (f : State → Ctx → List ScratchSpot → Option (State × (Nat → Thread → Thread))) (s : State) : Result :=
  match s.path? with
  | none => .refused .noIssuer
  | some c =>
    if !r.ok c.group.regs then .next (s.trapPath c { code := 0x02 })
    else if c.poisoned r then .next (s.killGangOf c.team.id 0x11 0)
    else if !c.ready r then .next (s.noteMiss c r)
    else if !store && !c.roomForOut then .next s
    else if !s.orderMay c o .clu store then .next (s.orderWait c o .clu)
    else
      let at' := fun i => s.checkScratch c.team ((c.view i).v a) n store
      let spots := c.ms.filterMap fun i => match at' i with
        | .at m own off => some { pos := i, rcv := m, own := own, off := off }
        | .trap _ => none
      let faults := c.ms.filterMap fun i => match at' i with
        | .trap info => some { pos := i, info := info, epc := (c.group.thread i).pc }
        | .at _ _ _ => none
      match f s c spots with
      | none => .next s
      | some (s', upd) =>
        .next ((s'.mapGroup c.team.id c.group.idx fun g => (g.mapAt (spots.map (·.pos)) upd).issued c.lead).takeTraps c.team.id c.group.idx faults)

/-- `lds` (R123): a read of another member waits until the bytes have settled there and the core's own stores to them have
arrived; a poisoned word kills the gang when it is delivered (R356) -/
def execLds (t a : BitVec 7) (l : BitVec 4) (w : LpWidth) (o : MemOrder) (s : State) : Result :=
  let n := LpWidth.bytes w
  scratchAccess { reads := [(a.toNat, 1)], writes := [(t.toNat, LpWidth.span w)] } a.toNat n false o
    (fun s c xs =>
      if xs.any fun x => !x.own && (s.scratchUnsettled (x.rcv.getD 0) x.off n || s.remotePending c.team.core (x.rcv.getD 0) x.off n) then none
      else
        let kind := fun (x : ScratchSpot) => match s.team? (x.rcv.getD 0) with
          | some m => if m.scratchBad x.off n then OutKind.poisoned (m.badScratch (((c.view x.pos).v a.toNat).toNat / 2 ^ 28) x.off n)
              else .ready (loadValue x.off n (LpWidth.signed w) (m.scratchWords x.off n))
          | none => .ready []
        some (s, fun i u =>
          match xs.find? fun x => x.pos == i with
          | some x => Thread.ask { u with spec := if MemOrder.acquires o then [] else u.spec }
              { dst := operandIdx c.group.handler (t.toNat, LpWidth.span w), look := l.toNat, acquire := MemOrder.acquires o,
                ext := !x.own, kind := kind x }
          | none => u)) s

/-- `sts` (R123, R347): into the own scratchpad at once; to another member as an outgoing effect, one entry for each line -/
def execSts (t a : BitVec 7) (w : LpWidth) (o : MemOrder) (s : State) : Result :=
  let n := LpWidth.bytes w
  scratchAccess { reads := [(a.toNat, 1), (t.toNat, LpWidth.span w)] } a.toNat n true o
    (fun s c xs =>
      let memOf := fun (x : ScratchSpot) =>
        let m := ((c.view x.pos).v a.toNat).toNat / 2 ^ 28
        if m = 15 then c.team.member else m
      let bytesOf := fun (ys : List ScratchSpot) => ys.flatMap fun x => storeBytes x.off n ((c.view x.pos).words t.toNat (LpWidth.span w))
      let keys := (xs.map fun x => (memOf x, x.off / 128)).eraseDups
      if s.room c.team.core < keys.length then none
      else
        let s := keys.foldl (fun s k =>
          let ys := xs.filter fun x => memOf x == k.1 && x.off / 128 == k.2
          let bs := bytesOf ys
          if k.1 = c.team.member then
            (s.mapTeam c.team.id fun tm => tm.setScratch bs).produce c.team.core c.team.id (.own c.team.id (touchedWords bs))
          else s.produce c.team.core c.team.id (.remoteScratch (c.team.ref k.1) bs ys.length)) s
        some (s, fun _ u => Thread.next (Thread.tick { u with spec := if o == MemOrder.sc then [] else u.spec }))) s

end Sys2Proof.Machine
end

