-- ==== Sys2Proof/Machine/Engines.lean ====
section
/-! DEFINITION. The Racking channels and the Press (R252 to R270, R360): parsing a command, the checks of R255 in order, the
range-lock table, reading the sources, the writes in address order, write pointers, the signal future, result entries. -/
namespace Sys2Proof.Machine
open Sys2Proof

/-! ### Ranges of a command -/

/-- What an address of a command names. -/
inductive Place | global | scratch | slot
deriving DecidableEq, Repr

/-- A range a command reads or writes (R268): where, from which address or slot, how many bytes, as a destination or not. -/
structure Range where
  place : Place
  base : DWord
  len : Nat
  dest : Bool
deriving DecidableEq, Repr

/-- Bit `i` of a word. -/
def bit (w : Word) (i : Nat) : Bool := w.getLsbD i
/-- The address in words `i` and `i + 1` of a command (R255). -/
def addrAt (ws : List Word) (i : Nat) : DWord := joinWords (ws.getD i 0) (ws.getD (i + 1) 0)
/-- A word of a command as a number. -/
def numAt (ws : List Word) (i : Nat) : Nat := (ws.getD i 0).toNat
/-- A field of word 0. -/
def field0 (ws : List Word) (hi lo : Nat) : Nat := nbits (numAt ws 0) hi lo
/-- An address space by its bit. -/
def placeOf (scr : Bool) : Place := if scr then .scratch else .global
/-- The high word of a scratch address is 0 (R255). -/
def highOk (scr : Bool) (a : DWord) : Bool := !scr || decide (a.toNat < 2 ^ 32)

/-- The fixed words of a command by its code (R259 to R265). -/
def fixedWords : Nat → Option Nat
  | 1 => some 9 | 2 => some 9 | 3 => some 9 | 4 => some 11 | 5 => some 4 | 0x10 => some 12 | _ => none
/-- The words of a command that begins with `w`, if its code is one of the engine's (R255). -/
def commandLength (press : Bool) (w : Word) : Option Nat :=
  if (w.toNat / 2 ^ 24 == 0x10) != press then none
  else (fixedWords (w.toNat / 2 ^ 24)).map fun n => if bit w 23 then n + 2 else n

/-- Checks 2 and 3 of `rk.load`, and its ranges (R259). The three destination slots of SP2 are three ranges (DESIGN CHOICE, log 61). -/
def parseLoad (ws : List Word) : Except Nat (List Range) :=
  let fmt := field0 ws 21 18
  let scr := bit (ws.getD 0 0) 22
  let src := addrAt ws 1
  let scale := addrAt ws 5
  let q := addrAt ws 7
  let pitch := numAt ws 3
  let sp := numAt ws 4
  let fp6 := fmt == 5 || fmt == 6
  if field0 ws 17 16 ≠ 0 ∨ field0 ws 7 0 ≠ 0 ∨ 9 < fmt ∨ (!fp6 ∧ q ≠ 0) ∨ !(highOk scr src && highOk scr scale && highOk scr q) then .error 2
  else if (scaledFmt fmt != (scale != 0)) || (fp6 && (src.toNat % 32 != 0 || q.toNat % 16 != 0 || pitch != 0))
      || (!fp6 && (src.toNat % elemSize fmt != 0 || pitch % elemSize fmt != 0)) then .error 3
  else
    let p := placeOf scr
    let sources : List Range :=
      if fp6 then [⟨p, src, 1024, false⟩, ⟨p, q, 512, false⟩]
      else if fmt = 9 then [⟨p, src, 63 * pitch + 128, false⟩]
      else [⟨p, src, 31 * pitch + loadRowBytes fmt, false⟩]
    let scales : List Range :=
      if fmt = 9 then [⟨p, scale, sp + 128, false⟩] else if scaledFmt fmt then [⟨p, scale, 31 * sp + 2, false⟩] else []
    .ok (sources ++ scales ++ (List.range (if fmt = 9 then 3 else 1)).map fun k => ⟨.slot, BitVec.ofNat 64 (field0 ws 15 8 + k), 4096, true⟩)

/-- The scale range of a store. -/
def scaleRange (p : Place) (fmt axis : Nat) (scale : DWord) (sp : Nat) : List Range :=
  if scaledFmt fmt then [⟨p, scale, if axis = 0 then 31 * sp + 1 else 32, true⟩] else []

/-- Checks 2 and 3 of `rk.store`, and its ranges (R260). -/
def parseStore (ws : List Word) : Except Nat (List Range) :=
  let fmt := field0 ws 21 18
  let scr := bit (ws.getD 0 0) 22
  let dst := addrAt ws 1
  let scale := addrAt ws 5
  let q := addrAt ws 7
  let pitch := numAt ws 3
  let fp6 := fmt == 5 || fmt == 6
  if field0 ws 12 0 ≠ 0 ∨ 9 < fmt ∨ (!fp6 ∧ q ≠ 0) ∨ !(highOk scr dst && highOk scr scale && highOk scr q) then .error 2
  else if (scaledFmt fmt != (scale != 0)) || (fp6 && (dst.toNat % 32 != 0 || q.toNat % 16 != 0 || pitch != 0))
      || (!fp6 && (dst.toNat % elemSize fmt != 0 || pitch % elemSize fmt != 0)) then .error 3
  else
    let p := placeOf scr
    .ok (scaleRange p fmt (field0 ws 17 17) scale (numAt ws 4) ++
      (if fp6 then [⟨p, dst, 512, true⟩, ⟨p, q, 256, true⟩] else [⟨p, dst, 31 * pitch + storeRowBytes fmt, true⟩]))

/-- Checks 2 and 3 of `rk.scale`, and its range (R261). -/
def parseScale (ws : List Word) : Except Nat (List Range) :=
  let fmt := field0 ws 21 18
  let scr := bit (ws.getD 0 0) 22
  let scale := addrAt ws 2
  if field0 ws 12 0 ≠ 0 ∨ !scaledFmt fmt ∨ !highOk scr scale then .error 2
  else .ok (scaleRange (placeOf scr) fmt (field0 ws 17 17) scale (numAt ws 1))

/-- Checks 2 and 3 of `rk.copy`, and its ranges (R262). -/
def parseCopy (ws : List Word) : Except Nat (List Range) :=
  let ss := bit (ws.getD 0 0) 22
  let ds := bit (ws.getD 0 0) 21
  let src := addrAt ws 1
  let dst := addrAt ws 3
  let rb := numAt ws 5
  let rows := numAt ws 6
  let sst := numAt ws 7
  let dstr := numAt ws 8
  if field0 ws 20 0 ≠ 0 ∨ rb < 4 ∨ 1048576 < rb ∨ rows < 1 ∨ 65536 < rows ∨ !(highOk ss src && highOk ds dst) then .error 2
  else if rb % 4 ≠ 0 ∨ sst % 4 ≠ 0 ∨ dstr % 4 ≠ 0 ∨ src.toNat % 4 ≠ 0 ∨ dst.toNat % 4 ≠ 0 ∨ (1 < rows ∧ dstr < rb) then .error 3
  else .ok [⟨placeOf ss, src, (rows - 1) * sst + rb, false⟩, ⟨placeOf ds, dst, (rows - 1) * dstr + rb, true⟩]

/-- Checks 2 and 3 of `rk.gather`, and its ranges (R263). -/
def parseGather (ws : List Word) : Except Nat (List Range) :=
  let ss := bit (ws.getD 0 0) 22
  let ds := bit (ws.getD 0 0) 21
  let xs := bit (ws.getD 0 0) 20
  let src := addrAt ws 1
  let dst := addrAt ws 3
  let idx := addrAt ws 5
  let rb := numAt ws 7
  let rows := numAt ws 8
  let sst := numAt ws 9
  let srows := numAt ws 10
  if field0 ws 19 0 ≠ 0 ∨ rb < 4 ∨ 65536 < rb ∨ rows < 1 ∨ 65536 < rows ∨ srows < 1
      ∨ !(highOk ss src && highOk ds dst && highOk xs idx) then .error 2
  else if rb % 4 ≠ 0 ∨ sst % 4 ≠ 0 ∨ src.toNat % 4 ≠ 0 ∨ dst.toNat % 4 ≠ 0 ∨ idx.toNat % 4 ≠ 0 then .error 3
  else .ok [⟨placeOf ss, src, (srows - 1) * sst + rb, false⟩, ⟨placeOf xs, idx, 4 * rows, false⟩, ⟨placeOf ds, dst, rows * rb, true⟩]

/-- A slot byte of a Press chain (R265). -/
def pressSlot (ws : List Word) (k : Nat) : Nat := nbits (numAt ws (2 + k / 4)) (8 * (k % 4) + 7) (8 * (k % 4))
/-- An opcode that reads stream B (R266). -/
def readsB (op : Nat) : Bool := op == 1 || op == 2 || op == 5
/-- Bytes of a stream's element. -/
def streamSize (fmt : Nat) : Nat := if fmt = 1 then 2 else 4
/-- A Press command ends in a reduction (R267). -/
def pressSums (ws : List Word) : Bool := decide (0 < field0 ws 19 16) && pressSlot ws (field0 ws 19 16 - 1) % 16 == 15

/-- Checks 2 and 3 of the Press command, and its ranges (R265). -/
def parsePress (ws : List Word) : Except Nat (List Range) :=
  let w := ws.getD 0 0
  let nops := field0 ws 19 16
  let af := field0 ws 15 14
  let bf := field0 ws 13 12
  let df := field0 ws 11 10
  let n := numAt ws 1
  let a := addrAt ws 6
  let b := addrAt ws 8
  let d := addrAt ws 10
  let slotsOk := (List.range 8).all fun k =>
    let x := pressSlot ws k
    if nops ≤ k then x == 0
    else x / 32 == 0 && !(bf == 2 && readsB (x % 16)) && (x % 16 != 15 || k + 1 == nops)
  if field0 ws 9 0 ≠ 0 ∨ 8 < nops ∨ 1 < af ∨ 2 < bf ∨ 1 < df ∨ n < 1 ∨ 16777216 < n ∨ (bf = 2 ∧ b ≠ 0) ∨ !slotsOk
      ∨ !(highOk (bit w 22) a && highOk (bit w 21) b && highOk (bit w 20) d) then .error 2
  else if a.toNat % streamSize af ≠ 0 ∨ (bf ≠ 2 ∧ b.toNat % streamSize bf ≠ 0) ∨ d.toNat % streamSize df ≠ 0 then .error 3
  else
    let bs : List Range := if bf = 2 then [] else [⟨placeOf (bit w 21), b, n * streamSize bf, false⟩]
    .ok ([⟨placeOf (bit w 22), a, n * streamSize af, false⟩] ++ bs ++
      [⟨placeOf (bit w 20), d, (if pressSums ws then 1 else n) * streamSize df, true⟩])

/-- Checks 2 and 3 by code. -/
def parseCommand (ws : List Word) : Except Nat (List Range) :=
  match numAt ws 0 / 2 ^ 24 with
  | 1 => parseLoad ws | 2 => parseStore ws | 3 => parseCopy ws | 4 => parseGather ws | 5 => parseScale ws | 0x10 => parsePress ws
  | _ => .error 1

/-- The accumulator a command names, if any (R260, R261). -/
def commandAcc (ws : List Word) : Option Nat :=
  if numAt ws 0 / 2 ^ 24 = 2 ∨ numAt ws 0 / 2 ^ 24 = 5 then some (field0 ws 16 13) else none
/-- The address of its completion signal, with `sig` set (R255). -/
def commandSignal (ws : List Word) : Option DWord :=
  if bit (ws.getD 0 0) 23 then (fixedWords (numAt ws 0 / 2 ^ 24)).map fun n => addrAt ws n else none

/-! ### Checks 4 to 9 -/

/-- What a global range's pages come to. -/
inductive PageCheck
  | ok (attrs : List Nat)
  | violation (sub : Nat)
  | wait
deriving DecidableEq, Repr

/-- The pages of bytes `a` to `stop - 1`. -/
def State.pageCheck (s : State) (core asid : Nat) (need : Need) : Nat → Nat → Nat → PageCheck
  | 0, _, _ => .ok []
  | fuel + 1, a, stop =>
    if stop ≤ a then .ok []
    else match s.tlbWalk core asid (BitVec.ofNat 56 a) with
      | .wait => .wait
      | .invalid => .violation 2
      | .poisoned => .violation tablePoison
      | .found e =>
        if !permits e.perm need then .violation 3
        else match State.pageCheck s core asid need fuel (e.va + e.size) stop with
          | .ok xs => .ok (e.attr :: xs)
          | x => x

/-- Check 4 of one global range: canonical, leased, its pages valid and permitted. -/
def State.globalCheck (s : State) (t : Team) (base : DWord) (len : Nat) (dest : Bool) : PageCheck :=
  let need : Need := if dest then .store else .load
  let a := base.toNat % 2 ^ 56
  if !canonical base then .violation 1
  else if !leaseCovers (s.leases t) a len need then .violation 0
  else s.pageCheck t.core t.asid need (len / 65536 + 2) a (a + len)

/-- The team of a cluster member that a scratch address or slot names; 15 is the team itself (R123). -/
def State.memberTeam (s : State) (t : Team) (m : Nat) : Option Team :=
  if m = 15 ∨ m = t.member then some t
  else if t.parent.isSome ∨ s.clusterSize t ≤ m then none
  else (s.member? (t.ref m)).bind fun u => if u.retiring then none else some u

/-- The member and the offset of a slot (R282). -/
def slotPlace (k : Nat) : Nat × Nat := if k < 64 then (15, 4096 * k) else ((k - 64) / 16, 4096 * ((k - 64) % 16))

/-- Where a scratch or slot range lies: the team and the offset; none where it is not the team's (check 6). -/
def State.scratchPlace (s : State) (t : Team) (r : Range) : Option (Team × Nat) :=
  match r.place with
  | .global => none
  | .scratch =>
    (s.memberTeam t (r.base.toNat / 2 ^ 28 % 16)).bind fun u =>
      if r.base.toNat % 2 ^ 28 + r.len ≤ u.scratchBytes then some (u, r.base.toNat % 2 ^ 28) else none
  | .slot =>
    if 255 < r.base.toNat then none
    else (s.memberTeam t (slotPlace r.base.toNat).1).bind fun u =>
      if (slotPlace r.base.toNat).2 + r.len ≤ u.granules.length * Config.granuleBytes then some (u, (slotPlace r.base.toNat).2) else none

/-- A range with its space: the scratchpad of a team, or global memory. -/
structure Spaced where
  scratch : Bool
  space : Nat
  lo : Nat
  hi : Nat
  dest : Bool
deriving DecidableEq, Repr

/-- The space and bytes of a range. -/
def State.spaced (s : State) (t : Team) (r : Range) : Option Spaced :=
  match r.place with
  | .global => some { scratch := false, space := t.asid, lo := r.base.toNat % 2 ^ 56, hi := r.base.toNat % 2 ^ 56 + r.len, dest := r.dest }
  | _ => (s.scratchPlace t r).map fun x => { scratch := true, space := x.1.id, lo := x.2, hi := x.2 + r.len, dest := r.dest }

/-- Two ranges share a byte. -/
def Spaced.meets (a b : Spaced) : Bool := a.scratch == b.scratch && a.space == b.space && overlaps a.lo a.hi b.lo b.hi

/-- The elements of the Press's destination and of the stream its k-th source range is have one size (R265). -/
def pressInPlace (ws : List Word) (k : Nat) : Bool :=
  numAt ws 0 / 2 ^ 24 == 0x10 && streamSize (field0 ws 11 10) == streamSize (if k = 0 then field0 ws 15 14 else field0 ws 13 12)

/-- Check 8: no destination of the command overlaps a source, except that D of a Press command may equal A, or B, exactly when
the element sizes agree (R265). -/
def overlapOk (ws : List Word) (rs : List Spaced) : Bool :=
  (rs.zipIdx).all fun r => r.1.dest || rs.all fun d => !d.dest || !d.meets r.1 || (pressInPlace ws r.2 && d.lo == r.1.lo)

/-- Check 9 (R270): a conflict with an operation of another engine of the core. -/
def Core.engineConflict (k : Core) (eng : Nat) (rs : List Spaced) : Bool :=
  k.locks.any fun l => l.eng != eng && rs.any fun r => (r.dest || l.dest) && r.meets { scratch := l.scratch, space := l.space, lo := l.lo, hi := l.hi, dest := l.dest }

/-- What parsing a command comes to. -/
inductive Parsed
  | ok (rs : List Spaced)
  | refused (status : Nat)
  | violation (sub : Nat) (addr : VAddr)
  | wait
deriving DecidableEq, Repr

/-- The checks of R255 in order, after the code. -/
def State.parse (s : State) (t : Team) (eng : Nat) (ws : List Word) : Parsed :=
  match parseCommand ws with
  | .error e => .refused e
  | .ok rs =>
    let sig := commandSignal ws
    if (sig.map fun a => decide (a.toNat % 4 ≠ 0)).getD false then .refused 3
    else
      let globals := (rs.filter fun r => r.place == .global).map (fun r => (r.base, r.len, r.dest))
        ++ (match sig with | some a => [(a, 4, true)] | none => [])
      let checks := globals.map fun g => (g, s.globalCheck t g.1 g.2.1 g.2.2)
      match checks.findSome? fun c => match c.2 with
          | .violation sub => some (sub, vaddr c.1.1)
          | _ => none with
      | some (sub, va) => .violation sub va
      | none =>
        let attrs := fun (c : (DWord × Nat × Bool) × PageCheck) => match c.2 with | .ok xs => xs | _ => []
        if checks.any fun c => c.2 == .wait then .wait
        else if checks.any fun c => c.1.2.2 && (attrs c).contains 1 then .refused 5
        else if rs.any (fun r => (s.spaced t r).isNone) || ((commandAcc ws).map fun a => decide (t.accs.length ≤ a)).getD false then .refused 6
        else if sig.isSome && !((checks.getLast?.map attrs).getD [] == [2]) then .refused 8
        else
          let sp := rs.filterMap (s.spaced t)
          if !overlapOk ws sp then .refused 9
          else if (s.core t.core).engineConflict eng sp then .refused 4
          else if Config.rangeLocks < (s.core t.core).locks.length + sp.length then .wait
          else .ok sp

/-! ### Reading and writing -/

/-- What a read by an engine or a Cooper comes to. -/
inductive EngRead
  | ok (bs : List Byte)
  | poisoned (at' : VAddr)
  | wait
deriving DecidableEq, Repr

/-- A word of virtual memory as an engine of a core reads it (R245); none where it must wait. -/
def State.engWord (s : State) (core asid va : Nat) : Option (Word × Bool) :=
  match s.tlbWalk core asid (BitVec.ofNat 56 va) with
  | .wait => none
  | .invalid => some (0, false)
  | .poisoned => some (0, true)
  | .found e =>
    let pa := e.phys va
    if s.inTransition pa then none
    else if isCoherent e.attr then s.view (some core) (pa / 4)
    else
      let c := (s.core core).cell (pa / 128) (pa / 4 % 32)
      if c.st != .i then some (c.seen, c.poison) else if s.inReach (pa / 128) then some (s.homeWord (pa / 4)) else none

/-- The words from one virtual address to another. -/
def State.engWords (s : State) (core asid : Nat) : Nat → Nat → EngRead
  | 0, _ => .ok []
  | n + 1, va =>
    match s.engWord core asid va with
    | none => .wait
    | some (_, true) => .poisoned (BitVec.ofNat 56 va)
    | some (w, false) =>
      match State.engWords s core asid n (va + 4) with
      | .ok bs => .ok (leBytes 4 w.toNat ++ bs)
      | x => x

/-- Bytes of global memory, or of the scratchpad of a team; those of another team wait until they have settled (R348). -/
def State.engBytes (s : State) (t : Team) (scratch : Bool) (space a n : Nat) : EngRead :=
  if n = 0 then .ok []
  else if scratch then
    match s.team? space with
    | none => .ok (List.replicate n 0)
    | some u =>
      if space ≠ t.id ∧ (s.scratchUnsettled space a n || s.remotePending t.core space a n) then .wait
      else if u.scratchBad a n then .poisoned (u.badScratch (if space = t.id then 15 else u.member) a n)
      else .ok (u.scratch.bytes a n)
  else
    match s.engWords t.core space ((a + n + 3) / 4 - a / 4) (a / 4 * 4) with
    | .ok bs => .ok ((bs.drop (a % 4)).take n)
    | x => x

/-- Several reads of one space, concatenated. -/
def State.engRows (s : State) (t : Team) (r : Spaced) : List (Nat × Nat) → EngRead
  | [] => .ok []
  | (a, n) :: rest =>
    match s.engBytes t r.scratch r.space (r.lo + a) n with
    | .ok bs => match State.engRows s t r rest with
      | .ok cs => .ok (bs ++ cs)
      | x => x
    | x => x

/-- Bytes of consecutive output at offset `off` of destination range `part`. -/
structure OutRow where
  part : Nat
  off : Nat
  bytes : List Byte

/-- What an operation does: its status, the elements it counts as saturated, its output in order, what it read. -/
structure Work where
  status : Nat := 0
  sats : Nat := 0
  rows : List OutRow := []
  /-- the streams of a Press command, widened (R306) -/
  streams : List (List Word) := []
  /-- the words it read beyond its team's own scratchpad: inputs of its core (R350) -/
  reads : List Word := []

/-- Pieces of `n` bytes. -/
def piecesOf (n : Nat) : Nat → List Byte → List (List Byte)
  | 0, _ => []
  | k + 1, bs => if bs.isEmpty then [] else bs.take n :: piecesOf n k (bs.drop n)

/-- The words of bytes. -/
def bytesWords (bs : List Byte) : List Word := (piecesOf 4 (bs.length / 4) bs).map fun b => BitVec.ofNat 32 (leNat b)

/-- The words of a read, where its range lies beyond the team's own scratchpad. -/
def outsideWords (t : Team) (r : Spaced) (bs : List Byte) : List Word := if r.scratch && r.space == t.id then [] else bytesWords bs

/-- A row of a canonical tile from its 128 logical bytes (R70). -/
def swizzleRow (row : Nat) (bs : List Byte) : List Byte :=
  (List.range 128).map fun o => bs.getD ((o / 16 ^^^ row % 8) * 16 + o % 16) 0

/-- The codes of a source row (R68, R69): of `rk.load`'s `fmt`, from the row's bytes and the 2-bit plane's. -/
def rowCodes (fmt : Nat) (row plane : List Byte) : List Nat :=
  let byte := fun (l : List Byte) (i : Nat) => (l.getD i 0).toNat
  let nib := fun (i : Nat) => byte row (i / 2) / 16 ^ (i % 2) % 16
  (List.range 64).map fun i =>
    if fmt = 5 ∨ fmt = 6 then nib i * 4 + byte plane (i / 4) / 4 ^ (i % 4) % 4
    else if fmt = 7 then nib i
    else leNat ((row.drop (elemSize fmt * i)).take (elemSize fmt))

/-- A canonical row: its bytes and the elements counted (R71). -/
def canonicalRow (fmt r : Nat) (codes : List Nat) (scales : List Byte) : List Byte × Nat :=
  let es := codes.mapIdx fun i c => canonicalElem fmt c (scales.getD (i / 32) 0x7F)
  (swizzleRow r (es.flatMap fun e => leBytes 2 e.1), (es.filter (·.2)).length)

/-- `rk.load` (R259, R70, R71). -/
def workLoad (s : State) (t : Team) (ws : List Word) (rs : List Spaced) : Except EngRead Work :=
  let fmt := field0 ws 21 18
  let pitch := numAt ws 3
  let sp := numAt ws 4
  let fp6 := fmt == 5 || fmt == 6
  let dest0 : Nat := 0
  let src := rs.getD 0 ⟨false, 0, 0, 0, false⟩
  if fmt = 9 then
    match s.engRows t src ((List.range 64).map fun k => (k * pitch, 128)), s.engRows t (rs.getD 1 src) [(0, 128), (sp, 128)] with
    | .ok codes, .ok scales =>
      let rows := piecesOf 128 66 (codes ++ scales)
      .ok { reads := outsideWords t src (codes ++ scales)
            rows := (List.range 96).map fun k =>
        { part := dest0 + k / 32, off := k % 32 * 128, bytes := swizzleRow k (rows.getD k []) } }
    | .ok _, e => .error e
    | e, _ => .error e
  else
    let n := if fp6 then 32 else loadRowBytes fmt
    let rowsRead := s.engRows t src ((List.range 32).map fun r => (if fp6 then 32 * r else r * pitch, n))
    let planeRead := if fp6 then s.engRows t (rs.getD 1 src) [(0, 512)] else .ok []
    let scaleRead := if scaledFmt fmt then s.engRows t (rs.getD (if fp6 then 2 else 1) src) ((List.range 32).map fun r => (r * sp, 2)) else .ok []
    match rowsRead, planeRead, scaleRead with
    | .ok bs, .ok ps, .ok ss =>
      let row := fun (r : Nat) =>
        if fmt = 8 then (swizzleRow r ((bs.drop (n * r)).take n), 0)
        else canonicalRow fmt r (rowCodes fmt ((bs.drop (n * r)).take n) ((ps.drop (16 * r)).take 16)) ((ss.drop (2 * r)).take 2)
      .ok { sats := ((List.range 32).map fun r => (row r).2).sum
            reads := outsideWords t src (bs ++ ps ++ ss)
            rows := (List.range 32).map fun r => { part := dest0, off := r * 128, bytes := (row r).1 } }
    | .ok _, .ok _, e => .error e
    | .ok _, e, _ => .error e
    | e, _, _ => .error e

/-- An accumulator, or an `m` register, holds a poisoned word (R356). -/
def Team.accBad (t : Team) (a : Nat) : Bool := t.accPoison.any fun w => w / 1024 == a
def Team.mBad (t : Team) (m : Nat) : Bool := t.mPoison.any fun w => w / 1024 == m

/-- The words of an accumulator of a team, row by row (R279). -/
def Team.accWords (t : Team) (a : Nat) : List Word := (List.range 1024).map fun e => t.acc.word (4096 * a + 4 * e)

/-- Bits packed low first into bytes. -/
def packBits (width : Nat) (xs : List Nat) : List Byte :=
  let per := 8 / width
  (List.range (xs.length / per)).map fun i =>
    BitVec.ofNat 8 ((List.range per).map fun j => xs.getD (per * i + j) 0 % 2 ^ width * 2 ^ (width * j)).sum

/-- `rk.store` and, without its elements, `rk.scale` (R260, R261, R72, R73): the scale bytes first, then the elements in ascending address
order (R213), the plane of FP6 that lies lower first. -/
def workStore (t : Team) (ws : List Word) (scaleOnly : Bool) : Work :=
  let fmt := field0 ws 21 18
  let axis := field0 ws 17 17
  let acc := t.accWords (field0 ws 16 13)
  let at' := fun (r c : Nat) => acc.getD (32 * r + c) 0
  let exps := (List.range 32).map fun b => blockExp fmt ((List.range 32).map fun i => if axis = 0 then at' b i else at' i b)
  let sp := numAt ws (if scaleOnly then 1 else 4)
  let scaleRows : List OutRow :=
    if !scaledFmt fmt then []
    else if axis = 0 then exps.mapIdx fun r e => { part := 0, off := r * sp, bytes := [scaleByte e] }
    else [{ part := 0, off := 0, bytes := exps.map scaleByte }]
  if scaleOnly then { rows := scaleRows }
  else
    let p := if scaledFmt fmt then 1 else 0
    let q := fun (r c : Nat) => quantised fmt (at' r c) (exps.getD (if axis = 0 then r else c) 0)
    let codes := fun (r : Nat) => (List.range 32).map fun c => (q r c).1
    let all := (List.range 32).flatMap codes
    let pitch := numAt ws 3
    let rows : List OutRow :=
      if fmt = 5 ∨ fmt = 6 then
        let planes : List OutRow :=
          [{ part := p, off := 0, bytes := packBits 4 (all.map (· / 4)) }, { part := p + 1, off := 0, bytes := packBits 2 all }]
        if (addrAt ws 7).toNat < (addrAt ws 1).toNat then planes.reverse else planes
      else (List.range 32).map fun r =>
        { part := p, off := r * pitch
          bytes := if fmt = 7 then packBits 4 (codes r) else (codes r).flatMap fun c => leBytes (elemSize fmt) c }
    { sats := ((List.range 32).map fun r => ((List.range 32).filter fun c => (q r c).2).length).sum, rows := scaleRows ++ rows }

/-- `rk.copy` (R262). -/
def workCopy (s : State) (t : Team) (ws : List Word) (rs : List Spaced) : Except EngRead Work :=
  let rb := numAt ws 5
  let src := rs.getD 0 ⟨false, 0, 0, 0, false⟩
  match s.engRows t src ((List.range (numAt ws 6)).map fun i => (i * numAt ws 7, rb)) with
  | .ok bs => .ok { reads := outsideWords t src bs, rows := (piecesOf rb (numAt ws 6) bs).mapIdx fun i b => { part := 0, off := i * numAt ws 8, bytes := b } }
  | e => .error e

/-- `rk.gather` (R263). -/
def workGather (s : State) (t : Team) (ws : List Word) (rs : List Spaced) : Except EngRead Work :=
  let rb := numAt ws 7
  let rows := numAt ws 8
  let z : Spaced := ⟨false, 0, 0, 0, false⟩
  match s.engRows t (rs.getD 1 z) [(0, 4 * rows)] with
  | .ok ix =>
    let idx := (piecesOf 4 rows ix).map leNat
    let out := idx.any fun j => decide (numAt ws 10 ≤ j)
    match s.engRows t (rs.getD 0 z) ((idx.filter fun j => decide (j < numAt ws 10)).map fun j => (j * numAt ws 9, rb)) with
    | .ok bs =>
      let place := idx.foldl (fun (a : List (List Byte) × List Byte) j =>
        if j < numAt ws 10 then (a.1 ++ [a.2.take rb], a.2.drop rb) else (a.1 ++ [List.replicate rb 0], a.2)) ([], bs)
      .ok { status := if out then 7 else 0, reads := outsideWords t (rs.getD 1 z) ix ++ outsideWords t (rs.getD 0 z) bs, rows := place.1.mapIdx fun i b => { part := 0, off := i * rb, bytes := b } }
    | e => .error e
  | e => .error e

/-- The Press command (R267). -/
def workPress (s : State) (t : Team) (ws : List Word) (rs : List Spaced) : Except EngRead Work :=
  let n := numAt ws 1
  let nops := field0 ws 19 16
  let af := field0 ws 15 14
  let bf := field0 ws 13 12
  let df := field0 ws 11 10
  let z : Spaced := ⟨false, 0, 0, 0, false⟩
  let sums := pressSums ws
  let ops := (List.range (if sums then nops - 1 else nops)).map fun k =>
    (pressSlot ws k % 16, ws.getD (if pressSlot ws k / 16 % 2 = 1 then 5 else 4) 0)
  let bRead := if bf = 2 then .ok [] else s.engRows t (rs.getD 1 z) [(0, n * streamSize bf)]
  match s.engRows t (rs.getD 0 z) [(0, n * streamSize af)], bRead with
  | .ok as, .ok bs =>
    let xs := (piecesOf (streamSize af) n as).map (streamElem af)
    let ys := (piecesOf (streamSize bf) n bs).map (streamElem bf)
    let out := xs.mapIdx fun i x => pressChain ops (ys.getD i 0) x
    .ok { rows := [{ part := 0, off := 0, bytes := if sums then streamBytes df (treeSum out) else out.flatMap (streamBytes df) }]
          streams := if bf = 2 then [xs] else [xs, ys]
          reads := outsideWords t (rs.getD 0 z) as ++ outsideWords t (rs.getD 1 z) bs }
  | .ok _, e => .error e
  | e, _ => .error e

/-- The work of a command, with its sources read; a poisoned word of an accumulator has no address. -/
def State.work (s : State) (t : Team) (ws : List Word) (rs : List Spaced) : Except EngRead Work :=
  let stored := fun (scaleOnly : Bool) =>
    if t.accBad (field0 ws 16 13) then Except.error (EngRead.poisoned 0) else .ok (workStore t ws scaleOnly)
  match numAt ws 0 / 2 ^ 24 with
  | 1 => workLoad s t ws rs
  | 2 => stored false
  | 5 => stored true
  | 3 => workCopy s t ws rs
  | 4 => workGather s t ws rs
  | _ => workPress s t ws rs

/-- The writes a row of output comes to. -/
def State.rowWrites (s : State) (t : Team) (rs : List Spaced) (o : OutRow) : List EngWrite :=
  match (rs.filter (·.dest))[o.part]? with
  | none => []
  | some r =>
    (linePieces (r.lo + o.off) (o.bytes.length / 128 + 2) 0 o.bytes).filterMap fun p =>
      let a := r.lo + o.off + p.1
      let w : EngWrite := { dst := .own, at' := a, bytes := p.2, part := o.part, upto := o.off + p.1 + p.2.length }
      if r.scratch then
        if r.space = t.id then some w
        else (s.team? r.space).map fun u => { w with dst := .member (t.ref u.member) }
      else match s.tlbWalk t.core t.asid (BitVec.ofNat 56 a) with
        | .found e => some { w with dst := .global a e.attr, at' := e.phys a }
        | _ => none

/-- The atomics that store bytes of one line at its home (R245): one for each word. -/
def putMsgs (core pa tag : Nat) (bs : List Byte) : List Msg :=
  let writes := bs.mapIdx fun i b => (pa + i, b)
  let words := (writes.map fun b => b.1 / 4).eraseDups
  words.map fun w =>
    let x := wordWrite writes w
    { src := .core core, dst := atomHome core (pa / 128), line := pa / 128, mask := bitOf (w % 32), tag := tag, op := .put,
      args := [x.1, x.2.setWidth 32] }

/-- Atomic requests leave through the settling buffer (R347). -/
def State.produceAtoms (s : State) (core team : Nat) (msgs : List Msg) : State :=
  (s.produce core team (.atom msgs)).mapCore core fun k => { k with writes := k.writes ++ List.replicate msgs.length k.effNo }

/-- Where a write to memory goes and as what: as its page is now, which a conversion may have made coherent since the operation began
(R224); a page that has no translation any more is taken as it was. -/
def State.engTarget (s : State) (t : Team) (va attr pa : Nat) : Nat × Nat :=
  match s.tlbWalk t.core t.asid (BitVec.ofNat 56 va) with
  | .found e => (e.phys va, e.attr)
  | _ => (pa, attr)

/-- One write of an engine operation is made (R245, R257, R347); none where it must wait. -/
def State.engWrite (s : State) (t : Team) (w : EngWrite) : Option (State × EngPart) :=
  let core := t.core
  let next := (s.core core).effNo + 1
  let part : EngPart := { entry := some next, bytes := w.bytes.length, part := w.part, upto := w.upto }
  let bs := w.bytes.mapIdx fun i b => (w.at' + i, b)
  if s.room core = 0 then none
  else match w.dst with
    | .own => some ((s.mapTeam t.id fun t => t.setScratch bs).produce core t.id (.own t.id (touchedWords bs)), { part with entry := none })
    | .member r => some (s.produce core t.id (.remoteScratch r bs 1), part)
    | .global va attr0 =>
      let (pa, attr) := s.engTarget t va attr0 w.at'
      if s.inTransition pa then none
      else if isCoherent attr then some (s.produceAtoms core t.id (putMsgs core pa next w.bytes), part)
      else (s.storeLine core t.id 64 (pa / 128) attr (w.bytes.mapIdx fun i b => (pa + i, b))).map fun s => (s, part)

/-! ### An engine at work -/

/-- The operations of an engine, in admission order. -/
def Core.engOps (k : Core) (eng : Nat) : List EngOp := SMap.getD k.ops eng []
/-- Changes the operation at the head of an engine. -/
def State.mapHead (s : State) (core eng : Nat) (f : EngOp → EngOp) : State :=
  s.mapCore core fun k => { k with ops := SMap.put k.ops eng (match k.engOps eng with
    | o :: r => f o :: r
    | [] => []) }

/-- The ranges a running operation holds, as its parse registered them. -/
def Core.heldRanges (k : Core) (eng : Nat) (o : EngOp) : List Spaced :=
  (k.locks.filter fun l => l.eng == eng && l.team == o.team && l.number == o.number).map fun l =>
    { scratch := l.scratch, space := l.space, lo := l.lo, hi := l.hi, dest := l.dest }

/-- The head operation begins: its sources are read, which the journal must have room for (R350), and its output laid out (R257); a poisoned
source kills the gang (R356). -/
def State.engStart (s : State) (core eng : Nat) : State :=
  match (s.core core).engOps eng with
  | [] => s
  | o :: _ =>
    if o.started then s
    else match s.team? o.team with
      | none => s
      | some t =>
        let rs := (s.core core).heldRanges eng o
        match s.work t o.words rs with
        | .error (.poisoned va) => s.killGangOf t.id 0x11 va
        | .error _ => ((rs.filter fun r => !r.dest && !r.scratch).foldl (fun s r => (s.askRange? t.asid r.lo (r.hi - r.lo)).getD s) s)
        | .ok w =>
          if !s.journalFits core w.reads then s
          else
          let s := (s.journalAll core w.reads).mapTeam t.id fun t => t.mapEng eng fun p => { p with sat := BitVec.ofNat 32 (min (p.sat.toNat + w.sats) (2 ^ 32 - 1)) }
          s.mapHead core eng fun o =>
            { o with
              started := true
              status := w.status
              streams := if t.tasks.any fun x => some x.id == o.task && x.recAt.isSome then w.streams else []
              left := w.rows.flatMap (s.rowWrites t rs) }

/-- An effect of a core has been performed: it is settled and acknowledged. -/
def Core.performed (k : Core) (n : Nat) : Bool := !(k.buffer.any fun e => e.no == n) && !(k.writes.contains n)

/-- Bytes of the head operation are delivered in order (R213, R246). The gaps between the rows of a strided destination, which no byte is
written to, count as delivered once the count is past them (DESIGN CHOICE, log 60). -/
def State.engCount (s : State) (core eng : Nat) : Nat → State
  | 0 => s
  | fuel + 1 =>
    match (s.core core).engOps eng with
    | [] => s
    | o :: _ =>
      match o.parts with
      | [] => s
      | p :: ps =>
        if (p.entry.map (s.core core).performed).getD true then
          let s := s.mapHead core eng fun o => { o with parts := ps }
          let s := if eng < 8 then s.mapTeam o.team fun t => t.mapEng eng fun q => { q with w := q.w + BitVec.ofNat 64 p.bytes } else s
          let s := if eng < 8 then s.mapCore core fun k => { k with locks := k.locks.map fun l =>
              if l.eng = eng ∧ l.team = o.team ∧ l.number = o.number ∧ l.dest ∧ l.part = p.part then { l with done := p.upto } else l } else s
          State.engCount s core eng fuel
        else s

/-- What a write of an engine operation waits for is asked for (DESIGN CHOICE, log 7). -/
def State.engAsk (s : State) (t : Team) (w : EngWrite) : State :=
  match w.dst with
  | .global va attr =>
    let (pa, attr) := s.engTarget t va attr w.at'
    if isCoherent attr || s.inTransition pa then s else (s.ask? (pa / 128)).getD s
  | _ => s

/-- Writes of the head operation are made while they can be. -/
def State.engWrites (s : State) (core eng : Nat) : Nat → State
  | 0 => s
  | fuel + 1 =>
    match (s.core core).engOps eng with
    | [] => s
    | o :: _ =>
      match s.team? o.team, o.left with
      | some t, w :: ws =>
        match s.engWrite t w with
        | none => s.engAsk t w
        | some (s, p) => State.engWrites (s.mapHead core eng fun o => { o with left := ws, parts := o.parts ++ [p] }) core eng fuel
      | _, _ => s

/-- The head operation has started and all its writes are performed. -/
def EngOp.delivered (o : EngOp) : Bool := o.started && o.left.isEmpty && o.parts.isEmpty

/-- The signal write of a delivered operation is sent to the word's home (R248, R360). -/
def State.engSignal (s : State) (core eng : Nat) : State :=
  match (s.core core).engOps eng with
  | [] => s
  | o :: _ =>
    match o.sig with
    | none => s
    | some va =>
      if !o.delivered || o.sigEntry.isSome || s.room core = 0 then s
      else match s.team? o.team with
        | none => s
        | some t =>
          match s.tlbWalk core t.asid va with
          | .found e =>
            let pa := e.phys va.toNat
            let n := (s.core core).effNo + 1
            let m : Msg := { src := .core core, dst := atomHome core (pa / 128), line := pa / 128, mask := bitOf (pa / 4 % 32), tag := n,
                             op := .cas, args := [0, o.number] }
            (s.produceAtoms core o.team [m]).mapHead core eng fun o => { o with sigEntry := some n }
          | .poisoned => s.killGangOf t.id 0x11 va
          | .invalid => s
          | .wait => s

/-- What may go on in an engine. -/
def State.engProgress (s : State) (core eng : Nat) : State :=
  let s := s.engStart core eng
  let n := ((s.core core).engOps eng).head?.map fun o => o.left.length + o.parts.length + 1
  let s := (s.engWrites core eng (n.getD 0)).engCount core eng (n.getD 0)
  s.engSignal core eng
/-- What may go on in the engines of a core. -/
def State.enginesProgress (s : State) (core : Nat) : State :=
  (List.range 9).foldl (fun s e => if ((s.core core).engOps e).isEmpty then s else s.engProgress core e) s

/-- The number of the next command of a team on an engine (R255). -/
def EngPort.nextNumber (p : EngPort) : Word := if p.number = 0xFFFFFFFF then 1 else p.number + 1

/-- Some role binds the result endpoint of an engine (R252). -/
def State.resultBound (s : State) (t : Team) (eng : Nat) : Bool :=
  match s.launchOf t with
  | none => false
  | some l => (List.range l.roleCount).any fun r => (List.range 16).any fun q => l.bind r q == (if eng = 8 then 0x21 else 0x18 + eng)

/-- A task leaves the dependency table; a recorded one that was not refused has its record written (R272, R304). -/
def Team.endTask (id : Nat) (o : EngOp) (t : Team) : Team :=
  let t' := { t with tasks := t.tasks.filter fun x => x.id != id }
  match t.tasks.find? fun x => x.id == id with
  | none => t'
  | some x =>
    match x.recAt with
    | none => t'
    | some a =>
      if o.words.isEmpty then t'
      else t'.appendRecord a x.word (x.ext ++ x.cmd) (o.streams.map fun ws => .copy (wordsBytes ws))

/-- The head operation is over: its result entry is written, discarded or still waits for room (R252, R256); a refused task, or
one whose signal word held another value, raises the tile-stream trap instead (R273, R360). -/
def State.engResult (s : State) (core eng : Nat) : State :=
  match (s.core core).engOps eng with
  | [] => s
  | o :: rest =>
    let pop := fun (s : State) => s.mapCore core fun k => { k with ops := SMap.put k.ops eng rest }
    match s.team? o.team with
    | none => pop s
    | some t =>
      match o.task with
      | some id =>
        let s := pop (s.mapTeam t.id fun t => Team.endTask id o t)
        if o.status = 0 ∨ o.status = 7 then s else s.teamTrap t.id 0x09 o.status 0
      | none =>
        if !s.resultBound t eng || !(t.groups.any fun g => g.threads.any Thread.live) then pop s
        else
          let p := SMap.getD t.engs eng {}
          if 32 < p.res.length + 2 then s.mapHead core eng fun o => { o with resultWaits := true }
          else
            let entry := [BitVec.ofNat 32 (o.status * 2 ^ 24 + o.code % 256 * 2 ^ 16 + o.number.toNat % 2 ^ 16), if eng < 8 then p.sat else 0]
            ((pop (s.mapTeam t.id fun t => t.mapEng eng fun p => { p with res := p.res ++ entry })).queueProgress t.id)

/-- A command an engine may parse: the turn its last word was admitted in, its task, and its words. -/
structure Command where
  stamp : Nat
  task : Option Nat
  words : List Word
deriving DecidableEq, Repr

/-- The whole command at the head of a team's stream (R253). A word of unknown code is taken alone. -/
def EngPort.head? (p : EngPort) (press : Bool) : Option Command :=
  match p.cmd with
  | [] => none
  | w :: r =>
    match commandLength press w with
    | none => some { stamp := p.stamps.headD 0, task := none, words := [w] }
    | some n => if n ≤ r.length + 1 then some { stamp := p.stamps.getD (n - 1) 0, task := none, words := (w :: r).take n } else none

/-- The commands of a team that an engine could parse next: those of admitted tasks, each whole at a command boundary (R272), and the
stream's. -/
def Team.commands (t : Team) (eng : Nat) : List Command :=
  ((t.tasks.filter fun x => x.engine == eng && x.admitted && !x.parsed).map fun x => { stamp := x.stamp, task := some x.id, words := x.cmd })
    ++ ((SMap.getD t.engs eng {}).head? (eng == 8)).toList

/-- The command admitted first. -/
def earliest : List Command → Option Command
  | [] => none
  | c :: r => match earliest r with
    | none => some c
    | some d => if c.stamp ≤ d.stamp then some c else some d

/-- The command an engine parses next for a team (R253, R272). -/
def Team.nextCommand (t : Team) (eng : Nat) : Option (Option Nat × List Word) := (earliest (t.commands eng)).map fun c => (c.task, c.words)

/-- A command leaves its stream or its task's entry and takes its number (R255). -/
def Team.takeCommand (t : Team) (eng : Nat) (task : Option Nat) (n : Nat) : Team :=
  let t := t.mapEng eng fun p =>
    { p with
      number := p.nextNumber
      used := true
      cmd := if task.isSome then p.cmd else p.cmd.drop n
      stamps := if task.isSome then p.stamps else p.stamps.drop n }
  { t with tasks := t.tasks.map fun x => if some x.id = task then { x with parsed := true } else x }

/-- A command is parsed (R255): refused, or issued with its ranges registered; the engine then goes on. -/
def engineCommand (press : Bool) (ws : List Word) (s : State) : Result :=
  match s.actor with
  | .engine core eng team =>
    match s.team? team with
    | none => .refused .noIssuer
    | some t =>
      match t.nextCommand eng with
      | none => .refused .noIssuer
      | some (task, cmd) =>
        if cmd ≠ ws ∨ t.core ≠ core ∨ (eng == 8) ≠ press then .refused .noIssuer
        else
          let number := (SMap.getD t.engs eng {}).nextNumber
          let code := numAt ws 0 / 2 ^ 24
          let enqueue := fun (o : EngOp) (s : State) =>
            (((s.mapTeam team fun t => t.takeCommand eng task ws.length).mapCore core fun k =>
              { k with ops := SMap.put k.ops eng (k.engOps eng ++ [o]) }).queueProgress team)
          let refuse := fun (status : Nat) =>
            let s := enqueue { team := team, code := code, number := number, status := status, task := task, started := true } s
            if ((s.core core).engOps eng).length = 1 then s.engResult core eng else s
          if (commandLength press (ws.headD 0)).isNone then .next (refuse 1)
          else match s.parse t eng ws with
            | .wait => .next s
            | .violation sub va => .next (s.breach team sub va)
            | .refused st => .next (refuse st)
            | .ok rs =>
              let o : EngOp := { team := team, code := code, number := number, status := 0, words := ws, task := task
                                 sig := (commandSignal ws).map vaddr }
              let locks : List Lock := rs.mapIdx fun i r =>
                { eng := eng, team := team, scratch := r.scratch, space := r.space, lo := r.lo, hi := r.hi, dest := r.dest, number := number
                  part := ((rs.take i).filter (·.dest)).length }
              .next (((enqueue o s).mapCore core fun k => { k with locks := k.locks ++ locks }).engProgress core eng)
  | _ => .refused .noIssuer

/-- `rk.load` (R259) -/
def execRkLoad (ws : List Word) (s : State) : Result := engineCommand false ws s
/-- `rk.store` (R260) -/
def execRkStore (ws : List Word) (s : State) : Result := engineCommand false ws s
/-- `rk.copy` (R262) -/
def execRkCopy (ws : List Word) (s : State) : Result := engineCommand false ws s
/-- `rk.gather` (R263) -/
def execRkGather (ws : List Word) (s : State) : Result := engineCommand false ws s
/-- `rk.scale` (R261) -/
def execRkScale (ws : List Word) (s : State) : Result := engineCommand false ws s
/-- The Press command (R265 to R267) -/
def execPressCommand (ws : List Word) (s : State) : Result := engineCommand true ws s

/-- ENGINE_OPERATION_COMPLETE (R256, R360): the last write of the head operation is performed and its signal, if it has one, is
written; its ranges are released, then its result entry is written. A poisoned signal word is consumed (R356) -/
def execEngineOperationComplete (core eng : Nat) (s : State) : Result :=
  match (s.core core).engOps eng with
  | [] => .refused .notDue
  | o :: _ =>
    if !o.delivered || o.resultWaits || (o.sig.isSome && o.sigOld.isNone) then .refused .notDue
    else if o.sig.isSome && o.sigOld == some none then .next (s.killGangOf o.team 0x11 (o.sig.getD 0))
    else
      let other := match o.sigOld with
        | some (some v) => v != 0 && v != o.number
        | _ => false
      let s := s.mapHead core eng fun o => { o with status := if other then 0x0A else o.status }
      let s := s.mapCore core fun k => { k with locks := k.locks.filter fun l => !(l.eng == eng && l.team == o.team && l.number == o.number) }
      .next ((s.engResult core eng).enginesProgress core)

/-- RESULT_ENTRY_WRITE (R252): the entry of an engine that waits for room is written, or discarded once no thread of its team
lives -/
def execResultEntryWrite (core eng : Nat) (s : State) : Result :=
  match (s.core core).engOps eng with
  | [] => .refused .notDue
  | o :: _ =>
    match s.team? o.team with
    | none => .refused .notDue
    | some t =>
      if o.resultWaits ∧ ((SMap.getD t.engs eng {}).res.length + 2 ≤ 32 ∨ !(t.groups.any fun g => g.threads.any Thread.live)) then
        .next ((s.engResult core eng).enginesProgress core)
      else .refused .notDue

/-- No engine could still parse a whole command of the team (R189, R252). -/
def Team.streamsDone (t : Team) : Bool := t.engs.all fun p => (t.nextCommand p.1).isNone

/-- TEAM_RETIREMENT (R189, R163, R278) -/
def execTeamRetirement (team : Nat) (s : State) : Result := retireTeam Team.streamsDone team s

end Sys2Proof.Machine
end

