-- ==== Sys2Proof/Machine/Settle.lean ====
section
/-! DEFINITION. An entry leaves the settling buffer (R346, R347): what each kind of effect does then. -/
namespace Sys2Proof.Machine
open Sys2Proof

/-- A write to a member that has retired or ended is discarded and counted there (R203, R290). -/
def State.dropRemote (s : State) (core n : Nat) : State := s.mapCore core fun k => { k with remoteDrops := min (2 ^ 32 - 1) (k.remoteDrops + n) }

/-- An effect reaches a member that has not retired, as an input of its core (R350); otherwise it is dropped. -/
def State.atMember (s : State) (rcv : MemberRef) (n : Nat) (f : Team → Team) : State :=
  match s.member? rcv with
  | some t => if t.retiring then s.dropRemote rcv.core n else s.inputTeam t.id f
  | none => s.dropRemote rcv.core n

/-- The team that is a member, as a number. -/
def State.memberId (s : State) (rcv : MemberRef) : Nat := ((s.member? rcv).map (·.id)).getD s.fresh

/-- Additions to elements of an accumulator, each indivisible (R286). -/
def Team.addAcc (t : Team) (acc : Nat) (int : Bool) (adds : List (Nat × Word)) : Team :=
  { t with
    acc := adds.foldl (fun m a =>
      let at' := 4096 * acc + 4 * a.1
      m.setWord at' (if int then m.word at' + a.2 else addRn (m.word at') a.2)) t.acc
    log := { t.log with accProv := SMap.del t.log.accProv acc } }

/-- Zeroes `n` elements of an accumulator (R291). -/
def Team.zeroAcc (t : Team) (acc from' n : Nat) : Team :=
  { t with
    acc := (List.range n).foldl (fun m i => m.setWord (4096 * acc + 4 * (from' + i)) 0) t.acc
    accPoison := t.accPoison.filter (fun w => w < 1024 * acc + from' || 1024 * acc + from' + n ≤ w)
    log := { t.log with accProv := SMap.del t.log.accProv acc } }

/-- A spawn request reaches another core (R160, R162): the child is placed, or waits there. -/
def State.spawnArrives (s : State) (rcv : Nat) (q : SpawnReq) : State :=
  match (if s.takesChild rcv then s.childSide rcv q else none) with
  | some side => s.placeChild q rcv side true
  | none => s.mapCore rcv fun k => { k.mapSaved (fun v => { v with spawnQ := v.spawnQ ++ [q] }) with spawnQ := k.spawnQ ++ [q] }

/-- What an entry does as it settles (R347). -/
def State.settleEffect (s : State) (core : Nat) (e : Entry) : State :=
  match e.eff with
  | .l1 line undo => s.settleStore core e.no line (undo.map (·.1))
  | .own _ _ => s
  | .remoteScratch rcv bs n => s.atMember rcv n fun t => t.setScratch bs
  | .accAdd rcv acc int adds n => s.atMember rcv n fun t => t.addAcc acc int adds
  | .accZero rcv acc from' n => s.atMember rcv n fun t => t.zeroAcc acc from' 32
  | .command team eng ws => (s.inputTeam team fun t => t.mapEng eng fun p => { p with arrived := p.arrived ++ ws }).queueProgress team
  | .taskCommand team task => s.inputTeam team fun t => { t with tasks := t.tasks.map fun x => if x.id = task then { x with admitted := true, stamp := s.turn } else x }
  | .link rcv q first ws => s.linkArrives rcv q e.team first ws
  | .barClu rcv member arrivals =>
    (s.atMember rcv 0 fun t => { t with cluSeen := t.cluSeen ++ arrivals.map fun a => (member, a.1, a.2) }).barrierProgress (s.memberId rcv)
  | .exitReport rcv member threads =>
    (s.atMember rcv 0 fun t => { t with exitSeen := t.exitSeen ++ threads.map fun i => (member, i) }).barrierProgress (s.memberId rcv)
  | .tbar rcv member b gen => s.atMember rcv 0 fun t =>
    { t with tbarSeen := if t.tbarSeen.contains (member, b, gen) then t.tbarSeen else t.tbarSeen ++ [(member, b, gen)] }
  | .coopStop rcv member => s.atMember rcv 0 fun t => { t with stopSeen := t.stopSeen ++ [member] }
  | .spawn rcv parent desc da arg pos depth =>
    s.spawnArrives rcv { parent := parent, desc := desc, da := da, arg := arg, pos := pos, depth := depth }
  | .childDone parent => s.inputTeam parent.team (Team.lessChild parent.group)
  | .submit asid tag addr => (s.mapCore core fun k => { k with submission := some (asid, tag, addr) }).submit asid addr (.klaunch core)
  | .retire team => s.settleRetire team
  | .teamEnd asid seq index => (s.mapLaunch asid seq fun l => { l with teamEnded := true }).countRetired asid seq index
  | .childEnd asid seq => s.mapLaunch asid seq fun l => { l with teamEnded := true }
  | .atom reqs => reqs.foldl (fun s m => s.send .atomReq m) s
  | .mark m => s.send .mark m
  | .image asid va ws => { s with imageWrites := s.imageWrites ++ [{ team := e.team, asid := asid, va := va, words := ws }] }
  | .device bs => s.deviceWrite (.store core) bs
  | .convert pa size => if (s.team? e.team).isSome then { s with transition := s.transition ++ [(pa, size, some e.team)] } else s

/-- The entry at the head of a core's buffer has aged D (R346). -/
def State.settleDue (s : State) (core : Nat) : Option Entry :=
  match (s.core core).buffer with
  | [] => none
  | e :: _ => if s.bound core ≤ s.now core - e.made then some e else none

/-- SETTLE (R346): the oldest entry leaves the core, and its number becomes the settled count -/
def execSettle (core : Nat) (s : State) : Result :=
  match s.settleDue core with
  | none => .refused .notDue
  | some e =>
    let s := s.mapCore core fun k => { k with
      buffer := k.buffer.drop 1
      settled := e.no
      settledAt := e.made
      marks := k.marks.filter (fun m => decide (e.no ≤ m.effNo)) }
    .next (((s.settleEffect core e).l1Progress core).enginesProgress core)

end Sys2Proof.Machine
end

