-- ==== Sys2Proof/Machine/Tile.lean ====
section
/-! DEFINITION. The Cooper and the tensor core (R276 to R296): the names a tile-stream word uses, what its issue waits for,
its traps, its effects, numbered barriers and `tbar`, `dtask` and the dependency table's issue (R271, R272). -/
namespace Sys2Proof.Machine
open Sys2Proof

/-! ### The Cooper that issues -/

/-- The Cooper's team, where the actor is a Cooper able to issue. -/
def State.coop? (s : State) : Option (Team × Cooper) :=
  match s.actor with
  | .cooper id =>
    match s.team? id with
    | none => none
    | some t => match t.cooper with
      | none => none
      | some k => if k.trapped || k.wait == .stopped then none else some (t, k)
  | .idle => none
  | .path _ _ _ => none
  | .engine _ _ _ => none

/-- Changes a Cooper. -/
def Team.mapCoop (t : Team) (f : Cooper → Cooper) : Team := { t with cooper := t.cooper.map f }
/-- The Cooper goes on after an instruction of `n` words (R277). -/
def State.coopNext (s : State) (team n : Nat) : State :=
  s.mapTeam team (Team.mapCoop · fun k => { k with cpc := k.cpc + BitVec.ofNat 56 (4 * n), wait := .running })

/-- Every tile-stream instruction has retired and every task completed or been refused (R283). -/
def State.coopDone (s : State) (t : Team) : Bool := s.coopRetired t && t.tasks.isEmpty

/-- A trap of the Cooper, once every earlier instruction has retired (R277, R336). -/
def State.coopTrap (s : State) (t : Team) (code : Nat) (addr : VAddr) : State :=
  if s.coopRetired t then s.teamTrap t.id code 0 addr else s

/-- A record that does not fit the log (R303). -/
def State.logOverflow (s : State) (t : Team) (units : Nat) : State :=
  if s.coopRetired t then
    (s.mapTeam t.id fun t => { t with log := { t.log with need := BitVec.ofNat 32 units } }).teamTrap t.id 0x0E 0 0
  else s

/-! ### Writes a Cooper has still to make (R304, R308) -/

/-- The first write that is still to be made, if it can be; an address that may not be written ends the team (R304, R310). What the write
waits for is asked for (DESIGN CHOICE, log 7). -/
def State.pendStep (s : State) (t : Team) : Option State :=
  match t.log.pend with
  | [] => none
  | (a, bs) :: rest =>
    match s.globalCheck t a bs.length true with
    | .wait => none
    | .violation sub => some (s.breach t.id sub (vaddr a))
    | .ok attrs =>
      if attrs.contains 1 then some (s.endTeam t.id 0x05 0 (vaddr a))
      else match s.tlbWalk t.core t.asid (vaddr a) with
        | .found e =>
          let pa := e.phys (vaddr a).toNat
          if s.inTransition pa || s.room t.core = 0 then none
          else match s.storeLine t.core t.id 64 (pa / 128) e.attr (bs.mapIdx fun i b => (pa + i, b)) with
            | some s => some ((s.keep t.core none e).mapTeam t.id fun t => { t with log := { t.log with pend := rest } })
            | none => if isCoherent e.attr then none else s.ask? (pa / 128)
        | _ => none

/-- Writes of a team's Cooper are made while they can be. -/
def State.pendProgress (s : State) (team : Nat) : Nat → State
  | 0 => s
  | fuel + 1 => match (s.team? team).bind s.pendStep with
    | none => s
    | some s => State.pendProgress s team fuel

/-! ### Names (R279, R280, R282) -/

/-- The accumulator a name means: member and number (R280). -/
def State.accPlace (s : State) (t : Team) (v : Nat) : Option (Nat × Nat) :=
  let a := t.accs.length
  if a = 0 then none
  else if v < a then some (t.member, v)
  else if (v - a) / a < s.clusterSize t then some ((v - a) / a, (v - a) % a) else none

/-- A tile's identity: slots and accumulators of the own team have one name each (R272, R280, R282). -/
def Team.tileKey (t : Team) (x : Tile) : Tile :=
  match x with
  | .slot k => if (slotPlace k).1 = t.member ∧ 64 ≤ k then .slot ((k - 64) % 16) else .slot k
  | .acc v => .acc v
  | .nothing => .nothing

/-- What a tile-stream word names. -/
structure TileUse where
  /-- the `m` register, and whether it is read -/
  m : Option Nat := none
  mRead : Bool := false
  /-- accumulator names; they must be the team's own (R280) -/
  accs : List Nat := []
  own : Bool := false
  /-- the accumulators are added to, by a matrix form -/
  mma : Bool := false
  /-- the accumulators are read, and written -/
  accRead : Bool := true
  accWrite : Bool := true
  /-- slots, consecutive; written or read -/
  slots : List Nat := []
  writes : Bool := false
  /-- costs tensor tokens (R296) -/
  tensor : Bool := false
  /-- entries of the settling buffer its effects take at most -/
  room : Nat := 0

/-- The accumulators named, each with its member; none where a name is out of range or, for several, they are not in one
member (R280, R286). -/
def State.accPlaces (s : State) (t : Team) (u : TileUse) : Option (List (Nat × Nat)) :=
  let ps := u.accs.filterMap (s.accPlace t)
  if ps.length ≠ u.accs.length then none
  else if u.own && u.accs.any (fun v => decide (t.accs.length ≤ v)) then none
  else if ps.all (fun p => p.1 == (ps.headD (0, 0)).1) then some ps else none

/-- The scratch address a slot begins at (R123, R282). -/
def slotAddress (k : Nat) : VAddr := BitVec.ofNat 56 ((slotPlace k).1 * 2 ^ 28 + (slotPlace k).2)

/-- The member a slot lies in: slots 0 to 63 are the team's own (R282). -/
def Team.slotMember (t : Team) (k : Nat) : Nat := if k < 64 then t.member else (k - 64) / 16

/-- The team whose scratchpad a slot of a member is. A member that has retired or ended is none for a read; for a write it is one of
which nothing is left, so that the write is discarded where it arrives (R282, R290). -/
def State.slotTeam (s : State) (t : Team) (m : Nat) (writes : Bool) : Option Team :=
  match s.memberTeam t m with
  | some u => some u
  | none => if writes && t.parent.isNone && decide (m < s.clusterSize t) then some { id := s.fresh, member := m, granules := t.granules } else none

/-- The scratchpad bytes of the slots named: the member's team and each slot's offset; none where R282 traps. -/
def State.slotSpot (s : State) (t : Team) (ks : List Nat) (writes : Bool) : Option (Team × List Nat) :=
  match ks with
  | [] => none
  | k :: _ =>
    if ks.all fun j => t.slotMember j == t.slotMember k then
      (s.slotTeam t (t.slotMember k) writes).bind fun u =>
        if ks.all fun j => decide ((slotPlace j).2 + 4096 ≤ u.granules.length * Config.granuleBytes) then some (u, ks.map fun j => (slotPlace j).2) else none
    else none

/-! ### The dependency table (R271, R272) -/

/-- The tiles a task's command writes, as the table holds them (R272). -/
def Task.outs (x : Task) : List Tile :=
  match x.out with
  | .slot k => if numAt x.cmd 0 / 2 ^ 24 = 1 ∧ field0 x.cmd 21 18 = 9 then [.slot k, .slot (k + 1), .slot (k + 2)] else [.slot k]
  | .acc v => [.acc v]
  | .nothing => []

/-- A Racking load's write pointer has passed the end of its destination (R272). -/
def State.loadDelivered (s : State) (t : Team) (x : Task) : Bool :=
  decide (numAt x.cmd 0 / 2 ^ 24 = 1) && ((s.core t.core).engOps x.engine).any fun o => o.team == t.id && o.task == some x.id && o.delivered

/-- A task is a pending producer of a tile. -/
def State.taskWrites (s : State) (t : Team) (tile : Tile) (x : Task) : Bool :=
  (x.outs.map t.tileKey).contains (t.tileKey tile) && !s.loadDelivered t x
/-- A task is a pending reader of a tile. -/
def Team.taskReads (t : Team) (tile : Tile) (x : Task) : Bool := (x.ins.map t.tileKey).contains (t.tileKey tile)

/-- A tile-stream instruction's write to the tile, or a thread's store to a slot of another member, has not been performed. -/
def State.tileUnwritten (s : State) (t : Team) (tile : Tile) : Bool :=
  match tile with
  | .slot k => match s.memberTeam t (slotPlace k).1 with
    | some u => s.remotePending t.core u.id (slotPlace k).2 4096
    | none => false
  | _ => false

/-- A declared task may be issued (R272). -/
def State.taskReady (s : State) (t : Team) (id : Nat) : Bool :=
  let before := t.tasks.takeWhile fun x => x.id != id
  match t.tasks.find? fun x => x.id == id with
  | none => false
  | some x => !x.issued
    && x.ins.all (fun i => !(before.any (s.taskWrites t i)) && !s.tileUnwritten t i)
    && x.outs.all fun o => !(before.any fun b => s.taskWrites t o b || t.taskReads o b) && !s.tileUnwritten t o

/-- No task of the core declared earlier could be issued (R272). -/
def State.taskFirst (s : State) (t : Team) (id : Nat) : Bool :=
  s.teams.all fun u => u.core != t.core || u.tasks.all fun y => decide (id ≤ y.id) || !s.taskReady u y.id

/-- TASK_ISSUE (R272): an issued task's command goes to its engine through the settling buffer, in declaration order -/
def execTaskIssue (team task : Nat) (s : State) : Result :=
  match s.team? team with
  | none => .refused .notDue
  | some t =>
    if s.taskReady t task && s.taskFirst t task && decide (0 < s.room t.core) then
      .next ((s.mapTeam team fun t => { t with tasks := t.tasks.map fun x => if x.id = task then { x with issued := true } else x }).produce
        t.core team (.taskCommand team task))
    else .refused .notDue

/-! ### What an issue waits for (R281, R296) -/

/-- An earlier instruction of the Cooper has not performed a write to an accumulator of another member; matrix forms do not
wait for one another. -/
def State.accPending (s : State) (t : Team) (mma : Bool) (p : Nat × Nat) : Bool :=
  p.1 != t.member && (s.core t.core).buffer.any fun e => match e.eff with
    | .accAdd rcv a _ _ _ => !mma && rcv.member == p.1 && rcv.asid == t.asid && rcv.seq == t.seq && rcv.cluster == t.cluster && a == p.2
    | .accZero rcv a _ _ => rcv.member == p.1 && rcv.asid == t.asid && rcv.seq == t.seq && rcv.cluster == t.cluster && a == p.2
    | _ => false

/-- The tensor core's allowance lets an issue proceed (R188). -/
def Team.tensorMay (t : Team) : Bool := decide (t.tensorSpent < t.tensorTokens) || !t.tensorIssued
/-- An issue of a matrix instruction is paid for (R188, R289, R296). -/
def State.payTensor (s : State) (t : Team) : State :=
  (s.mapTeam t.id fun t => { t with tensorSpent := t.tensorSpent + 8, tensorIssued := true }).mapCore t.core fun k =>
    { k with lastCooper := (t.cooper.map (·.inst)).getD 0 }

/-- Words of another member's slots that an instruction reads: inputs of its core (R350). -/
def Team.slotReads (t : Team) (u : TileUse) (spot : Option (Team × List Nat)) : List Word :=
  match spot with
  | none => []
  | some (v, offs) => if u.writes || v.id == t.id then [] else offs.flatMap fun off => (List.range 1024).map fun i => v.scratch.word (off + 4 * i)

/-- The instruction must wait (R281, R350). -/
def State.tileWaits (s : State) (t : Team) (u : TileUse) (accs : List (Nat × Nat)) (spot : Option (Team × List Nat)) : Bool :=
  let mine := (accs.filter fun p => p.1 == t.member).map fun p => Tile.acc p.2
  accs.any (s.accPending t u.mma)
    || u.slots.any (fun k => t.tasks.any fun x => s.taskWrites t (.slot k) x || (u.writes && t.taskReads (.slot k) x))
    || mine.any (fun a => t.tasks.any fun x => s.taskWrites t a x || (u.accWrite && t.taskReads a x))
    || (match spot with
        | none => false
        | some (v, offs) => offs.any fun off =>
          (v.id != t.id && (s.remotePending t.core v.id off 4096 || (!u.writes && s.scratchUnsettled v.id off 4096)))
            || (s.core t.core).locks.any fun l => l.scratch && l.space == v.id && (u.writes || l.dest) && overlaps l.lo l.hi off (off + 4096))
    || !s.journalFits t.core (t.slotReads u spot)
    || (u.tensor && !t.tensorMay)
    || decide (s.room t.core < u.room)

/-! ### The shape of a tile-stream instruction -/

/-- A tile-stream word with its fields (R38). -/
def tileWord (major acc m : Nat) (reuse : Bool) (slot op minor : Nat) : Word :=
  BitVec.ofNat 32 (2 ^ 25 * major + 2 ^ 21 * acc + 2 ^ 18 * m + (if reuse then 2 ^ 17 else 0) + 2 ^ 9 * slot + 2 ^ 5 * op + minor)

/-- The operands an issued instruction acts on. -/
structure TileCtx where
  team : Team
  accs : List (Nat × Nat)
  /-- the slots' member and their offsets there -/
  spot : Team × List Nat

/-- The named accumulator of the own team. -/
def TileCtx.acc (c : TileCtx) : Nat := (c.accs.headD (0, 0)).2
/-- Where the first slot named begins. -/
def TileCtx.off (c : TileCtx) : Nat := c.spot.2.headD 0
/-- Bytes of the k-th slot named. -/
def TileCtx.slotBytes (c : TileCtx) (k : Nat) : List Byte := c.spot.1.scratch.bytes (c.spot.2.getD k 0) 4096
/-- The first of the slots read that holds a poisoned word. -/
def TileCtx.badSlot (c : TileCtx) : Option Nat := c.spot.2.find? fun off => c.spot.1.scratchBad off 4096
/-- A register or an accumulator of the own team that is read holds a poisoned word (R356). -/
def Team.fileBad (t : Team) (u : TileUse) (accs : List (Nat × Nat)) : Bool :=
  (u.mRead && (u.m.map t.mBad).getD false) || (u.accRead && accs.any fun p => p.1 == t.member && t.accBad p.2)
/-- Bytes of an `m` register and of an accumulator (R279). -/
def Team.mBytes (t : Team) (m : Nat) : List Byte := t.m.bytes (4096 * m) 4096
def Team.accBytes (t : Team) (a : Nat) : List Byte := t.acc.bytes (4096 * a) 4096

/-- The common shape (R277, R279 to R282, R302, R303): the checks and waits in order, then `f`; the spec does not order the traps an
instruction raises at its issue, of which a recorded name beyond the team comes first here, then a slot that does not stand, then a log
without room (DESIGN CHOICE, log 63); while recording, an instruction
that is recorded reserves `size` bytes and its record, with the operands `ops` takes before and after, is written. -/
def tileOp (u : TileUse) (word : Word) (recorded : Bool) (ops : TileCtx → Team → List Opnd) (f : TileCtx → VAddr → State → State)
    (s : State) : Result :=
  match s.coop? with
  | none => .refused .noIssuer
  | some (t, _) =>
    if (u.m.map fun m => decide (t.mregs.length ≤ m)).getD false then .next (s.coopTrap t 0x02 0)
    else match s.accPlaces t u with
    | none => .next (s.coopTrap t 0x02 0)
    | some accs =>
      let spot := s.slotSpot t u.slots u.writes
      let recording := t.log.recording && recorded
      if s.tileWaits t u accs spot then .next s
      else if recording && (accs.any (fun p => p.1 != t.member) || u.slots.any fun x => decide (64 ≤ x)) then .next (s.coopTrap t 0x09 0)
      else if !u.slots.isEmpty && spot.isNone then .next (s.coopTrap t 0x06 (slotAddress (u.slots.headD 0)))
      else
        let c : TileCtx := { team := t, accs := accs, spot := spot.getD (t, []) }
        match (if u.writes then none else c.badSlot) with
        | some off => .next (s.killGangOf t.id 0x11 (c.spot.1.badScratch (slotPlace (u.slots.headD 0)).1 off 4096))
        | none =>
        if t.fileBad u accs then .next (s.killGangOf t.id 0x11 0)
        else
          let size := recordSize [] (ops c t)
          if recording && !t.logRoom size then
            .next (s.logOverflow t (size / 16))
          else
            let place := t.log.ptr
            let s := f c place (s.journalAll t.core (t.slotReads u spot))
            let s := if recording then s.mapTeam t.id fun t' => (t'.reserve size).appendRecord place word [] (ops c t') else s
            .next (s.coopNext t.id 1)

/-! ### Movement and effects -/

/-- A write of bytes of slots: to the own scratchpad at once, to another member once settled (R282); an entry for each
128-byte line. -/
def State.slotWrite (s : State) (t v : Team) (bs : List (Nat × Byte)) : State :=
  let lines := (bs.map fun b => b.1 / 128).eraseDups
  if v.id = t.id then
    lines.foldl (fun s l => s.produce t.core t.id (.own t.id (touchedWords (bs.filter fun b => b.1 / 128 == l)))) (s.mapTeam t.id fun t => t.setScratch bs)
  else
    (lines.zipIdx).foldl (fun s l =>
      s.produce t.core t.id (.remoteScratch (t.ref v.member) (bs.filter fun b => b.1 / 128 == l.1) (if l.2 = 0 then 1 else 0))) s

/-- The latch no longer holds a register that is written (R288). -/
def State.dropLatch (s : State) (t : Team) (m : Nat) : State :=
  s.mapCore t.core fun k => { k with latch := if k.latch == some (t.id, m) then none else k.latch }

/-- An `m` operand: recomputed from the recorded `tld` that wrote it under policy 1, else copied (R306). -/
def Team.mOpnd (t : Team) (m : Nat) : Opnd :=
  match (if t.log.policy = 1 then SMap.get? t.log.mProv m else none) with
  | some a => .recompute a
  | none => .copy (t.mBytes m)
/-- An accumulator operand copied at issue (R306). -/
def Team.accOpnd (t : Team) (a : Nat) : Opnd :=
  match (if t.log.policy = 1 then SMap.get? t.log.accProv a else none) with
  | some r => .recompute r
  | none => .copy (t.accBytes a)

/-- `tld` (R284) -/
def execTld (m : BitVec 3) (sc : BitVec 8) (s : State) : Result :=
  tileOp { m := some m.toNat, slots := [sc.toNat] } (tileWord 0x70 0 m.toNat false sc.toNat 0 0) true
    (fun c t => if t.log.policy = 1 then [.copy (c.slotBytes 0)] else [])
    (fun c place s =>
      (s.mapTeam c.team.id fun t => { t with
        m := t.m.setBytes (4096 * m.toNat) (c.slotBytes 0)
        mPoison := t.mPoison.filter (fun w => w / 1024 != m.toNat)
        log := { t.log with mProv := if t.log.recording then SMap.put t.log.mProv m.toNat place else SMap.del t.log.mProv m.toNat } }).dropLatch
        c.team m.toNat) s

/-- Element [i][n] of an accumulator (R279). -/
def Team.accElem (t : Team) (a i n : Nat) : Word := t.acc.word (4096 * a + 4 * (32 * i + n))
/-- Pairs (i, n) of a 32 by 32 array, in row order. -/
def elems32 : List (Nat × Nat) := (List.range 32).flatMap fun i => (List.range 32).map fun n => (i, n)

/-- `tst.bf16.rn` (R285) -/
def execTstBf16Rn (ac : BitVec 4) (sc : BitVec 8) (h : Bool) (s : State) : Result :=
  tileOp { accs := [ac.toNat], own := true, accWrite := false, slots := [sc.toNat], writes := true, room := 32 }
    (tileWord 0x70 ac.toNat 0 false sc.toNat (if h then 1 else 0) 1) true (fun _ _ => [])
    (fun c _ s => s.slotWrite c.team c.spot.1 (elems32.flatMap fun p =>
      let b := 2 * ((if h then 32 else 0) + p.2)
      (leBytes 2 (toBf16 .rn (f32 (c.team.accElem c.acc p.1 p.2))).toNat).mapIdx fun j x => (c.off + tileOffset p.1 (b + j), x))) s

/-- `tst.f32` (R285) -/
def execTstF32 (ac : BitVec 4) (sc : BitVec 8) (s : State) : Result :=
  tileOp { accs := [ac.toNat], own := true, accWrite := false, slots := [sc.toNat], writes := true, room := 32 }
    (tileWord 0x70 ac.toNat 0 false sc.toNat 0 2) true (fun _ _ => [])
    (fun c _ s => s.slotWrite c.team c.spot.1 (elems32.flatMap fun p =>
      (leBytes 4 (c.team.accElem c.acc p.1 p.2).toNat).mapIdx fun j x => (c.off + tileOffset p.1 (4 * p.2 + j), x))) s

/-! ### Matrix products (R74, R286) -/

/-- The 128 logical bytes of a row of a tile held in stored order (R70). -/
def tileRow (bs : List Byte) (row : Nat) : List Nat :=
  let r := (bs.drop (128 * row)).take 128
  (List.range 128).map fun b => (r.getD (tileOffset row b - 128 * row) 0).toNat

/-- Consecutive pairs of bytes as BF16 values. -/
def bf16Pairs : List Nat → List FVal
  | a :: b :: r => Fmt.bf16.decode (a + 256 * b) :: bf16Pairs r
  | _ => []

/-- The value of an SP2 code and its scale as the two terms of R67. -/
def sp2Pair (code scale : Nat) : FVal × FVal :=
  match scaleExp (BitVec.ofNat 8 scale) with
  | none => (.nan true, .nan true)
  | some e => let t := sp2Terms (BitVec.ofNat 8 code); (t.1.scale e, t.2.scale e)

/-- Rows of a matrix as columns. -/
def columns {α : Type} (n : Nat) (rows : List (List α)) (d : α) : List (List α) :=
  (List.range n).map fun j => rows.map fun r => r.getD j d

/-- The exact sum of the products of a chunk, in the tree of R74. -/
def exactTree : Nat → List FVal → FVal
  | _, [] => .fin false 0 0
  | _, [x] => x
  | 0, x :: _ => x
  | k + 1, xs => exactTree k (pairUp xs)
where
  /-- One level. -/
  pairUp : List FVal → List FVal
    | a :: b :: r => FVal.add .rn a b :: pairUp r
    | r => r

/-- The rounded sums of consecutive chunks of 8 products (R74). -/
def chunkSums : Nat → List FVal → List Word
  | 0, _ => []
  | k + 1, ps => if ps.isEmpty then [] else toF32 .rn false (exactTree 3 (ps.take 8)) :: chunkSums k (ps.drop 8)

/-- The chunk sums of 8 integer products, modulo 2^32 (R74, R286). -/
def intChunks : Nat → List Int → List Word
  | 0, _ => []
  | k + 1, ps => if ps.isEmpty then [] else BitVec.ofInt 32 ((ps.take 8).foldl (· + ·) 0) :: intChunks k (ps.drop 8)

/-- A signed byte. -/
def sByte (x : Nat) : Int := if 128 ≤ x then (x : Int) - 256 else x

/-- For each element of the product of A's rows with B's columns, in row order, its chunk additions. -/
def products {α β : Type} (a : List (List α)) (b : List (List β)) (dot : List α → List β → List Word) : List (Nat × Word) :=
  (a.zipIdx).flatMap fun r => (b.zipIdx).flatMap fun c => (dot r.1 c.1).map fun w => (32 * r.2 + c.2, w)

/-- `tmma.w`'s additions (R286). -/
def mmaW (a b : List Byte) : List (Nat × Word) :=
  let rows := fun (t : List Byte) => (List.range 32).map fun i => bf16Pairs (tileRow t i)
  products (rows a) (rows b) fun x y => chunkSums 8 ((x.zip y).map fun p => FVal.mul p.1 p.2)

/-- B's columns of an SP2 tile of three slots: 128 columns of 64 pairs of terms (R70, R286). -/
def sp2Columns (b : List Byte) : List (List (FVal × FVal)) :=
  let row := fun (k : Nat) => (tileRow b k).zip (tileRow b (64 + k / 32))
  columns 128 ((List.range 64).map fun k => (row k).map fun p => sp2Pair p.1 p.2) (.fin false 0 0, .fin false 0 0)

/-- `tmma.s`'s additions into accumulator v + q (R286, R67). -/
def mmaS (a b : List Byte) (q : Nat) : List (Nat × Word) :=
  products ((List.range 32).map fun i => bf16Pairs (tileRow a i)) (((sp2Columns b).drop (32 * q)).take 32)
    fun x y => chunkSums 8 ((x.zip y).map fun p => FVal.add .rn (FVal.mul p.1 p.2.1) (FVal.mul p.1 p.2.2))

/-- `tmma.i8`'s additions (R286). -/
def mmaI8 (a b : List Byte) : List (Nat × Word) :=
  let rows := fun (t : List Byte) => (List.range 32).map fun i => (tileRow t i).map sByte
  products (rows a) (rows b) fun x y => intChunks 16 ((x.zip y).map fun p => p.1 * p.2)

/-- Chunk additions reach an accumulator: the own at once, another member's once settled, an entry for each row (R286). -/
def State.accumulate (s : State) (t : Team) (p : Nat × Nat) (int first : Bool) (adds : List (Nat × Word)) : State :=
  if p.1 = t.member then s.mapTeam t.id fun t => t.addAcc p.2 int adds
  else (List.range 32).foldl (fun s i => s.produce t.core t.id
    (.accAdd (t.ref p.1) p.2 int (adds.filter fun a => a.1 / 32 == i) (if first && i = 0 then 1 else 0))) s

/-- The common part of the matrix forms (R286, R288, R296): tokens, the latch, and the additions into each accumulator. -/
def tmma (word : Word) (recorded int : Bool) (accs : List Nat) (m : Nat) (reuse : Bool) (slots : List Nat)
    (prod : List Byte → List Byte → Nat → List (Nat × Word)) (s : State) : Result :=
  tileOp { m := some m, mRead := true, accs := accs, mma := true, slots := slots, tensor := true, room := 32 * accs.length } word recorded
    (fun c _ => c.team.mOpnd m :: (List.range slots.length).map fun k => .copy (c.slotBytes k))
    (fun c _ s =>
      let a := c.team.mBytes m
      let b := (List.range slots.length).flatMap c.slotBytes
      let s := (s.payTensor c.team).mapCore c.team.core fun k => { k with latch := if reuse then some (c.team.id, m) else none }
      (c.accs.zipIdx).foldl (fun s p => s.accumulate c.team p.1 int (p.2 == 0) (prod a b p.2)) s) s

/-- `tmma.w` (R286) -/
def execTmmaW (ac : BitVec 4) (m : BitVec 3) (r : Bool) (sc : BitVec 8) (s : State) : Result :=
  tmma (tileWord 0x71 ac.toNat m.toNat r sc.toNat 0 0) true false [ac.toNat] m.toNat r [sc.toNat] (fun a b _ => mmaW a b) s

/-- `tmma.s` (R286); a name that is no multiple of 4 is an illegal instruction -/
def execTmmaS (ac : BitVec 4) (m : BitVec 3) (r : Bool) (sc : BitVec 8) (s : State) : Result :=
  match s.coop? with
  | none => .refused .noIssuer
  | some (t, _) =>
    if ac.toNat % 4 ≠ 0 then .next (s.coopTrap t 0x01 0)
    else tmma (tileWord 0x71 ac.toNat m.toNat r sc.toNat 0 1) true false ((List.range 4).map fun q => ac.toNat + q) m.toNat r
      ((List.range 3).map fun k => sc.toNat + k) mmaS s

/-- `tmma.i8` (R286) -/
def execTmmaI8 (ac : BitVec 4) (m : BitVec 3) (r : Bool) (sc : BitVec 8) (s : State) : Result :=
  tmma (tileWord 0x71 ac.toNat m.toNat r sc.toNat 0 2) false true [ac.toNat] m.toNat r [sc.toNat] (fun a b _ => mmaI8 a b) s

/-! ### Accumulator operations (R291, R292) -/

/-- `tzero` (R291) -/
def execTzero (ac : BitVec 4) (s : State) : Result :=
  tileOp { accs := [ac.toNat], accRead := false, room := 32 } (tileWord 0x72 ac.toNat 0 false 0 0 0) true (fun _ _ => [])
    (fun c place s =>
      let p := c.accs.headD (0, 0)
      if p.1 = c.team.member then
        (s.mapTeam c.team.id fun t =>
          let t := t.zeroAcc p.2 0 1024
          { t with log := { t.log with accProv := if t.log.recording then SMap.put t.log.accProv p.2 place else t.log.accProv } })
      else (List.range 32).foldl (fun s i => s.produce c.team.core c.team.id
        (.accZero (c.team.ref p.1) p.2 (32 * i) (if i = 0 then 1 else 0))) s) s

/-- The common part of the element-wise operations (R292): the new element from the old one and the slot's word at the row the
operation reads. -/
def tew (ac op : Nat) (slots : List Nat) (rowOnly : Bool) (ops : TileCtx → Team → List Opnd) (f : Word → Word → Word) (s : State) : Result :=
  tileOp { accs := [ac], own := true, accRead := op != 0, slots := slots } (tileWord 0x72 ac 0 false (slots.headD 0) op 1) true ops
    (fun c _ s =>
      let sl := c.slotBytes 0
      let w := fun (i n : Nat) => if slots.isEmpty then (0 : Word) else BitVec.ofNat 32 (leNat ((sl.drop (tileOffset i (4 * n))).take 4))
      s.mapTeam c.team.id fun t => { t with
        acc := elems32.foldl (fun m p => m.setWord (4096 * c.acc + 4 * (32 * p.1 + p.2))
          (f (c.team.accElem c.acc p.1 p.2) (w (if rowOnly then 0 else p.1) p.2))) t.acc
        accPoison := t.accPoison.filter (fun w => w / 1024 != c.acc)
        log := { t.log with accProv := SMap.del t.log.accProv c.acc } }) s

/-- `tew.ld` (R292) -/
def execTewLd (ac : BitVec 4) (sc : BitVec 8) (s : State) : Result := tew ac.toNat 0 [sc.toNat] false (fun _ _ => []) (fun _ w => w) s
/-- `tew.add` (R292) -/
def execTewAdd (ac : BitVec 4) (sc : BitVec 8) (s : State) : Result := tew ac.toNat 1 [sc.toNat] false (fun _ _ => []) addRn s
/-- `tew.mul` (R292) -/
def execTewMul (ac : BitVec 4) (sc : BitVec 8) (s : State) : Result :=
  tew ac.toNat 2 [sc.toNat] false (fun c _ => [c.team.accOpnd c.acc, .copy (c.slotBytes 0)]) mulRn s
/-- `tew.addrow` (R292) -/
def execTewAddrow (ac : BitVec 4) (sc : BitVec 8) (s : State) : Result := tew ac.toNat 3 [sc.toNat] true (fun _ _ => []) addRn s
/-- `tew.mulrow` (R292) -/
def execTewMulrow (ac : BitVec 4) (sc : BitVec 8) (s : State) : Result :=
  tew ac.toNat 4 [sc.toNat] true (fun c _ => [c.team.accOpnd c.acc, .copy (c.slotBytes 0)]) mulRn s
/-- `tew.relu` (R292) -/
def execTewRelu (ac : BitVec 4) (s : State) : Result :=
  tew ac.toNat 5 [] false (fun c _ => [c.team.accOpnd c.acc]) (fun x _ => BitVec.ofNat 32 (fMinMax .f32 true false x.toNat 0)) s
/-- `tew.sq` (R292) -/
def execTewSq (ac : BitVec 4) (s : State) : Result :=
  tew ac.toNat 6 [] false (fun c _ => [c.team.accOpnd c.acc]) (fun x _ => mulRn x x) s
/-- `tew.tanh` (R292); its record keeps the result (R306) -/
def execTewTanh (ac : BitVec 4) (s : State) : Result :=
  tew ac.toNat 7 [] false (fun c t => [.copy (t.accBytes c.acc)]) (fun x _ => BitVec.ofNat 32 (sfuTanh x.toNat)) s
/-- `tew.neg` (R292) -/
def execTewNeg (ac : BitVec 4) (s : State) : Result := tew ac.toNat 8 [] false (fun _ _ => []) (fun x _ => x ^^^ 0x80000000) s

/-! ### Barriers of the Cooper (R278, R283, R290) -/

/-- Some thread of the team's launched groups is live. -/
def Team.anyLive (t : Team) : Bool := t.groups.any fun g => g.threads.any Thread.live

/-- `twait` (R283, R278): it completes when the phase has come, and otherwise waits, or stops the Cooper for good once no
launched thread lives, which it reports to the other members -/
def execTwait (n : BitVec 4) (s : State) : Result :=
  match s.coop? with
  | none => .refused .noIssuer
  | some (t, k) =>
    let j := SMap.getD k.twaits n.toNat 0 + 1
    let others := s.peers t
    if j ≤ t.phase n.toNat then
      .next ((s.mapTeam t.id (Team.mapCoop · fun k => { k with twaits := SMap.put k.twaits n.toNat j })).coopNext t.id 1)
    else if t.anyLive || decide (s.room t.core < others.length) then .next s
    else .next (others.foldl (fun s m => s.produce t.core t.id (.coopStop (t.ref m) t.member))
      (s.mapTeam t.id (Team.mapCoop · fun k => { k with wait := .stopped })))

/-- `tsig` (R283): a release at core scope of every earlier tile-stream instruction and task -/
def execTsig (n : BitVec 4) (s : State) : Result :=
  match s.coop? with
  | none => .refused .noIssuer
  | some (t, _) =>
    if s.coopDone t then
      .next (((s.mapTeam t.id fun t => { t with nbZ := SMap.put t.nbZ n.toNat (SMap.getD t.nbZ n.toNat 0 + 1) }).barrierProgress t.id).coopNext t.id 1)
    else .next s

/-- Every other Cooper of the cluster has arrived at generation `k` of object `b`, or has stopped, as counted here (R290). -/
def State.tbarMet (s : State) (t : Team) (b k : Nat) : Bool :=
  (s.peers t).all fun m => t.stopSeen.contains m || t.tbarSeen.any fun x => x.1 == m && x.2.1 == b && decide (k ≤ x.2.2)

/-- A Cooper whose `tbar` is complete goes on (R290). -/
def State.tbarGo (s : State) (team b k : Nat) : State :=
  match s.team? team with
  | none => s
  | some t => if s.tbarMet t b k then s.coopNext team 1 else s

/-- `tbar` (R290) -/
def execTbar (n : BitVec 4) (s : State) : Result :=
  match s.coop? with
  | none => .refused .noIssuer
  | some (t, k) =>
    match k.wait with
    | .tbar b g => .next (s.tbarGo t.id b g)
    | _ =>
      let others := s.peers t
      if s.coopRetired t && decide (others.length ≤ s.room t.core) then
        let g := SMap.getD t.tbarGen n.toNat 0 + 1
        let s := s.mapTeam t.id fun t => { t.mapCoop (fun k => { k with wait := .tbar n.toNat g }) with tbarGen := SMap.put t.tbarGen n.toNat g }
        .next ((others.foldl (fun s m => s.produce t.core t.id (.tbar (t.ref m) t.member n.toNat g)) s).tbarGo t.id n.toNat g)
      else .next s

/-! ### Declaring a task (R271, R293) -/

/-- A tile identifier; none where a reserved field or kind is used. -/
def tileId (x : Nat) (output : Bool) : Option Tile :=
  match x / 2 ^ 14 with
  | 0 => if nbits x 13 8 = 0 then some (.slot (nbits x 7 0)) else none
  | 1 => if nbits x 13 4 = 0 then some (.acc (nbits x 3 0)) else none
  | 2 => if output ∧ nbits x 13 0 = 0 then some .nothing else none
  | _ => none

/-- The header of a declaration: engine, output and inputs (R271). -/
def taskHeader (n : Nat) (ext : List Word) : Option (Nat × Tile × List Tile) :=
  let w0 := numAt ext 0
  let i := nbits w0 27 24
  let half := fun (k : Nat) => nbits (numAt ext (3 + k / 2)) (16 * (k % 2) + 15) (16 * (k % 2))
  let ins := (List.range i).filterMap fun k => tileId (half k) false
  if ext.length ≠ n ∨ n ≠ 3 + (i + 1) / 2 ∨ 8 < i ∨ 8 < nbits w0 31 28 ∨ nbits w0 23 16 ≠ 0 ∨ (i % 2 = 1 ∧ half i ≠ 0) ∨ ins.length ≠ i then none
  else (tileId (nbits w0 15 0) true).map fun o => (nbits w0 31 28, o, ins)

/-- The size a task's record will have; none where its operation is not recorded (R302, R305, R306). -/
def taskRecordSize (copied cmd : List Word) : Option Nat :=
  let stream := pad16 (4 * numAt cmd 1)
  match numAt cmd 0 / 2 ^ 24 with
  | 1 => some (recordSize copied [])
  | 2 => some (recordSize copied [])
  | 0x10 => some (recordSize copied [] + stream + if field0 cmd 13 12 = 2 then 0 else stream)
  | _ => none

/-- What reading memory for a Cooper comes to. -/
inductive CoopRead
  | ok (bs : List Byte)
  | violation (sub : Nat) (addr : VAddr)
  | poisoned (addr : VAddr)
  /-- it must wait for something these bytes need -/
  | wait (addr : VAddr) (n : Nat)
deriving DecidableEq, Repr

/-- A read of a Cooper, relaxed at core scope (R271, R308). -/
def State.coopRead (s : State) (t : Team) (a : DWord) (n : Nat) : CoopRead :=
  match s.globalCheck t a n false with
  | .violation sub => .violation sub (vaddr a)
  | .wait => .wait (vaddr a) n
  | .ok _ => match s.engBytes t false t.asid (vaddr a).toNat n with
    | .ok bs => .ok bs
    | .poisoned va => .poisoned va
    | .wait => .wait (vaddr a) n

/-- What a Cooper's read waits for is asked for (DESIGN CHOICE, log 7). -/
def State.coopAsk (s : State) (t : Team) (a : VAddr) (n : Nat) : State := (s.askRange? t.asid a.toNat n).getD s

/-- A task's command words: exactly those its code defines (R271). -/
def State.taskCommand (s : State) (t : Team) (eng : Nat) (block : DWord) : CoopRead :=
  match s.coopRead t block 4 with
  | .ok bs =>
    let n := (commandLength (eng == 8) (BitVec.ofNat 32 (leNat bs))).getD 1
    s.coopRead t block (4 * n)
  | x => x

/-- Tasks declared on a core (R271). -/
def State.tasksOn (s : State) (core : Nat) : Nat := ((s.teams.filter fun t => t.core == core).map fun t => t.tasks.length).sum

/-- `dtask` (R271, R293, R303) -/
def execDtask (n : BitVec 4) (ext : List Word) (s : State) : Result :=
  match s.coop? with
  | none => .refused .noIssuer
  | some (t, _) =>
    match taskHeader n.toNat ext with
    | none => .next (s.coopTrap t 0x01 0)
    | some (eng, out, ins) =>
      let accs := (out :: ins).filterMap fun x => match x with | .acc v => some v | _ => none
      let block := joinWords (ext.getD 1 0) (ext.getD 2 0)
      if accs.any fun v => decide (t.accs.length ≤ v) then .next (s.coopTrap t 0x02 0)
      else if block.toNat % 4 ≠ 0 then .next (s.coopTrap t 0x03 (vaddr block))
      else match s.taskCommand t eng block with
        | .wait a n => .next (s.coopAsk t a n)
        | .violation sub va => .next (s.breach t.id sub va)
        | .poisoned va => .next (s.killGangOf t.id 0x11 va)
        | .ok bs =>
          if Config.taskEntries ≤ s.tasksOn t.core || !s.journalFits t.core (bytesWords bs) then .next s
          else
            let cmd := bytesWords bs
            let size := if t.log.recording then taskRecordSize (ext ++ cmd) cmd else none
            let need := size.getD 0
            if size.isSome && !t.logRoom need then
              .next (s.logOverflow t (need / 16))
            else
              let (id, s) := (s.journalAll t.core (bytesWords bs)).ticket
              let task : Task := { id := id, engine := eng, out := out, ins := ins, block := vaddr block, cmd := cmd, ext := ext
                                   word := tileWord 0x74 0 0 false 0 n.toNat 0, recAt := size.map fun _ => t.log.ptr }
              .next ((s.mapTeam t.id fun t => { t.reserve need with tasks := t.tasks ++ [task] }).coopNext t.id (1 + n.toNat))

/-! ### Words that are no instruction -/

/-- A word that is no instruction for its fetcher (R22, R30, R42, R277): a group takes the tile-stream trap for a
tile-stream word and else the illegal-instruction trap; a Cooper takes the tile-stream trap for a word that is not of the
tile stream and else the illegal-instruction trap, once its earlier instructions have retired. -/
def execIllegalInstructionWord (w : Word) (s : State) : Result :=
  match s.actor with
  | .path _ _ _ =>
    match s.path? with
    | none => .refused .noIssuer
    | some c => .next (s.trapWord c { code := if decide (0x70 ≤ w.toNat / 2 ^ 25) then 0x09 else 0x01 })
  | .cooper _ =>
    match s.coop? with
    | none => .refused .noIssuer
    | some (t, _) => .next (s.coopTrap t (if decide (0x70 ≤ w.toNat / 2 ^ 25) then 0x01 else 0x09) 0)
  | .idle => .refused .noIssuer
  | .engine _ _ _ => .refused .noIssuer

end Sys2Proof.Machine
end

