-- ==== Sys2Proof/Machine/Reverse.lean ====
section
/-! DEFINITION. Record mode and reverse execution (R299 to R311, R316): `rec.beg`, `rec.end`, `reverse`, the check of a log and
the adjoint of each recorded operation. -/
namespace Sys2Proof.Machine
open Sys2Proof

/-! ### Entering and leaving record mode -/

/-- The fields of two extension words: an offset or address of 56 bits and the byte above it (R300, R308). -/
def extAddr (lo hi : Word) : VAddr := BitVec.ofNat 56 (lo.toNat + 2 ^ 32 * (hi.toNat % 2 ^ 24))
def extByte (hi : Word) : Nat := hi.toNat / 2 ^ 24

/-- `rec.beg` (R301) -/
def execRecBeg (w1 w2 w3 w4 : Word) (s : State) : Result :=
  match s.coop? with
  | none => .refused .noIssuer
  | some (t, _) =>
    let base := extAddr w1 w2
    let limit := extAddr w3 w4
    let logBase : Nat := ((s.launchOf t).map Launch.logBase).getD 0
    if 1 < extByte w2 ∨ extByte w4 ≠ 0 then .next (s.coopTrap t 0x01 0)
    else if !s.coopDone t then .next s
    else if t.log.recording ∨ logBase = 0 then .next (s.coopTrap t 0x09 0)
    else if base.toNat % 16 ≠ 0 ∨ limit.toNat % 16 ≠ 0 ∨ logBase % 16 ≠ 0 ∨ limit.toNat < base.toNat + 16 then .next (s.coopTrap t 0x03 0)
    else
      let o := BitVec.ofNat 64 (logBase + t.index * limit.toNat)
      .next ((s.mapTeam t.id fun t => { t with log := { t.log with
        origin := o
        base := base
        ptr := vaddr o + base + 16
        lim := vaddr o + limit
        last := 0
        count := 0
        policy := BitVec.ofNat 8 (extByte w2)
        recording := true
        begun := true
        mProv := []
        accProv := [] } }).coopNext t.id 5)

/-- `rec.end` (R307) -/
def execRecEnd (s : State) : Result :=
  match s.coop? with
  | none => .refused .noIssuer
  | some (t, _) =>
    if !t.log.recording then .next (s.coopTrap t 0x09 0)
    else if !s.coopDone t then .next s
    else
      .next ((s.mapTeam t.id fun t =>
        let l := t.log
        ({ t with log := { l with recording := false } }).pendWrite (l.origin + BitVec.ofNat 64 l.base.toNat)
          (leBytes 8 (full l.last).toNat ++ leBytes 4 l.count.toNat ++ leBytes 4 (2 ^ 24 * l.policy.toNat))).coopNext t.id 1)

/-! ### Reading the log -/

/-- Why a reverse does not go on. -/
inductive RevStop
  | damaged
  | misaligned (addr : VAddr)
  | violation (sub : Nat) (addr : VAddr)
  | poisoned (addr : VAddr)
  /-- it must wait, for something these bytes need where there are any -/
  | wait (addr : VAddr) (n : Nat)
deriving DecidableEq, Repr

/-- Bytes a reverse reads. -/
def State.revBytes (s : State) (t : Team) (a : DWord) (n : Nat) : Except RevStop (List Byte) :=
  match s.coopRead t a n with
  | .ok bs => .ok bs
  | .violation sub va => .error (.violation sub va)
  | .poisoned va => .error (.poisoned va)
  | .wait a n => .error (.wait a n)
/-- A number a reverse reads. -/
def State.revNat (s : State) (t : Team) (a : DWord) (n : Nat) : Except RevStop Nat := (s.revBytes t a n).map leNat
/-- Words a reverse reads. -/
def State.revWords (s : State) (t : Team) (a : DWord) (n : Nat) : Except RevStop (List Word) := (s.revBytes t a (4 * n)).map bytesWords
/-- Words a reverse reads at places of an array, in order; no other word of it is read (R309). -/
def State.revAt (s : State) (t : Team) (a : DWord) : List Nat → Except RevStop (List Word)
  | [] => .ok []
  | i :: r => do
    let w ← s.revWords t (a + BitVec.ofNat 64 (4 * i)) 1
    let ws ← State.revAt s t a r
    .ok (w ++ ws)

/-- The operation a record's word names: a tile-stream instruction, or a task with its number of extension words. -/
inductive RecOp
  | tld (m s : Nat)
  | tzero (a : Nat)
  | tmmaW (a m s : Nat)
  | tmmaS (a m s : Nat)
  | tstBf16 (a s : Nat) (h : Bool)
  | tstF32 (a s : Nat)
  | tew (op a s : Nat)
  | task (n : Nat)
deriving DecidableEq, Repr

/-- The recordable operation of a forward word, if it is one (R302). -/
def recordable (w : Word) : Option RecOp :=
  let f := fun (hi lo : Nat) => nbits w.toNat hi lo
  let none' := fun (hi lo : Nat) => f hi lo == 0
  let acc := f 24 21
  let m := f 20 18
  let sl := f 16 9
  match w.toNat / 2 ^ 25, f 4 0 with
  | 0x70, 0 => if none' 24 21 && none' 17 17 && none' 8 5 then some (.tld m sl) else none
  | 0x70, 1 => if none' 20 17 && none' 8 6 then some (.tstBf16 acc sl (f 5 5 == 1)) else none
  | 0x70, 2 => if none' 20 17 && none' 8 5 then some (.tstF32 acc sl) else none
  | 0x71, 0 => if none' 8 5 then some (.tmmaW acc m sl) else none
  | 0x71, 1 => if none' 8 5 && acc % 4 == 0 then some (.tmmaS acc m sl) else none
  | 0x72, 0 => if none' 20 5 then some (.tzero acc) else none
  | 0x72, 1 => if none' 20 17 && decide (f 8 5 ≤ 8) && (decide (f 8 5 < 5) || sl == 0) then some (.tew (f 8 5) acc sl) else none
  | 0x74, 0 => if none' 24 9 && f 8 5 != 0 then some (.task (f 8 5)) else none
  | _, _ => none

/-- The head of a record (R305): the check of R308 with the sequence number it must have, its words and the record before it. -/
def State.checkRecord (s : State) (t : Team) (rec : DWord) (k : Nat) : Except RevStop (List Word × DWord) := do
  let h ← s.revWords t rec 16
  let w := fun (i : Nat) => (h.getD i 0).toNat
  let entryOk := fun (i : Nat) => nbits (w (9 + 2 * i)) 29 24 == 0 && nbits (w (9 + 2 * i)) 31 30 != 3
  if w 2 ≠ k % 2 ^ 32 ∨ (recordable (h.getD 0 0)).isNone ∨ w 1 / 2 ^ 16 ≠ 0 ∨ nbits (w 3) 23 8 ≠ 0 ∨ w 6 ≠ 0 ∨ w 7 ≠ 0
      ∨ !((List.range 4).all entryOk) then .error .damaged
  else .ok (h, joinWords (h.getD 4 0) (h.getD 5 0))

/-- The first pass over the chain (R308): `k` records remain; the words read. -/
def State.checkChain (s : State) (t : Team) : Nat → DWord → Except RevStop (List Word)
  | k, 0 => if k = 0 then .ok [] else .error .damaged
  | 0, rec => do
    let (_, prev) ← s.checkRecord t rec 0
    if prev = 0 then .error .damaged
    else do
      let _ ← s.revWords t prev 16
      .error .damaged
  | k + 1, rec => do
    let (h, prev) ← s.checkRecord t rec (k + 1)
    let ws ← State.checkChain s t k prev
    .ok (h ++ ws)

/-- An operand of a record (R305, R306): its saved copy, or what its producer yields. -/
def State.operand (s : State) (t : Team) (rec : DWord) (i : Nat) : Except RevStop (List Byte) := do
  let e ← s.revNat t (rec + BitVec.ofNat 64 (0x20 + 8 * i)) 8
  if e / 2 ^ 62 = 1 then s.revBytes t (rec + BitVec.ofNat 64 (e % 2 ^ 56)) 4096
  else if e / 2 ^ 62 = 2 then
    let p := full (BitVec.ofNat 56 e)
    let w ← s.revNat t p 4
    match recordable (BitVec.ofNat 32 w) with
    | some (.tld _ _) => do
      let e0 ← s.revNat t (p + 0x20) 8
      s.revBytes t (p + BitVec.ofNat 64 (e0 % 2 ^ 56)) 4096
    | _ => .ok (List.replicate 4096 0)
  else .ok (List.replicate 4096 0)

/-! ### Adjoints (R297, R309 to R311) -/

/-- The grad-map entry of a team: three bases (R308). -/
structure GradMap where
  gm : DWord
  gacc : DWord
  gslot : DWord

/-- The FP32 array of an `m` register, a slot or an accumulator (R309). -/
def GradMap.dm (g : GradMap) (m : Nat) : DWord := g.gm + BitVec.ofNat 64 (16384 * m)
def GradMap.ds (g : GradMap) (k : Nat) : DWord := g.gslot + BitVec.ofNat 64 (16384 * k)
def GradMap.da (g : GradMap) (a : Nat) : DWord := g.gacc + BitVec.ofNat 64 (4096 * a)

/-- A write of one update: words at word offsets from a base; runs of consecutive words are written together. -/
abbrev WordWrites := List (Nat × Word)

/-- What one update of a record does: its writes, how far the seed and leaf pointers move, and whether it is a matrix product. -/
structure Update where
  writes : List (DWord × WordWrites) := []
  seed : Nat := 0
  leaf : Nat := 0
  /-- the words read: inputs of the core (R350) -/
  reads : List Word := []

/-- The words at `is` of an array gain others. -/
def gain (xs : List Word) (adds : List (Nat × Word)) : WordWrites := adds.map fun p => (p.1, addRn (xs.getD p.1 0) p.2)

/-- The value of an SP2 element times its scale (R65). -/
def sp2Exact (code scale : Nat) : FVal :=
  match scaleExp (BitVec.ofNat 8 scale) with
  | none => .nan true
  | some e => FVal.ofInt (sp2Value64 (BitVec.ofNat 8 code)) (e - 6) false

/-- A contraction added to an element in chunks of 8, ascending (R297). -/
def contract (x : Word) (ps : List FVal) : Word := (chunkSums (ps.length / 8 + 1) ps).foldl addRn x

/-- The words of the elements of d(m) of a product, by i and k (R309). -/
def gradMWords : List Nat := (List.range 32).flatMap fun i => (List.range 64).map fun k => 128 * i + 2 * k
/-- The words of the elements of d(slot) of a product, by k and n; `at'` is the word of one of them. -/
def gradSlotWords (at' : Nat → Nat → Nat) : List Nat := (List.range 64).flatMap fun k => (List.range 32).map fun n => at' k n
/-- The gradient of an operand of a product, contracted (R297): element (r, c) lies at place `width * r + c` of `is`, its old value in
`xs`; `rows` and `cols` are what is contracted. -/
def gradProduct (is : List Nat) (xs : List Word) (width : Nat) (rows cols : List (List FVal)) : WordWrites :=
  (rows.zipIdx).flatMap fun r => (cols.zipIdx).map fun c =>
    (is.getD (width * r.2 + c.2) 0, contract (xs.getD (width * r.2 + c.2) 0) ((r.1.zip c.1).map fun p => FVal.mul p.1 p.2))

/-- Rows of an accumulator's gradient as values. -/
def gradRows (ws : List Word) : List (List FVal) := (List.range 32).map fun i => ((ws.drop (32 * i)).take 32).map f32

/-- Word of element [i][n] of an FP32 slot (R309). -/
def f32Word (p : Nat × Nat) : Nat := 128 * p.1 + 4 * p.2
/-- Word of element [i][n] of an accumulator's gradient. -/
def accWord (p : Nat × Nat) : Nat := 32 * p.1 + p.2
/-- Words of bytes by element of an FP32 tile in stored order (R70). -/
def tileWordAt (bs : List Byte) (p : Nat × Nat) : Word := BitVec.ofNat 32 (leNat ((bs.drop (tileOffset p.1 (4 * p.2))).take 4))
/-- Words of an accumulator copy. -/
def copyWordAt (bs : List Byte) (p : Nat × Nat) : Word := BitVec.ofNat 32 (leNat ((bs.drop (4 * accWord p)).take 4))

/-- A tile-stream word's accumulator as a number of the own team. -/
def State.ownAcc (s : State) (t : Team) (v : Nat) : Nat := ((s.accPlace t v).map (·.2)).getD v

/-- Updates of a record: how many, in the order of R297's row, and whether each is a matrix product (R312). -/
def RecOp.updates : RecOp → Nat
  | .tld _ _ => 2 | .tzero _ => 1 | .tmmaW _ _ _ => 2 | .tmmaS _ _ _ => 8 | .tstBf16 _ _ _ => 2 | .tstF32 _ _ => 2
  | .tew op _ _ => if op = 0 ∨ op = 2 ∨ op = 4 then 2 else 1
  | .task _ => 2
/-- The operation is a matrix product. -/
def RecOp.isProduct : RecOp → Bool
  | .tmmaW _ _ _ => true | .tmmaS _ _ _ => true
  | .tld _ _ => false | .tzero _ => false | .tstBf16 _ _ _ => false | .tstF32 _ _ => false | .tew _ _ _ => false | .task _ => false

/-- The two updates of a product of A with 32 columns of B (R297, R316): `b` by column, `at'` the word of element (k, n). The update of
d(m) contracts over n, that of d(slot) over i. -/
def State.productUpdate (s : State) (t : Team) (g : GradMap) (acc m k : Nat) (at' : Nat → Nat → Nat) (a b : List (List FVal))
    (second : Bool) : Except RevStop Update := do
  let ws ← s.revWords t (g.da acc) 1024
  let d := gradRows ws
  if second then
    let is := gradSlotWords at'
    let xs ← s.revAt t (g.ds k) is
    .ok { writes := [(g.ds k, gradProduct is xs 32 (columns 64 a (.fin false 0 0)) (columns 32 d (.fin false 0 0)))], reads := ws ++ xs }
  else
    let xs ← s.revAt t (g.dm m) gradMWords
    .ok { writes := [(g.dm m, gradProduct gradMWords xs 64 d (columns 64 b (.fin false 0 0)))], reads := ws ++ xs }

/-- Words of a slot's gradient that an update of `tew` reads: one for each element, or for each column of row 0; none where it writes
the accumulator's gradient alone (R297). -/
def tewSlotWords (op : Nat) (second : Bool) : List Nat :=
  if op = 0 ∨ op = 2 then (if second then [] else elems32.map f32Word)
  else if op = 1 then elems32.map f32Word
  else if op = 3 ∨ (op = 4 ∧ !second) then (List.range 32).map (4 * ·)
  else []

/-- The adjoint of `tew` (R297); `x` is opnd0, `sl` opnd1, and `ds` holds the words `tewSlotWords` names. -/
def tewAdjoint (op : Nat) (d ds : List Word) (x sl : List Byte) (second : Bool) : Bool × WordWrites :=
  let dAt := fun (p : Nat × Nat) => d.getD (accWord p) 0
  let xAt := copyWordAt x
  let row := fun (n : Nat) (f : Nat × Nat → Word) => treeSum ((List.range 32).map fun i => f (i, n))
  let onAcc := fun (f : Nat × Nat → Word) => (true, elems32.map fun p => (accWord p, f p))
  let onSlot := fun (f : Nat × Nat → Word) => (false, (elems32.zip ds).map fun x => (f32Word x.1, addRn x.2 (f x.1)))
  let onRow := fun (f : Nat × Nat → Word) => (false, ((List.range 32).zip ds).map fun x => (4 * x.1, addRn x.2 (row x.1 f)))
  match op, second with
  | 0, false => onSlot dAt
  | 0, true => onAcc fun _ => 0
  | 1, _ => onSlot dAt
  | 2, false => onSlot fun p => mulRn (dAt p) (xAt p)
  | 2, true => onAcc fun p => mulRn (dAt p) (tileWordAt sl p)
  | 3, _ => onRow dAt
  | 4, false => onRow fun p => mulRn (dAt p) (xAt p)
  | 4, true => onAcc fun p => mulRn (dAt p) (tileWordAt sl (0, p.2))
  | 5, _ => onAcc fun p => if FVal.cmp (f32 (xAt p)) (.fin false 0 0) == some .gt then dAt p else 0
  | 6, _ => onAcc fun p => mulRn (mulRn (dAt p) 0x40000000) (xAt p)
  | 7, _ => onAcc fun p => mulRn (dAt p) (BitVec.ofNat 32 (fFma .f32 .rn false true false (xAt p).toNat (xAt p).toNat 0x3F800000))
  | _, _ => onAcc fun p => dAt p ^^^ 0x80000000

/-- The gradient through one opcode of the Press: the new g, and what gb gains (R311). -/
def pressBack (op : Nat) (x y b c g : Word) : Word × Option Word :=
  match op with
  | 1 => (g, some g)
  | 2 => (mulRn g b, some (mulRn g x))
  | 4 => (mulRn g c, none)
  | 5 => (mulRn g c, some g)
  | 6 => (if y = x && !(f32 x).isNan then g else 0, none)
  | 7 => (if y = x && !(f32 x).isNan then g else 0, none)
  | 8 => (if (f32 x).isNan then 0 else match FVal.cmp (f32 x) (.fin false 0 0) with
      | some .gt => g | some .lt => g ^^^ 0x80000000 | _ => 0, none)
  | 9 => (g ^^^ 0x80000000, none)
  | 10 => (mulRn g (mulRn x 0x40000000), none)
  | 11 => (mulRn g (mulRn y 0x3F317218), none)
  | 12 => (mulRn g (mulRn y y ^^^ 0x80000000), none)
  | 13 => (mulRn g (mulRn (mulRn (mulRn y y) y) 0xBF000000), none)
  | 14 => (mulRn g (BitVec.ofNat 32 (fFma .f32 .rn false true false y.toNat y.toNat 0x3F800000)), none)
  | _ => (g, none)

/-- The gradients of one element of A and of B, from the chain's gradient (R311). -/
def pressGrad (b : Word) : List (Nat × Word) → Word → Word → Word × Word
  | [], _, g => (g, 0)
  | (op, c) :: r, x, g =>
    let y := pressOp op x b c
    let (g', gb) := pressGrad b r y g
    let (g'', add) := pressBack op x y b c g'
    (g'', match add with
      | some v => addRn gb v
      | none => gb)

/-- The adjoint of a Press task (R311): its command and its saved streams. -/
def pressAdjoint (ws : List Word) (as bs : List Word) (seeds : List Word) : List Word × List Word :=
  let nops := field0 ws 19 16
  let ops := (List.range (if pressSums ws then nops - 1 else nops)).map fun k =>
    (pressSlot ws k % 16, ws.getD (if pressSlot ws k / 16 % 2 = 1 then 5 else 4) 0)
  let gs := as.mapIdx fun i x => pressGrad (bs.getD i 0) ops x (seeds.getD (if pressSums ws then 0 else i) 0)
  (gs.map (·.1), gs.map (·.2))

/-- Consecutive words written from a base. -/
def runOf (ws : List Word) : WordWrites := ws.mapIdx fun i w => (i, w)

/-- One update of a recorded task (R310, R311). -/
def State.taskUpdate (s : State) (t : Team) (g : GradMap) (rec : DWord) (n phase : Nat) : Except RevStop Update := do
  let ext ← s.revNat t (rec + 0x0C) 4
  let copied ← s.revWords t (rec + 0x40) (ext % 256)
  let cmd := copied.drop n
  match numAt cmd 0 / 2 ^ 24 with
  | 2 =>
    if phase ≠ 0 then .ok {}
    else do
      let a := g.da (field0 cmd 16 13)
      let d ← s.revWords t a 1024
      let seed ← s.revWords t t.log.revSeed 1024
      .ok { writes := [(a, gain d (runOf seed))], seed := 4096, reads := copied ++ d ++ seed }
  | 1 =>
    let n := if field0 cmd 21 18 = 9 then 3 else 1
    let base := g.ds (field0 cmd 15 8)
    if phase = 0 then do
      let d ← s.revWords t base (4096 * n)
      .ok { writes := [(t.log.revLeaf, runOf d)], reads := copied ++ d }
    else .ok { writes := [(base, runOf (List.replicate (4096 * n) 0))], leaf := 16384 * n }
  | 0x10 =>
    if phase ≠ 0 then .ok {}
    else do
      let n := numAt cmd 1
      let two := field0 cmd 13 12 ≠ 2
      let size := pad16 (4 * n)
      let e0 ← s.revNat t (rec + 0x20) 8
      let e1 ← s.revNat t (rec + 0x28) 8
      let as ← s.revWords t (rec + BitVec.ofNat 64 (e0 % 2 ^ 56)) n
      let bs ← if two then s.revWords t (rec + BitVec.ofNat 64 (e1 % 2 ^ 56)) n else .ok []
      let k := if pressSums cmd then 1 else n
      let seeds ← s.revWords t t.log.revSeed k
      let (ga, gb) := pressAdjoint cmd as bs seeds
      .ok { writes := (t.log.revLeaf, runOf ga) :: (if two then [(t.log.revLeaf + BitVec.ofNat 64 size, runOf gb)] else [])
            seed := pad16 (4 * k), leaf := if two then 2 * size else size
            reads := copied ++ as ++ bs ++ seeds }
  | _ => .ok {}

/-- Update number `phase` of a record (R297, R309, R316). -/
def State.update (s : State) (t : Team) (g : GradMap) (rec : DWord) (op : RecOp) (phase : Nat) : Except RevStop Update := do
  match op with
  | .tld m k =>
    if phase = 0 then
      let d ← s.revWords t (g.dm m) 4096
      let x ← s.revWords t (g.ds k) 4096
      .ok { writes := [(g.ds k, gain x (runOf d))], reads := d ++ x }
    else .ok { writes := [(g.dm m, runOf (List.replicate 4096 0))] }
  | .tzero v => .ok { writes := [(g.da (s.ownAcc t v), runOf (List.replicate 1024 0))] }
  | .tmmaW v m k =>
    let a ← s.operand t rec 0
    let b ← s.operand t rec 1
    let rows := fun (x : List Byte) => (List.range 32).map fun i => bf16Pairs (tileRow x i)
    let u ← s.productUpdate t g (s.ownAcc t v) m k (fun kk n => 128 * n + 2 * kk) (rows a) (rows b) (phase == 1)
    .ok { u with reads := bytesWords a ++ bytesWords b ++ u.reads }
  | .tmmaS v m k =>
    let a ← s.operand t rec 0
    let b0 ← s.operand t rec 1
    let b1 ← s.operand t rec 2
    let b2 ← s.operand t rec 3
    let b := b0 ++ b1 ++ b2
    let q := phase / 2
    let vals := (List.range 64).map fun kk => ((tileRow b kk).zip (tileRow b (64 + kk / 32))).map fun p => sp2Exact p.1 p.2
    let cols := ((columns 128 vals (.fin false 0 0)).drop (32 * q)).take 32
    let u ← s.productUpdate t g (s.ownAcc t (v + q)) m k (fun kk n => 128 * kk + 32 * q + n)
      ((List.range 32).map fun i => bf16Pairs (tileRow a i)) cols (phase % 2 == 1)
    .ok { u with reads := bytesWords a ++ bytesWords b ++ u.reads }
  | .tstBf16 v k h =>
    let word := fun (p : Nat × Nat) => 128 * p.1 + 2 * ((if h then 32 else 0) + p.2)
    if phase = 0 then
      let x ← s.revAt t (g.ds k) (elems32.map word)
      let d ← s.revWords t (g.da (s.ownAcc t v)) 1024
      .ok { writes := [(g.da (s.ownAcc t v), gain d (runOf x))], reads := x ++ d }
    else .ok { writes := [(g.ds k, elems32.map fun p => (word p, 0))] }
  | .tstF32 v k =>
    if phase = 0 then
      let x ← s.revAt t (g.ds k) (elems32.map f32Word)
      let d ← s.revWords t (g.da (s.ownAcc t v)) 1024
      .ok { writes := [(g.da (s.ownAcc t v), gain d (runOf x))], reads := x ++ d }
    else .ok { writes := [(g.ds k, elems32.map fun p => (f32Word p, 0))] }
  | .tew op v k =>
    let d ← s.revWords t (g.da (s.ownAcc t v)) 1024
    let x ← s.operand t rec 0
    let sl ← s.operand t rec 1
    let ds ← s.revAt t (g.ds k) (tewSlotWords op (phase == 1))
    let (onAcc, ws) := tewAdjoint op d ds x sl (phase == 1)
    .ok { writes := [(if onAcc then g.da (s.ownAcc t v) else g.ds k, ws)], reads := d ++ bytesWords x ++ bytesWords sl ++ ds }
  | .task n => s.taskUpdate t g rec n phase

/-! ### `reverse` -/

/-- The writes of an update, queued in order; runs of consecutive words stay together. -/
def queueWords (base : DWord) : WordWrites → Option (Nat × List Byte) → Team → Team
  | [], none, t => t
  | [], some (a, bs), t => t.pendWrite (base + BitVec.ofNat 64 (4 * a)) bs
  | (i, w) :: r, none, t => queueWords base r (some (i, leBytes 4 w.toNat)) t
  | (i, w) :: r, some (a, bs), t =>
    if i = a + bs.length / 4 ∧ bs.length < 128 then queueWords base r (some (a, bs ++ leBytes 4 w.toNat)) t
    else queueWords base r (some (i, leBytes 4 w.toNat)) (t.pendWrite (base + BitVec.ofNat 64 (4 * a)) bs)

/-- The words of a team's grad-map entry. -/
def State.gradWords (s : State) (t : Team) (gmap : VAddr) : Except RevStop (List Word) :=
  s.revWords t (full gmap + BitVec.ofNat 64 (64 * t.index)) 16
/-- The address at place `i` of a grad-map entry. -/
def gradAddr (w : List Word) (i : Nat) : DWord := joinWords (w.getD (2 * i) 0) (w.getD (2 * i + 1) 0)

/-- The check of a team's grad-map entry (R308): its words. -/
def State.gradMap (s : State) (t : Team) (gmap : VAddr) : Except RevStop (List Word) := do
  if gmap.toNat % 16 ≠ 0 then .error (.misaligned gmap)
  else
    let w ← s.gradWords t gmap
    if (List.range 6).any fun i => w.getD (10 + i) 0 != 0 then .error .damaged
    else match (List.range 5).find? fun i => decide ((gradAddr w i).toNat % 16 ≠ 0) with
      | some i => .error (.misaligned (vaddr (gradAddr w i)))
      | none => .ok w

/-- What a reverse starts with: its first record, the first seed and leaf (R308), and the words read. -/
structure RevBegin where
  first : DWord
  seed : DWord
  leaf : DWord
  reads : List Word
deriving DecidableEq, Repr

/-- The start of a reverse: the grad map and the whole chain are checked (R308). -/
def State.revStart (s : State) (t : Team) (base gmap : VAddr) : Except RevStop RevBegin := do
  let w ← s.gradMap t gmap
  let desc := t.log.origin + BitVec.ofNat 64 base.toNat
  let first ← s.revNat t desc 8
  let k ← s.revNat t (desc + 8) 4
  let hs ← s.checkChain t k (BitVec.ofNat 64 first)
  .ok { first := BitVec.ofNat 64 first, seed := gradAddr w 3, leaf := gradAddr w 4, reads := w ++ hs }

/-- The next update of the current record: its queued writes, and what follows it. -/
def State.revUpdate (s : State) (t : Team) (gmap : VAddr) : Except RevStop State := do
  let at' := t.log.revRec
  let w ← s.gradWords t gmap
  let g : GradMap := { gm := gradAddr w 0, gacc := gradAddr w 1, gslot := gradAddr w 2 }
  let h ← s.revWords t at' 16
  let op := (recordable (h.getD 0 0)).getD (.task 0)
  if op.isProduct && !t.tensorMay then .error (.wait 0 0)
  else
    let u ← s.update t g at' op t.log.revPhase
    let reads := w ++ h ++ u.reads
    if !s.journalFits t.core reads then .error (.wait 0 0)
    else
    let last := decide (op.updates ≤ t.log.revPhase + 1)
    let s := s.journalAll t.core reads
    let s := if op.isProduct then s.payTensor t else s
    .ok (s.mapTeam t.id fun t =>
      let t := u.writes.foldl (fun t w => queueWords w.1 w.2 none t) t
      { t with log := { t.log with
        revPhase := if last then 0 else t.log.revPhase + 1
        revRec := if last then joinWords (h.getD 4 0) (h.getD 5 0) else at'
        revSeed := t.log.revSeed + BitVec.ofNat 64 u.seed
        revLeaf := t.log.revLeaf + BitVec.ofNat 64 u.leaf } })

/-- What a stopped reverse comes to. -/
def State.revStopped (s : State) (t : Team) : RevStop → State
  | .damaged => s.coopTrap t 0x09 0
  | .misaligned va => s.coopTrap t 0x03 va
  | .violation sub va => s.breach t.id sub va
  | .poisoned va => s.killGangOf t.id 0x11 va
  | .wait a n => s.coopAsk t a n

/-- `reverse` (R308 to R312): it checks the whole chain, then makes the updates of each record in descending order, one at a
time, and retires once its writes are made -/
def execReverse (w1 w2 w3 w4 : Word) (s : State) : Result :=
  match s.coop? with
  | none => .refused .noIssuer
  | some (t, _) =>
    let base := extAddr w1 w2
    let gmap := extAddr w3 w4
    if !s.coopDone t then .next s
    else if t.log.revOn then
      if t.log.revRec = 0 then .next ((s.mapTeam t.id fun t => { t with log := { t.log with revOn := false } }).coopNext t.id 5)
      else match s.revUpdate t gmap with
        | .ok s => .next s
        | .error e => .next (s.revStopped t e)
    else if t.log.recording ∨ !t.log.begun ∨ extByte w2 ≠ 0 ∨ extByte w4 ≠ 0 then .next (s.coopTrap t 0x09 0)
    else match s.revStart t base gmap with
      | .ok r =>
        if !s.journalFits t.core r.reads then .next s
        else .next ((s.journalAll t.core r.reads).mapTeam t.id fun t =>
          { t with log := { t.log with revOn := true, revRec := r.first, revPhase := 0, revSeed := r.seed, revLeaf := r.leaf } })
      | .error e => .next (s.revStopped t e)

end Sys2Proof.Machine
end

