-- ==== Sys2Proof/Machine/Preempt.lean ====
section
/-! DEFINITION. Pre-emption and vintages (R339 to R344, R275, R298, R313): what a save waits for, the image of a team, the save,
the return to placing, the holding of roles at a lap and the vintage of a gang. -/
namespace Sys2Proof.Machine
open Sys2Proof

/-! ### Who is stopped -/

/-- A pre-emption stops issue, fetch and the admission of the team's commands (R340, R275); a gang whose vintage is being written
completes that first (R344). -/
def State.saving (s : State) (t : Team) : Bool :=
  match s.launchOf t with
  | some l => l.state == .preempting && (SMap.get? l.vintaging t.cluster).isNone
  | none => false

/-- The lap the next vintage of a cluster is taken at (R343). -/
def Launch.nextLap (l : Launch) (cluster : Nat) : Nat := SMap.getD l.vintageNext cluster l.laps

/-- A role of a team has reached the lap of the next vintage (R343). -/
def State.lapReached (s : State) (t : Team) (kind : Nat) : Bool :=
  match s.launchOf t with
  | some l => decide (l.laps ≠ 0) && (s.port t.asid).vintOn && t.parent.isNone && decide (l.nextLap t.cluster ≤ SMap.getD t.laps kind 0 / 32)
  | none => false

/-- Every role of a team waits for the vintage; its Cooper and its engines then wait too (R298, R275). -/
def State.teamAtLap (s : State) (t : Team) : Bool := t.parent.isNone && t.groups.all fun g => s.lapReached t g.role

/-- A core's die changes its service: it issues nothing more, and stops at its next instruction boundary (R395). -/
def State.dieStopped (s : State) (core : Nat) : Bool := (s.die (dieOf core)).transition.isSome
/-- A group may not issue: its team is being saved, or its role waits for a vintage; an instruction that has begun to convert
pages runs to its boundary. -/
def State.groupHeld (s : State) (t : Team) (g : Group) : Bool := g.conv.isNone && (s.saving t || s.lapReached t g.role || s.dieStopped t.core)
/-- The Cooper may not issue; a reverse runs to the boundary of its record (R313). -/
def State.cooperHeld (s : State) (t : Team) : Bool :=
  (s.saving t || s.teamAtLap t || s.dieStopped t.core) && !(t.log.revOn && decide (t.log.revPhase ≠ 0))
/-- Nothing of the team is admitted to an engine. -/
def State.engineHeld (s : State) (t : Team) : Bool := s.saving t || s.teamAtLap t || s.dieStopped t.core

/-! ### What a save waits for (R340, R275, R298) -/

/-- Every instruction of the group has run to its boundary with its results written. -/
def Group.settledDown (g : Group) : Bool := g.drained && g.conv.isNone

/-- The team is at its boundaries and nothing of it is in flight. -/
def State.quiet (s : State) (t : Team) : Bool :=
  t.groups.all Group.settledDown
    && !((s.core t.core).buffer.any fun e => e.team == t.id)
    && !((s.core t.core).ops.any fun o => o.2.any fun x => x.team == t.id)
    && t.log.pend.isEmpty && !(t.log.revOn && decide (t.log.revPhase ≠ 0))

/-- A team with its spawned descendants, in the order they were placed. -/
def State.familyOf (s : State) (t : Team) : List Team :=
  let ids := s.withChildren 5 [t.id]
  t :: s.teams.filter fun u => u.id != t.id && ids.contains u.id

/-- A thread whose wait is abandoned: it issues its instruction again (R129, R150, R340). -/
def Thread.redo (handler : Bool) (t : Thread) : Thread :=
  if handler && t.resume.isNone then { t with status := .parked, resume := some t.pc } else { t with status := .running }

/-- A thread as an image holds it (R340): without speculation, an unfinished pop or exchange abandoned. -/
def Thread.atSave (handler : Bool) (t : Thread) : Thread :=
  let t := { t with spec := [], rel := none }
  match t.status with
  | .blocked (.pop _) => t.redo handler
  | .blocked (.exchange _) => t.redo handler
  | _ => t

/-- A team as an image holds it: an unfinished `tbar` is abandoned with its arrival (R298). -/
def Team.atSave (t : Team) : Team :=
  let u := { t with
    pops := []
    imageAt := none
    groups := t.groups.map fun (g : Group) => { g with threads := g.threads.map (Thread.atSave g.handler) } }
  match t.cooper.map (fun (k : Cooper) => k.wait) with
  | some (CoopWait.tbar b gen) => { u.mapCoop (fun k => { k with wait := .running }) with tbarGen := SMap.put u.tbarGen b (gen - 1) }
  | _ => u

/-! ### Images (R341) -/

/-- Bytes of a team's image with the spawned teams `kids`. -/
def imageBytes (t : Team) (kids : List Team) : Nat :=
  let groups := (t.groups ++ kids.flatMap (·.groups))
  (1024 + (groups.map fun g => 832 + 128 * g.regs).sum + 8192 + 1024 + Config.granuleBytes * ((t :: kids).map (·.granules.length)).sum
    + 4096 * (t.mregs.length + t.accs.length) + 4095) / 4096 * 4096

/-- Words the device alone defines, from a place in the image on. -/
def deviceWords (save at' n : Nat) : List Word := (List.range n).map fun i => Config.imageWord save (at' + i)

/-- The words of a group's section: the `v` registers are thread-major at its end. -/
def groupImage (save at' : Nat) (g : Group) : List Word :=
  deviceWords save at' 208 ++ (List.range 32).flatMap fun i => (List.range g.regs).map fun n => (g.thread i).v.getD n 0

/-- The words of a team's scratchpad. -/
def scratchImage (t : Team) : List Word := (List.range (t.granules.length * Config.granuleBytes / 4)).map fun i => t.scratch.word (4 * i)

/-- Appends a section that depends on where it begins. -/
def appendAt (ws : List Word) (f : Nat → List Word) : List Word := ws ++ f ws.length

/-- A team's image: for a vintage, `lap` is its lap count (R341). -/
def teamImage (save : Nat) (t : Team) (kids : List Team) (lap : Option Nat) : List Word :=
  let groups := t.groups ++ kids.flatMap (·.groups)
  let flags := (if groups.any (·.handler) then 2 else 0) + (if lap.isSome then 1 else 0)
  let head : List Word := [BitVec.ofNat 32 (imageBytes t kids / 4096 * 65536 + 1), BitVec.ofNat 32 t.seq, BitVec.ofNat 32 t.index,
    BitVec.ofNat 32 (groups.length * 65536 + flags), BitVec.ofNat 32 (lap.getD 0), BitVec.ofNat 32 (lap.getD 0 / 2 ^ 32)]
  let ws := head ++ deviceWords save 6 250
  let ws := groups.foldl (fun ws g => appendAt ws fun n => groupImage save n g) ws
  let ws := appendAt ws fun n => deviceWords save n 2304
  let ws := (t :: kids).foldl (fun ws u => ws ++ scratchImage u) ws
  appendAt ws fun n => deviceWords save n (imageBytes t kids / 4 - n)

/-- Every page of `n` 4 KiB units from a virtual address is mapped writable; none where a walk must wait. -/
def State.writableUnits (s : State) (asid : Nat) : Nat → Nat → Option Bool
  | 0, _ => some true
  | n + 1, va =>
    if 2 ^ 56 ≤ va then some false
    else match s.walk asid (BitVec.ofNat 56 va) with
      | .wait => none
      | .invalid => some false
      | .poisoned => some false
      | .found e => if permits e.perm .store && e.attr != 1 then State.writableUnits s asid n (va + 4096) else some false

/-- Words of an image line written from a virtual address on; none where one must wait. -/
def State.writeImage (s : State) (asid : Nat) : Nat → List Word → Option State
  | _, [] => some s
  | va, w :: r =>
    match s.distWrite asid va w with
    | none => none
    | some s => State.writeImage s asid (va + 4) r

/-- The oldest settled line of an image is performed at its home (R340, DESIGN CHOICE, log 16); none where it must wait and nothing is
to be asked for. -/
def State.tryImage (s : State) : Option State :=
  match s.imageWrites with
  | [] => none
  | x :: r =>
    match s.writeImage x.asid x.va x.words with
    | some s => some { s with imageWrites := r }
    | none => s.askRange? x.asid x.va 128

/-- The lines of a team's image that its core's settling buffer has room for enter it (R340, R343, R349). -/
def State.produceImage (s : State) (t : Team) (va : Nat) (ws : List Word) : State :=
  let done := t.imageAt.getD 0
  let lines := ((chunks32 (ws.length / 32 + 1) ws).drop done).take (s.room t.core)
  (lines.zipIdx.foldl (fun s x => s.produce t.core t.id (.image t.asid (va + 128 * (done + x.2)) x.1)) s).mapTeam t.id fun t =>
    { t with imageAt := some (done + lines.length) }

/-- The team is part of a save and every line of its image, with spawned teams `kids`, has been produced, settled and performed. -/
def State.imageDone (s : State) (t : Team) (kids : List Team) : Bool :=
  decide (imageBytes t kids / 128 ≤ t.imageAt.getD 0) && !(s.imageWrites.any fun x => x.team == t.id)
    && !((s.core t.core).buffer.any fun e => e.team == t.id && (match e.eff with | .image _ _ _ => true | _ => false))

/-- What a team whose image is to be written does next: it begins once it is quiet with its descendants, or produces lines; none where it
must wait. A rollback takes it back to where its core's state stood (R352). -/
def State.imageStep (s : State) (t : Team) (kids : List Team) (va : Nat) (words : List Word) : Option State :=
  match t.imageAt with
  | none => if (t :: kids).all s.quiet then some (s.mapTeam t.id fun t => { t with imageAt := some 0 }) else none
  | some n => if n < imageBytes t kids / 128 ∧ 0 < s.room t.core then some (s.produceImage t va words) else none

/-! ### The save area -/

/-- Teams of a launch that are resident, without spawned ones. -/
def State.residents (s : State) (l : Launch) : List Team :=
  s.teams.filter fun t => t.asid == l.asid && t.seq == l.seq && t.parent.isNone

/-- What the images of a launch would come to: pstate 3 or 4 where one cannot be written, 2 where all can; none where a walk
must wait (R339). -/
def State.imagesCheck (s : State) (l : Launch) : Option Nat :=
  let p := s.port l.asid
  let sizes := (s.residents l).map fun t => (t.index, imageBytes t ((s.familyOf t).drop 1))
  if sizes.any fun x => decide (p.stride * 4096 < x.2) then some 3
  else
    let pages := sizes.map fun x => s.writableUnits l.asid (x.2 / 4096) (p.saveBase.toNat + x.1 * p.stride * 4096)
    if pages.contains none then none else if pages.contains (some false) then some 4 else some 2

/-- The pre-emption that `lp_preempt` names starts, where its launch runs or is placing and the save area takes its images; none where a
walk of the save area must wait. A launch with laps saves none (R339, R340, R344). -/
def State.preemptTry (s : State) (asid : Nat) : Option State :=
  let seq := (s.port asid).preemptSeq.toNat
  let answer := fun (c : Nat) (s : State) => s.mapPort asid fun p => { p with pstate := c, preemptCheck := false }
  match s.launch? asid seq with
  | none => some (answer 5 s)
  | some l =>
    if l.state ≠ .running ∧ l.state ≠ .placing then some (answer 5 s)
    else match (if l.laps ≠ 0 then some 2 else s.imagesCheck l) with
      | none => none
      | some 2 => some (answer 1 (s.mapLaunch asid seq fun l => { l with state := .preempting, flushUpto := [], imaging := none }))
      | some c => some (answer c s)

/-- A write to `lp_preempt` (R339, R340): one while a save is stopping its launch is ignored; otherwise it names a launch and a stride,
and the launch stops once the save area is known to take its images. -/
def State.preemptWrite (s : State) (asid : Nat) (value : DWord) : State :=
  if (s.port asid).pstate = 1 then s
  else
    let s := s.mapPort asid fun p => { p with stride := value.toNat / 2 ^ 32 % 2 ^ 24, preemptSeq := BitVec.ofNat 32 (value.toNat % 2 ^ 32) }
    (s.preemptTry asid).getD (s.mapPort asid fun p => { p with pstate := 1, preemptCheck := true })

/-- LP_PREEMPT_WRITE (R339) -/
def execLpPreemptWrite (asid : Nat) (value : DWord) (s : State) : Result :=
  if asid < Config.numAsids then .next (s.preemptWrite asid value) else .refused .notDue

/-! ### The save -/

/-- Takes teams off the machine whole, with nothing of them counted as dropped. -/
def State.liftTeams (s : State) (ids : List Nat) : State :=
  { s with
    teams := s.teams.filter (fun t => !ids.contains t.id)
    cores := s.cores.map fun (ck : Nat × Core) =>
      (ck.1, { ck.2.dropTeams ids with lastPage := if s.teams.any fun t => t.core == ck.1 && ids.contains t.id then [] else ck.2.lastPage }) }

/-- Requests for children of a family that wait on some core. -/
def State.familyRequests (s : State) (fam : List Team) : List SpawnReq :=
  s.cores.flatMap fun ck => ck.2.spawnQ.filter fun q => fam.any fun t => t.id == q.parent.team

/-- The cores of a launch's teams, spawned ones included. -/
def State.launchCores (s : State) (l : Launch) : List Nat :=
  ((s.teams.filter fun t => t.asid == l.asid && t.seq == l.seq).map (·.core)).eraseDups

/-- The save acts as a release at system scope on every core of the launch (R251, R340): whether everything up to the effects
noted is performed. -/
def State.saveFlushed (s : State) (l : Launch) : Bool := l.flushUpto.all fun x => (s.core x.1).released .sys x.2

/-- The launch goes on as if nothing had happened (R340). -/
def State.saveRefused (s : State) (l : Launch) (code : Nat) : State :=
  ((s.mapLaunch l.asid l.seq fun l => { l with state := .placing, flushUpto := [] }).mapPort l.asid fun p => { p with pstate := code }).launchProgress
    l.asid l.seq

/-- The launch is pre-empted: `back` are the indices it places first on its return, `saved` what it restores, from images at `at'`. -/
def State.preempted (s : State) (l : Launch) (back : List Nat) (saved : SMap (List Team)) (at' : SMap Nat) : State :=
  (s.mapLaunch l.asid l.seq fun l => { l with
    state := .preempted
    flushUpto := []
    imaging := none
    toPlace := back ++ l.toPlace.filter (fun i => !back.contains i)
    saved := saved.foldl (fun m x => SMap.put m x.1 x.2) l.saved
    savedAt := at'.foldl (fun m x => SMap.put m x.1 x.2) l.savedAt }).mapPort l.asid fun p => { p with pstate := 2 }

/-- Where the image of a team goes (R340). -/
def Port.imageBase (p : Port) (t : Team) : Nat := p.saveBase.toNat + t.index * p.stride * 4096

/-- A team whose image is written leaves the machine with its descendants, and its room is freed (R340 step 4). -/
def State.saveTeam (s : State) (t : Team) : State :=
  let fam := s.familyOf t
  let reqs := s.familyRequests fam
  let s := (s.liftTeams (fam.map (·.id))).offerRoom t
  s.mapLaunch t.asid t.seq fun l => { l with
    saved := SMap.put l.saved t.index (fam.map Team.atSave)
    savedReqs := SMap.put l.savedReqs t.index reqs
    savedAt := SMap.put l.savedAt t.index ((s.port t.asid).imageBase t) }

/-- One step of the writing of a launch's images (R340 steps 3 and 4): a team begins or goes on with its image, or leaves; once none is
left the launch is pre-empted, its saved teams first to be placed again (R342). None where it must wait. -/
def State.saveStep (s : State) (l : Launch) (save : Nat) : Option State :=
  let ts := sortBy (fun (a b : Team) => decide (a.index ≤ b.index)) (s.residents l)
  if ts.isEmpty then some (s.preempted l (l.saved.map (·.1)) [] [])
  else match ts.findSome? fun t =>
      let kids := (s.familyOf t).drop 1
      s.imageStep t kids ((s.port l.asid).imageBase t) (teamImage save t kids none) with
    | some s => some s
    | none => (ts.find? fun t => s.imageDone t ((s.familyOf t).drop 1)).map fun t => s.saveTeam t

/-- The gangs of a launch with laps are discarded with their unsettled effects; each restarts from its current vintage, or from
the record (R344). -/
def State.discardGangs (s : State) (l : Launch) : State :=
  let ts := s.residents l
  let clusters := (ts.map (·.cluster)).eraseDups
  let ids := s.withChildren 5 (ts.map (·.id))
  let s := s.dropTeams ids
  let s := { s with cores := s.cores.map fun (ck : Nat × Core) => (ck.1, Core.discard ck.2 fun e => ids.contains e.team) }
  let s := ts.foldl (fun s t => s.offerRoom t) s
  let saved := clusters.flatMap fun c => match SMap.get? l.vintage c with
    | some v => v.2.map fun t => (t.index, [t])
    | none => []
  let places := saved.filterMap fun x => (SMap.get? l.vintageAt x.1).map fun va => (x.1, va)
  let next := clusters.foldl (fun m c => match SMap.get? l.vintage c with
    | some v => SMap.put m c (v.1 + l.laps)
    | none => SMap.del m c) l.vintageNext
  let back := sortNat (clusters.flatMap l.clusterIndices)
  (s.mapLaunch l.asid l.seq fun l => { l with vintageNext := next }).preempted l
    (back.filter (fun i => saved.any fun x => x.1 == i) ++ back.filter fun i => !(saved.any fun x => x.1 == i)) saved places

/-- PREEMPT_SAVED (R340, R344): a stopping launch goes on with its save: the check of its save area, the boundaries of its teams and the
effects they have produced, then the images; one that cannot be written lets the launch go on -/
def execPreemptSaved (asid : Nat) (s : State) : Result :=
  if (s.port asid).preemptCheck then
    match s.preemptTry asid with
    | some s => .next s
    | none => .refused .notDue
  else match (s.port asid).launches.find? fun l => l.state == .preempting with
  | none => .refused .notDue
  | some l =>
    if l.laps ≠ 0 then (if l.vintaging.isEmpty then .next (s.discardGangs l) else .refused .notDue)
    else match l.imaging with
    | some save => (match s.saveStep l save with
      | some s => .next s
      | none => .refused .notDue)
    | none =>
      let ts := s.teams.filter fun t => t.asid == l.asid && t.seq == l.seq
      let cores := s.launchCores l
      if !(ts.all s.quiet) then .refused .notDue
      else if l.flushUpto.isEmpty && !cores.isEmpty then
        .next (s.mapLaunch asid l.seq fun l => { l with flushUpto := cores.map fun c => (c, (s.core c).effNo) })
      else match cores.find? fun c => !(s.core c).paths.isEmpty && decide ((s.core c).paths.length ≤ s.room c) && (s.core c).writes.isEmpty with
        | some c => .next (s.sendMarks c s.fresh)
        | none =>
          if !s.saveFlushed l then .refused .notDue
          else match s.imagesCheck l with
            | none => .refused .notDue
            | some 2 =>
              let (save, s) := s.ticket
              .next (s.mapLaunch asid l.seq fun l => { l with imaging := some save })
            | some code => .next (s.saveRefused l code)

/-- A write to `lp_resume` (R339, R342): the launch saved in `lp_preempt` returns to placing, from the first core on; other writes are
ignored. -/
def State.resumeWrite (s : State) (asid : Nat) (value : DWord) : State :=
  let seq := value.toNat % 2 ^ 32
  match s.launch? asid seq with
  | none => s
  | some l =>
    if l.state = .preempted ∧ (s.port asid).preemptSeq.toNat = seq then
      ((s.mapLaunch asid seq fun l => { l with state := .placing, cursor := 0 }).mapPort asid fun p =>
        { p with pstate := 0, resumeSeq := BitVec.ofNat 32 seq }).launchProgress asid seq
    else s

/-- LP_RESUME_WRITE (R339, R342) -/
def execLpResumeWrite (asid : Nat) (value : DWord) (s : State) : Result :=
  if asid < Config.numAsids then .next (s.resumeWrite asid value) else .refused .notDue

/-! ### Vintages (R343) -/

/-- The members of a gang, ascending. -/
def State.gang (s : State) (asid seq cluster : Nat) : List Team :=
  sortBy (fun (a b : Team) => decide (a.member ≤ b.member))
    (s.teams.filter fun t => t.asid == asid && t.seq == seq && t.cluster == cluster && t.parent.isNone)

/-- A vintage needs no room for spawned groups: no member has children or requests for them. -/
def State.childless (s : State) (ts : List Team) : Bool :=
  !(s.teams.any fun u => ts.any fun t => (u.parent.map (·.team)) == some t.id) && (s.familyRequests ts).isEmpty

/-- Where the vintage image of a team goes in buffer `b`: its size counts the launched groups alone (R343). -/
def Port.vintageBase (p : Port) (t : Team) (b : Nat) : Nat := p.vintBase.toNat + (2 * t.index + b) * imageBytes t []

/-- Whether every page of a gang's images in buffer `b` is mapped writable; none where a walk must wait. -/
def State.vintagePages (s : State) (asid b : Nat) (ts : List Team) : Option Bool :=
  let pages := ts.map fun t => s.writableUnits asid (imageBytes t [] / 4096) ((s.port asid).vintageBase t b)
  if pages.contains none then none else some (!pages.contains (some false))

/-- The vintage of a gang at lap `lap`, written to buffer `b`, is current: the gang goes on to the next lap (R343). -/
def State.vintageCurrent (s : State) (l : Launch) (cluster lap b : Nat) (ts : List Team) : State :=
  let s := ts.foldl (fun s t => s.inputTeam t.id fun t => { t with imageAt := none }) s
  s.mapLaunch l.asid l.seq fun l => { l with
    vintage := SMap.put l.vintage cluster (lap, ts.map Team.atSave)
    vintageAt := ts.foldl (fun m t => SMap.put m t.index ((s.port l.asid).vintageBase t b)) l.vintageAt
    vintaging := SMap.del l.vintaging cluster
    vintageBuf := SMap.put l.vintageBuf cluster (1 - b)
    vintageNext := SMap.put l.vintageNext cluster (lap + l.laps) }

/-- VINTAGE_WRITE (R343): every role of every team of a gang has stopped at a lap; the images are written, and once all have settled the
vintage is current and the gang goes on (DESIGN CHOICE, log 16). A vintage that would need room for spawned groups, or whose pages are not
writable, is not taken -/
def execVintageWrite (asid seq cluster : Nat) (s : State) : Result :=
  match s.launch? asid seq with
  | none => .refused .notDue
  | some l =>
    let ts := s.gang asid seq cluster
    let lap := l.nextLap cluster
    let b := SMap.getD l.vintageBuf cluster 0
    if ts.length ≠ l.clusterSize then .refused .notDue
    else match SMap.get? l.vintaging cluster with
      | some (save, _) =>
        (match (ts.filter s.teamAtLap).findSome? fun t => s.imageStep t [] ((s.port asid).vintageBase t b) (teamImage save t [] (some lap)) with
        | some s => .next s
        | none => if ts.all fun t => s.imageDone t [] then .next (s.vintageCurrent l cluster lap b ts) else .refused .notDue)
      | none =>
        if l.state ≠ .preempting ∧ ts.all s.teamAtLap ∧ ts.all s.quiet then
          (match (if s.childless ts then s.vintagePages asid b ts else some false) with
          | none => .refused .notDue
          | some false => .next (s.mapLaunch asid seq fun l => { l with vintageNext := SMap.put l.vintageNext cluster (lap + l.laps) })
          | some true =>
            let (save, s) := s.ticket
            .next (s.mapLaunch asid seq fun l => { l with vintaging := SMap.put l.vintaging cluster (save, lap) }))
        else .refused .notDue

end Sys2Proof.Machine
end

