-- ==== Sys2Proof/Machine/Strike.lean ====
section
/-! DEFINITION. Soft errors (R345 to R357, R405): snapshots, the rollback of a core, strike reports, checker mismatches, the fence,
poison. -/
namespace Sys2Proof.Machine
open Sys2Proof

/-! ### Snapshots (R350) -/

/-- What a snapshot, or the point an effect is produced at, holds of a core. -/
def State.saveOf (s : State) (core : Nat) : Saved :=
  let k := s.core core
  { at' := s.now core, effNo := k.effNo, teams := s.teams.filter (fun t => t.core == core), ops := k.ops, locks := k.locks, spawnQ := k.spawnQ }

/-- A snapshot is due: the cycle counter is a multiple of D, and none of this ccyc is kept; none while the core has stopped for its
die's change of service (R395). -/
def State.snapshotDue (s : State) (core : Nat) : Bool :=
  s.alive (dieOf core) && (s.core core).stop.isNone && decide (s.now core % s.bound core = 0) && (s.core core).snaps.all fun v => v.at' != s.now core

/-- SNAPSHOT (R350): the two newest are kept, and the journal forgets what entered before the older of them -/
def execSnapshot (core : Nat) (s : State) : Result :=
  if s.snapshotDue core then
    .next (s.mapCore core fun k =>
      let kept := (s.saveOf core :: k.snaps).take 2
      let oldest := (kept.map (·.at')).foldl min (s.now core)
      { k with snaps := kept, journal := k.journal.filter (fun j => decide (oldest ≤ j.1)) })
  else .refused .notDue

/-- The machine notes each core's state at the production of its effects: what re-execution up to p comes to (R350). -/
def State.noteMarks (before s : State) : State :=
  (s.cores.filter fun ck => decide ((before.core ck.1).effNo < ck.2.effNo)).foldl (fun s (ck : Nat × Core) =>
    s.mapCore ck.1 fun k => { k with marks := k.marks ++ [s.saveOf ck.1] }) s

/-! ### Rollback (R350, R351, R405) -/

/-- What the snapshots of a core hold on which nothing has stood yet. -/
def Core.blank (k : Core) : Saved := { effNo := k.effNo, ops := k.ops, locks := k.locks, spawnQ := k.spawnQ }

/-- What a rollback to time `t` restores: the newest kept snapshot at or before `t`, or, where the last settled effect was
produced after it, the state at that production, which re-execution reproduces exactly. The snapshot is given too. -/
def Core.rollbackTo (k : Core) (t : Nat) : Option (Saved × Saved) :=
  match k.snaps.find? fun v => decide (v.at' ≤ t) with
  | none => if k.snaps.isEmpty then some (k.blank, k.blank) else none
  | some v =>
    if k.settled ≤ v.effNo then some (v, v)
    else some (v, (k.marks.find? fun m => decide (k.settled ≤ m.effNo)).getD v)

/-- A restored team: the tokens it has spent are the governor's, not the snapshot's. -/
def State.respend (s : State) (t : Team) : Team :=
  match s.team? t.id with
  | some u => { t with tensorSpent := u.tensorSpent, sfuSpent := u.sfuSpent, tensorIssued := u.tensorIssued, sfuIssued := u.sfuIssued }
  | none => t

/-- The effect is the end of a team that the saved state holds no more: an ending or a retirement stands at a rollback (R405). -/
def Saved.stands (v : Saved) (e : Entry) : Bool :=
  !(v.teams.any fun t => t.id == e.team) && (match e.eff with
    | .teamEnd _ _ _ => true
    | .childEnd _ _ => true
    | .childDone _ => true
    | _ => false)

/-- The effects of a core produced after a saved state are discarded, but for those that stand, which are numbered anew after it. -/
def Core.backTo (k : Core) (v : Saved) : Core :=
  let k := k.discard fun e => decide (v.effNo < e.no) && !v.stands e
  let (old, stood) := k.buffer.partition fun e => decide (e.no ≤ v.effNo)
  { k with
    effNo := v.effNo + stood.length
    buffer := old ++ stood.mapIdx fun i e => { e with no := v.effNo + 1 + i } }

/-- A group without speculation entries: a rollback of its core invalidates them (R125). -/
def Group.dropSpec (g : Group) : Group := { g with threads := g.threads.map fun t => { t with spec := [] } }
/-- A team without speculation entries. -/
def Team.dropSpec (t : Team) : Team := { t with groups := t.groups.map Group.dropSpec }

/-- Puts back what a saved state holds of a core, and discards the effects produced after it. -/
def State.restore (s : State) (core : Nat) (snap : Saved) (v : Saved) : State :=
  let back := v.teams.map fun t => (s.respend t).dropSpec
  let s := { s with teams := (s.teams.filter fun (t : Team) => t.core != core) ++ back }
  s.mapCore core fun k =>
    let k := k.backTo v
    { k with
      ops := v.ops
      locks := v.locks
      spawnQ := v.spawnQ
      latch := none
      stop := none
      lastPage := []
      current := []
      snaps := k.snaps.filter (fun x => decide (x.at' ≤ snap.at'))
      marks := k.marks.filter (fun x => decide (x.effNo ≤ v.effNo)) ++ (if k.effNo = v.effNo then [] else [{ v with effNo := k.effNo }])
      journal := k.journal.filter (fun j => decide (j.1 ≤ v.at'))
      rollbacks := min (2 ^ 32 - 1) (k.rollbacks + 1) }

/-- What reached the core since goes on at the restored teams. -/
def State.goOn (s : State) (core : Nat) : State :=
  let s := (s.teams.filter fun t => t.core == core).foldl (fun s t => (s.queueProgress t.id).barrierProgress t.id) s
  (((s.spawnProgress core).l1Progress core).enginesProgress core)

/-- The gangs with a team on a core, killed with a cause (R355, R352). -/
def State.killOn (s : State) (core code : Nat) : State :=
  ((s.teams.filter fun t => t.core == core).map fun t => (t.asid, t.seq, t.cluster)).eraseDups.foldl
    (fun s g => s.killGang g.1 g.2.1 g.2.2 code 0) s

/-- A core stops for its die's change of service: it keeps the state it stops in beside its two newest snapshots (R395). -/
def State.stopCore (s : State) (core : Nat) : State :=
  s.mapCore core fun k => { k with snaps := s.saveOf core :: (k.snaps.filter fun v => v.at' != s.now core).take 2, stop := some (s.now core) }

/-- Every instruction of the core's teams is at its boundary (R395). -/
def State.atBoundary (s : State) (core : Nat) : Bool :=
  s.teams.all fun t => t.core != core || ((t.groups.all fun g => g.conv.isNone) && !(t.log.revOn && decide (t.log.revPhase ≠ 0)))

/-- A core of a die that changes its service has still to stop, and is at an instruction boundary (R395). -/
def State.stopDue (s : State) (core : Nat) : Bool :=
  (s.die (dieOf core)).transition.isSome && (s.core core).stop.isNone && s.atBoundary core

/-- The core stops if it is to. -/
def State.tryStop (s : State) (core : Nat) : State := if s.stopDue core then s.stopCore core else s

/-- A rollback of a core to time `t`; one that has stopped for its die's change of service stops again at a later boundary, and its wait
restarts (R395). -/
def State.rollback (s : State) (core t : Nat) : State :=
  match (s.core core).rollbackTo t with
  | none => s.killOn core 0x10
  | some (snap, v) => if snap.lost then s.killOn core 0x11 else (s.restore core snap v).goOn core

/-- A core of a die that runs. -/
def State.coreRuns (s : State) (core : Nat) : Bool := decide (core < Config.numCores) && s.alive (dieOf core)

/-- A time at most D before now, as a report of it brings it (R345, R405). -/
def State.recent (s : State) (core t : Nat) : Bool := decide (t ≤ s.now core) && decide (s.now core ≤ t + s.bound core)

/-- STRIKE_REPORT (R345, R350, R352): counted, and on a core that is not fenced a rollback -/
def execStrikeReport (core time : Nat) (s : State) : Result :=
  if s.coreRuns core && s.recent core time then
    let s := s.mapCore core fun k => { k with strikes := min (2 ^ 16 - 1) (k.strikes + 1) }
    if (s.core core).fenced then .next s else .next (s.rollback core time)
  else .refused .notDue

/-! ### Checkers (R353 to R355) -/

/-- The mismatch repeats that of its origin. -/
def State.secondMismatch (s : State) (core : Nat) (origin : Origin) (t : Nat) : Bool :=
  let k := s.core core
  k.originSet && k.origin == origin && decide (k.originAt ≤ t) && decide (t ≤ k.originAt + 4 * s.bound core)

/-- A core is fenced: the gangs on it are killed with cause 0x10 (R355). -/
def State.fence (s : State) (core : Nat) : State :=
  (s.mapCore core fun k => { k with pipelineError := true, fenced := true }).killOn core 0x10

/-- CHECKER_MISMATCH (R353, R354): the first of an origin rolls the core back, a second is a pipeline error -/
def execCheckerMismatch (core : Nat) (origin : Origin) (time : Nat) (s : State) : Result :=
  if s.coreRuns core && s.recent core time && !(s.core core).fenced then
    let second := s.secondMismatch core origin time
    let s := s.mapCore core fun k =>
      { k with mismatches := min (2 ^ 16 - 1) (k.mismatches + 1), origin := origin, originAt := time, originSet := true }
    .next (if second then s.fence core else s.rollback core time)
  else .refused .notDue

/-! ### Uncorrectable errors (R356, R352) -/

/-- Poisons a word of a cache, where it holds the word. -/
def Cache.poisonWord (c : Cache) (line w : Nat) : Cache :=
  c.map fun (nl : Nat × Line) =>
    if nl.1 = line then (nl.1, { nl.2 with ws := nl.2.ws.map fun (wc : Nat × WordCell) =>
      if wc.1 = w && wc.2.st != .i then (w, { wc.2 with poison := true }) else wc }) else nl

/-- A word of memory is poisoned. -/
def State.addPoison (s : State) (w : Nat) : State := { s with poison := if s.poison.contains w then s.poison else w :: s.poison }

/-- A word that only a directory could find is poisoned at its home and in every cache that holds it (DESIGN CHOICE, log 66). -/
def State.poisonEverywhere (s : State) (w : Nat) : State :=
  { s.addPoison w with
    cores := s.cores.map fun (ck : Nat × Core) =>
      (ck.1, { ck.2 with l1 := ck.2.l1.poisonWord (w / 32) (w % 32), victim := ck.2.victim.poisonWord (w / 32) (w % 32) })
    dies := s.dies.map fun (d : Die) =>
      { d with rdc := d.rdc.poisonWord (w / 32) (w % 32), rdcVictim := d.rdcVictim.poisonWord (w / 32) (w % 32) } }

/-- A list of poisoned places with one more. -/
def withPlace (l : List Nat) (x : Nat) : List Nat := if l.contains x then l else x :: l

/-- An error in something a resident team holds: due where the team holds it. -/
def State.teamError (s : State) (team : Nat) (held : Team → Bool) (f : Team → Team) : Result :=
  match s.team? team with
  | none => .refused .notDue
  | some t => if held t then .next (s.mapTeam team f) else .refused .notDue

/-- An error in a register of a group. -/
def State.groupError (s : State) (team group : Nat) (held : Group → Bool) (f : Group → Group) : Result :=
  match (s.team? team).bind (·.group? group) with
  | none => .refused .notDue
  | some g => if held g then .next (s.mapGroup team group f) else .refused .notDue

/-- UNCORRECTABLE_ERROR (R356): the words an array lost are poisoned; of the snapshot store, a snapshot is lost (R352) -/
def execUncorrectableError (site : ErrorSite) (s : State) : Result :=
  match site with
  | .dram pa =>
    if onPackage pa then .next (s.addPoison (pa / 4)) else .refused .notDue
  | .l1 core pa =>
    if s.coreRuns core then .next (s.mapCore core fun k => { k with l1 := k.l1.poisonWord (pa / 128) (pa / 4 % 32) }) else .refused .notDue
  | .rdc die pa =>
    if s.alive die then .next (s.mapDie die fun d => { d with rdc := d.rdc.poisonWord (pa / 128) (pa / 4 % 32) }) else .refused .notDue
  | .l2 die pa =>
    if s.alive die && (s.die die).l2.contains (pa / 128) then .next (s.addPoison (pa / 4)) else .refused .notDue
  | .directory pa =>
    if onPackage pa then .next (s.poisonEverywhere (pa / 4)) else .refused .notDue
  | .scratch team off =>
    s.teamError team (fun t => decide (off < t.granules.length * Config.granuleBytes)) fun t => { t with scratchPoison := withPlace t.scratchPoison (off / 4) }
  | .mreg team off =>
    s.teamError team (fun t => decide (off < 4096 * t.mregs.length)) fun t => { t with mPoison := withPlace t.mPoison (off / 4) }
  | .acc team off =>
    s.teamError team (fun t => decide (off < 4096 * t.accs.length)) fun t => { t with accPoison := withPlace t.accPoison (off / 4) }
  | .vreg team group pos reg =>
    s.groupError team group (fun g => decide (pos < 32) && (decide (reg < g.regs) || (decide (128 ≤ reg) && decide (reg < 136))))
      (·.mapAt [pos] fun _ t => { t with poison := withPlace t.poison reg })
  | .preg team group pos reg =>
    s.groupError team group (fun _ => decide (pos < 32) && decide (reg < 16) && decide (reg % 8 ≠ 0))
      (·.mapAt [pos] fun _ t => { t with ppoison := withPlace t.ppoison reg })
  | .kreg team group reg =>
    s.groupError team group (fun _ => decide (0 < reg) && decide (reg < 72)) fun g => { g with kpoison := withPlace g.kpoison reg }
  | .snapshot core time =>
    if (s.core core).snaps.any fun v => v.at' == time then
      .next (s.mapCore core fun k => { k with snaps := k.snaps.map fun (v : Saved) => if v.at' = time then { v with lost := true } else v })
    else .refused .notDue

end Sys2Proof.Machine
end

