-- ==== Sys2Proof/Machine/Death.lean ====
section
/-! DEFINITION. Links and the death of dies: refused and resent messages (R365, R379), rate steps (R379), the ways a die dies (R376),
what the survivors do (R377, R378), and the loss of another package (R380). -/
namespace Sys2Proof.Machine
open Sys2Proof

/-- NACK (R365): the receiver refuses a message whose class buffer is full and the sender sends it again; only the count is seen -/
def execNack (link : Nat) (s : State) : Result :=
  if link < numLinks ∧ (s.link link).rate ≠ 3 then .next (s.mapLink link fun l => { l with nacks := min (2 ^ 16 - 1) (l.nacks + 1) })
  else .refused .notDue

/-- LINK_LEVEL_RETRY (R379): a link resends every frame that is not acknowledged, so that no traffic is lost; `frames` of its frames
had been corrected meanwhile (DESIGN CHOICE, log 35) -/
def execLinkLevelRetry (link frames : Nat) (s : State) : Result :=
  if link < numLinks ∧ (s.link link).rate ≠ 3 then .next (s.mapLink link fun l => { l with fec := min (2 ^ 32 - 1) (l.fec + frames) })
  else .refused .notDue

/-! ### A die dies (R376) -/

/-- A party on the die. -/
def onDie (d : Nat) (n : Node) : Bool := nodeDie n == some d

/-- A message that carries no value of its core's, and dies with its sender (R376, R369). -/
def MsgKind.diesWithSender : MsgKind → Bool
  | .rds => true | .rdOwn => true | .ownNd => true | .upg => true | .wbReq => true
  | .snpFwd => true | .snpOwn => true | .snpInv => true | .snpRcl => true
  | .atomReq => false | .gnt => false | .snpAck => false | .snpData => false | .wbGnt => false | .wbData => false | .cleanEv => false
  | .cmp => false | .mir => false | .mirAck => false | .mirClr => false | .mark => false | .markAck => false
  | .dieDown => false | .rbReport => true | .takeReq => true

/-- What becomes of a message in flight when a party of it is gone: nothing reaches the dead, whose share of an answer is poison; a
grant of a dead home is poisoned, and its write-back grants name nothing. -/
def afterDeath (gone : Node → Bool) (w : Wire) : List Wire :=
  if gone w.msg.dst then (if gone w.msg.src then [] else deadAnswer w)
  else if !gone w.msg.src then [w]
  else if w.kind.diesWithSender then []
  else match w.kind with
    | .gnt => [{ w with msg := { w.msg with poison := w.msg.mask, data := (wordsOf w.msg.mask).map fun i => (i, 0) } }]
    | .wbGnt => [{ w with msg := { w.msg with mask := 0 } }]
    | _ => [w]

/-- The kind of message a transaction answers. -/
def Req.kind : Req → MsgKind
  | .rds => .rds | .rdOwn => .rdOwn | .ownNd => .ownNd | .upg => .upg | .atomReq => .atomReq | .wb => .wbReq
  | .snpFwd => .snpFwd | .snpOwn => .snpOwn | .snpInv => .snpInv | .snpRcl => .snpRcl | .recall => .snpRcl

/-- The requests of living parties that a hub has not answered. -/
def Hub.unanswered (h : Hub) (gone : Node → Bool) : List Wire :=
  (h.waitq ++ h.txns.map fun t => Wire.mk t.req.kind t.msg).filter fun w => w.kind.isRequest && !gone w.msg.src

/-- A hub without the messages that die with their senders, or that were to go to the dead. -/
def Hub.without (gone : Node → Bool) (h : Hub) : Hub :=
  { h with
    waitq := h.waitq.filter fun w => !(gone w.msg.src && w.kind.diesWithSender)
    outq := h.outq.filter fun w => !gone w.msg.dst }

/-- The same for every hub. -/
def State.dropRequests (s : State) (gone : Node → Bool) : State :=
  { s with
    dies := s.dies.map fun d => { d with home := d.home.without gone, rdcHub := d.rdcHub.without gone }
    ios := s.ios.map fun i => { i with hub := i.hub.without gone } }

/-- The gangs with a team on a die are killed (R376). -/
def State.killOnDie (s : State) (d : Nat) : State :=
  ((s.teams.filter fun t => dieOf t.core == d).map fun t => (t.asid, t.seq, t.cluster)).eraseDups.foldl
    (fun s g => s.killGang g.1 g.2.1 g.2.2 0x11 0) s

/-- Requests for children that waited on a die go back to their parents' cores (R162). -/
def State.returnRequests (s : State) (d : Nat) : State :=
  ((s.cores.filter fun ck => dieOf ck.1 == d).flatMap fun ck => ck.2.spawnQ).foldl (fun s q =>
    match s.team? q.parent.team with
    | some p => if dieOf p.core = d then s else s.mapCore p.core fun k => { k with spawnQ := k.spawnQ ++ [q] }
    | none => s) s

/-- What stays of a core whose die is dead: its register block, which its I/O die holds until the die is reset (R320, R355, R362). -/
def Core.afterDeath (k : Core) : Core :=
  { rollbacks := k.rollbacks, mismatches := k.mismatches, strikes := k.strikes, remoteDrops := k.remoteDrops,
    pipelineError := k.pipelineError, fenced := k.fenced, origin := k.origin, originAt := k.originAt, originSet := k.originSet }

/-- Where the slices of a dead die move: to its buddy, or to the living die of its quarter with the lowest local index (R377). -/
def State.newHolder (s : State) (d : Nat) : Nat :=
  if s.alive (buddyOf d) then buddyOf d else (((List.range 6).map fun i => d / 6 * 6 + i).find? s.alive).getD d

/-- A line no memory has, for messages that are about none. -/
def noLine : Nat := 2 ^ 45

/-- The words of a dead die's caches whose latest value its buddy had not acknowledged: they are lost, whatever the buddy holds
(R378). -/
def State.unacknowledged (s : State) (d line : Nat) : Mask :=
  maskWhere fun w => ((s.die d).rdcCell line w).mirs != 0
    || s.cores.any fun c => dieOf c.1 == d && (c.2.cell line w).mirs != 0

/-- DieDown goes from the party that detected a death to every living compute die and I/O die (R376). -/
def State.announce (s : State) (frm : Node) (d : Nat) : State :=
  let rcv := ((List.range Config.numDies).filter fun k => k != d && s.alive k).map Node.home ++ (List.range 4).map Node.ioHome
  rcv.foldl (fun s n => s.send .dieDown { src := frm, dst := n, line := noLine, mask := 0, tag := d }) s

/-- A die's death is detected (R376): its gangs are killed, what had not left it is lost, nothing is sent to it any more, its slices move
(R377 step 1), and the living are told. -/
def State.declareDead (s : State) (frm : Node) (d cause : Nat) : State :=
  let gone := onDie d
  let s := (s.killOnDie d).returnRequests d
  let hub := s.die d
  let owed := (hub.home.unanswered gone ++ hub.rdcHub.unanswered gone).flatMap deadAnswer
    ++ (hub.home.outq ++ hub.rdcHub.outq).flatMap (afterDeath gone)
  let unacked := (s.die (buddyOf d)).mirror.filterMap fun e => if e.1 = d then some (e.2.1, s.unacknowledged d e.2.1) else none
  let s := s.dropRequests gone
  let s := { s with
    wires := s.wires.flatMap (afterDeath gone) ++ owed
    early := s.early.filter fun m => !gone m.dst && homeOf (m.line * 128) != Node.home d
    cores := s.cores.map fun (ck : Nat × Core) => if dieOf ck.1 = d then (ck.1, ck.2.afterDeath) else ck }
  let s := s.mapDie d fun k =>
    { k with state := 3, cause := cause, rebuilt := false, transition := none, l2 := [], rdc := [], rdcVictim := [], writing := [], rdcHub := {}, home := {}
             quarterFilter := [], deviceFilter := [], told := [], mirror := [] }
  let s := s.mapDie (buddyOf d) fun k => { k with
    unmirrored := true
    mirror := unacked.foldl (fun m x => m.filterMap (mirrorDrop d x.1 x.2)) k.mirror }
  let moved := s.slices.filter fun x => x.2.1 == d
  let s := { s with
    slices := (s.slices.map fun (x : Nat × Nat × List Nat) => if x.2.1 = d then (x.1, s.newHolder d, []) else x) ++ [(d, s.newHolder d, [])] }
  let s := moved.foldl (fun s x => s.mapDie x.1 fun k => { k with rebuilt := false }) s
  (s.announce frm d).sendFar

/-- A snoop of a living directory waits for an answer of a party on the die. -/
def State.snoopUnanswered (s : State) (gone : Node → Bool) : Bool :=
  let waits := fun (h : Hub) => h.txns.any fun t => t.req != .wb && t.waits.any fun w => gone w.1
  s.dies.any (fun d => waits d.home) || s.ios.any fun i => waits i.hub

/-- The directory that has waited for an answer of the die. -/
def State.waitingHome (s : State) (gone : Node → Bool) : Node :=
  (((List.range Config.numDies).map Node.home ++ (List.range 4).map Node.ioHome).find? fun n =>
    (s.hub n).txns.any fun t => t.req != .wb && t.waits.any fun w => gone w.1).getD (.ioHome 0)

/-- SNOOP_TIMEOUT (R376): a snoop to the die, or to its RDC, has gone unanswered for 50 µs -/
def execSnoopTimeout (die : Nat) (s : State) : Result :=
  if s.alive die && s.snoopUnanswered (onDie die) then .next (s.declareDead (s.waitingHome (onDie die)) die 1) else .refused .notDue

/-- The kill bit of a die is set (R376): I/O die 0 tells the others. -/
def State.killDie (s : State) (die : Nat) : State :=
  let s := if (s.die die).state = 3 then s else s.declareDead (.ioHome 0) die 3
  s.mapDie die fun k => { k with kill := true }

/-- DD_STATE_KILL (R376) -/
def execDdStateKill (die : Nat) (s : State) : Result :=
  if die < Config.numDies then .next (s.killDie die) else .refused .notDue

/-- DIE_OVERTEMPERATURE (R403): above 125 °C a die, in reset too, sets its own kill bit -/
def execDieOvertemperature (die : Nat) (s : State) : Result :=
  if die < Config.numDies ∧ (s.die die).state ≠ 3 ∧ 125 < (s.die die).tempC then .next (s.killDie die) else .refused .notDue

/-- LINK_RATE_STEP (R379): a lane's margin has fallen below the link's threshold, to `margin`: the link steps down one rate, or at its
lowest is taken down; a die all of whose links are down is dead (R376). CXL ports are not stepped -/
def execLinkRateStep (link margin : Nat) (s : State) : Result :=
  let r := (s.link link).rate
  if link < 112 ∧ r < 3 then
    let s := s.mapLink link fun l => { l with rate := r + 1, stepped := l.stepped || decide (r < 2), margin := min 255 margin }
    let d := link / 4
    if link < 96 && (List.range 4).all (fun e => (s.link (4 * d + e)).rate == 3) && (s.die d).state != 3 then .next (s.declareDead (.ioHome (d / 6)) d 2) else .next s
  else .refused .notDue

/-! ### What the survivors do (R377) -/

/-- A living die reports on the moved slices of the dead dies that it has been told of, to their holders (R377 step 2). -/
def State.sendReports (s : State) (k : Nat) : State :=
  (s.slices.filter fun x => (s.die k).told.contains x.1 && !x.2.2.contains k).foldl (fun s x =>
    let m : Msg := { src := .home k, dst := .home x.2.1, line := noLine, mask := 0, tag := x.1 }
    if s.wires.any fun w => w.kind == .rbReport && w.msg == m then s else s.send .rbReport m) s

/-- DIE_DOWN (R376, R377): a living die learns of the death, and reports on the moved slices -/
def execDieDown (m : Msg) (s : State) : Result :=
  onMessage .dieDown (fun m s => match m.dst with
    | .home k => (s.mapDie k fun x => { x with told := x.told ++ [m.tag] }).sendReports k
    | .ioHome i => { s with ios := s.ios.modify i fun x => { x with told := x.told ++ [m.tag] } }
    | _ => s) m s

/-- The slice of a line that a dead die held. -/
def onSlice (dead line : Nat) : Bool := (sliceDies line).contains dead

/-- What an RDC's report says of a line: its die holds copies, and owns the words it owns. -/
def FilterEntry.report (e : FilterEntry) (i : Nat) (l : Line) : FilterEntry :=
  { dies := e.dies ||| BitVec.ofNat 24 (2 ^ i)
    owners := (l.ws.filter fun x => x.2.tracked && x.2.owned).foldl (fun o x => SMap.put o x.1 i) e.owners }

/-- The holder of a moved slice builds its entries from the report of a die: the lines homed there, by their home entries, and the lines
that its RDC holds (R377 step 2). -/
def State.rebuild (s : State) (k dead : Nat) : State :=
  let s := ((s.die k).home.dir.filter fun e => onSlice dead e.1).foldl (fun s e => s.noteFilters e.1) s
  ((s.die k).rdc.filter fun l => onSlice dead l.1).foldl (fun s (l : Nat × Line) =>
    match homeOf (l.1 * 128), sliceDies l.1 with
    | .home d, [q, v] =>
      let quarter := k / 6 == d / 6
      if s.isDead (.home d) || (if quarter then q else v) != dead then s
      else s.mapFilter (s.sliceHolder dead) quarter fun f =>
        let e := ((f.find? fun (e : Nat × FilterEntry) => e.1 == l.1).map (·.2)).getD {}
        setFilter f l.1 (e.report (if quarter then k % 6 else k) l.2)
    | _, _ => s) s

/-- RB_REPORT (R377 step 2): a living die's report of the holders of the lines whose slices moved from die `dead`, which the message's tag
names, reaches the slices' new holder; it says what the living die holds as it arrives (DEDUCED, log 17) -/
def execRbReport (dead : Nat) (m : Msg) (s : State) : Result :=
  onMessage .rbReport (fun m s => match m.src, m.dst with
    | .home k, .home h =>
      if s.slices.any fun x => x.1 == dead && x.2.1 == h then
        let s := s.rebuild k dead
        { s with slices := s.slices.map fun (x : Nat × Nat × List Nat) =>
            if x.1 = dead ∧ !x.2.2.contains k then (x.1, x.2.1, x.2.2 ++ [k]) else x }
      else s
    | _, _ => s) { m with tag := dead } s

/-- Every living die has reported on the slices of a dead die. -/
def State.allReported (s : State) (dead : Nat) : Bool :=
  s.slices.any fun x => x.1 == dead && (List.range Config.numDies).all fun d => !s.alive d || x.2.2.contains d

/-- The buddy's RDC takes a word over as its owner, dirty (R377 step 3); a word homed on the buddy itself goes home. -/
def State.takeWord (s : State) (b dead line : Nat) (x : Nat × Word × Bool) : State :=
  let n := homeOf (line * 128)
  let w := x.1
  let e := (s.hub n).entry line
  let far := match n with
    | .pkg _ => true
    | _ => false
  if !far && e.ownerOf w != some (.rdc dead) then s
  else if n = .home b then (s.setHomeWord (line * 32 + w) x.2.1 x.2.2).mapEntry n line fun e => e.disown w
  else
    let others := (e.sharersOf w).filter fun y => y != .rdc b
    let s := s.mapEntry n line fun e => (e.share w others).own w (.rdc b)
    s.mapDie b fun k => k.putRdc line w { st := .m, val := x.2.1, tracked := true, poison := x.2.2, shr := !others.isEmpty }

/-- Transactions of the line that wait for the dead die ask its buddy too, which now owns what it took over. -/
def State.askBuddy (s : State) (n : Node) (b dead line : Nat) : State :=
  let mine := (s.hub n).txns.filter fun t => t.on line && t.req != .wb && t.waits.any fun w => w.1 == .rdc dead
  mine.foldl (fun s t =>
    let ws := (s.snoopsFor n t.req t.msg).filter fun w => w.msg.dst == .rdc b
    let (now, later) := if t.waits.any fun w => w.1 == .rdc b then ([], ws) else firstPer ws []
    let t' : Txn := { t with
      waits := t.waits ++ now.map (fun w => (w.msg.dst, w.msg.mask))
      queue := t.queue ++ later }
    (now.foldl State.sendSnoop s).mapHub n fun h => { h with txns := h.txns.map fun x => if x = t then t' else x }) s

/-- The lines of a dead die that its buddy's mirror store holds are taken over, once the slices are rebuilt (R377 step 3): a TakeReq goes to
the home of each; none where none is to be sent. -/
def State.tryTakeover (s : State) (dead : Nat) : Option State :=
  let b := buddyOf dead
  let todo := (s.die b).mirror.filter fun e => e.1 == dead
    && !(s.wires.any fun w => w.kind == .takeReq && w.msg.src == .rdc b && w.msg.tag == dead && w.on e.2.1)
  if todo.isEmpty || !s.allReported dead || !s.alive b then none
  else some (todo.foldl (fun s e =>
    let line := e.2.1
    let n := homeOf (line * 128)
    let drop := fun (s : State) => s.mapDie b fun k => { k with mirror := k.mirror.filter fun x => !(x.1 == dead && x.2.1 == line) }
    let m : Msg := { src := .rdc b, dst := n, line := line, mask := maskOfWords (e.2.2.map (·.1)), tag := dead }
    if s.isDead n then drop s
    else match n with
      | .pkg _ => (drop (e.2.2.foldl (fun s x => s.takeWord b dead line x) s)).send .takeReq m
      | _ => s.send .takeReq m) s)

/-- TAKE_REQ (R377 step 3): the home makes the buddy the owner of the words of a line that it takes over -/
def execTakeReq (m : Msg) (s : State) : Result :=
  onMessage .takeReq (fun m s => match m.src with
    | .rdc b =>
      let words := ((s.die b).mirror.filter fun e => e.1 == m.tag && e.2.1 == m.line).flatMap (·.2.2)
      let s := s.mapDie b fun k => { k with mirror := k.mirror.filter fun x => !(x.1 == m.tag && x.2.1 == m.line) }
      (words.foldl (fun s x => s.takeWord b m.tag m.line x) s).askBuddy m.dst b m.tag m.line
    | _ => s) m s

/-- The directories of the package that may register others' holdings. -/
def State.homes (s : State) : List Node := ((List.range Config.numDies).filter s.alive).map Node.home ++ (List.range 4).map Node.ioHome

/-- Words registered to a lost party as owner are poisoned at their home, its registrations as a sharer are deleted (R377 step 4), and
the transactions that wait for it go on. -/
def State.forgetLost (s : State) (gone : Node → Bool) (n : Node) : State :=
  let lines := ((s.hub n).dir.filter fun e => e.2.nodes.any gone).map (·.1)
  let s := lines.foldl (fun s line =>
    let e := (s.hub n).entry line
    let lost := (e.owner.filter fun x => gone x.2).map (·.1)
    let s := lost.foldl (fun s w => (s.markPoison (line * 32 + w) true).mapEntry n line fun e => e.disown w) s
    s.mapEntry n line fun e => { e with sharers := (e.sharers.map fun x => (x.1, x.2.filter fun y => !gone y)).filter fun x => !x.2.isEmpty }) s
  let s := s.mapHub n fun h => { h with txns := h.txns.filter fun t => !(t.req == .wb && gone t.msg.src) }
  let waiting := (s.hub n).txns.flatMap fun t => if t.req == .wb then [] else (t.waits.filter fun w => gone w.1).map fun w => (t.msg.line, w)
  waiting.foldl (fun s x => s.answered n x.2.1 { src := x.2.1, dst := n, line := x.1, mask := 0, asked := x.2.2 }) s

/-- A core without its copies of the lines named; a line that outstanding loads wait for stays, empty. -/
def Core.dropHomed (k : Core) (lost : Nat → Bool) (wanted : Nat → Bool) : Core :=
  let gone := (k.unowned.filter fun u => lost u.2.1).map (·.1)
  { k with
    l1 := (k.l1.filter fun l => !lost l.1 || wanted l.1).map fun (l : Nat × Line) => if lost l.1 then (l.1, { l.2 with ws := [] }) else l
    victim := k.victim.filter (fun l => !lost l.1)
    unowned := k.unowned.filter (fun u => !lost u.2.1)
    writes := k.writes.filter (fun n => !gone.contains n)
    heldSnoops := k.heldSnoops.filter (fun w => !lost w.msg.line)
    buffer := k.buffer.map fun e => match e.eff with
      | .l1 line _ => if lost line then { e with eff := .l1 line [] } else e
      | _ => e }

/-- Every copy of lines whose home is lost is dropped, a dirty copy with it (R377 step 5). -/
def State.dropHomed (s : State) (lost : Nat → Bool) : State :=
  let s := { s with
    early := s.early.filter fun m => !lost m.line
    cores := s.cores.map fun (ck : Nat × Core) => (ck.1, ck.2.dropHomed lost fun l => !(s.wantedWords ck.1 l).isEmpty)
    dies := s.dies.map fun (d : Die) =>
      { d with
        rdc := d.rdc.filter (fun l => !lost l.1)
        rdcVictim := d.rdcVictim.filter (fun l => !lost l.1)
        writing := d.writing.filter (fun x => !lost x.1)
        quarterFilter := d.quarterFilter.filter (fun e => !lost e.1)
        deviceFilter := d.deviceFilter.filter (fun e => !lost e.1)
        rdcHub := { d.rdcHub with dir := d.rdcHub.dir.filter fun e => !lost e.1 } } }
  s.cores.foldl (fun s (ck : Nat × Core) =>
    ((ck.2.l1.filter fun l => lost l.1).map (·.1)).foldl (fun s line => s.fetchWords ck.1 line (s.wantedWords ck.1 line)) (s.l1Progress ck.1)) s

/-- Every directory goes on with what it may. -/
def State.pumpHubs (s : State) : State :=
  (s.homes ++ ((List.range Config.numDies).filter s.alive).map Node.rdc).foldl (fun s n => s.pumpAll n) s

/-- SLICE_REBUILD_COMPLETE (R377 steps 4 and 5): the moved slices are rebuilt and the mirrored words taken over; what is lost is
poisoned, and waiting transactions proceed -/
def execSliceRebuildComplete (dead : Nat) (s : State) : Result :=
  let gone := onDie dead
  if s.allReported dead && !(s.die dead).rebuilt && (!s.alive (buddyOf dead) || (s.die (buddyOf dead)).mirror.all fun e => e.1 != dead)
      && s.wires.all fun w => !gone w.msg.src then
    let s := s.homes.foldl (fun s n => s.forgetLost gone n) s
    let s := { s with lostDies := SMap.put s.lostDies dead [] }
    let s := (s.dropHomed fun line => homeOf (line * 128) == .home dead).mapDie dead fun k => { k with rebuilt := true }
    .next s.pumpHubs
  else .refused .notDue

/-! ### Another package is lost (R380) -/

/-- Grants a directory of this package waits for from a lost package, as poison. -/
def State.lostGrants (s : State) (p : Nat) : List Wire :=
  let of := fun (n : Node) => ((s.hub n).txns.filter fun t => t.up != 0 && homeOf (t.msg.line * 128) == .pkg p).flatMap fun t =>
    deadAnswer (Wire.mk .rdOwn { src := n, dst := .pkg p, line := t.msg.line, mask := t.up })
  ((List.range Config.numDies).flatMap fun d => of (.rdc d)) ++ (List.range 4).flatMap fun i => of (.ioHome i)

/-- PACKAGE_SNOOP_TIMEOUT (R380): a package that has not answered a snoop for 50 µs is treated as a dead die is in steps 4 and 5 of
R377 -/
def execPackageSnoopTimeout (pkg : Nat) (s : State) : Result :=
  let gone := fun (n : Node) => n == Node.pkg pkg
  if !s.lostPkgs.contains pkg && s.snoopUnanswered gone then
    let grants := s.lostGrants pkg
    let s := s.dropRequests gone
    let s := { s with
      lostPkgs := pkg :: s.lostPkgs
      wires := s.wires.flatMap (afterDeath gone) ++ grants
      ios := s.ios.map fun (i : IoDie) =>
        { i with
          lines := i.lines.filter (fun l => homeOf (l.1 * 128) != Node.pkg pkg)
          d2h := i.d2h.filter (fun x => homeOf (x.1 * 128) != Node.pkg pkg) }
      cores := s.cores.map fun (ck : Nat × Core) =>
        (ck.1, { ck.2 with paths := ck.2.paths.filter (fun n => n.1 != Node.pkg pkg), marksOut := ck.2.marksOut.filter (fun m => m.2 != Node.pkg pkg) }) }
    let s := s.homes.foldl (fun s n => s.forgetLost gone n) s
    .next (s.dropHomed fun line => homeOf (line * 128) == Node.pkg pkg).pumpHubs.sendFar
  else .refused .notDue

end Sys2Proof.Machine
end

