-- ==== Sys2Proof/Machine/Migrate.lean ====
section
/-! DEFINITION. Page migration between packages (R382, R383). -/
namespace Sys2Proof.Machine
open Sys2Proof

/-- The page of `mg_va`, by VA[55:16]. -/
def State.mgPage (s : State) : Nat := s.mgVa.toNat / 65536
/-- The frame of `mg_dst`. -/
def State.mgFrame (s : State) : Nat := s.mgDst.toNat % 2 ^ 52 / 65536 * 65536

/-- A page's moves in its window, if one is open (R383). -/
def State.movesOf (s : State) (asid page : Nat) : Option MovePage := s.moves.find? fun m => m.asid == asid && m.page == page

/-- The history refuses a move: the fifth of a window, or a new page while 4,096 windows are open (R383). -/
def State.moveRefused (s : State) (asid page : Nat) : Bool :=
  match s.movesOf asid page with
  | some m => decide (4 ≤ m.moves)
  | none => decide (Config.movePages ≤ s.moves.length)

/-- A move is counted; the first begins the page's window. -/
def State.countMove (s : State) (asid page : Nat) : State :=
  match s.movesOf asid page with
  | some _ => { s with moves := s.moves.map fun m => if m.asid = asid ∧ m.page = page then { m with moves := m.moves + 1 } else m }
  | none => { s with moves := s.moves ++ [{ asid := asid, page := page, moves := 1 }] }

/-- The target frame can be reached: a living die's memory, or that of another package whose traffic the ports carry (R382, R404). -/
def State.frameReachable (s : State) (frame : Nat) : Bool :=
  match homeOf frame with
  | .home d => decide (regionOf frame = 0 ∧ frame / 2 ^ 41 = 0 ∧ d < Config.numDies) && s.alive d
  | .pkg p => decide (8 ≤ regionOf frame) && decide (p ≠ s.mgmt.fabricNum.toNat) && decide (s.mgmt.fabricNum ≠ 0) && !s.lostPkgs.contains p
      && !(s.varardDies 0).isEmpty
  | _ => false

/-- A requested move begins (R382 steps 1 and 2): it is refused, or the page enters transition; none where a table word is in
flight. -/
def State.moveBegin (s : State) : Option State :=
  let asid := s.mgAsid.toNat
  let status := fun (n : Nat) => { s with mgStatus := n }
  if s.moveRefused asid s.mgPage then some (status 3)
  else match s.walk asid s.mgVa with
    | .wait => none
    | .invalid => some (status 4)
    | .poisoned => some (status 4)
    | .found e =>
      if e.size ≠ 65536 ∨ e.attr ≠ 2 then some (status 4)
      else if !s.frameReachable s.mgFrame then some (status 5)
      else some { (s.countMove asid s.mgPage) with
        mgStatus := 1
        mgJob := some { leaf := e.tags.headD 0, src := e.pa, dst := s.mgFrame }
        transition := s.transition ++ [(e.pa, 65536, none)] }

/-- A write to `mg_ctl` (R382): the ASID, and with go set while no move is under way a move. -/
def State.mgWrite (s : State) (value : DWord) : State :=
  let busy := decide (s.mgStatus = 1)
  let s := { s with mgAsid := value.setWidth 10 }
  if !value.getLsbD 10 || busy then s
  else
    let s := { s with mgGo := true }
    match s.moveBegin with
    | some s => s
    | none => { s with mgStatus := 1, mgJob := none }

/-- MG_CTL_GO (R382, R383) -/
def execMgCtlGo (value : DWord) (s : State) : Result := .next (s.mgWrite value)

/-- Memory with the bytes of a frame copied to another. -/
def Memory.copyFrame (m : Memory) (src dst n : Nat) : Memory :=
  let moved := (m.filter fun c => decide (src ≤ c.1) && decide (c.1 < src + n)).map fun (c : Host.Cell) => (c.1 - src + dst, c.2)
  m.filter (fun c => decide (c.1 < dst)) ++ moved ++ m.filter fun c => decide (dst + n ≤ c.1)

/-- Words of a frame that are poisoned, by their place in it. -/
def State.framePoison (s : State) (src : Nat) : List Nat := (List.range 16384).filter fun i => s.isPoisoned (src / 4 + i)

/-- The words and the poison of a page are copied (R382 step 3). -/
def State.copyPage (s : State) (src dst : Nat) : State :=
  let bad := s.framePoison src
  let s := { s with
    mem := Memory.copyFrame s.mem src dst 65536
    poison := s.poison.filter fun w => !(decide (dst / 4 ≤ w) && decide (w < dst / 4 + 16384)) }
  let s := match SMap.get? s.lostDies (dst / 2 ^ 36) with
    | some _ => (List.range 16384).foldl (fun s i => s.markPoison (dst / 4 + i) false) s
    | none => s
  bad.foldl (fun s i => s.markPoison (dst / 4 + i) true) s

/-- The lines of a frame. -/
def frameLines (pa : Nat) : List Nat := (List.range 512).map fun i => pa / 128 + i

/-- The lines of frames outside the package. -/
def outsideLines (pas : List Nat) : List Nat := (pas.filter fun pa => regionOf pa != 0).flatMap frameLines

/-- The lines of a page of which some cache holds a dirty word. -/
def State.dirtyIn (s : State) (pa : Nat) : List Nat := s.dirtyLines.filter fun l => decide (pa ≤ l * 128) && decide (l * 128 < pa + 65536)

/-- PAGE_MIGRATION_COMPLETE (R382 steps 3 to 5): once nothing of the page is in flight, its dirty words are written back, and then it is copied, the leaf entry names the new frame,
and the transition ends. A move whose table words were in flight when it was asked for begins first -/
def execPageMigrationComplete (s : State) : Result :=
  if s.mgStatus ≠ 1 then .refused .notDue
  else match s.mgJob with
    | none => match s.moveBegin with
      | some s => .next s
      | none => .refused .notDue
    | some j =>
      if !(s.pageQuiet j.src 65536 && s.pageQuiet j.dst 65536 && s.wordQuiet (j.leaf / 4) && s.wordQuiet (j.leaf / 4 + 1))
          || !((outsideLines [j.src]).all s.inReach) || !((outsideLines [j.dst]).all fun l => s.writable (l * 32)) then
        orAsk (s.askAll? (outsideLines [j.src, j.dst] ++ [j.leaf / 128]) true)
      else if (s.dirtyIn j.src).isEmpty = false then
        .next ((s.dirtyIn j.src).foldl (fun s l => s.cwbLine (s.cores.map (·.1)) (List.range Config.numDies) l) s)
      else
        let s := (s.cachedLines j.dst 65536).foldl (fun s l => (List.range 32).foldl (fun s w => s.dropCopies (l * 32 + w)) s) s
        let s := s.copyPage j.src j.dst
        let s := s.changeEntry j.leaf fun e => (e &&& 0xFFF000000000FFFF) ||| BitVec.ofNat 64 j.dst
        let moved := fun (l : Nat × IoLine) =>
          if (outsideLines [j.dst]).contains l.1 then (l.1, { l.2 with st := .m, dirty := BitVec.allOnes 32, kept := false })
          else if (outsideLines [j.src]).contains l.1 then (l.1, { l.2 with kept := false }) else l
        let s := { s with
          mgStatus := 2
          mgJob := none
          transition := s.transition.filter fun t => !(t.1 == j.src && t.2.2.isNone)
          ios := s.ios.modify 0 fun (i : IoDie) => { i with lines := i.lines.map moved } }
        .next ((outsideLines [j.src, j.dst]).foldl (fun s l => s.releaseHostLine 0 l) s)

/-- MOVE_WINDOW_END (R383): 10 ms after the first move of a page's window, the page leaves the history -/
def execMoveWindowEnd (asid page : Nat) (s : State) : Result :=
  if (s.movesOf asid page).isSome then .next { s with moves := s.moves.filter fun m => !(m.asid == asid && m.page == page) }
  else .refused .notDue

end Sys2Proof.Machine
end

