-- ==== Sys2Proof/Machine/Outside.lean ====
section
/-! DEFINITION. Parties outside the compute dies: application cores (R227) and CXL hosts (R381). Each access is performed at once at
its place where nothing of its line is in flight, and otherwise waits in arrival order (DESIGN CHOICE, log 7, log 8). -/
namespace Sys2Proof.Machine
open Sys2Proof

/-- The package serves: firmware of the application cores and of the I/O dies runs (R398). -/
def State.serves (s : State) : Bool := s.mgmt.verified && (SMap.get? s.mgmt.running 0).isSome && (SMap.get? s.mgmt.running 2).isSome

/-- The words that `n` bytes lie in. -/
def spanWords (pa n : Nat) : List Nat := (List.range ((pa + n + 3) / 4 - pa / 4)).map fun i => pa / 4 + i

/-- A party is registered as a holder of a word at its home (R381, R385); device registers, a dead home and another package's lines
register none here. -/
def State.registered (s : State) (me : Node) (w : Nat) : Bool :=
  let n := homeOf (4 * w)
  let e := (s.hub n).entry (w / 32)
  match n with
  | .pkg _ => true
  | _ => isDevice (4 * w) || s.isDead n || e.ownerOf (w % 32) == some me || (e.sharersOf (w % 32)).contains me

/-- A word as a party reads it: from its own clean copy, or the newest value; none where it must wait. -/
def State.partyWord (s : State) (me : Node) (w : Nat) : Option (Word × Bool) :=
  if s.ownerOf (w / 32) (w % 32) = some me ∧ s.lineBusy (w / 32) = false then some (s.homeWord w) else s.view none w

/-- `n` bytes as an outside party reads them, and whether a word of them is poisoned; none where it must wait. -/
def State.outsideRead (s : State) (me : Node) (pa n : Nat) : Option (DWord × Bool) :=
  if s.inTransition pa then none
  else ((spanWords pa n).mapM (s.partyWord me)).map fun ws =>
    (BitVec.ofNat 64 ((ws.foldr (fun x a => x.1.toNat + 2 ^ 32 * a) 0) / 256 ^ (pa % 4) % 256 ^ n), ws.any (·.2))

/-- The same for a load, which leaves a copy: the party must be registered as a holder first. -/
def State.outsideLoad (s : State) (me : Node) (pa n : Nat) : Option (DWord × Bool) :=
  if (spanWords pa n).all (s.registered me) then s.outsideRead me pa n else none

/-- A word written by an outside party at its home, the copies registered for it gone; poison stays unless all four bytes are
written (R356). -/
def State.outsideWord (s : State) (me : Node) (w : Nat) (bs : List (Nat × Byte)) : Option State :=
  if !s.wordQuiet w (some me) || s.inTransition (4 * w) then none
  else (s.partyWord me w).map fun x =>
    let (v, mask) := wordWrite bs w
    (s.dropCopies w).setHomeWord w (mergeBytes x.1 v mask) (x.2 && mask != 15)

/-- `n` bytes written by an outside party; none where it must wait. -/
def State.outsideWrite (s : State) (me : Node) (writer : Submitter) (pa n : Nat) (v : DWord) : Option State :=
  let bs := (List.range n).map fun i => (pa + i, BitVec.ofNat 8 (v.toNat / 256 ^ i))
  if isDevice pa then some (s.deviceWrite writer bs)
  else (spanWords pa n).foldl (fun o w => o.bind fun s => s.outsideWord me w bs) (some s)

/-- A party that must be registered first asks the homes for copies (RdS, R370); one that is, or that writes, asks for what else the words
lack; none where everything is under way. -/
def State.outsideAsk (s : State) (me : Node) (pa n : Nat) (write : Bool) : Option State :=
  let ws := spanWords pa n
  let lines := (ws.map (· / 32)).eraseDups
  let need := if write then [] else ws.filter fun w => !s.registered me w
  if need.isEmpty then s.askAll? lines write
  else
    let new := need.filter fun w => !s.asked me (w / 32) (w % 32) false
    if new.isEmpty then none
    else some (lines.foldl (fun s l =>
      let mine := new.filter fun w => w / 32 == l
      if mine.isEmpty then s else s.send .rds { src := me, dst := homeOf (l * 128), line := l, mask := maskOfWords (mine.map (· % 32)) }) s)

/-! ### Application cores (R227) -/

/-- Bytes an application core's access covers. -/
def appBytes (a : AppAccess) : Nat :=
  match a.op with
  | .load n => n
  | .store n _ => n
  | .amo _ n _ => n
  | .lr n => n
  | .sc n _ => n
  | .fence _ _ _ _ _ => 0
  | .setHdm _ _ => 0

/-- The caches an application core's copies are in. -/
def appNode (a : AppAccess) : Node := .app a.quarter
/-- Where the application core's reservation stands. -/
def lrKey (a : AppAccess) : Nat := 4 * a.quarter + a.core

/-- The number that `n` bytes stand for as a signed integer. -/
def signedOf (n x : Nat) : Int := if x < 256 ^ n / 2 then (x : Int) else (x : Int) - (256 ^ n : Nat)

/-- The new value of an atomic memory operation on `n` bytes (R227). -/
def amoNew (op : AmoOp) (n : Nat) (m v : DWord) : DWord :=
  let x := m.toNat % 256 ^ n
  let y := v.toNat % 256 ^ n
  match op with
  | .swap => v
  | .add => m + v
  | .and => m &&& v
  | .or => m ||| v
  | .xor => m ^^^ v
  | .minI => if signedOf n y < signedOf n x then v else m
  | .maxI => if signedOf n x < signedOf n y then v else m
  | .minN => if y < x then v else m
  | .maxN => if x < y then v else m

/-- What an application core reads: its value, or that it is poisoned (R356, DEDUCED, log 48). -/
def State.appAnswer (s : State) (a : AppAccess) (x : DWord × Bool) : State :=
  s.emit (if x.2 then .appPoison a.label else .appValue a.label x.1)

/-- An access of an application core performed; none where it must wait. Accesses are performed in order, so that a fence finds nothing
left to order. A store-conditional answers 0 where the core's reservation of its bytes still stands, and else 1 (R227, PRESUMED, log 67). -/
def State.appTry (s : State) (a : AppAccess) : Option State :=
  match a.op with
  | .load n => (s.outsideLoad (appNode a) a.pa n).map (s.appAnswer a)
  | .store n v => s.outsideWrite (appNode a) (.app (lrKey a)) a.pa n v
  | .amo op n v => match s.outsideRead (appNode a) a.pa n with
    | none => none
    | some (_, true) => some (s.emit (.appPoison a.label))
    | some (x, false) => (s.outsideWrite (appNode a) (.app (lrKey a)) a.pa n (amoNew op n x v)).map fun s => s.emit (.appValue a.label x)
  | .lr n => (s.outsideLoad (appNode a) a.pa n).map fun x => { s.appAnswer a x with appLr := SMap.put s.appLr (lrKey a) (a.pa, n) }
  | .sc n v =>
    let free := fun (s : State) => ({ s with appLr := SMap.del s.appLr (lrKey a) } : State)
    if SMap.get? s.appLr (lrKey a) = some (a.pa, n) then (s.outsideWrite (appNode a) (.app (lrKey a)) a.pa n v).map fun s => (free s).emit (.appValue a.label 0)
    else some ((free s).emit (.appValue a.label 1))
  | .fence _ _ _ _ _ => some s
  | .setHdm base size => some { s with hdm := (base, size) }

/-- The access writes. -/
def appWrites : AppOp → Bool
  | .load _ => false | .lr _ => false | .fence _ _ _ _ _ => false | .setHdm _ _ => false
  | .store _ _ => true | .amo _ _ _ => true | .sc _ _ => true

/-- What an application core's access that cannot be performed asks for. -/
def State.appAsk (s : State) (a : AppAccess) : Option State := s.outsideAsk (appNode a) a.pa (appBytes a) (appWrites a.op)

/-- An access waits its turn; the first of those that wait asks for what it lacks. -/
def State.outsideWait (s : State) (ask : State → Option State) (x : Outside) : State :=
  let s := if s.waiting.isEmpty then (ask s).getD s else s
  { s with waiting := s.waiting ++ [x] }

/-- Addresses that R320 reserves. -/
def State.reserved (s : State) (pa n : Nat) : Bool :=
  decide (0 < n) && (!s.physical pa || !s.physical (pa + n - 1) || decide (2 ^ 52 < pa + n))

/-- The access comes from an application core that a full `lp_submit` stalls (R173). -/
def State.outsideHeld (s : State) : Outside → Bool
  | .app a => s.stalledAt (.app (lrKey a))
  | .host _ => false | .snpData _ _ => false | .snpInv _ _ => false | .snpCur _ _ => false

/-- APPLICATION_CORE_ACCESS (R227) -/
def execApplicationCoreAccess (a : AppAccess) (s : State) : Result :=
  if 4 ≤ a.quarter ∨ 4 ≤ a.core ∨ !s.serves then .refused .notDue
  else if s.reserved a.pa (appBytes a) then .fault (.reservedAddress a.pa)
  else match (if s.waiting.isEmpty && !s.outsideHeld (.app a) then s.appTry a else none) with
    | some s => .next s
    | none => .next (s.outsideWait (·.appAsk a) (.app a))

/-! ### The device-memory range (R381) -/

/-- Every L1 and RDC of the package takes part. -/
def State.lineSettled (s : State) (line : Nat) : Bool := s.lineQuiet (s.cores.map (·.1)) (List.range Config.numDies) line

/-- Bytes a host's access covers. -/
def hostBytes (a : HostAccess) : Nat :=
  match a.op with
  | .load n => n
  | .store n _ => n

/-- A host's access performed at system scope; none where it must wait. A load is made once the host is registered as a holder at the home
(R381); a store is performed at the home, and leaves the host no copy (DESIGN CHOICE, log 8). -/
def State.hostTry (s : State) (a : HostAccess) : Option State :=
  match a.op with
  | .load n => (s.outsideLoad (.ioHome a.io) a.pa n).map fun x => s.emit (if x.2 then .hostPoison a.label else .hostValue a.label x.1)
  | .store n v => s.outsideWrite (.ioHome a.io) .other a.pa n v

/-- What a host's access that cannot be performed asks for. -/
def State.hostAsk (s : State) (a : HostAccess) : Option State :=
  s.outsideAsk (.ioHome a.io) a.pa (hostBytes a) (match a.op with
    | .load _ => false
    | .store _ _ => true)

/-- HOST_MEM_ACCESS (R381): an access of the host of a CXL port to the HDM-DB range -/
def execHostMemAccess (a : HostAccess) (s : State) : Result :=
  if 4 ≤ a.io ∨ !s.serves ∨ a.pa < s.hdm.1 ∨ s.hdm.1 + s.hdm.2 < a.pa + hostBytes a then .refused .notDue
  else if s.reserved a.pa (hostBytes a) then .fault (.reservedAddress a.pa)
  else match (if s.waiting.isEmpty then s.hostTry a else none) with
    | some s => .next s
    | none => .next (s.outsideWait (·.hostAsk a) (.host a))

/-- BACK_INVALIDATE_RESPONSE (R381): the host has given up its copy of a line, with the data of words it had changed, and the home that
waited goes on -/
def execBackInvalidateResponse (line : Nat) (data : List (Nat × Word)) (s : State) : Result :=
  let n := homeOf (line * 128)
  let hosts := (s.hub n).txns.flatMap fun t => if t.on line then t.waits.filter (fun x => match x.1 with
    | .ioHome _ => true
    | _ => false) else []
  match hosts with
  | [] => .refused .notDue
  | (h, _) :: _ =>
    let s := data.foldl (fun s x => s.setHomeWord (line * 32 + x.1 % 32) x.2 false) s
    let s := (List.range 32).foldl (fun s w => s.mapEntry n line fun e => e.forget w h) s
    .next ((hosts.filter fun x => x.1 == h).foldl (fun s x => s.answered n h { src := h, dst := n, line := line, mask := 0, asked := x.2 }) s)

/-! ### Host lines (R381) -/

/-- The line is the memory of the host of CXL port `io`. -/
def hostLine (io line : Nat) : Bool := !isDevice (line * 128) && homeOf (line * 128) == .ioHome io && decide (io < 4)

/-- Changes what the I/O die holds of a host line. -/
def State.mapIoLine (s : State) (io line : Nat) (f : IoLine → IoLine) : State :=
  { s with ios := s.ios.modify io fun i => { i with lines := SMap.put i.lines line (f (SMap.getD i.lines line {})) } }

/-- What the I/O die holds of a host line. -/
def State.ioLine (s : State) (io line : Nat) : IoLine := SMap.getD (s.ios.getD io {}).lines line {}

/-- The words of a line with their values at the I/O die. -/
def State.lineData (s : State) (line : Nat) (ws : List Nat) : List (Nat × Word) := ws.map fun w => (w, (s.homeWord (line * 32 + w)).1)

/-- The I/O die's entry of a host line. -/
def State.ioEntry (s : State) (io line : Nat) : DirEntry := (s.hub (.ioHome io)).entry line

/-- SnpData performed, once no unit of the package owns a word: the data is returned, and the line is shared. -/
def State.snpDataTry (s : State) (io line : Nat) : Option State :=
  if (s.ioLine io line).st = .i then some (s.emit (.h2dAnswer io line []))
  else if s.lineBusy line || !(s.ioEntry io line).owner.isEmpty then none
  else some ((s.mapIoLine io line fun l => { l with st := .s, dirty := 0, kept := false }).emit (.h2dAnswer io line (s.lineData line (List.range 32))))

/-- SnpInv performed, once no unit of the package holds a word: changed words are returned, and the line goes. -/
def State.snpInvTry (s : State) (io line : Nat) : Option State :=
  if (s.ioLine io line).st = .i then some (s.emit (.h2dAnswer io line []))
  else if s.lineBusy line || !(s.ioEntry io line).nodes.isEmpty then none
  else
    let data := s.lineData line (wordsOf (s.ioLine io line).dirty)
    some ({ s with ios := s.ios.modify io fun i => { i with lines := SMap.del i.lines line } }.emit (.h2dAnswer io line data))

/-- A snoop of the host that finds words held in the package recalls them; the line stays until the snoop is answered. -/
def State.snoopAsk (s : State) (io line : Nat) (all : Bool) : Option State :=
  let held := if all then !(s.ioEntry io line).nodes.isEmpty else !(s.ioEntry io line).owner.isEmpty
  if s.lineBusy line || !held then none
  else some ((s.mapIoLine io line fun l => { l with kept := true }).recall (.ioHome io) line)

/-- SnpCur performed: current data is returned and nothing changes. -/
def State.snpCurTry (s : State) (io line : Nat) : Option State :=
  if (s.ioLine io line).st = .i then some (s.emit (.h2dAnswer io line []))
  else ((List.range 32).mapM fun w => (s.view none (line * 32 + w)).map fun x => (w, x.1)).map fun d => s.emit (.h2dAnswer io line d)

/-- The shape of a host snoop. -/
def hostSnoop (io line : Nat) (x : Outside) (f ask : State → Option State) (s : State) : Result :=
  if !hostLine io line then .refused .notDue
  else match (if s.waiting.isEmpty then f s else none) with
    | some s => .next s
    | none => .next (s.outsideWait ask x)

/-- CXL_SNP_DATA (R381) -/
def execCxlSnpData (io line : Nat) (s : State) : Result :=
  hostSnoop io line (.snpData io line) (fun s => s.snpDataTry io line) (fun s => s.snoopAsk io line false) s
/-- CXL_SNP_INV (R381) -/
def execCxlSnpInv (io line : Nat) (s : State) : Result :=
  hostSnoop io line (.snpInv io line) (fun s => s.snpInvTry io line) (fun s => s.snoopAsk io line true) s
/-- CXL_SNP_CUR (R381) -/
def execCxlSnpCur (io line : Nat) (s : State) : Result :=
  hostSnoop io line (.snpCur io line) (fun s => s.snpCurTry io line) (fun _ => none) s

/-- The state a granted host line takes (R381). -/
def grantedState : D2H → Option WState
  | .rdShared => some .s | .rdOwn => some .e | .rdOwnNoData => some .e
  | .dirtyEvict => none | .cleanEvictNoData => none

/-- CXL_H2D_RESPONSE (R381): the host answers a request of the I/O die; a granted line holds its data, and what waited for it goes on -/
def execCxlH2dResponse (io line : Nat) (req : D2H) (data : List (Nat × Word)) (s : State) : Result :=
  if !hostLine io line || !(s.ios.getD io {}).d2h.contains (line, req) then .refused .notDue
  else
    let s := { s with ios := s.ios.modify io fun i => { i with d2h := i.d2h.erase (line, req) } }
    match grantedState req with
    | none => .next s
    | some st =>
      let kept := !((s.ios.getD io {}).hub.txns.any fun t => t.on line)
      let s := data.foldl (fun s x => s.setHomeWord (line * 32 + x.1 % 32) x.2 false) s
      .next ((s.mapIoLine io line fun l => { l with st := st, dirty := 0, kept := l.kept || kept }).grantedUp (.ioHome io) line (BitVec.allOnes 32))

/-- An outside access or snoop performed; none where it must wait. -/
def State.outsideTry (s : State) : Outside → Option State
  | .app a => s.appTry a
  | .host a => s.hostTry a
  | .snpData io line => s.snpDataTry io line
  | .snpInv io line => s.snpInvTry io line
  | .snpCur io line => s.snpCurTry io line

/-- What it asks for meanwhile. -/
def State.outsideNeeds (s : State) : Outside → Option State
  | .app a => s.appAsk a
  | .host a => s.hostAsk a
  | .snpData io line => s.snoopAsk io line false
  | .snpInv io line => s.snoopAsk io line true
  | .snpCur _ _ => none

/-- The first access that waits, and whose party is not stalled, is tried again, or asks for what it lacks; the others wait behind it. -/
def State.tryWaiting (s : State) : Option State :=
  match s.waiting.find? fun x => !s.outsideHeld x with
  | none => none
  | some x => match ({ s with waiting := s.waiting.erase x } : State).outsideTry x with
    | some s => some s
    | none => s.outsideNeeds x

/-! ### Page tables that other parties hold -/

/-- Lines of package memory of which a host or another package owns a word. -/
def State.ownedAway (s : State) : List Nat :=
  (List.range Config.numDies).flatMap fun d => ((s.die d).home.dir.filter fun e => e.2.owner.any fun x => x.2.away).map (·.1)

/-- The tables that the tables from `t` on lead to, by base and size. -/
def State.tablesFrom (s : State) : List (Nat × Nat × Nat) → Nat → List (Nat × Nat)
  | [], _ => []
  | (l, lo, hi) :: rest, t =>
    let n := 8 * 2 ^ (hi + 1 - lo)
    (t, n) :: (s.tableSlots t n).flatMap fun i => match s.tableEntry (t + 8 * i) with
      | some (e, false) => (match entryKind s.physical l lo e.toNat with
        | .table u => State.tablesFrom s rest u
        | _ => [])
      | _ => []

/-- A line of a page table that a host or another package owns is recalled, so that walks can read it (R323, DESIGN CHOICE, log 7). -/
def State.recallTable (s : State) : Option State :=
  match s.ownedAway.filter fun l => !s.lineBusy l with
  | [] => none
  | ls =>
    let tables := s.ports.flatMap fun p => if p.2.launches.isEmpty then [] else s.tablesFrom walkLevels p.2.rootTable
    (ls.find? fun l => tables.any fun t => overlaps t.1 (t.1 + t.2) (l * 128) (l * 128 + 128)).map fun l => s.recall (homeOf (l * 128)) l

end Sys2Proof.Machine
end

