-- ==== Sys2Proof/Machine/Registers.lean ====
section
/-! DEFINITION. Writes to the device registers of region 0x7 (R6, R320) and the events of the platform registers (R403, R404). -/
namespace Sys2Proof.Machine
open Sys2Proof

/-! ### `hk_ctl` (R404) -/

/-- A launch runs on the package, as one that holds a root write pending does (R404, R324). -/
def State.launchRuns (s : State) : Bool := s.ports.any fun p => p.2.launches.any fun l => l.state.holdsRoot

/-- The package's number takes effect: traffic that waited for one leaves (R404, R380). -/
def State.applyFabric (s : State) (n : BitVec 10) : State :=
  { s with mgmt := { s.mgmt with fabricNum := n, fabricPending := none } }.sendFar

/-- A write to `hk_ctl`. -/
def State.hkWrite (s : State) (v : DWord) : State :=
  if s.mgmt.hkLock then s
  else
    let s := { s with mgmt := { s.mgmt with hkLock := v.getLsbD 10 } }
    if s.launchRuns then { s with mgmt := { s.mgmt with fabricPending := some (v.setWidth 10) } }
    else s.applyFabric (v.setWidth 10)

/-- HK_CTL_WRITE (R404) -/
def execHkCtlWrite (value : DWord) (s : State) : Result := .next (s.hkWrite value)

/-- FABRIC_NUM_APPLY (R404): no launch runs any more -/
def execFabricNumApply (s : State) : Result :=
  match s.mgmt.fabricPending with
  | none => .refused .notDue
  | some n => if s.launchRuns then .refused .notDue else .next (s.applyFabric n)

/-! ### Power (R403) -/

/-- The clock is lowered while a reading is above its limit (R403). -/
def Die.throttle (d : Die) : Die := { d with throttled := decide (d.capW < d.powerW) || decide (105 < d.tempC) }

/-- DIE_THROTTLE (R403): the die's readings of power and temperature; while one is above its limit the clock is lowered, which changes
no result -/
def execDieThrottle (die power temp : Nat) (s : State) : Result :=
  if die < Config.numDies then
    .next (s.mapDie die fun d =>
      Die.throttle { d with powerW := min (2 ^ 16 - 1) power, tempC := min (2 ^ 16 - 1) temp })
  else .refused .notDue

/-! ### Every register -/

/-- A write to a register of a launch port (R172, R330, R332, R339). -/
def State.portWrite (s : State) (a off : Nat) (v : DWord) : State :=
  if off = 0x000 then s.submitWrite a v .other
  else if off = 0x010 then (if v.getLsbD 40 then s.mapPort a fun p => { p with refused := false } else s)
  else if 0x100 ≤ off ∧ off < 0x190 then s.mapPort a fun p => { p with coreSet := SMap.put p.coreSet ((off - 0x100) / 8) v }
  else if off = 0x190 then s.mapPort a fun p => { p with trapVec := v.setWidth 56 &&& 0xFFFFFFFFFFFFFC }
  else if off = 0x198 then s.preemptWrite a v
  else if off = 0x1A0 then s.mapPort a fun p => { p with saveBase := v.setWidth 56 &&& 0xFFFFFFFFFFF000 }
  else if off = 0x1A8 then s.resumeWrite a v
  else if off = 0x1B0 then s.mapPort a fun p => { p with vintOn := v.getLsbD 63, vintBase := v.setWidth 56 &&& 0xFFFFFFFFFFF000 }
  else if off = 0x1B8 then (if v.getLsbD 63 then s.mapPort a fun p => { p with end0 := p.end0 &&& 0x7FFFFFFFFFFFFFFF } else s)
  else s

/-- A write to a platform register (R400, R403, R404). -/
def State.platformWrite (s : State) (off : Nat) (v : DWord) : State :=
  if off = 0x08 then s.hkWrite v
  else if off = 0x40 then
    if s.mgmt.ttLock then s
    else { s with mgmt := { s.mgmt with ttPolicy := v.setWidth 2, ttEnable := (v >>> 4).setWidth 4, ttLock := v.getLsbD 8 } }
  else if off = 0x48 then { s with mgmt := { s.mgmt with tripped := s.mgmt.tripped &&& ~~~(v.setWidth 4) } }
  else if 0x100 ≤ off ∧ off < 0x100 + 8 * Config.numDies then s.mapDie ((off - 0x100) / 8) fun d => Die.throttle { d with capW := nbits v.toNat 47 32 }
  else s

/-- A write to a device register (R6, R320). -/
def State.writeReg (s : State) (pa : Nat) (v : DWord) : State :=
  match devReg pa with
  | .port a off => s.portWrite a off v
  | .atRoot a => s.rootWrite a v
  | .se c off => if off = 0x08 ∧ v.getLsbD 1 then s.mapCore c fun k => { k with pipelineError := false } else s
  | .link k => if v.getLsbD 2 then s.mapLink k fun l => { l with stepped := false } else s
  | .die d => if v.getLsbD 8 then s.killDie d else s
  | .migrate off =>
    if off = 0x00 then { s with mgVa := v.setWidth 56 &&& 0xFFFFFFFFFF0000 }
    else if off = 0x08 then { s with mgDst := v &&& 0x000FFFFFFFFF0000 }
    else s.mgWrite v
  | .platform off => s.platformWrite off v
  | .none => s

/-- REGISTER_WRITE (R6, R320): a 64-bit write to a register of region 0x7 -/
def execRegisterWrite (pa : Nat) (value : DWord) (s : State) : Result :=
  if isDevice pa ∧ pa % 8 = 0 then .next (s.writeReg pa value) else .refused .notDue

/-- A write to a device register by a known writer: a write to `lp_submit` may stall it (R172, R173). -/
def State.performWrite (s : State) (x : Nat × DWord × Submitter) : Result :=
  match devReg x.1 with
  | .port a 0 => .next (s.submitWrite a x.2.1 x.2.2)
  | _ => execRegisterWrite x.1 x.2.1 s

end Sys2Proof.Machine
end

