-- ==== Sys2Proof/Machine/Platform.lean ====
section
/-! DEFINITION. The platform (R392 to R404): the release of I/O die 0, the boot ROM and its firmware slots, the states of the compute dies,
the tamper alarm with the resets it brings, and the messages of the management port. -/
namespace Sys2Proof.Machine
open Sys2Proof

/-! ### Firmware (R397, R398) -/

/-- The image in a slot; the place of its fields is the model's choice: kind, version, key, signature, payload (DESIGN CHOICE, log 38). -/
def Mgmt.image (m : Mgmt) (kind slot : Nat) : List Byte := SMap.getD m.slots (2 * kind + slot) (Config.factoryImage (2 * kind + slot))
/-- The version of an image. -/
def imageVersion (im : List Byte) : Nat := leNat ((im.drop 1).take 4)
/-- What an image's signature is made over. -/
def imageSigned (im : List Byte) : List Byte := im.take 5 ++ im.drop 198

/-- The least version accepted of a kind: the fused minimum, as commits have raised it (R398). -/
def Mgmt.leastVersion (m : Mgmt) (kind : Nat) : Nat := max (Config.fusedMinVersion kind) (SMap.getD m.minVersion kind 0)

/-- The boot ROM accepts an image of a kind (R397, R398). -/
def Mgmt.accepts (m : Mgmt) (kind : Nat) (im : List Byte) : Bool :=
  let key := (im.drop 5).take 97
  decide (198 ≤ im.length) && decide (leNat (im.take 1) = kind) && decide (beNat (sha384 key) = Config.fusedFirmwareHash.toNat)
    && ecdsaVerify key (sha384 (imageSigned im)) ((im.drop 102).take 96) && decide (m.leastVersion kind ≤ imageVersion im)

/-- The newest slot of a kind. -/
def Mgmt.newestSlot (m : Mgmt) (kind : Nat) : Nat := SMap.getD m.newest kind 0

/-- The slot whose image of a kind runs after a boot: the newest, else the other, else none (R398). -/
def Mgmt.bootSlot (m : Mgmt) (kind : Nat) : Option Nat :=
  let n := m.newestSlot kind
  if m.accepts kind (m.image kind n) then some n else if m.accepts kind (m.image kind (1 - n)) then some (1 - n) else none

/-- The slot of a kind that FwWrite and FwCommit name: the one that does not run. -/
def Mgmt.inactiveSlot (m : Mgmt) (kind : Nat) : Nat := 1 - SMap.getD m.running kind (m.newestSlot kind)

/-- Changes the platform state. -/
def State.mapMgmt (s : State) (f : Mgmt → Mgmt) : State := { s with mgmt := f s.mgmt }

/-- IO_DIE0_RESET_RELEASE (R393 step 4): the boot ROM begins to verify the firmware -/
def execIoDie0ResetRelease (s : State) : Result :=
  if s.mgmt.released then .refused .notDue
  else .next (s.mapMgmt fun m => { m with released := true, verified := false, running := [] })

/-- FIRMWARE_VERIFY_DONE (R393, R398): of each kind the newest accepted slot runs -/
def execFirmwareVerifyDone (s : State) : Result :=
  if s.mgmt.released && !s.mgmt.verified then
    .next (s.mapMgmt fun m =>
      { m with
        verified := true
        running := [0, 1, 2].filterMap fun k => (m.bootSlot k).map fun slot => (k, slot) })
  else .refused .notDue

/-! ### The compute dies (R394, R395) -/

/-- SELF_TEST_PASS (R394): the self-test of a die in reset ends, passed or failed; passed, the die enters reduced service, its cycle counter
at 0; failed, it stays in state 0 until the next power-on of the package -/
def execSelfTestPass (t : SelfTest) (s : State) : Result :=
  if t.die < Config.numDies ∧ (s.die t.die).state = 0 ∧ (s.die t.die).selfFailed = false ∧ s.serves ∧ (SMap.get? s.mgmt.running 1).isSome then
    .next (s.mapDie t.die fun d => if t.passed then { d with state := 1, counter := 0, selfTested := true } else { d with selfFailed := true })
  else .refused .notDue

/-- The cores of a die that something has touched. -/
def State.dieCores (s : State) (die : Nat) : List Nat := s.coreIds.filter fun c => dieOf c == die

/-- SERVICE_TRANSITION_START (R395): calibration and training have finished; from then on every core stops at its next instruction boundary
and takes a snapshot there -/
def execServiceTransitionStart (die : Nat) (s : State) : Result :=
  if (s.die die).state = 1 ∧ (s.die die).transition.isNone then
    .next ((s.dieCores die).foldl State.tryStop (s.mapDie die fun d => { d with transition := some d.counter }))
  else .refused .notDue

/-- A core has waited out its stop (R395): every entry has settled, and the counter has reached s + 1,536. -/
def State.stopDone (s : State) (core : Nat) : Bool :=
  match (s.core core).stop with
  | none => false
  | some t => decide (t + Config.strikeBound false ≤ s.now core) && (s.core core).buffer.isEmpty

/-- SERVICE_TRANSITION_END (R395): every core has waited out its stop: clock and D change together, the snapshot taken at the stop is the
older one kept, and issue resumes -/
def execServiceTransitionEnd (die : Nat) (s : State) : Result :=
  if (s.die die).transition.isSome ∧ (s.dieCores die).all s.stopDone then
    .next ((s.dieCores die).foldl (fun s c => s.mapCore c fun k => { k with snaps := k.snaps.take 1, stop := none })
      (s.mapDie die fun d => { d with state := 2, transition := none }))
  else .refused .notDue

/-! ### Resets by the tamper policy (R401, R402) -/

/-- A party on a compute die. -/
def onComputeDie (n : Node) : Bool := (nodeDie n).isSome

/-- Where the signal word of a launch that a reset ends lies, unless its home is a compute die, so that nothing is written to it (R402). The
walk is that before the reset, or, where a table word is in flight then, that after it. -/
def signalHome (before after : State) (l : Launch) : Option Nat :=
  let va := BitVec.ofNat 56 l.signal
  let kept := fun (w : Walk) => match w with
    | .found e => (match homeOf (e.phys va.toNat) with
      | .home _ => none
      | _ => some (e.phys va.toNat))
    | .invalid => none
    | .poisoned => none
    | .wait => none
  match before.walk l.asid va with
  | .wait => kept (after.walk l.asid va)
  | w => kept w

/-- A launch that had a team on a reset die ends (R402): its kills are recorded, its number counts as signalled, and status 0x12 is to be
written unless the signal word's home was reset. -/
def State.endByReset (before s : State) (l : Launch) : State :=
  let mine := before.residents l
  let s := ((mine.map (·.cluster)).eraseDups).foldl (fun s c =>
    s.recordEnd l.asid l.seq 0x11 0 (((mine.find? fun t => t.cluster == c && t.member == 0).map (·.core)).getD 0) 0) s
  let s := s.mapPort l.asid fun p => (p.noteSignal l.seq)
  let s := if l.state = .preempting then s.mapPort l.asid fun p => { p with pstate := 5 } else s
  match signalHome before s l with
  | none => s.mapPort l.asid fun p => { p with launches := p.launches.filter fun m => m.seq != l.seq }
  | some pa => s.mapLaunch l.asid l.seq fun l =>
    { l with
      state := .signalled
      signalPa := some pa
      reason := 0x12
      teamEnded := false
      gangKilled := false
      toPlace := []
      again := []
      saved := []
      savedReqs := [] }

/-- A compute die after its reset: the limits and readings of its power stand at I/O die 0, and a failed self-test stands until
power-on (R394, R403). -/
def Die.afterReset (d : Die) : Die := { capW := d.capW, tempC := d.tempC, powerW := d.powerW, selfFailed := d.selfFailed }

/-- A submission does not come from a core of a compute die. -/
def Submitter.outsideDies : Submitter → Bool
  | .klaunch _ => false | .store _ => false
  | .app _ => true | .other => true

/-- Holders outside the package of lines homed on the compute dies lose their copies when the dies are reset (R402): each other package
is sent a SnpInv, each host a back-invalidate snoop; nothing waits for the answers. -/
def State.dropAway (before s : State) : State :=
  (List.range Config.numDies).foldl (fun s d => (before.die d).home.dir.foldl (fun s e =>
    (e.2.nodes ++ externalNodes s.mgmt.fabricNum.toNat e.2).foldl (fun s n => match n with
      | .pkg _ =>
        let held := maskWhere fun w => e.2.ownerOf w == some n || (e.2.sharersOf w).contains n
        s.send .snpInv { src := .home d, dst := n, line := e.1, mask := if held == 0 then BitVec.allOnes 32 else held }
      | .ioHome i => s.emit (.backInvalidate i e.1)
      | _ => s) s) s) s

/-- Every compute die is reset, with what stands on it: messages of its parties are lost, its memory is poisoned, and registrations of
its caches elsewhere go (R402). -/
def State.clearDies (s : State) : State :=
  let before := s
  let s := { s with
    teams := []
    cores := []
    dies := s.dies.map Die.afterReset
    wires := s.wires.flatMap (afterDeath onComputeDie)
    poison := s.poison.filter fun w => regionOf (4 * w) != 0
    slices := []
    lostDies := (List.range Config.numDies).map fun d => (d, [])
    early := s.early.filter fun m => !onComputeDie m.dst && !onComputeDie (homeOf (m.line * 128))
    links := s.links.filter fun l => decide (96 ≤ l.1)
    transition := s.transition.filter fun t => t.2.2.isNone
    regWrites := s.regWrites.filter fun x => x.2.2.outsideDies
    appLr := s.appLr.filter fun x => !onComputeDie (homeOf x.2.1)
    ports := s.ports.map fun (p : Nat × Port) => (p.1, { p.2 with stalled := p.2.stalled.filter fun x => x.2.outsideDies })
    ios := s.ios.map fun (i : IoDie) =>
      { i with
        hub := { i.hub with
          waitq := i.hub.waitq.filter fun w => !onComputeDie w.msg.src
          txns := i.hub.txns.filter (fun t => !onComputeDie t.msg.src)
          outq := i.hub.outq.filter fun w => !onComputeDie w.msg.dst }
        told := [] } }
  let s := State.dropAway before s
  (((List.range 4).map Node.ioHome).foldl (fun s n => s.pumpAll n) (((List.range 4).map Node.ioHome).foldl (fun s n => s.forgetLost onComputeDie n) s)).sendFar

/-- The resets of policy 1 (R402). -/
def State.resetDies (s : State) : State :=
  let ended := s.ports.flatMap fun p => p.2.launches.filter fun l => !(s.residents l).isEmpty
  ended.foldl (fun t l => s.endByReset t l) s.clearDies

/-- The platform state after the key store is erased and I/O die 0 reset: locked fields keep their values until power-on (R400, R404),
and the firmware slots theirs. -/
def Mgmt.afterReset (m : Mgmt) : Mgmt :=
  { m with
    released := false
    verified := false
    running := []
    session := none
    challenge := none
    ttEnable := if m.ttLock then m.ttEnable else 0xF
    ttPolicy := if m.ttLock then m.ttPolicy else 0
    erased := true
    fabricNum := if m.hkLock then m.fabricNum else 0
    fabricPending := none }

/-- The resets of policies 2 and 3: the key store is erased, then every die is reset, the launch ports with theirs (R401, R402). -/
def State.resetAll (s : State) : State :=
  let s := s.clearDies
  { s with
    mgmt := s.mgmt.afterReset
    dies := s.dies.map fun (d : Die) => { d with capW := 600, tempC := 0, powerW := 0 }
    ports := []
    ios := List.replicate 4 {}
    links := []
    wires := []
    early := []
    wroteFar := []
    tookFar := []
    regWrites := []
    waiting := []
    appLr := []
    lostPkgs := []
    transition := []
    moves := []
    mgVa := 0
    mgDst := 0
    mgAsid := 0
    mgStatus := 0
    mgGo := false
    mgJob := none }

/-- A sensor's bit in `tt_ctl` and `tt_status` (R400). -/
def sensorBit : Sensor → Nat
  | .voltage => 0 | .clock => 1 | .temperature => 2 | .lidMesh => 3

/-- TAMPER_ALARM (R401): an enabled sensor's alarm trips its bit, is sent to the controller and ends the session; then the policy -/
def execTamperAlarm (sensor : Sensor) (s : State) : Result :=
  let b := sensorBit sensor
  if s.mgmt.released && s.mgmt.ttEnable.getLsbD b then
    let s := (s.mapMgmt fun m => { m with tripped := m.tripped ||| BitVec.ofNat 4 (2 ^ b), session := none }).emit (.alarm sensor)
    .next (if s.mgmt.ttPolicy = 0 then s else if s.mgmt.ttPolicy = 1 then s.resetDies else s.resetAll)
  else .refused .notDue

/-! ### The management port (R396) -/

/-- The reply to a message: its code and sequence number, the length of the reply, a status and a body (R396, DESIGN CHOICE, log 39). -/
def State.reply (s : State) (m : Mlad) (status : Byte) (body : List Byte) : State :=
  s.emit (.mladlith m.ip m.port m.code (BitVec.ofNat 16 (9 + body.length)) m.seq status body)

/-- The message is a whole one of a code: its length covers the header of 8 bytes and the body (R396). -/
def framed (m : Mlad) (code : Nat) : Bool := decide (m.code.toNat = code) && decide (m.length.toNat = 8 + m.body.length)

/-- The message comes from the source the session is bound to. -/
def State.inSession (s : State) (m : Mlad) : Bool := s.mgmt.session == some (m.ip, m.port)

/-- The shape of a message of a code: none before I/O die 0 has its reset released; while the boot ROM verifies, busy (R393, DESIGN CHOICE, log 39). -/
def mladlith (code : Nat) (m : Mlad) (s : State) (f : State → State) : Result :=
  if !s.mgmt.released || !framed m code then .refused .notDue else if !s.mgmt.verified then .next (s.reply m 5 []) else .next (f s)

/-- The shape of a message that needs the session. -/
def mladlithIn (code : Nat) (m : Mlad) (s : State) (f : State → State) : Result :=
  mladlith code m s fun s => if s.inSession m then f s else s.reply m 2 []

/-- IDENTIFY (R396, R404) -/
def execIdentify (m : Mlad) (s : State) : Result :=
  mladlith 0x01 m s fun s => s.reply m 0 (leBytes 8 (s.mgmt.read 0x00) ++ leBytes 8 (s.mgmt.read 0x08))

/-- A body names a register of region 0x7. -/
def namesRegister (body : List Byte) : Bool := isDevice (leNat (body.take 8)) && decide (leNat (body.take 8) % 8 = 0)

/-- REG_READ (R396): the body is the register's address, the reply's its value (DESIGN CHOICE, log 39) -/
def execRegRead (m : Mlad) (s : State) : Result :=
  mladlithIn 0x02 m s fun s =>
    if m.body.length = 8 ∧ namesRegister m.body then s.reply m 0 (leBytes 8 (s.readReg (leNat m.body)).toNat) else s.reply m 3 []

/-- REG_WRITE (R396): the body is the register's address and the value (DESIGN CHOICE, log 39) -/
def execRegWrite (m : Mlad) (s : State) : Result :=
  mladlithIn 0x03 m s fun s =>
    if m.body.length = 16 ∧ namesRegister m.body then (s.writeReg (leNat (m.body.take 8)) (BitVec.ofNat 64 (leNat (m.body.drop 8)))).reply m 0 []
    else s.reply m 3 []

/-- POWER_STEP (R393, R396): the device is ready for the next supply step -/
def execPowerStep (m : Mlad) (s : State) : Result := mladlith 0x04 m s fun s => s.reply m 0 []

/-- Bytes written into a slot at an offset. -/
def writeSlot (im : List Byte) (off : Nat) (bs : List Byte) : List Byte :=
  im.take off ++ List.replicate (off - im.length) 0 ++ bs ++ im.drop (off + bs.length)

/-- FW_WRITE (R396): the body is the kind, a 32-bit offset and up to 1,024 bytes for the inactive slot (DESIGN CHOICE, log 39) -/
def execFwWrite (m : Mlad) (s : State) : Result :=
  mladlithIn 0x05 m s fun s =>
    let kind := leNat (m.body.take 1)
    if 5 ≤ m.body.length ∧ m.body.length ≤ 1029 ∧ kind < 3 then
      (s.mapMgmt fun g =>
        let slot := g.inactiveSlot kind
        { g with slots := SMap.put g.slots (2 * kind + slot) (writeSlot (g.image kind slot) (leNat ((m.body.drop 1).take 4)) (m.body.drop 5)) }).reply m 0 []
    else s.reply m 3 []

/-- FW_COMMIT (R396, R398): an accepted image of the kind the body names is marked newest, and raises the least version -/
def execFwCommit (m : Mlad) (s : State) : Result :=
  mladlithIn 0x06 m s fun s =>
    let kind := leNat (m.body.take 1)
    let g := s.mgmt
    let im := g.image kind (g.inactiveSlot kind)
    if m.body.length = 1 ∧ kind < 3 ∧ g.accepts kind im then
      (s.mapMgmt fun g =>
        { g with newest := SMap.put g.newest kind (g.inactiveSlot kind), minVersion := SMap.put g.minVersion kind (imageVersion im) }).reply m 0 []
    else s.reply m 3 []

/-- The measurements of the running images, in the order of the kinds (R399). -/
def Mgmt.measurements (g : Mgmt) : List Byte :=
  [0, 1, 2].flatMap fun k => match SMap.get? g.running k with
    | some slot => sha384 (g.image k slot)
    | none => []

/-- ATTEST (R399): the report and its signature by the identity key, which an erased key store has no more -/
def execAttest (m : Mlad) (s : State) : Result :=
  mladlith 0x07 m s fun s =>
    if s.mgmt.erased then s.reply m 4 []
    else if m.body.length ≠ 48 then s.reply m 3 []
    else
      let report := m.body ++ leBytes 8 idPart ++ s.mgmt.measurements
      s.reply m 0 (report ++ beBytes 96 (Config.identitySign (sha384 report)).toNat)

/-- SESSION_OPEN (R396): a fresh challenge; a session that is open ends -/
def execSessionOpen (m : Mlad) (s : State) : Result :=
  mladlith 0x09 m s fun s =>
    let c := Config.challenge s.mgmt.drawn
    (s.mapMgmt fun g => { g with session := none, challenge := some c, drawn := g.drawn + 1 }).reply m 0 (beBytes 48 c.toNat)

/-- The proof in a SessionProve's body, a key and a signature, verifies over a challenge (R396). -/
def proves (body : List Byte) (challenge : BitVec 384) : Bool :=
  decide (body.length = 193) && decide (beNat (sha384 (body.take 97)) = Config.fusedControllerHash.toNat)
    && ecdsaVerify (body.take 97) (sha384 (beBytes 48 challenge.toNat)) (body.drop 97)

/-- SESSION_PROVE (R396): the challenge is used up; a proof opens the session for its source -/
def execSessionProve (m : Mlad) (s : State) : Result :=
  mladlith 0x0A m s fun s =>
    let ok := match s.mgmt.challenge with
      | some c => proves m.body c
      | none => false
    if ok then (s.mapMgmt fun g => { g with challenge := none, session := some (m.ip, m.port) }).reply m 0 []
    else (s.mapMgmt fun g => { g with challenge := none }).reply m 3 []

/-- SESSION_CLOSE (R396) -/
def execSessionClose (m : Mlad) (s : State) : Result :=
  mladlithIn 0x0B m s fun s => (s.mapMgmt fun g => { g with session := none }).reply m 0 []

/-- SESSION_TIMEOUT (R396): 60 s have passed without a message that needs the session (DESIGN CHOICE, log 3) -/
def execSessionTimeout (s : State) : Result :=
  if s.mgmt.session.isSome then .next (s.mapMgmt fun g => { g with session := none }) else .refused .notDue

/-- CHALLENGE_EXPIRY (R396): 10 s have passed since the challenge was drawn (DESIGN CHOICE, log 3) -/
def execChallengeExpiry (s : State) : Result :=
  if s.mgmt.challenge.isSome then .next (s.mapMgmt fun g => { g with challenge := none }) else .refused .notDue

/-- A code that the table of R396 gives no message to the device. -/
def unknownCode (code : Nat) : Bool := decide (code = 0) || decide (code = 8) || decide (11 < code)

/-- MLADLITH_UNKNOWN_CODE (R396) -/
def execMladlithUnknownCode (m : Mlad) (s : State) : Result :=
  if unknownCode m.code.toNat then mladlith m.code.toNat m s fun s => s.reply m 1 [] else .refused .notDue

end Sys2Proof.Machine
end

