-- ==== Sys2Proof/Machine/Region.lean ====
section
/-! DEFINITION. Region conversion (R221 to R224): the checks of a range, its pages put in transition one after another, swept and made
coherent, and the conflict log. -/
namespace Sys2Proof.Machine
open Sys2Proof

/-- The pages of a range from address `a` to `stop`, by walking (R223): none where a walk must wait, an empty page being one
without a translation; the flag says that a page reaches beyond the range. -/
def State.pagesFrom (s : State) (asid : Nat) : Nat → Nat → Nat → Option (List (Option TlbEntry) × Bool)
  | 0, _, _ => some ([], false)
  | fuel + 1, a, stop =>
    if stop ≤ a then some ([], false)
    else if 2 ^ 56 ≤ a then some ([none], false)
    else match s.walk asid (BitVec.ofNat 56 a) with
      | .wait => none
      | .invalid => (State.pagesFrom s asid fuel (a + 65536) stop).map fun r => (none :: r.1, r.2)
      | .poisoned => (State.pagesFrom s asid fuel (a + 65536) stop).map fun r => (none :: r.1, r.2)
      | .found e =>
        if e.va ≠ a ∨ stop < e.va + e.size then some ([], true)
        else (State.pagesFrom s asid fuel (e.va + e.size) stop).map fun r => (some e :: r.1, r.2)

/-- What stops a conversion, or its pages (R223). -/
inductive ConvCheck
  | ok (pages : List TlbEntry)
  | trap (i : TrapInfo)
  | violation (sub : Nat) (addr : VAddr)
  | wait
deriving DecidableEq, Repr

/-- Every page of the log's range is mapped and writable: none for a wait, else the sub-code of the first that is not. -/
def State.logWritable (s : State) (asid : Nat) : Nat → Nat → Nat → Option (Option Nat)
  | 0, _, _ => some none
  | fuel + 1, a, stop =>
    if stop ≤ a then some none
    else if 2 ^ 56 ≤ a then some (some 2)
    else match s.walk asid (BitVec.ofNat 56 a) with
      | .wait => none
      | .invalid => some (some 2)
      | .poisoned => some (some tablePoison)
      | .found e => if permits e.perm .store then State.logWritable s asid fuel (e.va + e.size) stop else some (some 3)

/-- The checks of a conversion, in order (R223). -/
def State.checkConv (s : State) (t : Team) (ea : VAddr) (len : Nat) (log : VAddr) : ConvCheck :=
  let a := ea.toNat
  if len = 0 ∨ a % 65536 ≠ 0 ∨ len % 65536 ≠ 0 then .trap { code := 0x03, tval := ea }
  else match s.pagesFrom t.asid (len / 65536 + 1) a (a + len) with
    | none => .wait
    | some (_, true) => .trap { code := 0x03, tval := ea }
    | some (ps, false) =>
      if ps.any fun p => match p with
        | some e => !onPackage e.pa
        | none => true
      then .trap { code := 0x05, tval := ea }
      else match s.logWritable t.asid (len / 4 * 16 / 65536 + 2) log.toNat (log.toNat + len / 4 * 16) with
        | none => .wait
        | some (some sub) => .violation sub log
        | some none => .ok (ps.filterMap id)

/-- A dirty copy of a word. -/
structure DirtyCopy where
  die : Nat
  core : Nat
  val : Word
deriving DecidableEq, Repr

/-- The dirty copies of a word, the lowest die and core first, an RDC as core 48, but for an RDC's of which an L1 of its die holds a newer
one (R223). -/
def State.dirtyCopies (s : State) (line w : Nat) : List DirtyCopy :=
  (List.range Config.numDies).flatMap fun d =>
    ((s.cores.filter fun c => dieOf c.1 == d && (c.2.cell line w).dirty).map fun c => DirtyCopy.mk d (c.1 % Config.coresPerDie) (c.2.cell line w).val)
      ++ (if (s.dirtyRdc d line).contains w then [DirtyCopy.mk d 48 ((s.die d).rdcCell line w).val] else [])

/-- Every copy of a word goes (R223). -/
def State.dropAll (s : State) (line w : Nat) : State :=
  let s := (s.cores.map (·.1)).foldl (fun s c => s.dropL1 c line w) s
  (List.range Config.numDies).foldl (fun s d => s.dropRdc d line w) s

/-- The four words of a conflict record (R222). -/
def convRecord (va : Nat) (v : Word) (copies core die : Nat) : List Word :=
  [BitVec.ofNat 32 va, BitVec.ofNat 32 (va / 2 ^ 32), v, BitVec.ofNat 32 (copies * 65536 + core * 256 + die)]

/-- A store to the team's virtual memory from its core, beyond the path's own accesses: log, record and image writes. The
page must be valid and its line must have room; `n` bytes must not cross a line. -/
def State.storeAt (s : State) (core team slot asid : Nat) (va : Nat) (ws : List Word) : Option State :=
  match s.tlbWalk core asid (BitVec.ofNat 56 va) with
  | .found e => if s.room core = 0 then none else s.storeLine core team slot (e.phys va / 128) e.attr (storeBytes (e.phys va) (4 * ws.length) ws)
  | .invalid => none
  | .poisoned => none
  | .wait => none

/-- Sweeps a word (R223): the copy that wins is the home's, without poison (R356), every copy goes, and copies that differ leave a record. -/
def State.sweepWord (s : State) (e : TlbEntry) (line w : Nat) : State × List (List Word) :=
  match s.dirtyCopies line w with
  | [] => (s.dropAll line w, [])
  | k :: r =>
    let vals := ((k :: r).map (·.val)).eraseDups
    ((s.dropAll line w).setHomeWord (line * 32 + w) k.val false,
      if vals.length < 2 then [] else [convRecord (e.va + (line * 128 + 4 * w - e.pa)) k.val vals.length k.core k.die])

/-- Sweeps words of a page's cached lines in ascending order of address: the state, and the records to write. -/
def State.sweep (s : State) (e : TlbEntry) : List (Nat × Nat) → State × List (List Word)
  | [] => (s, [])
  | (l, w) :: r =>
    let (s, a) := s.sweepWord e l w
    let (s, b) := State.sweep s e r
    (s, a ++ b)

/-- The cached words of a page. -/
def State.cachedWords (s : State) (e : TlbEntry) : List (Nat × Nat) := (s.cachedLines e.pa e.size).flatMap fun l => (List.range 32).map fun w => (l, w)

/-- The leaf entry of a page says coherent (R223); none where a word of it is in flight. A page that something else has remapped or made
coherent meanwhile stays as it is. -/
def State.setCoherent (s : State) (e : TlbEntry) : Option State :=
  match s.walk e.asid (BitVec.ofNat 56 e.va) with
  | .wait => none
  | .invalid => some s
  | .poisoned => some s
  | .found x =>
    let a := x.tags.headD 0
    if x.attr = 2 ∨ x.tags.head? ≠ e.tags.head? then some s
    else if s.wordQuiet (a / 4) && s.wordQuiet (a / 4 + 1) then some (s.changeEntry a fun y => (y &&& ~~~(0x60 : DWord)) ||| 0x40)
    else none

/-- The page is in transition for this team, and for no one before it (R224). -/
def State.converting (s : State) (team : Nat) (e : TlbEntry) : Bool :=
  (s.transition.find? fun p => overlaps p.1 (p.1 + p.2.1) e.pa (e.pa + e.size)) == some (e.pa, e.size, some team)

/-! ### One path's conversions, thread by thread (R221) -/

/-- The path's context for one of its threads. -/
def Ctx.alone (c : Ctx) (i : Nat) : Ctx := { c with ms := [i] }

/-- The thread whose conversion is at work: the first that has not ended. -/
def Conv.thread? (v : Conv) : Option Nat := v.ms.find? fun i => !(v.ended.any fun x => x.1 == i) && !(v.traps.any fun x => x.1 == i)

/-- Sets how far a group's conversion has come. -/
def State.putConv (s : State) (c : Ctx) (v : Conv) : State := s.mapGroup c.team.id c.group.idx fun g => { g with conv := some v }

/-- A conversion begins (R221, R223): it waits as `fence.sc.dev` of its thread does, and then makes its checks. -/
def State.convBegin (s : State) (c : Ctx) (v : Conv) (i : Nat) (ea : VAddr) (len : Nat) : State :=
  let go := fun (v : Conv) => s.mapGroup c.team.id c.group.idx fun g => { g.mapAt [i] (fun _ u => { u with rel := none }) with conv := some v }
  if !s.mayRelease (c.alone i) .dev then s.beginRelease (c.alone i) .dev
  else match s.checkConv c.team ea len c.group.cfl with
    | .wait => s
    | .violation sub va => s.breach c.team.id sub va
    | .trap info => go { v with traps := v.traps ++ [(i, info)] }
    | .ok ps => go { v with pages := some (ps.filter fun e => e.attr != 2), n := 0 }

/-- A conversion ends (R221, R223): it waits as `fence.sc.dev` of its thread does; then the thread's register holds the count of its
records, and the log pointer has moved past them. -/
def State.convEnd (s : State) (c : Ctx) (v : Conv) (t i : Nat) : State :=
  if !s.mayRelease (c.alone i) .dev then s.beginRelease (c.alone i) .dev
  else s.mapGroup c.team.id c.group.idx fun g =>
    { g.mapAt [i] (fun _ u => { View.setV { t := u, handler := g.handler } t (BitVec.ofNat 32 v.n) with spec := [], rel := none }) with
      conv := some { v with ended := v.ended ++ [(i, v.n)], pages := none }
      cfl := g.cfl + BitVec.ofNat 56 (16 * v.n) }

/-- The records of a swept page, in the state of its team and in those it could be rolled back to (R350). -/
def Team.sweptPage (group : Nat) (e : TlbEntry) (rs : List (List Word)) (t : Team) : Team :=
  { t with groups := t.groups.map fun g => match g.conv with
      | some v => if g.idx = group ∧ v.asked = true ∧ v.swept = none ∧ v.pages.bind (·.head?) = some e then
          { g with conv := some { v with swept := some rs } } else g
      | none => g }

/-- One step of the conversion of a page (R223, R224): it enters transition once its request has settled; when it is quiet it is swept, its
records are written, and its leaf entry says coherent. -/
def State.convPage (s : State) (c : Ctx) (v : Conv) (e : TlbEntry) (rest : List TlbEntry) : State :=
  if !v.asked then
    (if s.room c.team.core = 0 then s
     else (s.putConv c { v with asked := true }).produce c.team.core c.team.id (.convert e.pa e.size))
  else match v.swept with
    | none =>
      if s.converting c.team.id e && s.pageQuiet e.pa e.size then
        let (s, rs) := s.sweep e (s.cachedWords e)
        s.inputTeam c.team.id (Team.sweptPage c.group.idx e rs)
      else s
    | some (r :: rs) =>
      (match s.storeAt c.team.core c.team.id c.group.slotKey c.team.asid (c.group.cfl.toNat + 16 * v.n) r with
        | none => (s.askRange? c.team.asid (c.group.cfl.toNat + 16 * v.n) 16).getD s
        | some s => s.putConv c { v with swept := some rs, n := v.n + 1 })
    | some [] =>
      match s.setCoherent e with
      | none => (s.ask? (e.tags.headD 0 / 128)).getD s
      | some s => ({ s with transition := s.transition.erase (e.pa, e.size, some c.team.id) } : State).putConv c
          { v with pages := some rest, asked := false, swept := none }

/-- Every conversion of the path has ended (R221): its threads go on, and those that failed a check trap. -/
def State.convDone (s : State) (c : Ctx) (v : Conv) : State :=
  (s.mapGroup c.team.id c.group.idx fun g => { (g.mapAt (v.ended.map (·.1)) fun _ u => u.tick.next).issued c.lead with conv := none }).takeTraps
    c.team.id c.group.idx (v.traps.map fun x => { pos := x.1, info := x.2, epc := (c.group.thread x.1).pc })

/-- One step of a path's conversions. -/
def State.convStep (s : State) (c : Ctx) (v : Conv) (t a : Nat) : State :=
  match v.thread? with
  | none => s.convDone c v
  | some i => match v.pages with
    | none => s.convBegin c v i (vaddr ((c.view i).pair a)) ((c.view i).v t).toNat
    | some [] => s.convEnd c v t i
    | some (e :: rest) => s.convPage c v e rest

/-- `rgn.conv` (R221, R223, R224); another path of the group waits while one converts (DESIGN CHOICE, log 34) -/
def execRgnConv (t a : BitVec 7) (s : State) : Result :=
  match s.path? with
  | none => .refused .noIssuer
  | some c =>
    let r : Regs := { reads := [(t.toNat, 1), (a.toNat, 2)], writes := [(t.toNat, 1)] }
    if !c.group.handler then .next (s.trapPath c { code := 0x01 })
    else if !r.ok c.group.regs then .next (s.trapPath c { code := 0x02 })
    else match c.group.conv with
      | some v => if v.ms.all c.ms.contains then .next (s.convStep c v t.toNat a.toNat) else .next s
      | none =>
        if c.poisoned r then .next (s.killGangOf c.team.id 0x11 0)
        else if !c.ready r then .next (s.noteMiss c r)
        else .next (s.putConv c { ms := c.ms })

end Sys2Proof.Machine
end

