-- ==== Sys2Proof/Machine/Results.lean ====
section
/-! DEFINITION. Long-latency results becoming available (R25, R26). -/
namespace Sys2Proof.Machine
open Sys2Proof

/-- The result may be written, or its poisoned value is delivered (R356). -/
def OutRes.due (o : OutRes) : Bool :=
  match o.kind with
  | .ready _ => true | .poisoned _ => true
  | .load _ _ _ _ => false | .atom _ _ _ _ => false | .uniform _ => false | .submitted => false
/-- The values of a ready result. -/
def OutRes.vals (o : OutRes) : List Word :=
  match o.kind with
  | .ready vs => vs
  | .poisoned _ => [] | .load _ _ _ _ => [] | .atom _ _ _ _ => [] | .uniform _ => [] | .submitted => []

/-- Writes a result's registers; its own speculation entry stands (R124, R125). -/
def Thread.deliver (t : Thread) (o : OutRes) : Thread :=
  { t.writeVs o.dst o.vals with spec := t.spec, out := t.out.erase o }

/-- Writes a uniform result's registers. -/
def Group.writeKs (g : Group) : List Nat → List Word → Group
  | j :: js, x :: xs => Group.writeKs (g.writeK j x) js xs
  | _, _ => g

/-- Writes a uniform result and closes the windows it opened in the threads of its path (R122). -/
def Group.deliverK (g : Group) (o : OutRes) : Group :=
  let g' := Group.writeKs g o.dst o.vals
  { g' with
    kout := g'.kout.erase o
    threads := g'.threads.map fun t => { t with out := t.out.filter fun x => x.kind != .uniform o.tag } }

/-- Records the values of a result that came from outside the core (R350). -/
def State.journalOut (s : State) (core : Nat) (o : OutRes) : State :=
  if o.ext then o.vals.foldl (fun s w => s.journal core w) s else s
/-- The journal has room for them. -/
def State.outRoom (s : State) (core : Nat) (o : OutRes) : Bool := !o.ext || s.journalRoom core o.vals.length

/-- A load that a rollback put back (R350) and that nothing under way would serve asks for its line again; none where it must
wait. -/
def State.askAgain (s : State) (t : Team) (g : Group) (o : OutRes) : Option State :=
  match o.kind with
  | .load pa n _ va =>
    if s.lineBusy (pa / 128) || ((s.core t.core).readL1 pa n).isSome then none
    else match s.tlbWalk t.core t.asid va with
      | .found e => (s.loadLine t.core g.slotKey e.attr pa n).map fun s => s.l1Progress t.core
      | .invalid => none
      | .poisoned => none
      | .wait => none
  | .ready _ => none | .poisoned _ => none | .atom _ _ _ _ => none | .uniform _ => none | .submitted => none

/-- LONG_LATENCY_RESULT (R25): the first available result of a thread, or, with position 32, of its group's uniform
instructions, is written; a poisoned value kills the gang; a trap that waited for it enters its handler (R332) -/
def execLongLatencyResult (team group pos : Nat) (s : State) : Result :=
  match s.team? team with
  | none => .refused .notDue
  | some t =>
    match t.group? group with
    | none => .refused .notDue
    | some g =>
      match (if pos < 32 then (g.thread pos).out else g.kout).find? fun o => o.due && s.outRoom t.core o with
      | none =>
        match (if pos < 32 then (g.thread pos).out else g.kout).findSome? (s.askAgain t g) with
        | some s => .next s
        | none => .refused .notDue
      | some o =>
        match o.kind with
        | .poisoned va => .next (s.killGangOf team 0x11 va)
        | _ =>
          let s := s.journalOut t.core o
          let s := s.mapGroup team group fun g =>
            if pos < 32 then g.setThread pos ((g.thread pos).deliver o) else g.deliverK o
          .next (s.enterIfDrained team group)

end Sys2Proof.Machine
end

