-- ==== Sys2Proof/Machine/Spec.lean ====
section
/-! DEFINITION. Speculative loads and their checks (R124 to R126). -/
namespace Sys2Proof.Machine
open Sys2Proof

/-- A thread's address table with one more entry, its latest; a seventeenth evicts the oldest (R124). -/
def Thread.addSpec (t : Thread) (e : SpecEntry) : Thread :=
  { t with spec := (t.spec ++ [e]).drop ((t.spec.length + 1) - 16) }

/-- `ld.spec` of `n` bytes into `span` registers (R124): it traps on no address; where a check of R119 fails it writes 0 and
records nothing. So it does for a destination byte not yet delivered too: R246 names `ld.spec` among the accesses that trap there, R124 says that
it never traps (DESIGN CHOICE, log 59). -/
def laneSpec (n span : Nat) (t a : BitVec 7) (l : BitVec 4) (sc : Scope) (s : State) : Result :=
  match s.path? with
  | none => .refused .noIssuer
  | some c =>
    let r : Regs := { reads := [(a.toNat, 2)], writes := [(t.toNat, span)] }
    if !r.ok c.group.regs then .next (s.trapPath c { code := 0x02 })
    else if c.poisoned r then .next (s.killGangOf c.team.id 0x11 0)
    else if !c.ready r then .next (s.noteMiss c r)
    else if !c.roomForOut then .next s
    else if s.throttleHolds c then .next s
    else if !s.orderMay c .rlx sc false then .next s
    else
      let xs := s.attempts c c.ms a.toNat n false
      if s.someWait c n xs then .next s
      else
        let spots := spotsOf xs
        match (s.keepAll c xs).startLoads c n false spots with
        | none => .next (s.askSpots spots)
        | some (s', ks) =>
          let dst := operandIdx c.group.handler (t.toNat, span)
          let upd := fun (i : Nat) (u : Thread) =>
            if spots.any fun x => x.pos == i then
              (u.loading dst l.toNat false (vaAt spots i) n (kindAt ks i)).addSpec { addr := vaAt spots i, bytes := n, reg := vIndex c.group.handler t.toNat }
            else u.ask { dst := dst, look := l.toNat, kind := .ready (List.replicate span 0) }
          .next (s'.mapGroup c.team.id c.group.idx fun g => (g.mapAt c.ms upd).issued c.lead)

/-- The entry a `chk` frees and is served by (R126). -/
def View.specHit (w : View) (t a n : Nat) (e : SpecEntry) : Bool :=
  e.addr == vaddr (w.pair a) && e.bytes == n && e.reg == vIndex w.handler t

/-- `chk` of `n` bytes into `span` registers (R126): the matching entry is freed, or a relaxed load is made with every check
and trap of R119. -/
def laneChk (n span : Nat) (t a : BitVec 7) (l : BitVec 4) (sc : Scope) (s : State) : Result :=
  laneAccess { reads := [(a.toNat, 2)], writes := [(t.toNat, span)] } a.toNat n false true .rlx sc
    (fun w => !w.t.spec.any (w.specHit t.toNat a.toNat n))
    (fun s c xs => (s.startLoads c n false xs).map fun r =>
      (r.1, fun i u =>
        if xs.any fun x => x.pos == i then u.loading (operandIdx c.group.handler (t.toNat, span)) l.toNat false (vaAt xs i) n (kindAt r.2 i)
        else { u with spec := u.spec.filter fun e => !(c.view i).specHit t.toNat a.toNat n e }.tick.next)) s

/-- `ld.spec.b32` (R124) -/
def execLdSpecB32 (t a : BitVec 7) (l : BitVec 4) (sc : Scope) (s : State) : Result := laneSpec 4 1 t a l sc s
/-- `ld.spec.b64` (R124) -/
def execLdSpecB64 (t a : BitVec 7) (l : BitVec 4) (sc : Scope) (s : State) : Result := laneSpec 8 2 t a l sc s
/-- `chk.b32` (R126) -/
def execChkB32 (t a : BitVec 7) (l : BitVec 4) (sc : Scope) (s : State) : Result := laneChk 4 1 t a l sc s
/-- `chk.b64` (R126) -/
def execChkB64 (t a : BitVec 7) (l : BitVec 4) (sc : Scope) (s : State) : Result := laneChk 8 2 t a l sc s

end Sys2Proof.Machine
end

