-- ==== Sys2Proof/Machine/Uniform.lean ====
section
/-! DEFINITION. Uniform integer instructions, immediates and uniform branches (R93 to R95, R117). -/
namespace Sys2Proof.Machine
open Sys2Proof

/-- A form kd, ka, kb. -/
def uni3 (d a b : BitVec 6) (f : Word → Word → Word) (s : State) : Result :=
  uniOp { reads := [(a.toNat, 1), (b.toNat, 1)], writes := [(d.toNat, 1)] }
    (fun g => g.setK d.toNat (f (g.kv a.toNat) (g.kv b.toNat))) s
/-- A form kd, ka. -/
def uni2 (d a : BitVec 6) (f : Word → Word) (s : State) : Result :=
  uniOp { reads := [(a.toNat, 1)], writes := [(d.toNat, 1)] } (fun g => g.setK d.toNat (f (g.kv a.toNat))) s
/-- A form on pairs. -/
def uniPair3 (d a b : BitVec 6) (f : DWord → DWord → DWord) (s : State) : Result :=
  uniOp { reads := [(a.toNat, 2), (b.toNat, 2)], writes := [(d.toNat, 2)] }
    (fun g => g.setKpair d.toNat (f (g.kpair a.toNat) (g.kpair b.toNat))) s
/-- A compare and branch of the path (R117). -/
def uniBranch (a b : BitVec 6) (o : BitVec 10) (c : Word → Word → Bool) (s : State) : Result :=
  uniStep { reads := [(a.toNat, 1), (b.toNat, 1)] } (fun g => g)
    (fun g pc => if c (g.kv a.toNat) (g.kv b.toNat) then pc + (o.signExtend 56 <<< 2) else pc + 4) s

/-- uniform arithmetic (R94) -/
def execKaddB32 (d a b : BitVec 6) (s : State) : Result := uni3 d a b (fun a b => a + b) s
/-- uniform arithmetic (R94) -/
def execKsubB32 (d a b : BitVec 6) (s : State) : Result := uni3 d a b (fun a b => a - b) s
/-- uniform arithmetic (R94) -/
def execKmulLoB32 (d a b : BitVec 6) (s : State) : Result := uni3 d a b (fun a b => a * b) s
/-- uniform arithmetic (R94) -/
def execKmulHiI32 (d a b : BitVec 6) (s : State) : Result := uni3 d a b (fun a b => mulHiS a b) s
/-- uniform arithmetic (R94) -/
def execKmulHiN32 (d a b : BitVec 6) (s : State) : Result := uni3 d a b (fun a b => mulHiU a b) s
/-- uniform arithmetic (R94) -/
def execKminI32 (d a b : BitVec 6) (s : State) : Result := uni3 d a b (fun a b => minS a b) s
/-- uniform arithmetic (R94) -/
def execKmaxI32 (d a b : BitVec 6) (s : State) : Result := uni3 d a b (fun a b => maxS a b) s
/-- uniform arithmetic (R94) -/
def execKminN32 (d a b : BitVec 6) (s : State) : Result := uni3 d a b (fun a b => minU a b) s
/-- uniform arithmetic (R94) -/
def execKmaxN32 (d a b : BitVec 6) (s : State) : Result := uni3 d a b (fun a b => maxU a b) s
/-- `kadd.b64` (R94) -/
def execKaddB64 (d a b : BitVec 6) (s : State) : Result := uniPair3 d a b (fun a b => a + b) s
/-- `ksub.b64` (R94) -/
def execKsubB64 (d a b : BitVec 6) (s : State) : Result := uniPair3 d a b (fun a b => a - b) s
/-- uniform logic, shift or field (R94) -/
def execKandB32 (d a b : BitVec 6) (s : State) : Result := uni3 d a b (fun a b => a &&& b) s
/-- uniform logic, shift or field (R94) -/
def execKorB32 (d a b : BitVec 6) (s : State) : Result := uni3 d a b (fun a b => a ||| b) s
/-- uniform logic, shift or field (R94) -/
def execKxorB32 (d a b : BitVec 6) (s : State) : Result := uni3 d a b (fun a b => a ^^^ b) s
/-- uniform logic, shift or field (R94) -/
def execKandnB32 (d a b : BitVec 6) (s : State) : Result := uni3 d a b (fun a b => a &&& ~~~b) s
/-- uniform logic, shift or field (R94) -/
def execKshlB32 (d a b : BitVec 6) (s : State) : Result := uni3 d a b (fun a b => shl a b.toNat) s
/-- uniform logic, shift or field (R94) -/
def execKshrN32 (d a b : BitVec 6) (s : State) : Result := uni3 d a b (fun a b => shrU a b.toNat) s
/-- uniform logic, shift or field (R94) -/
def execKshrI32 (d a b : BitVec 6) (s : State) : Result := uni3 d a b (fun a b => shrS a b.toNat) s
/-- uniform logic, shift or field (R94) -/
def execKbfeN32 (d a b : BitVec 6) (s : State) : Result := uni3 d a b (fun a b => bfeU a b) s
/-- `knot.b32` (R94) -/
def execKnotB32 (d a : BitVec 6) (s : State) : Result := uni2 d a (fun a => ~~~a) s
/-- `kpopc.b32` (R94) -/
def execKpopcB32 (d a : BitVec 6) (s : State) : Result := uni2 d a popc s
/-- `kclz.b32` (R94) -/
def execKclzB32 (d a : BitVec 6) (s : State) : Result := uni2 d a clz s
/-- uniform immediate form (R95) -/
def execKaddi (d a : BitVec 6) (i : BitVec 13) (s : State) : Result := uni2 d a (fun a => a + immS i) s
/-- uniform immediate form (R95) -/
def execKandi (d a : BitVec 6) (i : BitVec 13) (s : State) : Result := uni2 d a (fun a => a &&& immS i) s
/-- uniform immediate form (R95) -/
def execKori (d a : BitVec 6) (i : BitVec 13) (s : State) : Result := uni2 d a (fun a => a ||| immS i) s
/-- uniform immediate form (R95) -/
def execKxori (d a : BitVec 6) (i : BitVec 13) (s : State) : Result := uni2 d a (fun a => a ^^^ immS i) s
/-- uniform immediate form (R95) -/
def execKshlori (d a : BitVec 6) (i : BitVec 13) (s : State) : Result := uni2 d a (fun a => (a <<< 13) ||| immZ i) s
/-- `kmovi` (R95) -/
def execKmovi (d : BitVec 6) (i : BitVec 13) (s : State) : Result :=
  uniOp { writes := [(d.toNat, 1)] } (fun g => g.setK d.toNat (immS i)) s
/-- uniform shift by an immediate (R95) -/
def execKshliB32 (d a : BitVec 6) (n : BitVec 5) (s : State) : Result := uni2 d a (fun a => shl a n.toNat) s
/-- uniform shift by an immediate (R95) -/
def execKshriN32 (d a : BitVec 6) (n : BitVec 5) (s : State) : Result := uni2 d a (fun a => shrU a n.toNat) s
/-- uniform shift by an immediate (R95) -/
def execKshriI32 (d a : BitVec 6) (n : BitVec 5) (s : State) : Result := uni2 d a (fun a => shrS a n.toNat) s
/-- `kbra` (R117) -/
def execKbra (o : BitVec 10) (s : State) : Result :=
  uniStep {} (fun g => g) (fun _ pc => pc + (o.signExtend 56 <<< 2)) s
/-- uniform compare and branch (R117) -/
def execKbrEqB32 (a b : BitVec 6) (o : BitVec 10) (s : State) : Result := uniBranch a b o (condHolds .eq) s
/-- uniform compare and branch (R117) -/
def execKbrNeB32 (a b : BitVec 6) (o : BitVec 10) (s : State) : Result := uniBranch a b o (condHolds .ne) s
/-- uniform compare and branch (R117) -/
def execKbrLtI32 (a b : BitVec 6) (o : BitVec 10) (s : State) : Result := uniBranch a b o (condHolds .ltI) s
/-- uniform compare and branch (R117) -/
def execKbrGeI32 (a b : BitVec 6) (o : BitVec 10) (s : State) : Result := uniBranch a b o (condHolds .geI) s
/-- uniform compare and branch (R117) -/
def execKbrLtN32 (a b : BitVec 6) (o : BitVec 10) (s : State) : Result := uniBranch a b o (condHolds .ltN) s
/-- uniform compare and branch (R117) -/
def execKbrGeN32 (a b : BitVec 6) (o : BitVec 10) (s : State) : Result := uniBranch a b o (condHolds .geN) s

end Sys2Proof.Machine
end

