-- ==== Sys2Proof/Machine/Dispatch.lean ====
section
/-! DEFINITION. One arm per constructor of `Instr`, each one call of that instruction's meaning. -/
namespace Sys2Proof.Machine
open Sys2Proof

def exec (i : Instr) (s : State) : Host.Outcome State Fault Refusal :=
  match i with
  | .nop => Sys2Proof.Machine.execNop s
  | .trap n => Sys2Proof.Machine.execTrap n s
  | .land => Sys2Proof.Machine.execLand s
  | .yield => Sys2Proof.Machine.execYield s
  | .exit => Sys2Proof.Machine.execExit s
  | .smovSr d x => Sys2Proof.Machine.execSmovSr d x s
  | .smovCr d x => Sys2Proof.Machine.execSmovCr d x s
  | .smovK d x => Sys2Proof.Machine.execSmovK d x s
  | .ssetCr a x => Sys2Proof.Machine.execSsetCr a x s
  | .ssetK a x => Sys2Proof.Machine.execSsetK a x s
  | .eret => Sys2Proof.Machine.execEret s
  | .iaddI32 d a b => Sys2Proof.Machine.execIaddI32 d a b s
  | .isubI32 d a b => Sys2Proof.Machine.execIsubI32 d a b s
  | .iaddSatI32 d a b => Sys2Proof.Machine.execIaddSatI32 d a b s
  | .iaddSatN32 d a b => Sys2Proof.Machine.execIaddSatN32 d a b s
  | .isubSatI32 d a b => Sys2Proof.Machine.execIsubSatI32 d a b s
  | .isubSatN32 d a b => Sys2Proof.Machine.execIsubSatN32 d a b s
  | .imulLoB32 d a b => Sys2Proof.Machine.execImulLoB32 d a b s
  | .imulHiI32 d a b => Sys2Proof.Machine.execImulHiI32 d a b s
  | .imulHiN32 d a b => Sys2Proof.Machine.execImulHiN32 d a b s
  | .imadLoB32 d a b => Sys2Proof.Machine.execImadLoB32 d a b s
  | .inegI32 d a => Sys2Proof.Machine.execInegI32 d a s
  | .iabsI32 d a => Sys2Proof.Machine.execIabsI32 d a s
  | .iminI32 d a b => Sys2Proof.Machine.execIminI32 d a b s
  | .imaxI32 d a b => Sys2Proof.Machine.execImaxI32 d a b s
  | .iminN32 d a b => Sys2Proof.Machine.execIminN32 d a b s
  | .imaxN32 d a b => Sys2Proof.Machine.execImaxN32 d a b s
  | .iaddB64 d a b => Sys2Proof.Machine.execIaddB64 d a b s
  | .isubB64 d a b => Sys2Proof.Machine.execIsubB64 d a b s
  | .imulWideI32 d a b => Sys2Proof.Machine.execImulWideI32 d a b s
  | .imulWideN32 d a b => Sys2Proof.Machine.execImulWideN32 d a b s
  | .imadWideI32 d a b => Sys2Proof.Machine.execImadWideI32 d a b s
  | .imadWideN32 d a b => Sys2Proof.Machine.execImadWideN32 d a b s
  | .iminI64 d a b => Sys2Proof.Machine.execIminI64 d a b s
  | .imaxI64 d a b => Sys2Proof.Machine.execImaxI64 d a b s
  | .iminN64 d a b => Sys2Proof.Machine.execIminN64 d a b s
  | .imaxN64 d a b => Sys2Proof.Machine.execImaxN64 d a b s
  | .idot4I8 d a b => Sys2Proof.Machine.execIdot4I8 d a b s
  | .idot4N8 d a b => Sys2Proof.Machine.execIdot4N8 d a b s
  | .idot2I16 d a b => Sys2Proof.Machine.execIdot2I16 d a b s
  | .idot2N16 d a b => Sys2Proof.Machine.execIdot2N16 d a b s
  | .isad4N8 d a b => Sys2Proof.Machine.execIsad4N8 d a b s
  | .iaddN16x2 d a b => Sys2Proof.Machine.execIaddN16x2 d a b s
  | .isubN16x2 d a b => Sys2Proof.Machine.execIsubN16x2 d a b s
  | .shlB32 d a b => Sys2Proof.Machine.execShlB32 d a b s
  | .shrN32 d a b => Sys2Proof.Machine.execShrN32 d a b s
  | .shrI32 d a b => Sys2Proof.Machine.execShrI32 d a b s
  | .rolB32 d a b => Sys2Proof.Machine.execRolB32 d a b s
  | .rorB32 d a b => Sys2Proof.Machine.execRorB32 d a b s
  | .andB32 d a b => Sys2Proof.Machine.execAndB32 d a b s
  | .orB32 d a b => Sys2Proof.Machine.execOrB32 d a b s
  | .xorB32 d a b => Sys2Proof.Machine.execXorB32 d a b s
  | .andnB32 d a b => Sys2Proof.Machine.execAndnB32 d a b s
  | .ornB32 d a b => Sys2Proof.Machine.execOrnB32 d a b s
  | .xnorB32 d a b => Sys2Proof.Machine.execXnorB32 d a b s
  | .notB32 d a => Sys2Proof.Machine.execNotB32 d a s
  | .shlB64 d a b => Sys2Proof.Machine.execShlB64 d a b s
  | .shrN64 d a b => Sys2Proof.Machine.execShrN64 d a b s
  | .shrI64 d a b => Sys2Proof.Machine.execShrI64 d a b s
  | .bfeN32 d a b => Sys2Proof.Machine.execBfeN32 d a b s
  | .bfeI32 d a b => Sys2Proof.Machine.execBfeI32 d a b s
  | .bfiB32 d a b => Sys2Proof.Machine.execBfiB32 d a b s
  | .bpermB32 d a b => Sys2Proof.Machine.execBpermB32 d a b s
  | .popcB32 d a => Sys2Proof.Machine.execPopcB32 d a s
  | .clzB32 d a => Sys2Proof.Machine.execClzB32 d a s
  | .ctzB32 d a => Sys2Proof.Machine.execCtzB32 d a s
  | .brevB32 d a => Sys2Proof.Machine.execBrevB32 d a s
  | .icmpEqB32 p a b => Sys2Proof.Machine.execIcmpEqB32 p a b s
  | .icmpNeB32 p a b => Sys2Proof.Machine.execIcmpNeB32 p a b s
  | .icmpLtI32 p a b => Sys2Proof.Machine.execIcmpLtI32 p a b s
  | .icmpLeI32 p a b => Sys2Proof.Machine.execIcmpLeI32 p a b s
  | .icmpGtI32 p a b => Sys2Proof.Machine.execIcmpGtI32 p a b s
  | .icmpGeI32 p a b => Sys2Proof.Machine.execIcmpGeI32 p a b s
  | .icmpLtN32 p a b => Sys2Proof.Machine.execIcmpLtN32 p a b s
  | .icmpLeN32 p a b => Sys2Proof.Machine.execIcmpLeN32 p a b s
  | .icmpGtN32 p a b => Sys2Proof.Machine.execIcmpGtN32 p a b s
  | .icmpGeN32 p a b => Sys2Proof.Machine.execIcmpGeN32 p a b s
  | .icmpEqB64 p a b => Sys2Proof.Machine.execIcmpEqB64 p a b s
  | .icmpNeB64 p a b => Sys2Proof.Machine.execIcmpNeB64 p a b s
  | .icmpLtI64 p a b => Sys2Proof.Machine.execIcmpLtI64 p a b s
  | .icmpGeI64 p a b => Sys2Proof.Machine.execIcmpGeI64 p a b s
  | .icmpLtN64 p a b => Sys2Proof.Machine.execIcmpLtN64 p a b s
  | .icmpGeN64 p a b => Sys2Proof.Machine.execIcmpGeN64 p a b s
  | .selB32 d a b p => Sys2Proof.Machine.execSelB32 d a b p s
  | .movB32 d a => Sys2Proof.Machine.execMovB32 d a s
  | .movB64 d a => Sys2Proof.Machine.execMovB64 d a s
  | .pget d q => Sys2Proof.Machine.execPget d q s
  | .pset p a => Sys2Proof.Machine.execPset p a s
  | .pand p q r => Sys2Proof.Machine.execPand p q r s
  | .por p q r => Sys2Proof.Machine.execPor p q r s
  | .pxor p q r => Sys2Proof.Machine.execPxor p q r s
  | .iaddi d a imm => Sys2Proof.Machine.execIaddi d a imm s
  | .andi d a imm => Sys2Proof.Machine.execAndi d a imm s
  | .ori d a imm => Sys2Proof.Machine.execOri d a imm s
  | .xori d a imm => Sys2Proof.Machine.execXori d a imm s
  | .shliB32 d a n => Sys2Proof.Machine.execShliB32 d a n s
  | .shriN32 d a n => Sys2Proof.Machine.execShriN32 d a n s
  | .shriI32 d a n => Sys2Proof.Machine.execShriI32 d a n s
  | .roliB32 d a n => Sys2Proof.Machine.execRoliB32 d a n s
  | .roriB32 d a n => Sys2Proof.Machine.execRoriB32 d a n s
  | .movi d imm => Sys2Proof.Machine.execMovi d imm s
  | .shlori d a imm => Sys2Proof.Machine.execShlori d a imm s
  | .icmpi p a c imm => Sys2Proof.Machine.execIcmpi p a c imm s
  | .faddF32 r d a b => Sys2Proof.Machine.execFaddF32 r d a b s
  | .fsubF32 r d a b => Sys2Proof.Machine.execFsubF32 r d a b s
  | .fmulF32 r d a b => Sys2Proof.Machine.execFmulF32 r d a b s
  | .faddSatF32 r d a b => Sys2Proof.Machine.execFaddSatF32 r d a b s
  | .fsubSatF32 r d a b => Sys2Proof.Machine.execFsubSatF32 r d a b s
  | .fmulSatF32 r d a b => Sys2Proof.Machine.execFmulSatF32 r d a b s
  | .fmaF32 d a b r => Sys2Proof.Machine.execFmaF32 d a b r s
  | .fmsF32 d a b r => Sys2Proof.Machine.execFmsF32 d a b r s
  | .fnmaF32 d a b r => Sys2Proof.Machine.execFnmaF32 d a b r s
  | .fmaSatF32 d a b r => Sys2Proof.Machine.execFmaSatF32 d a b r s
  | .fminF32 d a b => Sys2Proof.Machine.execFminF32 d a b s
  | .fmaxF32 d a b => Sys2Proof.Machine.execFmaxF32 d a b s
  | .fminnumF32 d a b => Sys2Proof.Machine.execFminnumF32 d a b s
  | .fmaxnumF32 d a b => Sys2Proof.Machine.execFmaxnumF32 d a b s
  | .fabsF32 d a => Sys2Proof.Machine.execFabsF32 d a s
  | .fnegF32 d a => Sys2Proof.Machine.execFnegF32 d a s
  | .frintF32Rn d a => Sys2Proof.Machine.execFrintF32Rn d a s
  | .frintF32Rz d a => Sys2Proof.Machine.execFrintF32Rz d a s
  | .frintF32Rd d a => Sys2Proof.Machine.execFrintF32Rd d a s
  | .frintF32Ru d a => Sys2Proof.Machine.execFrintF32Ru d a s
  | .frintF32Rna d a => Sys2Proof.Machine.execFrintF32Rna d a s
  | .fcopysignF32 d a b => Sys2Proof.Machine.execFcopysignF32 d a b s
  | .fcmpEqF32 p a b => Sys2Proof.Machine.execFcmpEqF32 p a b s
  | .fcmpNeF32 p a b => Sys2Proof.Machine.execFcmpNeF32 p a b s
  | .fcmpLtF32 p a b => Sys2Proof.Machine.execFcmpLtF32 p a b s
  | .fcmpLeF32 p a b => Sys2Proof.Machine.execFcmpLeF32 p a b s
  | .fcmpGtF32 p a b => Sys2Proof.Machine.execFcmpGtF32 p a b s
  | .fcmpGeF32 p a b => Sys2Proof.Machine.execFcmpGeF32 p a b s
  | .fcmpOrdF32 p a b => Sys2Proof.Machine.execFcmpOrdF32 p a b s
  | .fcmpUnoF32 p a b => Sys2Proof.Machine.execFcmpUnoF32 p a b s
  | .faddBf16x2Rn d a b => Sys2Proof.Machine.execFaddBf16x2Rn d a b s
  | .fmulBf16x2Rn d a b => Sys2Proof.Machine.execFmulBf16x2Rn d a b s
  | .fmaBf16x2Rn d a b => Sys2Proof.Machine.execFmaBf16x2Rn d a b s
  | .fminBf16x2 d a b => Sys2Proof.Machine.execFminBf16x2 d a b s
  | .fmaxBf16x2 d a b => Sys2Proof.Machine.execFmaxBf16x2 d a b s
  | .faddF16x2Rn d a b => Sys2Proof.Machine.execFaddF16x2Rn d a b s
  | .fmulF16x2Rn d a b => Sys2Proof.Machine.execFmulF16x2Rn d a b s
  | .fmaF16x2Rn d a b => Sys2Proof.Machine.execFmaF16x2Rn d a b s
  | .fminF16x2 d a b => Sys2Proof.Machine.execFminF16x2 d a b s
  | .fmaxF16x2 d a b => Sys2Proof.Machine.execFmaxF16x2 d a b s
  | .cvtF32I32Rn d a => Sys2Proof.Machine.execCvtF32I32Rn d a s
  | .cvtF32N32Rn d a => Sys2Proof.Machine.execCvtF32N32Rn d a s
  | .cvtI32F32Rn d a => Sys2Proof.Machine.execCvtI32F32Rn d a s
  | .cvtI32F32Rz d a => Sys2Proof.Machine.execCvtI32F32Rz d a s
  | .cvtI32F32Rd d a => Sys2Proof.Machine.execCvtI32F32Rd d a s
  | .cvtI32F32Ru d a => Sys2Proof.Machine.execCvtI32F32Ru d a s
  | .cvtN32F32Rn d a => Sys2Proof.Machine.execCvtN32F32Rn d a s
  | .cvtN32F32Rz d a => Sys2Proof.Machine.execCvtN32F32Rz d a s
  | .cvtN32F32Rd d a => Sys2Proof.Machine.execCvtN32F32Rd d a s
  | .cvtN32F32Ru d a => Sys2Proof.Machine.execCvtN32F32Ru d a s
  | .cvtF32Bf16 d a => Sys2Proof.Machine.execCvtF32Bf16 d a s
  | .cvtF32F16 d a => Sys2Proof.Machine.execCvtF32F16 d a s
  | .cvtBf16F32Rn d a => Sys2Proof.Machine.execCvtBf16F32Rn d a s
  | .cvtBf16F32Rz d a => Sys2Proof.Machine.execCvtBf16F32Rz d a s
  | .cvtF16F32Rn d a => Sys2Proof.Machine.execCvtF16F32Rn d a s
  | .cvtF16F32Rz d a => Sys2Proof.Machine.execCvtF16F32Rz d a s
  | .cvtE4m3x2F32Rn d a b => Sys2Proof.Machine.execCvtE4m3x2F32Rn d a b s
  | .cvtE4m3x2F32RnSat d a b => Sys2Proof.Machine.execCvtE4m3x2F32RnSat d a b s
  | .cvtE5m2x2F32Rn d a b => Sys2Proof.Machine.execCvtE5m2x2F32Rn d a b s
  | .cvtE5m2x2F32RnSat d a b => Sys2Proof.Machine.execCvtE5m2x2F32RnSat d a b s
  | .cvtBf16x2F32Rn d a b => Sys2Proof.Machine.execCvtBf16x2F32Rn d a b s
  | .cvtF16x2F32Rn d a b => Sys2Proof.Machine.execCvtF16x2F32Rn d a b s
  | .cvtF16x2E4m3x2 d a => Sys2Proof.Machine.execCvtF16x2E4m3x2 d a s
  | .cvtF16x2E5m2x2 d a => Sys2Proof.Machine.execCvtF16x2E5m2x2 d a s
  | .rcpF32 d a l => Sys2Proof.Machine.execRcpF32 d a l s
  | .rsqrtF32 d a l => Sys2Proof.Machine.execRsqrtF32 d a l s
  | .sqrtF32 d a l => Sys2Proof.Machine.execSqrtF32 d a l s
  | .exp2F32 d a l => Sys2Proof.Machine.execExp2F32 d a l s
  | .log2F32 d a l => Sys2Proof.Machine.execLog2F32 d a l s
  | .sinF32 d a l => Sys2Proof.Machine.execSinF32 d a l s
  | .cosF32 d a l => Sys2Proof.Machine.execCosF32 d a l s
  | .sinpiF32 d a l => Sys2Proof.Machine.execSinpiF32 d a l s
  | .cospiF32 d a l => Sys2Proof.Machine.execCospiF32 d a l s
  | .tanhF32 d a l => Sys2Proof.Machine.execTanhF32 d a l s
  | .shflSel d a b => Sys2Proof.Machine.execShflSel d a b s
  | .shflStep d a b => Sys2Proof.Machine.execShflStep d a b s
  | .shflWrap d a b => Sys2Proof.Machine.execShflWrap d a b s
  | .shflRank d a b => Sys2Proof.Machine.execShflRank d a b s
  | .swzXor d a c => Sys2Proof.Machine.execSwzXor d a c s
  | .swzBcast d a c => Sys2Proof.Machine.execSwzBcast d a c s
  | .swzRot d a c => Sys2Proof.Machine.execSwzRot d a c s
  | .voteCount d p => Sys2Proof.Machine.execVoteCount d p s
  | .voteMask d p => Sys2Proof.Machine.execVoteMask d p s
  | .voteSpan d p => Sys2Proof.Machine.execVoteSpan d p s
  | .matchB32 d a l => Sys2Proof.Machine.execMatchB32 d a l s
  | .matchB64 d a l => Sys2Proof.Machine.execMatchB64 d a l s
  | .reduxAddI32 d a => Sys2Proof.Machine.execReduxAddI32 d a s
  | .reduxMinI32 d a => Sys2Proof.Machine.execReduxMinI32 d a s
  | .reduxMaxI32 d a => Sys2Proof.Machine.execReduxMaxI32 d a s
  | .reduxAndB32 d a => Sys2Proof.Machine.execReduxAndB32 d a s
  | .reduxOrB32 d a => Sys2Proof.Machine.execReduxOrB32 d a s
  | .reduxFaddF32Rn d a => Sys2Proof.Machine.execReduxFaddF32Rn d a s
  | .ldN8 t a l sc o => Sys2Proof.Machine.execLdN8 t a l sc o s
  | .ldI8 t a l sc o => Sys2Proof.Machine.execLdI8 t a l sc o s
  | .stB8 t a sc o => Sys2Proof.Machine.execStB8 t a sc o s
  | .ldN16 t a l sc o => Sys2Proof.Machine.execLdN16 t a l sc o s
  | .ldI16 t a l sc o => Sys2Proof.Machine.execLdI16 t a l sc o s
  | .stB16 t a sc o => Sys2Proof.Machine.execStB16 t a sc o s
  | .ldB32 t a l sc o => Sys2Proof.Machine.execLdB32 t a l sc o s
  | .stB32 t a sc o => Sys2Proof.Machine.execStB32 t a sc o s
  | .ldB64 t a l sc o => Sys2Proof.Machine.execLdB64 t a l sc o s
  | .stB64 t a sc o => Sys2Proof.Machine.execStB64 t a sc o s
  | .ldB128 t a l sc o => Sys2Proof.Machine.execLdB128 t a l sc o s
  | .stB128 t a sc o => Sys2Proof.Machine.execStB128 t a sc o s
  | .atomAddI32 t a l sc o => Sys2Proof.Machine.execAtomAddI32 t a l sc o s
  | .atomAndB32 t a l sc o => Sys2Proof.Machine.execAtomAndB32 t a l sc o s
  | .atomOrB32 t a l sc o => Sys2Proof.Machine.execAtomOrB32 t a l sc o s
  | .atomXorB32 t a l sc o => Sys2Proof.Machine.execAtomXorB32 t a l sc o s
  | .atomMinI32 t a l sc o => Sys2Proof.Machine.execAtomMinI32 t a l sc o s
  | .atomMaxI32 t a l sc o => Sys2Proof.Machine.execAtomMaxI32 t a l sc o s
  | .atomMinN32 t a l sc o => Sys2Proof.Machine.execAtomMinN32 t a l sc o s
  | .atomMaxN32 t a l sc o => Sys2Proof.Machine.execAtomMaxN32 t a l sc o s
  | .atomExchB32 t a l sc o => Sys2Proof.Machine.execAtomExchB32 t a l sc o s
  | .atomCasB32 t a l sc o => Sys2Proof.Machine.execAtomCasB32 t a l sc o s
  | .atomFaddF32Rn t a l sc o => Sys2Proof.Machine.execAtomFaddF32Rn t a l sc o s
  | .atomFadd2Bf16Rn t a l sc o => Sys2Proof.Machine.execAtomFadd2Bf16Rn t a l sc o s
  | .lds t a l wd o => Sys2Proof.Machine.execLds t a l wd o s
  | .sts t a wd o => Sys2Proof.Machine.execSts t a wd o s
  | .ldSpecB32 t a l sc => Sys2Proof.Machine.execLdSpecB32 t a l sc s
  | .ldSpecB64 t a l sc => Sys2Proof.Machine.execLdSpecB64 t a l sc s
  | .chkB32 t a l sc => Sys2Proof.Machine.execChkB32 t a l sc s
  | .chkB64 t a l sc => Sys2Proof.Machine.execChkB64 t a l sc s
  | .fence sc o => Sys2Proof.Machine.execFence sc o s
  | .fenceEng sc => Sys2Proof.Machine.execFenceEng sc s
  | .cwb a sc => Sys2Proof.Machine.execCwb a sc s
  | .cinv a sc => Sys2Proof.Machine.execCinv a sc s
  | .cwbinv a sc => Sys2Proof.Machine.execCwbinv a sc s
  | .icinv a sc => Sys2Proof.Machine.execIcinv a sc s
  | .pfL1 a sc => Sys2Proof.Machine.execPfL1 a sc s
  | .pfL2 a sc => Sys2Proof.Machine.execPfL2 a sc s
  | .rgnConv t a => Sys2Proof.Machine.execRgnConv t a s
  | .qpushB32 q a => Sys2Proof.Machine.execQpushB32 q a s
  | .qpushB64 q a => Sys2Proof.Machine.execQpushB64 q a s
  | .qpopB32 d q l => Sys2Proof.Machine.execQpopB32 d q l s
  | .qpopB64 d q l => Sys2Proof.Machine.execQpopB64 d q l s
  | .qtryB32 d q l p => Sys2Proof.Machine.execQtryB32 d q l p s
  | .qtryB64 d q l p => Sys2Proof.Machine.execQtryB64 d q l p s
  | .bra o => Sys2Proof.Machine.execBra o s
  | .braT p o => Sys2Proof.Machine.execBraT p o s
  | .braF p o => Sys2Proof.Machine.execBraF p o s
  | .call o => Sys2Proof.Machine.execCall o s
  | .jmpi a => Sys2Proof.Machine.execJmpi a s
  | .calli a => Sys2Proof.Machine.execCalli a s
  | .ret a => Sys2Proof.Machine.execRet a s
  | .barTeam => Sys2Proof.Machine.execBarTeam s
  | .barClu => Sys2Proof.Machine.execBarClu s
  | .barNbArrive n => Sys2Proof.Machine.execBarNbArrive n s
  | .barNbWait n => Sys2Proof.Machine.execBarNbWait n s
  | .spawn a b => Sys2Proof.Machine.execSpawn a b s
  | .waitchild => Sys2Proof.Machine.execWaitchild s
  | .knop => Sys2Proof.Machine.execKnop s
  | .ksr d x => Sys2Proof.Machine.execKsr d x s
  | .kyield => Sys2Proof.Machine.execKyield s
  | .kaddB32 d a b => Sys2Proof.Machine.execKaddB32 d a b s
  | .ksubB32 d a b => Sys2Proof.Machine.execKsubB32 d a b s
  | .kmulLoB32 d a b => Sys2Proof.Machine.execKmulLoB32 d a b s
  | .kmulHiI32 d a b => Sys2Proof.Machine.execKmulHiI32 d a b s
  | .kmulHiN32 d a b => Sys2Proof.Machine.execKmulHiN32 d a b s
  | .kminI32 d a b => Sys2Proof.Machine.execKminI32 d a b s
  | .kmaxI32 d a b => Sys2Proof.Machine.execKmaxI32 d a b s
  | .kminN32 d a b => Sys2Proof.Machine.execKminN32 d a b s
  | .kmaxN32 d a b => Sys2Proof.Machine.execKmaxN32 d a b s
  | .kaddB64 d a b => Sys2Proof.Machine.execKaddB64 d a b s
  | .ksubB64 d a b => Sys2Proof.Machine.execKsubB64 d a b s
  | .kandB32 d a b => Sys2Proof.Machine.execKandB32 d a b s
  | .korB32 d a b => Sys2Proof.Machine.execKorB32 d a b s
  | .kxorB32 d a b => Sys2Proof.Machine.execKxorB32 d a b s
  | .kandnB32 d a b => Sys2Proof.Machine.execKandnB32 d a b s
  | .knotB32 d a => Sys2Proof.Machine.execKnotB32 d a s
  | .kshlB32 d a b => Sys2Proof.Machine.execKshlB32 d a b s
  | .kshrN32 d a b => Sys2Proof.Machine.execKshrN32 d a b s
  | .kshrI32 d a b => Sys2Proof.Machine.execKshrI32 d a b s
  | .kpopcB32 d a => Sys2Proof.Machine.execKpopcB32 d a s
  | .kclzB32 d a => Sys2Proof.Machine.execKclzB32 d a s
  | .kbfeN32 d a b => Sys2Proof.Machine.execKbfeN32 d a b s
  | .kbra o => Sys2Proof.Machine.execKbra o s
  | .kbrEqB32 a b o => Sys2Proof.Machine.execKbrEqB32 a b o s
  | .kbrNeB32 a b o => Sys2Proof.Machine.execKbrNeB32 a b o s
  | .kbrLtI32 a b o => Sys2Proof.Machine.execKbrLtI32 a b o s
  | .kbrGeI32 a b o => Sys2Proof.Machine.execKbrGeI32 a b o s
  | .kbrLtN32 a b o => Sys2Proof.Machine.execKbrLtN32 a b o s
  | .kbrGeN32 a b o => Sys2Proof.Machine.execKbrGeN32 a b o s
  | .kaddi d a imm => Sys2Proof.Machine.execKaddi d a imm s
  | .kandi d a imm => Sys2Proof.Machine.execKandi d a imm s
  | .kori d a imm => Sys2Proof.Machine.execKori d a imm s
  | .kxori d a imm => Sys2Proof.Machine.execKxori d a imm s
  | .kmovi d imm => Sys2Proof.Machine.execKmovi d imm s
  | .kshlori d a imm => Sys2Proof.Machine.execKshlori d a imm s
  | .kshliB32 d a n => Sys2Proof.Machine.execKshliB32 d a n s
  | .kshriN32 d a n => Sys2Proof.Machine.execKshriN32 d a n s
  | .kshriI32 d a n => Sys2Proof.Machine.execKshriI32 d a n s
  | .kldB32 t a l sc o => Sys2Proof.Machine.execKldB32 t a l sc o s
  | .kstB32 t a sc o => Sys2Proof.Machine.execKstB32 t a sc o s
  | .kldB64 t a l sc o => Sys2Proof.Machine.execKldB64 t a l sc o s
  | .kstB64 t a sc o => Sys2Proof.Machine.execKstB64 t a sc o s
  | .katomAddI32 t a l sc o => Sys2Proof.Machine.execKatomAddI32 t a l sc o s
  | .katomAndB32 t a l sc o => Sys2Proof.Machine.execKatomAndB32 t a l sc o s
  | .katomOrB32 t a l sc o => Sys2Proof.Machine.execKatomOrB32 t a l sc o s
  | .katomXorB32 t a l sc o => Sys2Proof.Machine.execKatomXorB32 t a l sc o s
  | .katomMinI32 t a l sc o => Sys2Proof.Machine.execKatomMinI32 t a l sc o s
  | .katomMaxI32 t a l sc o => Sys2Proof.Machine.execKatomMaxI32 t a l sc o s
  | .katomMinN32 t a l sc o => Sys2Proof.Machine.execKatomMinN32 t a l sc o s
  | .katomMaxN32 t a l sc o => Sys2Proof.Machine.execKatomMaxN32 t a l sc o s
  | .katomExchB32 t a l sc o => Sys2Proof.Machine.execKatomExchB32 t a l sc o s
  | .katomCasB32 t a l sc o => Sys2Proof.Machine.execKatomCasB32 t a l sc o s
  | .katomFaddF32Rn t a l sc o => Sys2Proof.Machine.execKatomFaddF32Rn t a l sc o s
  | .klaunch d a => Sys2Proof.Machine.execKlaunch d a s
  | .kspawn a b => Sys2Proof.Machine.execKspawn a b s
  | .tld m sc => Sys2Proof.Machine.execTld m sc s
  | .tstBf16Rn c sc h => Sys2Proof.Machine.execTstBf16Rn c sc h s
  | .tstF32 c sc => Sys2Proof.Machine.execTstF32 c sc s
  | .tmmaW c m r sc => Sys2Proof.Machine.execTmmaW c m r sc s
  | .tmmaS c m r sc => Sys2Proof.Machine.execTmmaS c m r sc s
  | .tmmaI8 c m r sc => Sys2Proof.Machine.execTmmaI8 c m r sc s
  | .tzero c => Sys2Proof.Machine.execTzero c s
  | .tewLd c sc => Sys2Proof.Machine.execTewLd c sc s
  | .tewAdd c sc => Sys2Proof.Machine.execTewAdd c sc s
  | .tewMul c sc => Sys2Proof.Machine.execTewMul c sc s
  | .tewAddrow c sc => Sys2Proof.Machine.execTewAddrow c sc s
  | .tewMulrow c sc => Sys2Proof.Machine.execTewMulrow c sc s
  | .tewRelu c => Sys2Proof.Machine.execTewRelu c s
  | .tewSq c => Sys2Proof.Machine.execTewSq c s
  | .tewTanh c => Sys2Proof.Machine.execTewTanh c s
  | .tewNeg c => Sys2Proof.Machine.execTewNeg c s
  | .twait n => Sys2Proof.Machine.execTwait n s
  | .tsig n => Sys2Proof.Machine.execTsig n s
  | .tbar n => Sys2Proof.Machine.execTbar n s
  | .dtask n ext => Sys2Proof.Machine.execDtask n ext s
  | .recBeg w1 w2 w3 w4 => Sys2Proof.Machine.execRecBeg w1 w2 w3 w4 s
  | .recEnd => Sys2Proof.Machine.execRecEnd s
  | .reverse w1 w2 w3 w4 => Sys2Proof.Machine.execReverse w1 w2 w3 w4 s
  | .rkLoad ws => Sys2Proof.Machine.execRkLoad ws s
  | .rkStore ws => Sys2Proof.Machine.execRkStore ws s
  | .rkCopy ws => Sys2Proof.Machine.execRkCopy ws s
  | .rkGather ws => Sys2Proof.Machine.execRkGather ws s
  | .rkScale ws => Sys2Proof.Machine.execRkScale ws s
  | .pressCommand ws => Sys2Proof.Machine.execPressCommand ws s
  | .engineOperationComplete core eng => Sys2Proof.Machine.execEngineOperationComplete core eng s
  | .resultEntryWrite core eng => Sys2Proof.Machine.execResultEntryWrite core eng s
  | .taskIssue team task => Sys2Proof.Machine.execTaskIssue team task s
  | .lpSubmit asid value => Sys2Proof.Machine.execLpSubmit asid value s
  | .launchRecordCheck asid => Sys2Proof.Machine.execLaunchRecordCheck asid s
  | .dependencySatisfied asid seq => Sys2Proof.Machine.execDependencySatisfied asid seq s
  | .leasingComplete asid seq => Sys2Proof.Machine.execLeasingComplete asid seq s
  | .teamPlacement asid seq => Sys2Proof.Machine.execTeamPlacement asid seq s
  | .childPlacement core => Sys2Proof.Machine.execChildPlacement core s
  | .teamRetirement team => Sys2Proof.Machine.execTeamRetirement team s
  | .launchFlush asid seq => Sys2Proof.Machine.execLaunchFlush asid seq s
  | .launchSignalWrite asid seq => Sys2Proof.Machine.execLaunchSignalWrite asid seq s
  | .atRootWrite asid value => Sys2Proof.Machine.execAtRootWrite asid value s
  | .atRootApply asid => Sys2Proof.Machine.execAtRootApply asid s
  | .lpPreemptWrite asid value => Sys2Proof.Machine.execLpPreemptWrite asid value s
  | .preemptSaved asid => Sys2Proof.Machine.execPreemptSaved asid s
  | .lpResumeWrite asid value => Sys2Proof.Machine.execLpResumeWrite asid value s
  | .vintageWrite asid seq cluster => Sys2Proof.Machine.execVintageWrite asid seq cluster s
  | .registerWrite pa value => Sys2Proof.Machine.execRegisterWrite pa value s
  | .trapHandlerEntry team group => Sys2Proof.Machine.execTrapHandlerEntry team group s
  | .teamHandlerEntry team => Sys2Proof.Machine.execTeamHandlerEntry team s
  | .quantumRotation team group => Sys2Proof.Machine.execQuantumRotation team group s
  | .tokenWindowStart core => Sys2Proof.Machine.execTokenWindowStart core s
  | .throttleScoreHalving core => Sys2Proof.Machine.execThrottleScoreHalving core s
  | .settle core => Sys2Proof.Machine.execSettle core s
  | .snapshot core => Sys2Proof.Machine.execSnapshot core s
  | .strikeReport core time => Sys2Proof.Machine.execStrikeReport core time s
  | .checkerMismatch core origin time => Sys2Proof.Machine.execCheckerMismatch core origin time s
  | .uncorrectableError site => Sys2Proof.Machine.execUncorrectableError site s
  | .rds m => Sys2Proof.Machine.execRds m s
  | .rdOwn m => Sys2Proof.Machine.execRdOwn m s
  | .ownNd m => Sys2Proof.Machine.execOwnNd m s
  | .upg m => Sys2Proof.Machine.execUpg m s
  | .atomReq m => Sys2Proof.Machine.execAtomReq m s
  | .gnt m => Sys2Proof.Machine.execGnt m s
  | .snpFwd m => Sys2Proof.Machine.execSnpFwd m s
  | .snpOwn m => Sys2Proof.Machine.execSnpOwn m s
  | .snpInv m => Sys2Proof.Machine.execSnpInv m s
  | .snpRcl m => Sys2Proof.Machine.execSnpRcl m s
  | .snpAck m => Sys2Proof.Machine.execSnpAck m s
  | .snpData m => Sys2Proof.Machine.execSnpData m s
  | .wbReq m => Sys2Proof.Machine.execWbReq m s
  | .wbGnt m => Sys2Proof.Machine.execWbGnt m s
  | .wbData m => Sys2Proof.Machine.execWbData m s
  | .cleanEv m => Sys2Proof.Machine.execCleanEv m s
  | .cmp m => Sys2Proof.Machine.execCmp m s
  | .mir m => Sys2Proof.Machine.execMir m s
  | .mirAck m => Sys2Proof.Machine.execMirAck m s
  | .mirClr m => Sys2Proof.Machine.execMirClr m s
  | .mark m => Sys2Proof.Machine.execMark m s
  | .markAck m => Sys2Proof.Machine.execMarkAck m s
  | .nack link => Sys2Proof.Machine.execNack link s
  | .dieDown m => Sys2Proof.Machine.execDieDown m s
  | .rbReport dead m => Sys2Proof.Machine.execRbReport dead m s
  | .takeReq m => Sys2Proof.Machine.execTakeReq m s
  | .sliceRebuildComplete dead => Sys2Proof.Machine.execSliceRebuildComplete dead s
  | .snoopTimeout die => Sys2Proof.Machine.execSnoopTimeout die s
  | .ddStateKill die => Sys2Proof.Machine.execDdStateKill die s
  | .linkRateStep link margin => Sys2Proof.Machine.execLinkRateStep link margin s
  | .packageSnoopTimeout pkg => Sys2Proof.Machine.execPackageSnoopTimeout pkg s
  | .cxlSnpData io line => Sys2Proof.Machine.execCxlSnpData io line s
  | .cxlSnpInv io line => Sys2Proof.Machine.execCxlSnpInv io line s
  | .cxlSnpCur io line => Sys2Proof.Machine.execCxlSnpCur io line s
  | .hostMemAccess a => Sys2Proof.Machine.execHostMemAccess a s
  | .mgCtlGo value => Sys2Proof.Machine.execMgCtlGo value s
  | .pageMigrationComplete => Sys2Proof.Machine.execPageMigrationComplete s
  | .moveWindowEnd asid page => Sys2Proof.Machine.execMoveWindowEnd asid page s
  | .hkCtlWrite value => Sys2Proof.Machine.execHkCtlWrite value s
  | .fabricNumApply => Sys2Proof.Machine.execFabricNumApply s
  | .tamperAlarm sensor => Sys2Proof.Machine.execTamperAlarm sensor s
  | .dieThrottle die power temp => Sys2Proof.Machine.execDieThrottle die power temp s
  | .ioDie0ResetRelease => Sys2Proof.Machine.execIoDie0ResetRelease s
  | .firmwareVerifyDone => Sys2Proof.Machine.execFirmwareVerifyDone s
  | .selfTestPass t => Sys2Proof.Machine.execSelfTestPass t s
  | .serviceTransitionStart die => Sys2Proof.Machine.execServiceTransitionStart die s
  | .serviceTransitionEnd die => Sys2Proof.Machine.execServiceTransitionEnd die s
  | .identify m => Sys2Proof.Machine.execIdentify m s
  | .regRead m => Sys2Proof.Machine.execRegRead m s
  | .regWrite m => Sys2Proof.Machine.execRegWrite m s
  | .powerStep m => Sys2Proof.Machine.execPowerStep m s
  | .fwWrite m => Sys2Proof.Machine.execFwWrite m s
  | .fwCommit m => Sys2Proof.Machine.execFwCommit m s
  | .attest m => Sys2Proof.Machine.execAttest m s
  | .sessionOpen m => Sys2Proof.Machine.execSessionOpen m s
  | .sessionProve m => Sys2Proof.Machine.execSessionProve m s
  | .sessionClose m => Sys2Proof.Machine.execSessionClose m s
  | .sessionTimeout => Sys2Proof.Machine.execSessionTimeout s
  | .challengeExpiry => Sys2Proof.Machine.execChallengeExpiry s
  | .illegalInstructionWord w => Sys2Proof.Machine.execIllegalInstructionWord w s
  | .longLatencyResult team group pos => Sys2Proof.Machine.execLongLatencyResult team group pos s
  | .groupSwap core side => Sys2Proof.Machine.execGroupSwap core side s
  | .leaseDeclined asid seq => Sys2Proof.Machine.execLeaseDeclined asid seq s
  | .applicationCoreAccess a => Sys2Proof.Machine.execApplicationCoreAccess a s
  | .cxlH2dResponse io line req data => Sys2Proof.Machine.execCxlH2dResponse io line req data s
  | .backInvalidateResponse line data => Sys2Proof.Machine.execBackInvalidateResponse line data s
  | .dieOvertemperature die => Sys2Proof.Machine.execDieOvertemperature die s
  | .linkLevelRetry link frames => Sys2Proof.Machine.execLinkLevelRetry link frames s
  | .mladlithUnknownCode m => Sys2Proof.Machine.execMladlithUnknownCode m s

end Sys2Proof.Machine
end

