-- ==== Sys2Proof/Machine/Sched.lean ====
section
/-! DEFINITION. What a step of the machine does next: the fetch of an instruction (R22, R27, R277), the preference of the paths
(R142, R186), the agents of the package in turn, and the passage of time. One action happens at a time; which one is the
model's own choice where the manual leaves it open (DESIGN CHOICE, log 2). -/
namespace Sys2Proof.Machine
open Sys2Proof

/-- Runs the instruction that a word and its extension words spell; the actor is set. -/
abbrev Runner := Word → List Word → State → Result

/-- Whether something happened: an event that was not due, or had no issuer, did not. -/
def acted (r : Result) : Option Result :=
  match r with
  | .refused x => if x = .notDue ∨ x = .noIssuer then none else some (.refused x)
  | .next s => some (.next s)
  | .fault f => some (.fault f)

/-- The first of several actions that happens. -/
def firstOf (s : State) : List (State → Option Result) → Option Result
  | [] => none
  | f :: r => match f s with
    | some x => some x
    | none => firstOf s r

/-- A list begun at its `n`-th element, modulo its length. -/
def turned {α : Type} (n : Nat) (l : List α) : List α := l.drop (n % l.length) ++ l.take (n % l.length)

/-! ### Fetch -/

/-- What the fetch of a word comes to. -/
inductive Fetched
  | ok (w : Word) (s : State)
  | wait
  /-- the line is asked of the I/O die that reaches it (DESIGN CHOICE, log 7) -/
  | asked (s : State)
  /-- the fetch ended the team or killed its gang -/
  | stop (s : State)

/-- A code word of a team (R22, R27, R277): leased, executable, not poisoned (R356). -/
def State.fetchWord (s : State) (t : Team) (pc : VAddr) : Fetched :=
  match s.checkFetch t pc with
  | .violation sub va => .stop (s.breach t.id sub va)
  | .trap _ => .wait
  | .wait => .wait
  | .ok pa _ e =>
    if s.inTransition pa then .wait
    else match (s.keep t.core none e).fillCode t.core pa with
      | none => (match s.ask? (pa / 128) with
        | some s => .asked s
        | none => .wait)
      | some s => match s.codeWord t.core pa with
        | some (w, false) => .ok w s
        | some (_, true) => .stop (s.killGangOf t.id 0x11 pc)
        | none => .wait

/-- Several words from an address on. -/
def State.fetchWords' (s : State) (t : Team) : Nat → VAddr → List Word → Except Fetched (List Word × State)
  | 0, _, ws => .ok (ws, s)
  | n + 1, pc, ws =>
    match s.fetchWord t pc with
    | .ok w s => State.fetchWords' s t n (pc + 4) (ws ++ [w])
    | x => .error x

/-! ### Paths (R142, R186) -/

/-- What of a group an issue changes. -/
def Group.trace (g : Group) : Nat × Pending × Bool × Option Conv × List (ThStatus × VAddr) :=
  (g.n, g.pending, g.handler, g.conv, g.threads.map fun t => (t.status, t.pc))

/-- The group has issued between two states. -/
def hasIssued (before after : State) (team group : Nat) : Bool :=
  (((after.team? team).bind (·.group? group)).map Group.trace) != (((before.team? team).bind (·.group? group)).map Group.trace)

/-- A path offered to a side: team, group, leader and positions. -/
structure Offer where
  team : Nat
  group : Nat
  lead : Nat
  ms : List Nat
deriving DecidableEq, Repr

/-- A side's slots of one ccyc (R186): the slice sets of the lane-set paths that issued, whether a uniform-set path did, and the
groups that issued, in the order of preference. -/
structure Slots where
  lanes : List (List Nat) := []
  uniform : Bool := false
  issued : List (Nat × Nat) := []
deriving DecidableEq, Repr

/-- A word of the uniform set (R30). -/
def isUniformWord (w : Word) : Bool := w.getLsbD 31

/-- A slot takes the path: one of two lane-set slots whose slice sets are disjoint, or the uniform slot (R186). -/
def Slots.takes (k : Slots) (w : Word) (ms : List Nat) : Bool :=
  if isUniformWord w then !k.uniform
  else decide (k.lanes.length < 2) && k.lanes.all fun l => !(slicesOf ms).any l.contains

/-- The slots after the path issued. -/
def Slots.fill (k : Slots) (w : Word) (o : Offer) : Slots :=
  if isUniformWord w then { k with uniform := true, issued := k.issued ++ [(o.team, o.group)] }
  else { k with lanes := k.lanes ++ [slicesOf o.ms], issued := k.issued ++ [(o.team, o.group)] }

/-- A path is as it was offered, and its group may still issue: paths that have fused do not issue before the next ccyc (R141). -/
def State.stillOffered (s : State) (o : Offer) : Bool :=
  match s.team? o.team with
  | none => false
  | some t => match t.group? o.group with
    | none => false
    | some g => g.mayIssue && !s.groupHeld t g && g.members o.lead == o.ms

/-- An offered path tries to issue: what comes of it, and the slots if it issued. -/
def State.tryPath (run : Runner) (k : Slots) (o : Offer) (s : State) : Option (Result × Option Slots) :=
  match s.team? o.team with
  | none => none
  | some t =>
    match t.group? o.group with
    | none => none
    | some g =>
      match s.fetchWord t (g.thread o.lead).pc with
      | .wait => none
      | .asked s => some (.next s, none)
      | .stop s => some (.next s, some { k with issued := k.issued ++ [(o.team, o.group)] })
      | .ok w s' =>
        if !k.takes w o.ms then none
        else
          let s' := { s' with actor := .path o.team o.group o.lead }
          match (if isTileWord w then execIllegalInstructionWord w s' else run w [] s') with
          | .next s'' => some (.next s'', if hasIssued s s'' o.team o.group then some (k.fill w o) else none)
          | .refused .noIssuer => none
          | r => some (r, none)

/-- The paths a side's active groups offer: the current group's first, then the others' by age (R186). In every eighth round the
first groups of that order are held, as an interlock of R24 would hold them at times for which this model has no clock (DESIGN CHOICE,
log 2). -/
def State.sideOffers (s : State) (core side : Nat) : List Offer :=
  let seats := (s.seats core side).filter (·.active)
  let cur := SMap.get? (s.core core).current side
  let mine := seats.filter fun x => some (x.team, x.group) == cur
  let order := mine ++ seats.filter fun x => some (x.team, x.group) != cur
  let order := if s.turn / 16 % 8 = 7 then order.drop (s.turn / 128 % order.length) else order
  order.flatMap fun x =>
    match s.team? x.team with
    | none => []
    | some t => match t.group? x.group with
      | none => []
      | some g => if g.mayIssue && !s.groupHeld t g then g.offers.map fun l => { team := x.team, group := x.group, lead := l, ms := g.members l } else []

/-- The offers of a side fill its slots in order (R186): the outcome, and the slots. -/
def State.fillSlots (run : Runner) : List Offer → Slots → State → Result × Slots
  | [], k, s => (.next s, k)
  | o :: r, k, s =>
    if !s.stillOffered o then State.fillSlots run r k s
    else match s.tryPath run k o with
      | none => State.fillSlots run r k s
      | some (.next s, k') => State.fillSlots run r (k'.getD k) s
      | some (x, _) => (x, k)

/-- The group that issued first in the order of preference is the current one of its side: the current group itself, or the oldest
that issued (R186). -/
def State.setCurrent (s : State) (core side : Nat) (k : Slots) : State :=
  match k.issued with
  | [] => s
  | g :: _ => s.mapCore core fun c => { c with current := SMap.put c.current side g }

/-- The sides of the cores in order, until the paths of one issue; a stalled core's do not (R173). -/
def State.trySides (run : Runner) : List (Nat × Nat) → State → Option Result
  | [], _ => none
  | x :: r, s =>
    let offers := if s.coreStalled x.1 then [] else s.sideOffers x.1 x.2
    if offers.isEmpty then State.trySides run r s
    else match s.fillSlots run offers {} with
      | (.next s, k) =>
        if k.issued.isEmpty then
          match State.trySides run r s with
          | none => some (.next s)
          | some y => some y
        else some (.next (s.setCurrent x.1 x.2 k))
      | (y, _) => some y

/-- Both sides of every core with teams. -/
def State.sides (s : State) : List (Nat × Nat) := (s.coreIds.filter fun c => s.teams.any fun t => t.core == c).flatMap fun c => [(c, 0), (c, 1)]

/-! ### Coopers (R276, R277) -/

/-- A team's Cooper tries its next instruction. -/
def State.tryCooper (run : Runner) (team : Nat) (s : State) : Option Result :=
  match s.team? team with
  | none => none
  | some t =>
    match t.cooper with
    | none => none
    | some k =>
      if k.trapped || k.wait == .stopped || s.cooperHeld t || s.coreStalled t.core then none
      else match s.fetchWord t k.cpc with
        | .wait => none
        | .asked s => some (.next s)
        | .stop s => some (.next s)
        | .ok w s =>
          match s.fetchWords' t (if isTileWord w then extWords w else 0) (k.cpc + 4) [] with
          | .error (.stop s) => some (.next s)
          | .error (.asked s) => some (.next s)
          | .error _ => none
          | .ok (ext, s) =>
            let s := { s with actor := .cooper team }
            acted (if isTileWord w then run w ext s else execIllegalInstructionWord w s)

/-- The team's Cooper had a matrix instruction issued between two states (R188, R295). -/
def usedTensor (before after : State) (team : Nat) : Bool :=
  (after.team? team).map (·.tensorSpent) != (before.team? team).map (·.tensorSpent)

/-- The teams of a core that have a Cooper, in the order in which the tensor core serves their instances next (R289). -/
def State.tensorOrder (s : State) (core : Nat) : List Nat :=
  let last := (s.core core).lastCooper
  (List.range 8).flatMap fun k => (s.teams.filter fun t => t.core == core && (t.cooper.map (·.inst)) == some ((last + 1 + k) % 8)).map (·.id)

/-- A team's Cooper tries its next instruction; of the Coopers of a core that hold an issuable matrix instruction, the one whose turn it
is at the tensor core issues it (R289). -/
def State.serveCooper (run : Runner) (team : Nat) (s : State) : Option Result :=
  match s.tryCooper run team with
  | some (.next s') =>
    if !usedTensor s s' team then some (.next s')
    else
      let core := ((s.team? team).map (·.core)).getD 0
      (((s.tensorOrder core).findSome? fun t => match s.tryCooper run t with
        | some (.next x) => if usedTensor s x t then some (.next x) else none
        | _ => none) : Option Result).getD (.next s')
  | r => r

/-- Writes a team's Cooper still has to make go on, as far as they can. -/
def State.tryPend (team : Nat) (s : State) : Option Result :=
  match s.team? team with
  | none => none
  | some t =>
    if t.log.pend.isEmpty then none
    else
      let s' := s.pendProgress team t.log.pend.length
      if (s'.team? team).map (·.log.pend.length) = some t.log.pend.length ∧ s'.ios = s.ios ∧ s'.wires.length = s.wires.length then none
      else some (.next s')

/-! ### Engines (R253, R257) -/

/-- The command an engine reads next runs as what its code says. -/
def runCommand (press : Bool) (ws : List Word) (s : State) : Result :=
  if press then execPressCommand ws s
  else match numAt ws 0 / 2 ^ 24 with
    | 2 => execRkStore ws s
    | 3 => execRkCopy ws s
    | 4 => execRkGather ws s
    | 5 => execRkScale ws s
    | _ => execRkLoad ws s

/-- The channel's next command is this team's: commands of teams that share an engine run in admission order (R252). -/
def State.admittedFirst (s : State) (t : Team) (eng : Nat) : Bool :=
  match earliest (t.commands eng) with
  | none => false
  | some c => s.teams.all fun u => u.core != t.core || u.id == t.id || s.engineHeld u || (match earliest (u.commands eng) with
    | none => true
    | some d => decide (c.stamp < d.stamp) || (decide (c.stamp = d.stamp) && decide (t.id < u.id)))

/-- An engine parses a team's next command, a step after its last word entered the endpoint: that admission is the operation's issue (R245,
R253), and its ranges are held from the parse on (DESIGN CHOICE, log 62). -/
def State.tryParse (core eng team : Nat) (s : State) : Option Result :=
  match s.team? team with
  | none => none
  | some t =>
    if s.engineHeld t || !s.admittedFirst t eng then none
    else match t.nextCommand eng with
      | none => none
      | some (_, ws) => acted (runCommand (eng == 8) ws { s with actor := .engine core eng team })

/-- The operation at the head of an engine goes on. -/
def State.tryProgress (core eng : Nat) (s : State) : Option Result :=
  if ((s.core core).engOps eng).isEmpty then none
  else
    let s' := s.engProgress core eng
    if (s'.core core).ops = (s.core core).ops ∧ (s'.core core).effNo = (s.core core).effNo ∧ s'.ios = s.ios ∧ s'.wires.length = s.wires.length then none
    else some (.next s')

/-- What the engines and the dependency tables may do. -/
def State.engineActions (s : State) : List (State → Option Result) :=
  (s.cores.flatMap fun ck => ck.2.ops.flatMap fun o =>
      if o.2.isEmpty then []
      else [State.tryProgress ck.1 o.1, fun s => acted (execEngineOperationComplete ck.1 o.1 s), fun s => acted (execResultEntryWrite ck.1 o.1 s)])
    ++ s.teams.flatMap fun t =>
      ((t.engs.map (·.1) ++ t.tasks.map (·.engine)).eraseDups.map fun e => State.tryParse t.core e t.id)
        ++ (if s.engineHeld t then [] else t.tasks.map fun x => fun s => acted (execTaskIssue t.id x.id s))

/-! ### Messages -/

/-- A message arrives. -/
def runWire (w : Wire) (s : State) : Result :=
  match w.kind with
  | .rds => execRds w.msg s | .rdOwn => execRdOwn w.msg s | .ownNd => execOwnNd w.msg s | .upg => execUpg w.msg s
  | .atomReq => execAtomReq w.msg s | .gnt => execGnt w.msg s | .snpFwd => execSnpFwd w.msg s | .snpOwn => execSnpOwn w.msg s
  | .snpInv => execSnpInv w.msg s | .snpRcl => execSnpRcl w.msg s | .snpAck => execSnpAck w.msg s | .snpData => execSnpData w.msg s
  | .wbReq => execWbReq w.msg s | .wbGnt => execWbGnt w.msg s | .wbData => execWbData w.msg s | .cleanEv => execCleanEv w.msg s
  | .cmp => execCmp w.msg s | .mir => execMir w.msg s | .mirAck => execMirAck w.msg s | .mirClr => execMirClr w.msg s
  | .mark => execMark w.msg s | .markAck => execMarkAck w.msg s
  | .dieDown => execDieDown w.msg s | .rbReport => execRbReport w.msg.tag w.msg s | .takeReq => execTakeReq w.msg s

/-! ### Threads' results and traps -/

/-- The results that may become available, with position 32 for a group's own. -/
def State.resultActions (s : State) : List (State → Option Result) :=
  s.teams.flatMap fun t => t.groups.flatMap fun g =>
    ((List.range 33).filter fun i => if i < 32 then !(g.thread i).out.isEmpty else !g.kout.isEmpty).map fun i =>
      fun s => acted (execLongLatencyResult t.id g.idx i s)

/-- Handlers that may be entered. -/
def State.handlerActions (s : State) : List (State → Option Result) :=
  s.teams.flatMap fun t => (fun s => acted (execTeamHandlerEntry t.id s)) ::
    (t.groups.filter fun g => g.pending != .none).map fun g => fun s => acted (execTrapHandlerEntry t.id g.idx s)

/-! ### The distributor -/

/-- What the distributor may do for a launch. -/
def Launch.actions (l : Launch) : List (State → Option Result) :=
  [fun s => acted (execDependencySatisfied l.asid l.seq s), fun s => acted (execLeasingComplete l.asid l.seq s),
   fun s => acted (execTeamPlacement l.asid l.seq s), fun s => acted (execLaunchFlush l.asid l.seq s),
   fun s => acted (execLaunchSignalWrite l.asid l.seq s)]
    ++ if l.laps = 0 then [] else (List.range (l.teamCount / l.clusterSize)).map fun c => fun s => acted (execVintageWrite l.asid l.seq c s)

/-- What the distributor may do. -/
def State.distributorActions (s : State) : List (State → Option Result) :=
  (s.ports.flatMap fun p => [fun s => acted (execLaunchRecordCheck p.1 s), fun s => acted (execPreemptSaved p.1 s), fun s => acted (execAtRootApply p.1 s)]
      ++ p.2.launches.flatMap Launch.actions)
    ++ (s.cores.filter fun ck => !ck.2.spawnQ.isEmpty).map (fun ck => fun s => acted (execChildPlacement ck.1 s))
    ++ (s.teams.filter fun t => t.groups.all (·.retired) && !t.retiring).map fun t => fun s => acted (execTeamRetirement t.id s)

/-! ### The rest of the package -/

/-- What dies, links and the platform may do by themselves. -/
def State.packageActions (s : State) : List (State → Option Result) :=
  let dies := List.range Config.numDies
  let down := dies.filter fun d => (s.die d).state == 3
  [fun s => s.tryWaiting.map Host.Outcome.next, fun s => s.recallTable.map Host.Outcome.next, fun s => s.tryImage.map Host.Outcome.next, fun s => acted (execFabricNumApply s), fun s => acted (execPageMigrationComplete s)]
    ++ (dies.flatMap fun d => [fun s => acted (execServiceTransitionEnd d s), fun s => acted (execDieOvertemperature d s)])
    ++ down.flatMap fun d => [fun s => (s.tryTakeover d).map Host.Outcome.next, fun s => acted (execSliceRebuildComplete d s)]

/-- A message for another package that waits for this one to have a number. -/
def Wire.held (w : Wire) : Bool :=
  match w.msg.dst with
  | .pkg _ => true
  | _ => false

/-! ### Time -/

/-- What the count of a cycle brings, before anything else happens in it. -/
def State.timedActions (s : State) : List (State → Option Result) :=
  (s.cores.flatMap fun ck =>
      [fun s => acted (execSettle ck.1 s), fun s => if s.stopDue ck.1 then some (.next (s.stopCore ck.1)) else none, fun s => if (s.core ck.1).snaps.isEmpty then none else acted (execSnapshot ck.1 s),
       fun s => acted (execTokenWindowStart ck.1 s), fun s => acted (execThrottleScoreHalving ck.1 s)])
    ++ s.teams.flatMap fun t => t.groups.map fun g => fun s => acted (execQuantumRotation t.id g.idx s)

/-- A group that is not divided any more holds no favour (R143). -/
def Group.undivide (g : Group) : Group := if g.favour.isSome && !g.divided then { g with favour := none } else g

/-- Spawns that wait at a queue with room go on (R160): whatever made the room. -/
def State.spawnAll (s : State) : State := (s.teams.map (·.core)).eraseDups.foldl State.spawnProgress s

/-- What holds at the end of every step: spawns have entered their queues, the cores' states at the production of their effects are
noted (R350), favours of groups that are whole again are gone, and nobody issues. -/
def State.endStep (before s : State) : State :=
  let s := State.noteMarks before s.spawnAll
  { s with teams := s.teams.map fun t => { t with groups := t.groups.map Group.undivide }, actor := .idle }

/-- The clocks of the dies that run count on (R17). -/
def State.tick (s : State) : State :=
  { s with
    turn := s.turn + 1
    dies := s.dies.map fun d => if d.state = 1 ∨ d.state = 2 then { d with counter := d.counter + 1 } else d }

/-- The end of a step's outcome. -/
def finish (before : State) (clock : Bool) (r : Result) : Result :=
  match r with
  | .next s => .next (if clock then (State.endStep before s).tick else State.endStep before s)
  | .fault f => .fault f
  | .refused x => .refused x

/-! ### Turns -/

/-- The classes of agents, in the order of their turns. -/
def agentClasses (run : Runner) (n : Nat) : List (State → Option Result) :=
  [fun s => State.trySides run (turned n s.sides) s,
   fun s => firstOf s (turned n (s.teams.map fun t => State.serveCooper run t.id)),
   fun s => firstOf s (turned n s.resultActions),
   fun s => firstOf s (turned n ((s.wires.filter fun w => !w.held).map fun w => fun s => acted (runWire w s))),
   fun s => firstOf s (turned n s.engineActions),
   fun s => firstOf s (turned n (s.teams.map fun t => State.tryPend t.id)),
   fun s => firstOf s (turned n s.distributorActions),
   fun s => firstOf s (turned n s.handlerActions),
   fun s => firstOf s (turned n (s.sides.map fun x => fun s => acted (execGroupSwap x.1 x.2 s))),
   fun s => firstOf s (turned n s.packageActions)]

/-- A write on its way to a device register is performed, in order for each writer (R320, R173). -/
def State.tryRegister (s : State) : Option Result :=
  s.nextRegWrite.map fun x =>
    let s := { s with regWrites := x.2 }
    (acted (s.performWrite x.1)).getD (.next s)

/-- Something that reaches the package from outside is met first; what is not due is dropped. -/
def State.tryInput (input : Instr → State → Result) (s : State) : Option Result :=
  match s.inputs with
  | [] => none
  | i :: r =>
    let s := { s with inputs := r }
    some ((acted (input i s)).getD (.next s))

/-- One step: what the cycle's count brings; else a register write or an input; else one action of the class of agents whose turn it is, or of the next
that has one. Time passes with everything but the first. -/
def schedStep (run : Runner) (input : Instr → State → Result) (s : State) : Result :=
  match firstOf s s.timedActions with
  | some r => finish s false r
  | none =>
    match s.tryRegister with
    | some r => finish s true r
    | none =>
      match s.tryInput input with
      | some r => finish s true r
      | none =>
        match firstOf s (turned s.turn (agentClasses run (s.turn / 10))) with
        | some r => finish s true r
        | none => finish s true (.next s)

end Sys2Proof.Machine
end

