-- ==== Sys2Proof/Machine/Step.lean ====
section
/-! DEFINITION. One step of the package, and a program loaded from outside the machine so that the next step runs its first
instruction (DESIGN CHOICE, log 4). -/
namespace Sys2Proof.Machine
open Sys2Proof

/- Nothing here is compiled: it decodes (see `Sys2Proof.Decode`). -/
noncomputable section

/-- Runs the instruction that words spell (R30, R41); words that spell none are an illegal instruction (R42). -/
def runWords (w : Word) (ext : List Word) (s : State) : Host.Outcome State Fault Refusal :=
  match decodeWords (w :: ext) with
  | .ok (i, _) => exec i s
  | .error _ => exec (.illegalInstructionWord w) s

/-- One step of the package. -/
def step (s : State) : Host.Outcome State Fault Refusal := schedStep runWords exec s

/-- Where a loaded program's first instruction lies, in the address space and in memory. -/
def loadAt : Nat := 0x10000

/-- The translation of the first 2 MiB of address space 0. -/
def loadEntry : TlbEntry := { asid := 0, va := 0, size := 0x200000, pa := 0, attr := 2, perm := 7, tags := [] }

/-- The launch a loaded program stands for: it runs, with the first 2 MiB leased for data and its code for execution. -/
def loadLaunch : Launch :=
  { asid := 0, seq := 1, addr := 0, state := .running, leases := [(0, 0x200000, 1), (loadAt, 0x10000, 2)] }

/-- The team of a loaded program: one group of 32 threads, and for a tile-stream word a Cooper. -/
def loadTeam (tile : Bool) : Team :=
  { seq := 1
    groups := [{ regs := 128, threads := List.replicate 32 (entryThread (BitVec.ofNat 56 loadAt) 128) }]
    granules := List.range 32
    scratchBytes := 262144
    mregs := List.range 8
    accs := List.range 16
    tensorTokens := 1024
    sfuTokens := 1024
    cooper := if tile then some { cpc := BitVec.ofNat 56 loadAt } else none }

/-- `s` with the instruction of `nbits` bits `w` loaded as the first of a program that the next step runs (DESIGN CHOICE, log 4): the code
in memory and in the instruction cache of core 0, and the team on core 0, alone on the machine and first in turn. -/
def State.withFetchWord (s : State) (nbits w : Nat) : State :=
  let ws := tableWords nbits w
  let tile := isTileWord (ws.headD 0)
  { s with
    mem := (ws.zip (List.range maxInstrWords)).foldl (fun m x => m.setWord (loadAt + 4 * x.2) x.1) s.mem
    teams := [loadTeam tile]
    cores := [(0, { tlb := [loadEntry], icache := [(loadAt / 128, ws.map fun x => (x, false))] })]
    dies := [{ state := 2, counter := 1 }] ++ s.dies.drop 1
    ports := [(0, { trapVec := BitVec.ofNat 56 (loadAt + 64), launches := [loadLaunch] })]
    regWrites := []
    inputs := []
    transition := []
    turn := if tile then 1 else 0 }

end

end Sys2Proof.Machine
end

