-- ==== Sys2Proof/Safety.lean ====
section
/-! DEFINITION. The terms in which statements about the machine are made: which runs are safe, what a step left as it was,
when a path can carry an instruction out, and what an instruction of a path did. -/
namespace Sys2Proof.Machine
open Sys2Proof

/-! ### Runs -/

/-- States a run reaches. -/
inductive Reach : State → State → Prop
  | here (s : State) : Reach s s
  | more {s t u : State} (h : Reach s t) (n : step t = .next u) : Reach s u

/-- A run is safe when every state it reaches has a next state: it meets no fault and no refusal. -/
def Safe (s : State) : Prop := ∀ t, Reach s t → ∃ u, step t = .next u

/-- What every step leaves: nobody is issuing, and a group holds a favour only while it is divided (R143). -/
def State.calm (s : State) : Prop :=
  s.actor = .idle ∧ ∀ t ∈ s.teams, ∀ g ∈ t.groups, g.favour.isSome = true → g.divided = true

/-! ### What a change leaves alone -/

/-- `t` is `s` but for the team `id`, which is `T` there. -/
structure OnlyTeam (s t : State) (id : Nat) (T : Team) : Prop where
  rest : { t with teams := s.teams } = s
  self : t.team? id = some T
  others : ∀ j, j ≠ id → t.team? j = s.team? j

/-- `T` is `S` but for the group `i`, which is `g` there. -/
structure OnlyGroup (S T : Team) (i : Nat) (g : Group) : Prop where
  rest : { T with groups := S.groups } = S
  self : T.group? i = some g
  others : ∀ j, j ≠ i → T.group? j = S.group? j

/-- `t` is `s` but for the group of the path `c`, which is `g` there. -/
def Alters (s t : State) (c : Ctx) (g : Group) : Prop :=
  ∃ T, OnlyTeam s t c.team.id T ∧ OnlyGroup c.team T c.group.idx g

/-- `t` is `s` but for the core `i`, which is `k` there. -/
structure OnlyCore (s t : State) (i : Nat) (k : Core) : Prop where
  rest : { t with cores := s.cores } = s
  self : t.core i = k
  others : ∀ j, j ≠ i → t.core j = s.core j

/-- `t` is `s` but for the launch port `i`, which is `p` there. -/
structure OnlyPort (s t : State) (i : Nat) (p : Port) : Prop where
  rest : { t with ports := s.ports } = s
  self : t.port i = p
  others : ∀ j, j ≠ i → t.port j = s.port j

/-- `t` is `s` but for the compute die `i`, which is `d` there. -/
structure OnlyDie (s t : State) (i : Nat) (d : Die) : Prop where
  rest : { t with dies := s.dies } = s
  self : t.die i = d
  others : ∀ j, j ≠ i → t.die j = s.die j

/-! ### Lane-set instructions -/

/-- A path issues, may name the registers (R13), consumes no poison (R356), and none of its interlocks holds it (R24, R25). -/
structure LaneReady (s : State) (c : Ctx) (r : Regs) : Prop where
  path : s.path? = some c
  named : r.ok c.group.regs = true
  sound : c.poisoned r = false
  free : c.ready r = true

/-- What storage register `j` of a thread reads once the listed registers are written. -/
def newV (h : Bool) (ws : List (Nat × Word)) (t : Thread) (j : Nat) : Word :=
  match ws.find? fun x => vIndex h x.1 == j with
  | some x => x.2
  | none => t.readV j

/-- What predicate `i` of a bank reads once the listed predicates are written; `p0` stays 1 (R14). -/
def newP (h : Bool) (ps : List (Nat × Bool)) (t : Thread) (bank : Bool) (i : Nat) : Bool :=
  match ps.find? fun x => x.1 == i && i != 0 && bank == h with
  | some x => x.2
  | none => t.readP bank i

/-- A thread after an instruction that writes the registers `ws` and the predicates `ps` and goes on at `pc`: every other
register, predicate and field is as before, and an open window counts the instruction (R26). -/
structure ThreadDone (h : Bool) (t u : Thread) (pc : VAddr) (ws : List (Nat × Word)) (ps : List (Nat × Bool)) : Prop where
  rest : u = { t with pc := pc, rel := none, stall := [], kstall := [], out := t.out.map OutRes.tick, v := u.v, hv := u.hv, p := u.p, hp := u.hp,
                      spec := u.spec, poison := u.poison, ppoison := u.ppoison }
  regs : ∀ j, u.readV j = newV h ws t j
  preds : ∀ b i, u.readP b i = newP h ps t b i
  spec : u.spec = t.spec.filter fun e => ws.all fun x => !e.touches (vIndex h x.1)
  poison : u.poison = t.poison.filter fun j => ws.all fun x => j != vIndex h x.1
  ppoison : u.ppoison = t.ppoison.filter fun j => ps.all fun x => x.1 == 0 || j != pIndex h x.1

/-- The group of a path whose threads are changed: its threads off the path are as before, and of its own fields only the
issue count and the favour may have moved on (R143). -/
structure GroupDone (c : Ctx) (g : Group) (p : Nat → Thread → Prop) : Prop where
  rest : { g with threads := c.group.threads, n := c.group.n, favour := c.group.favour } = c.group
  length : g.threads.length = c.group.threads.length
  off : ∀ i, i ∉ c.ms → g.thread i = c.group.thread i
  on : ∀ i, i ∈ c.ms → p i (g.thread i)

/-- The path's instruction has written the registers and predicates that `ws` and `ps` list for each of its threads, has
left each at `pc`, and has changed nothing else in the machine. -/
def LaneDone (s t : State) (c : Ctx) (pc : View → VAddr) (ws : View → List (Nat × Word)) (ps : View → List (Nat × Bool)) : Prop :=
  ∃ g, Alters s t c g ∧ GroupDone c g fun i u =>
    ThreadDone c.group.handler (c.group.thread i) u (pc (c.view i)) (ws (c.view i)) (ps (c.view i))

/-- Where a lane-set instruction does not complete: a register it may not name is an illegal instruction (R13), a poisoned
source kills the gang (R356), and an interlock holds the path where it is (R24, R25). -/
def LaneStops (i : Instr) (r : Regs) : Prop := ∀ s c, s.path? = some c →
  (r.ok c.group.regs = false → exec i s = .next (s.trapPath c { code := 0x02 })) ∧
  (r.ok c.group.regs = true → c.poisoned r = true → exec i s = .next (s.killGangOf c.team.id 0x11 0)) ∧
  (r.ok c.group.regs = true → c.poisoned r = false → c.ready r = false →
    exec i s = .next (s.noteMiss c r))

/-- A lane-set instruction that computes: it completes wherever its path is ready, and stops as every one of them does. -/
def Computes (i : Instr) (r : Regs) (pc : View → VAddr) (ws : View → List (Nat × Word)) (ps : View → List (Nat × Bool)) : Prop :=
  (∀ s c, LaneReady s c r → ∃ t, exec i s = .next t ∧ LaneDone s t c pc ws ps) ∧ LaneStops i r

/-- The next word. -/
def nextPc (w : View) : VAddr := w.t.pc + 4

/-- The two writes of a pair. -/
def pairAt (d : Nat) (x : DWord) : List (Nat × Word) := [(d, lowWord x), (d + 1, highWord x)]

/-- Instructions `vd, va` that write `f va` to `vd`. -/
def Lane2 (mk : BitVec 7 → BitVec 7 → Instr) (f : Word → Word) : Prop := ∀ d a,
  Computes (mk d a) { reads := [(a.toNat, 1)], writes := [(d.toNat, 1)] } nextPc
    (fun w => [(d.toNat, f (w.v a.toNat))]) fun _ => []
/-- Instructions `vd, va, vb`. -/
def Lane3 (mk : BitVec 7 → BitVec 7 → BitVec 7 → Instr) (f : Word → Word → Word) : Prop := ∀ d a b,
  Computes (mk d a b) { reads := [(a.toNat, 1), (b.toNat, 1)], writes := [(d.toNat, 1)] } nextPc
    (fun w => [(d.toNat, f (w.v a.toNat) (w.v b.toNat))]) fun _ => []
/-- Instructions `vd, va, vb` that read `vd` as well. -/
def Lane3d (mk : BitVec 7 → BitVec 7 → BitVec 7 → Instr) (f : Word → Word → Word → Word) : Prop := ∀ d a b,
  Computes (mk d a b) { reads := [(d.toNat, 1), (a.toNat, 1), (b.toNat, 1)], writes := [(d.toNat, 1)] } nextPc
    (fun w => [(d.toNat, f (w.v d.toNat) (w.v a.toNat) (w.v b.toNat))]) fun _ => []
/-- Instructions on pairs. -/
def LanePair3 (mk : BitVec 7 → BitVec 7 → BitVec 7 → Instr) (f : DWord → DWord → DWord) : Prop := ∀ d a b,
  Computes (mk d a b) { reads := [(a.toNat, 2), (b.toNat, 2)], writes := [(d.toNat, 2)] } nextPc
    (fun w => pairAt d.toNat (f (w.pair a.toNat) (w.pair b.toNat))) fun _ => []
/-- Instructions whose result is a pair. -/
def LaneWide3 (mk : BitVec 7 → BitVec 7 → BitVec 7 → Instr) (f : Word → Word → DWord) : Prop := ∀ d a b,
  Computes (mk d a b) { reads := [(a.toNat, 1), (b.toNat, 1)], writes := [(d.toNat, 2)] } nextPc
    (fun w => pairAt d.toNat (f (w.v a.toNat) (w.v b.toNat))) fun _ => []
/-- Instructions that accumulate into a pair. -/
def LaneWide3d (mk : BitVec 7 → BitVec 7 → BitVec 7 → Instr) (f : DWord → Word → Word → DWord) : Prop := ∀ d a b,
  Computes (mk d a b) { reads := [(d.toNat, 2), (a.toNat, 1), (b.toNat, 1)], writes := [(d.toNat, 2)] } nextPc
    (fun w => pairAt d.toNat (f (w.pair d.toNat) (w.v a.toNat) (w.v b.toNat))) fun _ => []
/-- Shifts of a pair by a register. -/
def LaneShift64 (mk : BitVec 7 → BitVec 7 → BitVec 7 → Instr) (f : DWord → Word → DWord) : Prop := ∀ d a b,
  Computes (mk d a b) { reads := [(a.toNat, 2), (b.toNat, 1)], writes := [(d.toNat, 2)] } nextPc
    (fun w => pairAt d.toNat (f (w.pair a.toNat) (w.v b.toNat))) fun _ => []
/-- Compares of two registers, which write a predicate. -/
def LaneCmp (mk : BitVec 3 → BitVec 7 → BitVec 7 → Instr) (f : Word → Word → Bool) : Prop := ∀ p a b,
  Computes (mk p a b) { reads := [(a.toNat, 1), (b.toNat, 1)], predWrites := [p.toNat] } nextPc (fun _ => [])
    fun w => [(p.toNat, f (w.v a.toNat) (w.v b.toNat))]
/-- Compares of two pairs. -/
def LaneCmp64 (mk : BitVec 3 → BitVec 7 → BitVec 7 → Instr) (f : DWord → DWord → Bool) : Prop := ∀ p a b,
  Computes (mk p a b) { reads := [(a.toNat, 2), (b.toNat, 2)], predWrites := [p.toNat] } nextPc (fun _ => [])
    fun w => [(p.toNat, f (w.pair a.toNat) (w.pair b.toNat))]

/-! ### Long-latency instructions -/

/-- A thread has asked for a long-latency result and gone on: the result is the last of its outstanding ones, the windows open
before count the instruction, and speculation entries of the destination are gone (R24 to R26, R125). -/
def AsksFor (t u : Thread) (o : OutRes) : Prop :=
  u = { t with pc := t.pc + 4, rel := none, stall := [], kstall := [], out := t.out.map OutRes.tick ++ [o],
               spec := t.spec.filter fun e => !(o.dst.any fun j => e.touches j) }

/-- `t` is `s` but for the path's team, which pays `tokens` SFU tokens, and the path's group, which is `g` (R188). -/
def Pays (s t : State) (c : Ctx) (tokens : Nat) (g : Group) : Prop :=
  ∃ T, OnlyTeam s t c.team.id T ∧
    OnlyGroup { c.team with sfuSpent := c.team.sfuSpent + tokens, sfuIssued := true } T c.group.idx g

/-! ### Uniform instructions -/

/-- A path issues, names `k` registers it may (R15), consumes no poison (R356), and none of its interlocks holds it (R24 to R26). -/
structure KReady (s : State) (c : Ctx) (r : KRegs) : Prop where
  path : s.path? = some c
  named : r.ok = true
  sound : c.kPoisoned r = false
  free : c.kReady r = true

/-- What storage register `j` of a group reads once the listed `k` registers are written; `k0` stays 0 (R15). -/
def newK (h : Bool) (ws : List (Nat × Word)) (g : Group) (j : Nat) : Word :=
  match ws.find? fun x => kIndex h x.1 == j && j != 0 with
  | some x => x.2
  | none => g.readK j

/-- The path's uniform instruction has written the `k` registers that `ws` lists, has left the path's threads at `pc`, and has
changed nothing else. -/
def KDone (s t : State) (c : Ctx) (pc : Group → VAddr → VAddr) (ws : Group → List (Nat × Word)) : Prop :=
  ∃ g, Alters s t c g ∧
    { g with threads := c.group.threads, n := c.group.n, favour := c.group.favour, k := c.group.k, hk := c.group.hk,
             kpoison := c.group.kpoison } = c.group ∧
    (g.kpoison = c.group.kpoison.filter fun j => (ws c.group).all fun x => kIndex c.group.handler x.1 == 0 || j != kIndex c.group.handler x.1) ∧
    (∀ j, g.readK j = newK c.group.handler (ws c.group) c.group j) ∧
    (∀ i, i ∉ c.ms → g.thread i = c.group.thread i) ∧
    ∀ i, i ∈ c.ms → ThreadDone c.group.handler (c.group.thread i) (g.thread i) (pc c.group (c.group.thread i).pc) [] []

/-- Where a uniform instruction does not complete (R13, R15, R24, R25, R356). -/
def KStops (i : Instr) (r : KRegs) : Prop := ∀ s c, s.path? = some c →
  (r.ok = false → exec i s = .next (s.trapPath c { code := 0x02 })) ∧
  (r.ok = true → c.kPoisoned r = true → exec i s = .next (s.killGangOf c.team.id 0x11 0)) ∧
  (r.ok = true → c.kPoisoned r = false → c.kReady r = false → exec i s = .next (s.noteKMiss c r))

/-- A uniform instruction that computes. -/
def KComputes (i : Instr) (r : KRegs) (pc : Group → VAddr → VAddr) (ws : Group → List (Nat × Word)) : Prop :=
  (∀ s c, KReady s c r → ∃ t, exec i s = .next t ∧ KDone s t c pc ws) ∧ KStops i r

/-- The next word. -/
def nextK (_ : Group) (pc : VAddr) : VAddr := pc + 4

/-- Uniform instructions `kd, ka, kb`. -/
def Uni3 (mk : BitVec 6 → BitVec 6 → BitVec 6 → Instr) (f : Word → Word → Word) : Prop := ∀ d a b,
  KComputes (mk d a b) { reads := [(a.toNat, 1), (b.toNat, 1)], writes := [(d.toNat, 1)] } nextK
    fun g => [(d.toNat, f (g.kv a.toNat) (g.kv b.toNat))]
/-- Uniform instructions `kd, ka`. -/
def Uni2 (mk : BitVec 6 → BitVec 6 → Instr) (f : Word → Word) : Prop := ∀ d a,
  KComputes (mk d a) { reads := [(a.toNat, 1)], writes := [(d.toNat, 1)] } nextK fun g => [(d.toNat, f (g.kv a.toNat))]
/-- Uniform instructions on pairs. -/
def UniPair3 (mk : BitVec 6 → BitVec 6 → BitVec 6 → Instr) (f : DWord → DWord → DWord) : Prop := ∀ d a b,
  KComputes (mk d a b) { reads := [(a.toNat, 2), (b.toNat, 2)], writes := [(d.toNat, 2)] } nextK
    fun g => pairAt d.toNat (f (g.kpair a.toNat) (g.kpair b.toNat))

/-! ### Accesses to memory -/

/-- Where the threads of a path access memory: physical address, attribute of the page, and the translation used. -/
abbrev Leads := Nat → Nat × Nat × TlbEntry

/-- The accesses of `n` bytes a path's threads make through the pair `a`. -/
def spotsAt (c : Ctx) (a : Nat) (at' : Leads) : List Spot :=
  c.ms.map fun i => { pos := i, va := vaddr ((c.view i).pair a), pa := (at' i).1, attr := (at' i).2.1 }

/-- The state with the translations of a path's accesses kept (R325, R326). -/
def State.kept (s : State) (c : Ctx) (at' : Leads) : State :=
  c.ms.foldl (fun s i => s.keep c.team.core (some (laneOf c.group i)) (at' i).2.2) s

/-- Nothing keeps a path from making its access: it may issue it, there is room for a result, no throttle and no order holds it,
every thread's access passes the checks of R119, and none meets a page in transition or an earlier read of the same bytes. -/
structure AccessReady (s : State) (c : Ctx) (r : Regs) (a n : Nat) (store out : Bool) (o : MemOrder) (sc : Scope) (at' : Leads) : Prop where
  lane : LaneReady s c r
  room : out = true → c.roomForOut = true
  free : s.throttleHolds c = false
  order : s.orderMay c o sc store = true
  checked : ∀ i, i ∈ c.ms → s.checkAccess c.team (some (laneOf c.group i)) ((c.view i).pair a) n store = .ok (at' i).1 (at' i).2.1 (at' i).2.2
  still : ∀ i, i ∈ c.ms → s.inTransition (at' i).1 = false ∧ c.mustWait i (at' i).1 n = false

/-- The state `u` with the threads of a path of `c` changed by `f` and the issue counted (R143). -/
def State.afterIssue (u : State) (c : Ctx) (f : Nat → Thread → Thread) : State :=
  u.mapGroup c.team.id c.group.idx fun g => (g.mapAt c.ms f).issued c.lead

/-- The same for a uniform access through the `k` pair `a`. -/
structure KAccessReady (s : State) (c : Ctx) (r : KRegs) (a n : Nat) (store out : Bool) (o : MemOrder) (sc : Scope)
    (pa attr : Nat) (e : TlbEntry) : Prop where
  uni : KReady s c r
  room : out = true → c.roomForOut = true
  free : s.throttleHolds c = false
  order : s.orderMay c o sc store = true
  checked : s.checkAccess c.team none (c.group.kpair a) n store = .ok pa attr e
  still : s.inTransition pa = false ∧ c.mustWait c.lead pa n = false

/-- A word as its own core sees it: its bytes stored early over the L1's value, or, where the L1 has none, over the one a miss finds (R211). -/
def State.seesWord (s : State) (core w : Nat) : Word :=
  let c := (s.core core).cell (w / 32) (w % 32)
  mergeBytes (if c.st = .i then (s.fillWord core (w / 32) (w % 32)).1 else c.val) c.pend c.pendMask

/-- A byte as its own core sees it. -/
def State.seesByte (s : State) (core a : Nat) : Byte := BitVec.ofNat 8 ((s.seesWord core (a / 4)).toNat / 256 ^ (a % 4))

/-- The last write of a list of byte writes to an address. -/
def lastWrite (bs : List (Nat × Byte)) (a : Nat) : Option Byte := (bs.reverse.find? fun b => b.1 == a).map (·.2)

/-! ### Collective instructions -/

/-- A path's members all go on from a wait at once: none belongs to a handler it has not entered (R332). -/
def Ctx.awake (c : Ctx) : Prop := c.group.handler = true → ∀ i, i ∈ c.ms → (c.group.thread i).resume.isSome = true

/-- The members of a path issue an exchange together, all with the mask `M` in register `d`: it names each of them and no other live
thread, and no thread of the group waits in another exchange (R149). -/
structure Together (c : Ctx) (d : Nat) (M : Mask) : Prop where
  alike : ∀ i, i ∈ c.ms → (c.view i).v d = M
  named : ∀ i, i ∈ c.ms → M.getLsbD i = true
  whole : ∀ u, u < 32 → M.getLsbD u = true → (c.group.thread u).live = true → u ∈ c.ms
  alone : ∀ u, (c.group.thread u).arrival? = none
  awake : c.awake

/-- An exchange whose members issue it together completes at once: member `i` has `R c i` in `vd` (R149). -/
def Exchanges (i : Instr) (r : Regs) (d : Nat) (R : Ctx → Nat → Word) : Prop := ∀ s c M, LaneReady s c r → Together c d M →
  ∃ t g, exec i s = .next t ∧ Alters s t c g ∧ GroupDone c g fun j u =>
    ThreadDone c.group.handler (c.group.thread j) u ((c.group.thread j).pc + 4) [(d, R c j)] []

/-- The value `a` of position `j` where it is a member, else `x`. -/
def memberOr (c : Ctx) (a : Nat → Word) (j : Nat) (x : Word) : Word := if j ∈ c.ms then a j else x

/-- A thread that has joined a wait and has been let go at once, `f` having changed it, or waits inside it as `b` says. -/
def Waited (t u : Thread) (go : Bool) (f g : Thread → Thread) (b : Block) : Prop :=
  if go = true then u = { g (f t).tick with status := .running, pc := t.pc + 4 } else u = { (f t).tick with status := .blocked b }

/-! ### Tile-stream instructions -/

/-- A Cooper's instruction that names `u` may act: its names are the team's or its cluster's, its slots stand, nothing it must wait for is under
way (R281), the slots and registers it reads hold no poison, and a record of it fits the log where the team records it (R303). -/
structure TileReady (s : State) (t : Team) (k : Cooper) (u : TileUse) (places : List (Nat × Nat)) (spot : Team × List Nat) (recorded : Bool) : Prop where
  coop : s.coop? = some (t, k)
  tile : ∀ m, u.m = some m → m < t.mregs.length
  accs : s.accPlaces t u = some places
  slot : u.slots ≠ [] → s.slotSpot t u.slots u.writes = some spot
  still : s.tileWaits t u places (s.slotSpot t u.slots u.writes) = false
  sound : u.writes = false → u.slots ≠ [] → ∀ off, off ∈ spot.2 → spot.1.scratchBad off 4096 = false
  clean : t.fileBad u places = false
  fits : t.log.recording = true → recorded = true →
    (∀ p, p ∈ places → p.1 = t.member) ∧ (∀ x, x ∈ u.slots → x < 64) ∧ t.logRoom 0x8000 = true

/-- A Cooper's instruction of `n` words is done: `T` is its team, whose Cooper goes on after it; groups, launch ports, memory and other teams are as
before. -/
structure TileDone (s v : State) (t T : Team) (k : Cooper) (n : Nat) : Prop where
  team : v.team? t.id = some T
  next : T.cooper = some { k with cpc := k.cpc + BitVec.ofNat 56 (4 * n), wait := .running }
  groups : T.groups = t.groups
  mem : v.mem = s.mem
  ports : v.ports = s.ports
  others : ∀ j, j ≠ t.id → v.team? j = s.team? j

/-! ### Messages -/

/-- One message is all that is in flight, no die is dead, and `d` is a die of the package. -/
structure Alone (s : State) (k : MsgKind) (m : Msg) (d : Nat) : Prop where
  wire : s.wires = [Wire.mk k m]
  live : ∀ x, x ∈ s.dies → x.state ≠ 3
  dies : s.dies.length = Config.numDies
  die : d < Config.numDies
  route : (s.routeOf m).isSome = true
  sent : ∀ x, x ∈ s.dies → x.home.outq = [] ∧ x.rdcHub.outq = []

/-- A message is the next of its route (R365), and a route is left to its destination, or its sender is dead (R379, R376). -/
structure Arrives (s : State) (k : MsgKind) (m : Msg) : Prop where
  next : s.wires.find? (fun x => sameRoute x.msg m) = some (Wire.mk k m)
  route : s.isDead m.src = true ∨ (s.routeOf m).isSome = true

/-- The home directory of a die has nothing in progress, nothing that waits, and room. -/
structure HomeFree (s : State) (d : Nat) : Prop where
  txns : (s.die d).home.txns = []
  waitq : (s.die d).home.waitq = []
  room : (s.die d).home.dir.length < Config.dirEntries

/-- The L1 of a core holds a line, only lines whose homes are dies, its words in order, and nothing of the core waits for a message. -/
structure L1Holds (s : State) (c line : Nat) : Prop where
  held : ((s.core c).l1.line? line).isSome = true
  near : ∀ l, l ∈ (s.core c).l1 → ∃ d, homeOf (l.1 * 128) = .home d
  snoops : (s.core c).heldSnoops = []
  stores : (s.core c).unowned = []
  sorted : ∀ l, l ∈ (s.core c).l1 → l.2.ws.sorted = true

/-- The words of every line an L1 or its victim buffer holds are listed in order. -/
def State.linesSorted (s : State) : Prop := ∀ x, x ∈ s.cores → ∀ l, l ∈ x.2.l1 ++ x.2.victim → l.2.ws.sorted = true

end Sys2Proof.Machine
end

