-- ==== Sys2Proof/Certificates/Slice0/Obligations.lean ====
section
/-! DEFINITION. The statements of this package, for the provers. -/

open Sys2Proof Sys2Proof.Machine

/-- R80: the sixteen results of major 0x01. R81: the ten results of major 0x02, each written to a pair. R82: the dot products, the sums of absolute
differences and the packed halfwords of major 0x03; `byteOf a i` is byte `i` of `a` and `halfOf a h` its halfword `h`. -/
def Obligations.IntegerResults : Prop :=
  (Lane3 .iaddI32 (fun a b => BitVec.ofInt 32 (a.toInt + b.toInt)) ∧
  Lane3 .isubI32 (fun a b => BitVec.ofInt 32 (a.toInt - b.toInt)) ∧
  Lane3 .iaddSatI32 (fun a b => BitVec.ofInt 32 (max (-2 ^ 31) (min (2 ^ 31 - 1) (a.toInt + b.toInt)))) ∧
  Lane3 .iaddSatN32 (fun a b => BitVec.ofNat 32 (min (2 ^ 32 - 1) (a.toNat + b.toNat))) ∧
  Lane3 .isubSatI32 (fun a b => BitVec.ofInt 32 (max (-2 ^ 31) (min (2 ^ 31 - 1) (a.toInt - b.toInt)))) ∧
  Lane3 .isubSatN32 (fun a b => BitVec.ofNat 32 (a.toNat - b.toNat)) ∧
  Lane3 .imulLoB32 (fun a b => BitVec.ofNat 32 (a.toNat * b.toNat)) ∧
  Lane3 .imulHiI32 (fun a b => BitVec.ofInt 32 (a.toInt * b.toInt / 2 ^ 32)) ∧
  Lane3 .imulHiN32 (fun a b => BitVec.ofNat 32 (a.toNat * b.toNat / 2 ^ 32)) ∧
  Lane3d .imadLoB32 (fun d a b => BitVec.ofNat 32 (a.toNat * b.toNat + d.toNat)) ∧
  Lane2 .inegI32 (fun a => BitVec.ofInt 32 (-a.toInt)) ∧
  Lane2 .iabsI32 (fun a => BitVec.ofNat 32 a.toInt.natAbs) ∧
  Lane3 .iminI32 (fun a b => if a.toInt ≤ b.toInt then a else b) ∧
  Lane3 .imaxI32 (fun a b => if a.toInt ≥ b.toInt then a else b) ∧
  Lane3 .iminN32 (fun a b => if a.toNat ≤ b.toNat then a else b) ∧
  Lane3 .imaxN32 (fun a b => if a.toNat ≥ b.toNat then a else b)) ∧
  (LanePair3 .iaddB64 (fun a b => BitVec.ofNat 64 (a.toNat + b.toNat)) ∧
  LanePair3 .isubB64 (fun a b => BitVec.ofInt 64 ((a.toNat : Int) - b.toNat)) ∧
  LaneWide3 .imulWideI32 (fun a b => BitVec.ofInt 64 (a.toInt * b.toInt)) ∧
  LaneWide3 .imulWideN32 (fun a b => BitVec.ofNat 64 (a.toNat * b.toNat)) ∧
  LaneWide3d .imadWideI32 (fun d a b => BitVec.ofInt 64 (a.toInt * b.toInt + d.toNat)) ∧
  LaneWide3d .imadWideN32 (fun d a b => BitVec.ofNat 64 (a.toNat * b.toNat + d.toNat)) ∧
  LanePair3 .iminI64 (fun a b => if a.toInt ≤ b.toInt then a else b) ∧
  LanePair3 .imaxI64 (fun a b => if a.toInt ≥ b.toInt then a else b) ∧
  LanePair3 .iminN64 (fun a b => if a.toNat ≤ b.toNat then a else b) ∧
  LanePair3 .imaxN64 (fun a b => if a.toNat ≥ b.toNat then a else b)) ∧
  (Lane3d .idot4I8 (fun d a b => BitVec.ofInt 32 (d.toNat + ((byteOf a 0).toInt * (byteOf b 0).toInt
    + (byteOf a 1).toInt * (byteOf b 1).toInt + (byteOf a 2).toInt * (byteOf b 2).toInt + (byteOf a 3).toInt * (byteOf b 3).toInt))) ∧
  Lane3d .idot4N8 (fun d a b => BitVec.ofNat 32 (d.toNat + ((byteOf a 0).toNat * (byteOf b 0).toNat
    + (byteOf a 1).toNat * (byteOf b 1).toNat + (byteOf a 2).toNat * (byteOf b 2).toNat + (byteOf a 3).toNat * (byteOf b 3).toNat))) ∧
  Lane3d .idot2I16 (fun d a b => BitVec.ofInt 32 (d.toNat + ((halfOf a 0).toInt * (halfOf b 0).toInt
    + (halfOf a 1).toInt * (halfOf b 1).toInt))) ∧
  Lane3d .idot2N16 (fun d a b => BitVec.ofNat 32 (d.toNat + ((halfOf a 0).toNat * (halfOf b 0).toNat
    + (halfOf a 1).toNat * (halfOf b 1).toNat))) ∧
  Lane3d .isad4N8 (fun d a b => BitVec.ofNat 32 (d.toNat + ((((byteOf a 0).toNat : Int) - (byteOf b 0).toNat).natAbs
    + (((byteOf a 1).toNat : Int) - (byteOf b 1).toNat).natAbs + (((byteOf a 2).toNat : Int) - (byteOf b 2).toNat).natAbs
    + (((byteOf a 3).toNat : Int) - (byteOf b 3).toNat).natAbs))) ∧
  (∃ f, Lane3 .iaddN16x2 f ∧ ∀ a b h, h < 2 → (halfOf (f a b) h).toNat = ((halfOf a h).toNat + (halfOf b h).toNat) % 2 ^ 16) ∧
  (∃ f, Lane3 .isubN16x2 f ∧ ∀ a b h, h < 2 →
    ((halfOf (f a b) h).toNat : Int) = (((halfOf a h).toNat : Int) - (halfOf b h).toNat) % 2 ^ 16))

/-- R83, R84: the shifts, rotates and logic of major 0x04; a count is the whole register. R85, R86, R87: bit fields, the byte permutation, counts and
reversal (major 0x05). -/
def Obligations.ShiftLogicAndBitFieldResults : Prop :=
  (Lane3 .shlB32 (fun a b => if b.toNat ≥ 32 then 0 else BitVec.ofNat 32 (a.toNat * 2 ^ b.toNat)) ∧
  Lane3 .shrN32 (fun a b => if b.toNat ≥ 32 then 0 else BitVec.ofNat 32 (a.toNat / 2 ^ b.toNat)) ∧
  Lane3 .shrI32 (fun a b => BitVec.ofInt 32 (a.toInt / 2 ^ min b.toNat 31)) ∧
  (∃ f, Lane3 .rolB32 f ∧ ∀ a b i, i < 32 → (f a b).getLsbD i = a.getLsbD ((i + 32 - b.toNat % 32) % 32)) ∧
  (∃ f, Lane3 .rorB32 f ∧ ∀ a b i, i < 32 → (f a b).getLsbD i = a.getLsbD ((i + b.toNat % 32) % 32)) ∧
  Lane3 .andB32 (fun a b => a &&& b) ∧ Lane3 .orB32 (fun a b => a ||| b) ∧ Lane3 .xorB32 (fun a b => a ^^^ b) ∧
  Lane3 .andnB32 (fun a b => a &&& ~~~b) ∧ Lane3 .ornB32 (fun a b => a ||| ~~~b) ∧ Lane3 .xnorB32 (fun a b => ~~~(a ^^^ b)) ∧
  Lane2 .notB32 (fun a => ~~~a) ∧
  LaneShift64 .shlB64 (fun a b => if b.toNat ≥ 64 then 0 else BitVec.ofNat 64 (a.toNat * 2 ^ b.toNat)) ∧
  LaneShift64 .shrN64 (fun a b => if b.toNat ≥ 64 then 0 else BitVec.ofNat 64 (a.toNat / 2 ^ b.toNat)) ∧
  LaneShift64 .shrI64 (fun a b => BitVec.ofInt 64 (a.toInt / 2 ^ min b.toNat 63))) ∧
  (Lane3 .bfeN32 (fun a b => BitVec.ofNat 32 (a.toNat / 2 ^ (b.toNat % 256) % 2 ^ min (b.toNat / 256 % 256) 32)) ∧
  Lane3 .bfeI32 (fun a b =>
    let len := min (b.toNat / 256 % 256) 32
    let f := a.toInt / 2 ^ (b.toNat % 256) % 2 ^ len
    if len = 0 then 0 else BitVec.ofInt 32 (if f ≥ 2 ^ (len - 1) then f - 2 ^ len else f)) ∧
  (∃ f, Lane3d .bfiB32 f ∧ ∀ d a b i, i < 32 → (f d a b).getLsbD i =
    if b.toNat % 256 ≤ i ∧ i < b.toNat % 256 + min (b.toNat / 256 % 256) 32 then a.getLsbD (i - b.toNat % 256) else d.getLsbD i) ∧
  (∃ f : DWord → Word → Word,
    (∀ d a b, Computes (.bpermB32 d a b) { reads := [(a.toNat, 2), (b.toNat, 1)], writes := [(d.toNat, 1)] } nextPc
      (fun w => [(d.toNat, f (w.pair a.toNat) (w.v b.toNat))]) fun _ => []) ∧
    ∀ a b top, top ≤ 3 → (∀ j, j < top → b.getLsbD (16 + 2 * j) = false) → (top < 3 → b.getLsbD (16 + 2 * top) = true) →
      let src (j : Nat) : Byte := BitVec.ofNat 8 (a.toNat / 2 ^ (8 * (b.toNat / 2 ^ (4 * j) % 8)))
      ∀ j, j < 4 → byteOf (f a b) j =
        if j ≤ top then src j else if b.getLsbD (17 + 2 * top) = true ∧ (src top).getLsbD 7 = true then 0xFF else 0) ∧
  (∃ f, Lane2 .popcB32 f ∧ ∀ a, (f a).toNat = ((List.range 32).filter fun i => a.getLsbD i).length) ∧
  (∃ f, Lane2 .clzB32 f ∧ ∀ a, (f a).toNat ≤ 32 ∧ (∀ i, i < (f a).toNat → a.getLsbD (31 - i) = false) ∧
    ((f a).toNat < 32 → a.getLsbD (31 - (f a).toNat) = true)) ∧
  (∃ f, Lane2 .ctzB32 f ∧ ∀ a, (f a).toNat ≤ 32 ∧ (∀ i, i < (f a).toNat → a.getLsbD i = false) ∧
    ((f a).toNat < 32 → a.getLsbD (f a).toNat = true)) ∧
  (∃ f, Lane2 .brevB32 f ∧ ∀ a i, i < 32 → (f a).getLsbD i = a.getLsbD (31 - i)))

/-- R88, R92: the compares of words, of pairs and with an immediate write one predicate. R89, R90, R91: selects, moves, predicate logic and the
immediate forms. -/
def Obligations.CompareMoveAndImmediateResults : Prop :=
  (LaneCmp .icmpEqB32 (fun a b => a == b) ∧ LaneCmp .icmpNeB32 (fun a b => a != b) ∧
  LaneCmp .icmpLtI32 (fun a b => decide (a.toInt < b.toInt)) ∧ LaneCmp .icmpLeI32 (fun a b => decide (a.toInt ≤ b.toInt)) ∧
  LaneCmp .icmpGtI32 (fun a b => decide (a.toInt > b.toInt)) ∧ LaneCmp .icmpGeI32 (fun a b => decide (a.toInt ≥ b.toInt)) ∧
  LaneCmp .icmpLtN32 (fun a b => decide (a.toNat < b.toNat)) ∧ LaneCmp .icmpLeN32 (fun a b => decide (a.toNat ≤ b.toNat)) ∧
  LaneCmp .icmpGtN32 (fun a b => decide (a.toNat > b.toNat)) ∧ LaneCmp .icmpGeN32 (fun a b => decide (a.toNat ≥ b.toNat)) ∧
  LaneCmp64 .icmpEqB64 (fun a b => a == b) ∧ LaneCmp64 .icmpNeB64 (fun a b => a != b) ∧
  LaneCmp64 .icmpLtI64 (fun a b => decide (a.toInt < b.toInt)) ∧ LaneCmp64 .icmpGeI64 (fun a b => decide (a.toInt ≥ b.toInt)) ∧
  LaneCmp64 .icmpLtN64 (fun a b => decide (a.toNat < b.toNat)) ∧ LaneCmp64 .icmpGeN64 (fun a b => decide (a.toNat ≥ b.toNat)) ∧
  ∀ p a c i, Computes (.icmpi p a c i) { reads := [(a.toNat, 1)], predWrites := [p.toNat] } nextPc (fun _ => []) fun w =>
    let x := w.v a.toNat
    let y : Word := BitVec.signExtend 32 i
    [(p.toNat, match c with
      | .eq => x == y | .ne => x != y
      | .ltI => decide (x.toInt < y.toInt) | .leI => decide (x.toInt ≤ y.toInt)
      | .gtI => decide (x.toInt > y.toInt) | .geI => decide (x.toInt ≥ y.toInt)
      | .ltN => decide (x.toNat < y.toNat) | .leN => decide (x.toNat ≤ y.toNat)
      | .gtN => decide (x.toNat > y.toNat) | .geN => decide (x.toNat ≥ y.toNat))]) ∧
  ((∀ d a b p, Computes (.selB32 d a b p) { reads := [(a.toNat, 1), (b.toNat, 1)], writes := [(d.toNat, 1)], predReads := [p.toNat] }
    nextPc (fun w => [(d.toNat, if w.p p.toNat = true then w.v a.toNat else w.v b.toNat)]) fun _ => []) ∧
  Lane2 .movB32 (fun a => a) ∧
  (∀ d a, Computes (.movB64 d a) { reads := [(a.toNat, 2)], writes := [(d.toNat, 2)] } nextPc
    (fun w => [(d.toNat, w.v a.toNat), (d.toNat + 1, w.v (a.toNat + 1))]) fun _ => []) ∧
  (∀ d q, Computes (.pget d q) { writes := [(d.toNat, 1)], predReads := [q.toNat] } nextPc
    (fun w => [(d.toNat, BitVec.ofNat 32 (w.p q.toNat).toNat)]) fun _ => []) ∧
  (∀ p a, Computes (.pset p a) { reads := [(a.toNat, 1)], predWrites := [p.toNat] } nextPc (fun _ => [])
    fun w => [(p.toNat, decide (w.v a.toNat ≠ 0))]) ∧
  (∀ p q r, Computes (.pand p q r) { predReads := [q.toNat, r.toNat], predWrites := [p.toNat] } nextPc (fun _ => [])
    fun w => [(p.toNat, w.p q.toNat && w.p r.toNat)]) ∧
  (∀ p q r, Computes (.por p q r) { predReads := [q.toNat, r.toNat], predWrites := [p.toNat] } nextPc (fun _ => [])
    fun w => [(p.toNat, w.p q.toNat || w.p r.toNat)]) ∧
  (∀ p q r, Computes (.pxor p q r) { predReads := [q.toNat, r.toNat], predWrites := [p.toNat] } nextPc (fun _ => [])
    fun w => [(p.toNat, w.p q.toNat != w.p r.toNat)]) ∧
  (∀ i : BitVec 11, Lane2 (fun d a => .iaddi d a i) (fun a => a + i.signExtend 32) ∧ Lane2 (fun d a => .andi d a i) (fun a => a &&& i.signExtend 32) ∧
    Lane2 (fun d a => .ori d a i) (fun a => a ||| i.signExtend 32) ∧ Lane2 (fun d a => .xori d a i) (fun a => a ^^^ i.signExtend 32) ∧
    Lane2 (fun d a => .shlori d a i) (fun a => BitVec.ofNat 32 (a.toNat * 2 ^ 11) ||| i.setWidth 32) ∧
    ∀ d, Computes (.movi d i) { writes := [(d.toNat, 1)] } nextPc (fun _ => [(d.toNat, i.signExtend 32)]) fun _ => []) ∧
  ∀ c : BitVec 5, Lane2 (fun d a => .shliB32 d a c) (fun a => BitVec.ofNat 32 (a.toNat * 2 ^ c.toNat)) ∧
    Lane2 (fun d a => .shriN32 d a c) (fun a => BitVec.ofNat 32 (a.toNat / 2 ^ c.toNat)) ∧
    Lane2 (fun d a => .shriI32 d a c) (fun a => BitVec.ofInt 32 (a.toInt / 2 ^ c.toNat)) ∧
    (∃ f, Lane2 (fun d a => .roliB32 d a c) f ∧ ∀ a i, i < 32 → (f a).getLsbD i = a.getLsbD ((i + 32 - c.toNat) % 32)) ∧
    ∃ f, Lane2 (fun d a => .roriB32 d a c) f ∧ ∀ a i, i < 32 → (f a).getLsbD i = a.getLsbD ((i + c.toNat) % 32))

/-- R99, R100: sums, differences, products and fused forms are the exact result rounded once in the instruction's mode, with R61's zero sign and R63's
saturation where the opcode has `.sat`. -/
def Obligations.FloatArithmeticResults : Prop := ∀ r : Rnd,
  Lane3 (.faddF32 r) (fun a b => toF32 r false (FVal.add r (f32 a) (f32 b))) ∧
  Lane3 (.fsubF32 r) (fun a b => toF32 r false (FVal.add r (f32 a) (f32 b).neg)) ∧
  Lane3 (.fmulF32 r) (fun a b => toF32 r false (FVal.mul (f32 a) (f32 b))) ∧
  Lane3 (.faddSatF32 r) (fun a b => toF32 r true (FVal.add r (f32 a) (f32 b))) ∧
  Lane3 (.fsubSatF32 r) (fun a b => toF32 r true (FVal.add r (f32 a) (f32 b).neg)) ∧
  Lane3 (.fmulSatF32 r) (fun a b => toF32 r true (FVal.mul (f32 a) (f32 b))) ∧
  Lane3d (fun d a b => .fmaF32 d a b r) (fun d a b => toF32 r false (FVal.add r (FVal.mul (f32 a) (f32 b)) (f32 d))) ∧
  Lane3d (fun d a b => .fmsF32 d a b r) (fun d a b => toF32 r false (FVal.add r (FVal.mul (f32 a) (f32 b)) (f32 d).neg)) ∧
  Lane3d (fun d a b => .fnmaF32 d a b r) (fun d a b => toF32 r false (FVal.add r (FVal.mul (f32 a).neg (f32 b)) (f32 d))) ∧
  Lane3d (fun d a b => .fmaSatF32 d a b r) (fun d a b => toF32 r true (FVal.add r (FVal.mul (f32 a) (f32 b)) (f32 d)))

/-- R60: a value that a format holds rounds to itself in every mode, and R63: `.sat` leaves a finite result in range alone. -/
def Obligations.RepresentableValuesRoundToThemselves : Prop :=  ∀ f ∈ [Fmt.f32, .bf16, .f16, .e5m2, .e4m3, .e3m2, .e2m3, .e2m1], ∀ md sat c, c < 2 * f.signBit → c % f.signBit ≤ f.top →
    roundTo f md sat (f.decode c) = c

/-- R101, R102, R103, R104: minimum and maximum, sign operations, round to integral and compares. R105: the packed forms work on each 16-bit element
alone, in its own format with `.rn`. -/
def Obligations.FloatSelectCompareAndPackedResults : Prop :=
  ((∀ mk isMax num, (mk, isMax, num) ∈ [(Instr.fminF32, false, false), (.fmaxF32, true, false), (.fminnumF32, false, true), (.fmaxnumF32, true, true)] →
    ∃ f : Word → Word → Word, Lane3 mk f ∧ ∀ a b,
      let nan (x : Word) : Prop := ∃ q, f32 x = .nan q
      let below (x y : Word) : Prop := FVal.cmp (f32 x) (f32 y) = some .lt ∨
        (FVal.cmp (f32 x) (f32 y) = some .eq ∧ x.getLsbD 31 = true ∧ y.getLsbD 31 = false)
      (num = false → nan a ∨ nan b → f a b = 0x7FC00000) ∧
      (num = true → f32 a = .nan false ∨ f32 b = .nan false ∨ (nan a ∧ nan b) → f a b = 0x7FC00000) ∧
      (num = true → f32 a = .nan true → ¬ nan b → f a b = b) ∧ (num = true → ¬ nan a → f32 b = .nan true → f a b = a) ∧
      (¬ nan a → ¬ nan b → isMax = false → (below a b → f a b = a) ∧ (below b a → f a b = b) ∧ (¬ below a b → ¬ below b a → f a b = a)) ∧
      (¬ nan a → ¬ nan b → isMax = true → (below b a → f a b = a) ∧ (below a b → f a b = b) ∧ (¬ below a b → ¬ below b a → f a b = a))) ∧
  Lane2 .fabsF32 (fun a => a &&& 0x7FFFFFFF) ∧ Lane2 .fnegF32 (fun a => a ^^^ 0x80000000) ∧
  Lane3 .fcopysignF32 (fun a b => (b &&& 0x80000000) ||| (a &&& 0x7FFFFFFF)) ∧
  (∀ mk md, (mk, md) ∈ [(Instr.frintF32Rn, Rnd.rn), (.frintF32Rz, .rz), (.frintF32Rd, .rd), (.frintF32Ru, .ru), (.frintF32Rna, .rna)] →
    Lane2 mk (fun a => match f32 a with
      | .nan _ => 0x7FC00000
      | .inf _ => a
      | .fin neg m e => if m = 0 then a else toF32 .rz false (.fin neg (roundInt md neg m e) 0))) ∧
  LaneCmp .fcmpEqF32 (fun a b => FVal.cmp (f32 a) (f32 b) == some .eq) ∧ LaneCmp .fcmpNeF32 (fun a b => FVal.cmp (f32 a) (f32 b) != some .eq) ∧
  LaneCmp .fcmpLtF32 (fun a b => FVal.cmp (f32 a) (f32 b) == some .lt) ∧
  LaneCmp .fcmpLeF32 (fun a b => FVal.cmp (f32 a) (f32 b) == some .lt || FVal.cmp (f32 a) (f32 b) == some .eq) ∧
  LaneCmp .fcmpGtF32 (fun a b => FVal.cmp (f32 a) (f32 b) == some .gt) ∧
  LaneCmp .fcmpGeF32 (fun a b => FVal.cmp (f32 a) (f32 b) == some .gt || FVal.cmp (f32 a) (f32 b) == some .eq) ∧
  LaneCmp .fcmpOrdF32 (fun a b => (FVal.cmp (f32 a) (f32 b)).isSome) ∧ LaneCmp .fcmpUnoF32 (fun a b => (FVal.cmp (f32 a) (f32 b)).isNone)) ∧
  (let each (f : Word → Word → Word) (fmt : Fmt) (g : FVal → FVal → FVal) : Prop := ∀ a b h, h < 2 →
    (halfOf (f a b) h).toNat = roundTo fmt .rn false (g (fmt.decode (halfOf a h).toNat) (fmt.decode (halfOf b h).toNat))
  let fused (f : Word → Word → Word → Word) (fmt : Fmt) : Prop := ∀ d a b h, h < 2 → (halfOf (f d a b) h).toNat =
    roundTo fmt .rn false (FVal.add .rn (FVal.mul (fmt.decode (halfOf a h).toNat) (fmt.decode (halfOf b h).toNat)) (fmt.decode (halfOf d h).toNat))
  let least (f : Word → Word → Word) (fmt : Fmt) (isMax : Bool) : Prop := ∀ a b h, h < 2 →
    (halfOf (f a b) h).toNat = fMinMax fmt isMax false (halfOf a h).toNat (halfOf b h).toNat
  (∃ f, Lane3 .faddBf16x2Rn f ∧ each f .bf16 (FVal.add .rn)) ∧ (∃ f, Lane3 .fmulBf16x2Rn f ∧ each f .bf16 FVal.mul) ∧
  (∃ f, Lane3d .fmaBf16x2Rn f ∧ fused f .bf16) ∧ (∃ f, Lane3 .fminBf16x2 f ∧ least f .bf16 false) ∧ (∃ f, Lane3 .fmaxBf16x2 f ∧ least f .bf16 true) ∧
  (∃ f, Lane3 .faddF16x2Rn f ∧ each f .f16 (FVal.add .rn)) ∧ (∃ f, Lane3 .fmulF16x2Rn f ∧ each f .f16 FVal.mul) ∧
  (∃ f, Lane3d .fmaF16x2Rn f ∧ fused f .f16) ∧ (∃ f, Lane3 .fminF16x2 f ∧ least f .f16 false) ∧ (∃ f, Lane3 .fmaxF16x2 f ∧ least f .f16 true))

/-- R106, R107, R108: the conversions. -/
def Obligations.ConversionResults : Prop :=  Lane2 .cvtF32I32Rn (fun a => toF32 .rn false (.fin (decide (a.toInt < 0)) a.toInt.natAbs 0)) ∧
  Lane2 .cvtF32N32Rn (fun a => toF32 .rn false (.fin false a.toNat 0)) ∧
  (∀ mk signed md, (mk, signed, md) ∈ [(Instr.cvtI32F32Rn, true, Rnd.rn), (.cvtI32F32Rz, true, .rz), (.cvtI32F32Rd, true, .rd), (.cvtI32F32Ru, true, .ru),
      (.cvtN32F32Rn, false, .rn), (.cvtN32F32Rz, false, .rz), (.cvtN32F32Rd, false, .rd), (.cvtN32F32Ru, false, .ru)] →
    Lane2 mk (fun a =>
      let lo : Int := if signed = true then -2 ^ 31 else 0
      let hi : Int := if signed = true then 2 ^ 31 - 1 else 2 ^ 32 - 1
      match f32 a with
      | .nan _ => 0
      | .inf neg => BitVec.ofInt 32 (if neg = true then lo else hi)
      | .fin neg m e =>
        let n : Int := if neg = true then -(roundInt md neg m e : Int) else roundInt md neg m e
        BitVec.ofInt 32 (min (max n lo) hi))) ∧
  Lane2 .cvtF32Bf16 (fun a => toF32 .rn false (bf16 (halfOf a 0))) ∧ Lane2 .cvtF32F16 (fun a => toF32 .rn false (f16 (halfOf a 0))) ∧
  Lane2 .cvtBf16F32Rn (fun a => (toBf16 .rn (f32 a)).setWidth 32) ∧ Lane2 .cvtBf16F32Rz (fun a => (toBf16 .rz (f32 a)).setWidth 32) ∧
  Lane2 .cvtF16F32Rn (fun a => (toF16 .rn (f32 a)).setWidth 32) ∧ Lane2 .cvtF16F32Rz (fun a => (toF16 .rz (f32 a)).setWidth 32) ∧
  (∀ mk fmt sat, (mk, fmt, sat) ∈ [(Instr.cvtE4m3x2F32Rn, Fmt.e4m3, false), (.cvtE4m3x2F32RnSat, .e4m3, true), (.cvtE5m2x2F32Rn, .e5m2, false),
      (.cvtE5m2x2F32RnSat, .e5m2, true)] →
    Lane3 mk (fun a b => BitVec.ofNat 32 (roundTo fmt .rn sat (f32 a) + 2 ^ 8 * roundTo fmt .rn sat (f32 b)))) ∧
  Lane3 .cvtBf16x2F32Rn (fun a b => toBf16 .rn (f32 b) ++ toBf16 .rn (f32 a)) ∧
  Lane3 .cvtF16x2F32Rn (fun a b => toF16 .rn (f32 b) ++ toF16 .rn (f32 a)) ∧
  Lane2 .cvtF16x2E4m3x2 (fun a => toF16 .rn (Fmt.e4m3.decode (byteOf a 1).toNat) ++ toF16 .rn (Fmt.e4m3.decode (byteOf a 0).toNat)) ∧
  Lane2 .cvtF16x2E5m2x2 (fun a => toF16 .rn (Fmt.e5m2.decode (byteOf a 1).toNat) ++ toF16 .rn (Fmt.e5m2.decode (byteOf a 0).toNat))

/-- R93, R94: the uniform register forms. R95: the uniform immediate forms. -/
def Obligations.UniformResults : Prop :=
  (Uni3 .kaddB32 (fun a b => BitVec.ofNat 32 (a.toNat + b.toNat)) ∧ Uni3 .ksubB32 (fun a b => BitVec.ofInt 32 ((a.toNat : Int) - b.toNat)) ∧
  Uni3 .kmulLoB32 (fun a b => BitVec.ofNat 32 (a.toNat * b.toNat)) ∧ Uni3 .kmulHiI32 (fun a b => BitVec.ofInt 32 (a.toInt * b.toInt / 2 ^ 32)) ∧
  Uni3 .kmulHiN32 (fun a b => BitVec.ofNat 32 (a.toNat * b.toNat / 2 ^ 32)) ∧
  Uni3 .kminI32 (fun a b => if a.toInt ≤ b.toInt then a else b) ∧ Uni3 .kmaxI32 (fun a b => if a.toInt ≥ b.toInt then a else b) ∧
  Uni3 .kminN32 (fun a b => if a.toNat ≤ b.toNat then a else b) ∧ Uni3 .kmaxN32 (fun a b => if a.toNat ≥ b.toNat then a else b) ∧
  UniPair3 .kaddB64 (fun a b => BitVec.ofNat 64 (a.toNat + b.toNat)) ∧ UniPair3 .ksubB64 (fun a b => BitVec.ofInt 64 ((a.toNat : Int) - b.toNat)) ∧
  Uni3 .kandB32 (fun a b => a &&& b) ∧ Uni3 .korB32 (fun a b => a ||| b) ∧ Uni3 .kxorB32 (fun a b => a ^^^ b) ∧
  Uni3 .kandnB32 (fun a b => a &&& ~~~b) ∧ Uni2 .knotB32 (fun a => ~~~a) ∧
  Uni3 .kshlB32 (fun a b => if b.toNat ≥ 32 then 0 else BitVec.ofNat 32 (a.toNat * 2 ^ b.toNat)) ∧
  Uni3 .kshrN32 (fun a b => if b.toNat ≥ 32 then 0 else BitVec.ofNat 32 (a.toNat / 2 ^ b.toNat)) ∧
  Uni3 .kshrI32 (fun a b => BitVec.ofInt 32 (a.toInt / 2 ^ min b.toNat 31)) ∧
  (∃ f, Uni2 .kpopcB32 f ∧ ∀ a, (f a).toNat = ((List.range 32).filter fun i => a.getLsbD i).length) ∧
  (∃ f, Uni2 .kclzB32 f ∧ ∀ a, (f a).toNat ≤ 32 ∧ (∀ i, i < (f a).toNat → a.getLsbD (31 - i) = false) ∧
    ((f a).toNat < 32 → a.getLsbD (31 - (f a).toNat) = true)) ∧
  Uni3 .kbfeN32 (fun a b => BitVec.ofNat 32 (a.toNat / 2 ^ (b.toNat % 256) % 2 ^ min (b.toNat / 256 % 256) 32))) ∧
  ((∀ i : BitVec 13, Uni2 (fun d a => .kaddi d a i) (fun a => a + i.signExtend 32) ∧ Uni2 (fun d a => .kandi d a i) (fun a => a &&& i.signExtend 32) ∧
    Uni2 (fun d a => .kori d a i) (fun a => a ||| i.signExtend 32) ∧ Uni2 (fun d a => .kxori d a i) (fun a => a ^^^ i.signExtend 32) ∧
    Uni2 (fun d a => .kshlori d a i) (fun a => BitVec.ofNat 32 (a.toNat * 2 ^ 13) ||| i.setWidth 32) ∧
    ∀ d, KComputes (.kmovi d i) { writes := [(d.toNat, 1)] } nextK fun _ => [(d.toNat, i.signExtend 32)]) ∧
  ∀ c : BitVec 5, Uni2 (fun d a => .kshliB32 d a c) (fun a => BitVec.ofNat 32 (a.toNat * 2 ^ c.toNat)) ∧
    Uni2 (fun d a => .kshriN32 d a c) (fun a => BitVec.ofNat 32 (a.toNat / 2 ^ c.toNat)) ∧
    Uni2 (fun d a => .kshriI32 d a c) (fun a => BitVec.ofInt 32 (a.toInt / 2 ^ c.toNat)))

/-- R113, R114, R117: the direct branches of lanes, calls and the branches of the uniform set; offsets count words from the branch itself (R33). R115,
R116: an indirect transfer goes to the address in its pair where that is canonical, a multiple of 4, leased for execution and, but for `ret`, holds a
`land`; `calli` leaves its link. A thread whose target is not that traps with cause 0x04 while the others go on; a target word in flight holds the
path, and a target without a permitted translation ends the team. The address of the trap and the end of the team on a fetch violation follow the
model's choices of logs 24 and 36. -/
def Obligations.DirectAndIndirectTransfers : Prop :=
  ((∀ o : BitVec 25, Computes (.bra o) {} (fun w => w.t.pc + BitVec.ofInt 56 (4 * o.toInt)) (fun _ => []) fun _ => []) ∧
  (∀ p (o : BitVec 21), Computes (.braT p o) { predReads := [p.toNat] }
    (fun w => if w.p p.toNat = true then w.t.pc + BitVec.ofInt 56 (4 * o.toInt) else w.t.pc + 4) (fun _ => []) fun _ => []) ∧
  (∀ p (o : BitVec 21), Computes (.braF p o) { predReads := [p.toNat] }
    (fun w => if w.p p.toNat = false then w.t.pc + BitVec.ofInt 56 (4 * o.toInt) else w.t.pc + 4) (fun _ => []) fun _ => []) ∧
  (∀ o : BitVec 25, Computes (.call o) { writes := [(0, 2)] } (fun w => w.t.pc + BitVec.ofInt 56 (4 * o.toInt))
    (fun w => pairAt 0 ((w.t.pc + 4).signExtend 64)) fun _ => []) ∧
  (∀ o : BitVec 10, KComputes (.kbra o) {} (fun _ pc => pc + BitVec.ofInt 56 (4 * o.toInt)) fun _ => []) ∧
  ∀ mk (holds : Word → Word → Bool), (mk, holds) ∈ [(Instr.kbrEqB32, fun a b => a == b), (.kbrNeB32, fun a b => a != b),
      (.kbrLtI32, fun a b => decide (a.toInt < b.toInt)), (.kbrGeI32, fun a b => decide (a.toInt ≥ b.toInt)),
      (.kbrLtN32, fun a b => decide (a.toNat < b.toNat)), (.kbrGeN32, fun a b => decide (a.toNat ≥ b.toNat))] →
    ∀ a b (o : BitVec 10), KComputes (mk a b o) { reads := [(a.toNat, 1), (b.toNat, 1)] }
      (fun g pc => if holds (g.kv a.toNat) (g.kv b.toNat) = true then pc + BitVec.ofInt 56 (4 * o.toInt) else pc + 4) fun _ => []) ∧
  ((∀ (s : State) t x, s.landing t x false = .ok ↔
    (canonical x = true ∧ x.toNat % 4 = 0 ∧ leaseCovers (s.leases t) (vaddr x).toNat 4 .fetch = true)) ∧
  (∀ (s : State) t x, s.landing t x true = .ok ↔ (s.landing t x false = .ok ∧
    ∃ pa attr e p, s.checkFetch t (vaddr x) = .ok pa attr e ∧ s.codeWord t.core pa = some (2, p))) ∧
  ∀ mk land link, (mk, land, link) ∈ [(Instr.jmpi, true, false), (.calli, true, true), (.ret, false, false)] →
    ∀ a (s : State) (c : Ctx), LaneReady s c { reads := [(a.toNat, 2)], writes := if link then [(0, 2)] else [] } →
    let at' := fun i => s.landing c.team ((c.view i).pair a.toNat) land
    let ws := fun (w : View) => if link = true then pairAt 0 ((w.t.pc + 4).signExtend 64) else []
    ((∀ i, i ∈ c.ms → at' i = .ok) →
      ∃ t, exec (mk a) s = .next t ∧ LaneDone s t c (fun w => vaddr (w.pair a.toNat)) ws fun _ => []) ∧
    ((∀ i, i ∈ c.ms → at' i = .ok ∨ at' i = .bad) → ∃ g, exec (mk a) s = .next ((s.putGroup c g).takeTraps c.team.id c.group.idx
        ((c.ms.filter fun i => at' i == .bad).map fun i =>
          { pos := i, info := { code := 0x04, tval := vaddr ((c.view i).pair a.toNat) }, epc := (c.group.thread i).pc })) ∧
      GroupDone c g fun i u =>
        (at' i = .ok → ThreadDone c.group.handler (c.group.thread i) u (vaddr ((c.view i).pair a.toNat)) (ws (c.view i)) []) ∧
        (at' i = .bad → u = c.group.thread i)) ∧
    ((∃ i, i ∈ c.ms ∧ at' i = .wait) → exec (mk a) s = .next s) ∧
    ∀ i sub, i ∈ c.ms → at' i = .violation sub → (∀ j, j ∈ c.ms → at' j ≠ .wait) → (∀ j, j ∈ c.ms → (∃ x, at' j = .violation x) → j = i) →
      exec (mk a) s = .next (s.breach c.team.id sub (vaddr ((c.view i).pair a.toNat))))

/-- R116, R130, R133: `nop`, `land` and `knop` only go on. R131, R143: `yield` and `kyield` go on at the next word and rotate their group. What a
yield at a full quantum counts is the model's choice (log 24). -/
def Obligations.NoEffectsAndYields : Prop :=
  (Computes .nop {} nextPc (fun _ => []) (fun _ => []) ∧ Computes .land {} nextPc (fun _ => []) (fun _ => []) ∧
  KComputes .knop {} nextK fun _ => []) ∧
  (∀ i, i = .yield ∨ i = .kyield → ∀ s c, s.path? = some c →
  (c.ready {} = true → ∃ t g, exec i s = .next t ∧ Alters s t c g ∧
    GroupDone c g (fun j u => ThreadDone c.group.handler (c.group.thread j) u ((c.group.thread j).pc + 4) [] []) ∧
    g.n = 0 ∧ (g.divided = false → g.favour = none) ∧
    (g.divided = true → g.favour = ({ c.group with threads := g.threads }.rotate c.lead).favour)) ∧
  (c.ready {} = false → exec i s = .next s))

/-- R143: a rotation starts at the favoured position, or at `s0` where there is no favour, and favours the first position after it, in cyclic order,
that holds a live thread that is not parked and not in the path there; the count restarts, and nothing else of the group changes. R143: an issue
counts, a full quantum of a divided group rotates it, and a group that is not divided holds no favour. The start of a rotation without a favour and
that a trapping issue counts are the model's choices (log 24). -/
def Obligations.IssuesCountAndRotate : Prop :=
  (∀ (g : Group) (s0 : Nat),
  let start := g.favour.getD s0
  let may (i : Nat) : Prop := (g.thread i).live = true ∧ (g.thread i).parked = false ∧ i ∉ g.members start
  (g.rotate s0).n = 0 ∧ { g.rotate s0 with n := g.n, favour := g.favour } = g ∧
  (∀ k, k < 32 → may ((start + 1 + k) % 32) → (∀ j, j < k → ¬ may ((start + 1 + j) % 32)) →
    (g.rotate s0).favour = some ((start + 1 + k) % 32)) ∧
  ((∀ k, k < 32 → ¬ may ((start + 1 + k) % 32)) → (g.rotate s0).favour = g.favour)) ∧
  (∀ (g : Group) (lead : Nat),
  (g.divided = false → (g.issued lead).n = g.n + 1 ∧ (g.issued lead).favour = none) ∧
  (g.divided = true → g.quantum.toNat ≠ 0 → g.quantum.toNat ≤ g.n + 1 →
    (g.issued lead).n = 0 ∧ (g.issued lead).favour = (g.rotate lead).favour) ∧
  (g.divided = true → (g.quantum.toNat = 0 ∨ g.n + 1 < g.quantum.toNat) →
    (g.issued lead).n = g.n + 1 ∧ (g.issued lead).favour = g.favour))

/-- R16, R17, R130, R133: `smov` and `ksr` read special, control and `k` registers: `sr.clock` latches `sr.clock.hi` for `smov` and nothing for `ksr`,
a read of `sr.wpN` takes the speculation entries, and an index that may not be read is an illegal instruction. -/
def Obligations.RegisterReads : Prop :=  (∀ d x s c (v : Nat → Word), LaneReady s c { writes := [(d.toNat, 1)] } → x.toNat ≠ 0x0C → x.toNat < 0x10 →
    (∀ i, s.special c i x.toNat = some (v i)) →
    ∃ t g, exec (.smovSr d x) s = .next t ∧ Alters s t c g ∧ GroupDone c g fun i u =>
      ThreadDone c.group.handler (c.group.thread i) u ((c.group.thread i).pc + 4) [(d.toNat, v i)] []) ∧
  (∀ d s c, LaneReady s c { writes := [(d.toNat, 1)] } → s.journalRoom c.team.core c.ms.length = true →
    ∃ t T g, exec (.smovSr d 0x0C) s = .next t ∧ t.team? c.team.id = some T ∧ T.group? c.group.idx = some g ∧ ∀ i, i ∈ c.ms →
      (g.thread i).readV (vIndex c.group.handler d.toNat) = BitVec.ofNat 32 (s.now c.team.core) ∧
      (g.thread i).clockHi = BitVec.ofNat 32 (s.now c.team.core / 2 ^ 32) ∧ (g.thread i).pc = (c.group.thread i).pc + 4) ∧
  (∀ d x s c, LaneReady s c { writes := [(d.toNat, 1)] } → 0x10 ≤ x.toNat → x.toNat < 0x18 →
    ∃ t T g, exec (.smovSr d x) s = .next t ∧ t.team? c.team.id = some T ∧ T.group? c.group.idx = some g ∧ ∀ i, i ∈ c.ms →
      (g.thread i).readV (vIndex c.group.handler d.toNat) = (c.team.writePointer (x.toNat - 0x10)).setWidth 32 ∧
      (g.thread i).spec = [] ∧ (g.thread i).pc = (c.group.thread i).pc + 4) ∧
  (∀ d x s c, s.path? = some c → 0x18 ≤ x.toNat → exec (.smovSr d x) s = .next (s.trapPath c { code := 0x01 })) ∧
  (∀ d x s c (v : Nat → Word), LaneReady s c { writes := [(d.toNat, 1)] } →
    (∀ i, controlReg c.team c.group (c.group.thread i) x.toNat = some (v i)) →
    ∃ t g, exec (.smovCr d x) s = .next t ∧ Alters s t c g ∧ GroupDone c g fun i u =>
      ThreadDone c.group.handler (c.group.thread i) u ((c.group.thread i).pc + 4) [(d.toNat, v i)] []) ∧
  (∀ d x s c, s.path? = some c → x.toNat ≠ 0x00 → c.group.handler = false →
    exec (.smovCr d x) s = .next (s.trapPath c { code := 0x01 })) ∧
  (∀ d x s c, LaneReady s c { writes := [(d.toNat, 1)], kReads := [x.toNat] } →
    ∃ t g, exec (.smovK d x) s = .next t ∧ Alters s t c g ∧ GroupDone c g fun i u =>
      ThreadDone c.group.handler (c.group.thread i) u ((c.group.thread i).pc + 4) [(d.toNat, c.group.kv x.toNat)] []) ∧
  (∀ d x s c v, KReady s c { writes := [(d.toNat, 1)] } → x.toNat ∉ [0x00, 0x01, 0x04, 0x0C, 0x0D] → x.toNat < 0x10 →
    s.special c c.lead x.toNat = some v → ∃ t, exec (.ksr d x) s = .next t ∧ KDone s t c nextK fun _ => [(d.toNat, v)]) ∧
  (∀ d x s c, KReady s c { writes := [(d.toNat, 1)] } → c.ms.head? = some c.lead → c.lead < c.group.threads.length → 0x10 ≤ x.toNat → x.toNat < 0x18 →
    ∃ t g, exec (.ksr d x) s = .next t ∧ Alters s t c g ∧ (g.thread c.lead).spec = [] ∧
      (∀ j, g.readK j = newK c.group.handler [(d.toNat, (c.team.writePointer (x.toNat - 0x10)).setWidth 32)] c.group j) ∧
      (∀ i, i ∉ c.ms → g.thread i = c.group.thread i) ∧ ∀ i, i ∈ c.ms → (g.thread i).pc = (c.group.thread i).pc + 4 ∧
        (i ≠ c.lead → ThreadDone c.group.handler (c.group.thread i) (g.thread i) ((c.group.thread i).pc + 4) [] [])) ∧
  (∀ d s c, KReady s c { writes := [(d.toNat, 1)] } → s.journalRoom c.team.core 1 = true → let clock := BitVec.ofNat 32 (s.now c.team.core)
    ∃ t, exec (.ksr d 0x0C) s = .next t ∧ KDone { s with cores := t.cores } t c nextK (fun _ => [(d.toNat, clock)]) ∧
      ∀ k, t.core k = if k = c.team.core then { s.core k with journal := (s.now k, clock) :: (s.core k).journal } else s.core k) ∧
  ∀ d x s c, s.path? = some c → (x.toNat ∈ [0x00, 0x01, 0x04, 0x0D] ∨ 0x18 ≤ x.toNat) →
    exec (.ksr d x) s = .next (s.trapPath c { code := 0x01 })

/-- R135, R335: `sset` of a `k` register writes the value of the active thread of the highest position; `sset` of a control register gives each thread
its own value in a register of the thread and the group or the team that of the highest active thread; the registers that are read-only ignore it, and
one that may not be reached is an illegal instruction. That a write to a read-only register is ignored without a trap is the model's reading (log 22).
-/
def Obligations.RegisterWrites : Prop :=  (∀ a x s c, LaneReady s c { reads := [(a.toNat, 1)], kWrites := [x.toNat] } →
    ∃ t, exec (.ssetK a x) s = .next t ∧ KDone s t c nextK fun _ => [(x.toNat, (c.view (c.ms.getLast?.getD c.lead)).v a.toNat)]) ∧
  (∀ a x s c, s.path? = some c → x.toNat ≠ 0x00 → c.group.handler = false →
    exec (.ssetCr a x) s = .next (s.trapPath c { code := 0x01 })) ∧
  ∀ a x s c, LaneReady s c { reads := [(a.toNat, 1)] } →
  (∃ w, controlReg c.team c.group (c.group.thread c.lead) x.toNat = some w) →
  let high := (c.view (c.ms.getLast?.getD c.lead)).v a.toNat
  ∃ t T g, exec (.ssetCr a x) s = .next t ∧ OnlyTeam s t c.team.id T ∧ T.group? c.group.idx = some g ∧
    (∀ j, j ≠ c.group.idx → T.group? j = c.team.group? j) ∧
    (∀ i, i ∉ c.ms → g.thread i = c.group.thread i) ∧ (∀ i, i ∈ c.ms → (g.thread i).pc = (c.group.thread i).pc + 4) ∧
    (x.toNat = 0x00 → g.quantum = high.setWidth 16 ∧ g.n = 0) ∧ (x.toNat ≠ 0x00 → g.quantum = c.group.quantum) ∧
    (x.toNat = 0x02 → ∀ i, i ∈ c.ms → (g.thread i).epc.toNat =
      (c.group.thread i).epc.toNat / 2 ^ 32 * 2 ^ 32 + ((c.view i).v a.toNat).toNat / 4 * 4) ∧
    (x.toNat = 0x03 → ∀ i, i ∈ c.ms → (g.thread i).epc.toNat =
      ((c.view i).v a.toNat).toNat % 2 ^ 24 * 2 ^ 32 + (c.group.thread i).epc.toNat % 2 ^ 32) ∧
    (x.toNat = 0x20 → g.cfl.toNat = c.group.cfl.toNat / 2 ^ 32 * 2 ^ 32 + high.toNat / 16 * 16) ∧
    (x.toNat = 0x28 → T.log.ptr.toNat = c.team.log.ptr.toNat / 2 ^ 32 * 2 ^ 32 + high.toNat / 16 * 16) ∧
    (x.toNat = 0x2A → T.log.lim.toNat = c.team.log.lim.toNat / 2 ^ 32 * 2 ^ 32 + high.toNat / 16 * 16) ∧
    (x.toNat = 0x09 → T.tpc.toNat = c.team.tpc.toNat / 2 ^ 32 * 2 ^ 32 + high.toNat / 4 * 4) ∧
    ∀ y, y ∈ [0x04, 0x05, 0x06, 0x07, 0x08, 0x2C] → x.toNat = y → { T with groups := c.team.groups } = c.team ∧ ∀ i, i ∈ c.ms →
      (g.thread i).cause = (c.group.thread i).cause ∧ (g.thread i).tval = (c.group.thread i).tval ∧ g.fmask = c.group.fmask

/-- R134, R146, R332, R334: `trap n` and a word that is no instruction are precise for every active thread. With a handler and nothing left to drain,
the group enters it at once: the trapping threads' cause, faulting address and resume address are written and the fault mask names them, every thread
of the group that is not blocked runs from the handler's address, and the reuse latch of the team is emptied. Without a handler the team ends with the
cause, and a trap in handler mode ends it with cause 0x12 (R331, R337). `trap n` is an instruction that has issued (R143), a word that is none has no
other effect (R42). That a drained group enters its handler in the same step, and which traps count as issues, are the model's reading (logs 10 and
24). -/
def Obligations.PreciseTrapsEnterHandler : Prop := ∀ i code detail off,
  ((∃ n : BitVec 7, i = .trap n ∧ code = 0x0D ∧ detail = n.toNat ∧ off = 4) ∨
    (∃ w : Word, i = .illegalInstructionWord w ∧ w.toNat / 2 ^ 25 < 0x70 ∧ code = 0x01 ∧ detail = 0 ∧ off = 0) ∨
    ∃ w : Word, i = .illegalInstructionWord w ∧ 0x70 ≤ w.toNat / 2 ^ 25 ∧ code = 0x09 ∧ detail = 0 ∧ off = 0) →
  ∀ s c, s.path? = some c → c.ready {} = true →
    let vec := (s.port c.team.asid).trapVec
    let u := if off = 4 then s.putGroup c (c.group.issued c.lead) else s
    (c.group.handler = true → exec i s = .next (u.endTeam c.team.id 0x12 0 0)) ∧
    (c.group.handler = false → vec = 0 → exec i s = .next (u.endTeam c.team.id code 0 0)) ∧
    (c.group.handler = false → vec ≠ 0 → c.group.drained = true → ∃ t T g, exec i s = .next t ∧
      { t with teams := s.teams, cores := s.cores } = s ∧
      t.core c.team.core = { s.core c.team.core with latch := (s.core c.team.core).latch.filter fun l => l.1 != c.team.id } ∧
      (∀ j, j ≠ c.team.core → t.core j = s.core j) ∧
      t.team? c.team.id = some T ∧ (∀ j, j ≠ c.team.id → t.team? j = s.team? j) ∧ OnlyGroup c.team T c.group.idx g ∧
      g.handler = true ∧ g.teamHandler = false ∧
      (∀ j, j < 32 → g.fmask.getLsbD j = (decide (j ∈ c.ms) || c.group.fmask.getLsbD j)) ∧
      (∀ j, j ∈ c.ms → g.thread j = { c.group.thread j with
        cause := BitVec.ofNat 32 (detail * 2 ^ 16 + code), tval := 0, epc := (c.group.thread j).pc + off, stall := [], kstall := [],
        pc := vec, resume := some (c.group.thread j).pc, held := .parked, status := .running }) ∧
      (∀ j w, j ∉ c.ms → w = { c.group.thread j with stall := [], kstall := [] } → match w.status with
        | .absent => g.thread j = w
        | .exited => g.thread j = w
        | .blocked _ => g.thread j = { w with resume := none }
        | .running => g.thread j = { w with held := .running, resume := some w.pc, pc := vec }
        | .parked => g.thread j = { w with status := .running, held := .parked, resume := some w.pc, pc := vec }))

/-- R136, R332, R336: `eret` leaves handler mode for the whole group: a faulted thread goes on at its `cr.epc`, any other where it stopped; a team
handler's return also resumes the team. Outside handler mode it is an illegal instruction. R29, R132: `exit` ends the path's threads once their
results are available and the other members can be told; a group all of whose threads have exited and that has no child retires (R163). It waits while
a result is outstanding. What a team handler's eret does to other paths' handlers is the model's choice (log 50). -/
def Obligations.EretAndExit : Prop :=
  (∀ s c, s.path? = some c →
  (c.group.handler = false → exec .eret s = .next (s.trapPath c { code := 0x01 })) ∧
  (c.group.handler = true → c.ready {} = true → ∃ t T g, exec .eret s = .next t ∧
    { t with teams := s.teams } = s ∧ (∀ j, j ≠ c.team.id → t.team? j = s.team? j) ∧ t.team? c.team.id = some T ∧
    T.group? c.group.idx = some g ∧ g.handler = false ∧ g.teamHandler = false ∧ g.fmask = 0 ∧
    (∀ j u, u = c.group.thread j → u.running = true ∨ u.parked = true →
      (g.thread j).running = true ∧ (g.thread j).cause = 0 ∧ (g.thread j).v = u.v ∧ (g.thread j).p = u.p ∧
      (c.group.fmask.getLsbD j = true → (g.thread j).pc = u.epc) ∧
      (c.group.fmask.getLsbD j = false → (g.thread j).pc = u.resume.getD u.pc)) ∧
    (c.group.teamHandler = true → T.tcause = 0 ∧ (∀ h, h ∈ T.groups → h.stopped = false) ∧
      ∀ k, c.team.cooper = some k → T.cooper = some { k with trapped := false, cpc := c.team.tpc }))) ∧
  (∀ s c, s.path? = some c →
  ((∀ i, i ∈ c.ms → (c.group.thread i).out = []) → (s.peers c.team).length ≤ s.room c.team.core →
    ∃ t T g, exec .exit s = .next t ∧ t.team? c.team.id = some T ∧ T.group? c.group.idx = some g ∧ t.mem = s.mem ∧
      (∀ i, i ∈ c.ms → (g.thread i).status = .exited ∧ (g.thread i).spec = [] ∧ (g.thread i).v = (c.group.thread i).v) ∧
      ((∀ i, (c.group.thread i).live = true → i ∈ c.ms) → c.group.children = 0 → g.retired = true) ∧
      (t.core c.team.core).buffer.length = (s.core c.team.core).buffer.length + (s.peers c.team).length) ∧
  ((∃ i, i ∈ c.ms ∧ (c.group.thread i).out ≠ []) → exec .exit s = .next s))

/-- R39 to R41: words written out from the encoding tables decode to the instructions they stand for. -/
def Obligations.WordsDecodeAsWritten : Prop :=  decodeWords [0x021C1033] = .ok (.iaddSatN32 7 2 3, []) ∧ decodeWords [0x0C0C0822] = .ok (.icmpLtI32 3 1 2, []) ∧
  decodeWords [0x1E042CFF] = .ok (.icmpi 1 5 .geN 0x7F, []) ∧ decodeWords [0x9C492043] = .ok (.kshriI32 9 9 3, []) ∧
  decodeWords [0x22141840] = .ok (.faddF32 .rz 5 3 4, []) ∧ decodeWords [0x34203105] = .ok (.sinF32 8 6 2, []) ∧
  decodeWords [0x48243957] = .ok (.atomMaxN32 9 3 2 .dev .acq, []) ∧ decodeWords [0x5000005C] = .ok (.fence .dev .sc, []) ∧
  decodeWords [0xE0401421] = .ok (.tstBf16Rn 2 10 true, []) ∧ decodeWords [0xE8000080, 7, 8, 9, 10] = .ok (.dtask 4 [7, 8, 9, 10], []) ∧
  decodeWords [0x181020A7] = .error .illegal ∧ decodeWords [0x3420310A] = .error .illegal

/-- R30 to R41: the decoder gives back every instruction that has an encoding, whatever its operands, and leaves the words after it. -/
def Obligations.DecodeInvertsEncode : Prop := ∀ i ws rest, i.wf = true → encode i = some ws → decodeWords (ws ++ rest) = .ok (i, rest)

/-- R22, R42, R142, R186, R277: in the turn of the paths, when nothing is timed and nothing comes from outside, the step runs the decoded instruction
of the first path offered, fills the side's other slots with what is offered after it, makes that path's group the current one of its side, and counts
the cycle; a word of the tile stream or one that decodes to nothing is an illegal instruction. In the turn of the Coopers it runs the decoded
instruction of the first team's Cooper, with its extension words: an instruction of the tensor core where that Cooper's instance is the one the tensor
core serves next, any other always (R289). A core that a full `lp_submit` stalls issues nothing (R173). The turns, that one action is one step, and
the cycle counter are the model's choices (logs 2 and 3). -/
def Obligations.StepRunsDecodedInstruction : Prop :=  (∀ (s s' u v : State) (core side : Nat) (r : List (Nat × Nat)) (t : Team) (g : Group) (o : Offer) (more : List Offer) (w : Word) (i : Instr)
      (k : Slots),
    firstOf s s.timedActions = none → s.regWrites = [] → s.inputs = [] → s.turn % 10 = 0 →
    turned (s.turn / 10) s.sides = (core, side) :: r → s.coreStalled core = false → s.sideOffers core side = o :: more →
    s.team? o.team = some t → t.group? o.group = some g → s.fetchWord t (g.thread o.lead).pc = .ok w s' →
    (isTileWord w = false ∧ decodeWords [w] = .ok (i, []) ∨
      (isTileWord w = true ∨ ∃ e, decodeWords [w] = .error e) ∧ i = .illegalInstructionWord w) →
    let run := exec i { s' with actor := .path o.team o.group o.lead }
    (run = .next u → hasIssued s u o.team o.group = true → State.fillSlots runWords more (Slots.fill {} w o) u = (.next v, k) →
      step s = .next (State.endStep s (v.mapCore core fun c => { c with current := SMap.put c.current side (o.team, o.group) })).tick) ∧
    (run = .next u → hasIssued s u o.team o.group = true → more = [] →
      step s = .next (State.endStep s (u.mapCore core fun c => { c with current := SMap.put c.current side (o.team, o.group) })).tick) ∧
    (∀ f, run = .fault f → step s = .fault f) ∧ ∀ x, run = .refused x → x ≠ .noIssuer → step s = .refused x) ∧
  ∀ (s s' s'' u : State) (t : Team) (r : List Team) (k : Cooper) (w : Word) (ext rest : List Word) (i : Instr),
    firstOf s s.timedActions = none → s.regWrites = [] → s.inputs = [] → s.turn % 10 = 1 →
    turned (s.turn / 10) s.teams = t :: r → s.team? t.id = some t → t.cooper = some k → k.trapped = false → k.wait ≠ .stopped →
    s.cooperHeld t = false → s.coreStalled t.core = false → s.fetchWord t k.cpc = .ok w s' → isTileWord w = true →
    s'.fetchWords' t (extWords w) (k.cpc + 4) [] = .ok (ext, s'') →
    (decodeWords (w :: ext) = .ok (i, rest) ∨ (∃ e, decodeWords (w :: ext) = .error e) ∧ i = .illegalInstructionWord w) →
    exec i { s'' with actor := .cooper t.id } = .next u →
    (u.team? t.id).map (·.tensorSpent) = some t.tensorSpent ∨ (s.tensorOrder t.core).head? = some t.id →
      step s = .next (State.endStep s u).tick

/-- R143: after every step nobody is issuing, and a group that is not divided holds no favour. The mark of who is issuing belongs to the model (log
2). -/
def Obligations.StepLeavesMachineCalm : Prop := ∀ s t, s.calm → step s = .next t → t.calm

/-- The machine right after reset is calm. -/
def Obligations.ResetIsCalm : Prop := State.reset.calm

/-- R172, R324, R339, R362, R379, R400, R403, R404: the reset values the register tables give. The memory, the teams and the link table listed as
empty are the model's representation (logs 1 and 20). -/
def Obligations.ResetValuesOfRegisters : Prop :=  (∀ d, d < 24 → let x := State.reset.die d
    x.state = 0 ∧ x.cause = 0 ∧ x.rebuilt = false ∧ x.unmirrored = false ∧ x.kill = false ∧ x.capW = 600) ∧
  (∀ a, let p := State.reset.port a
    p.lastAddr = 0 ∧ p.lastSeq = 0 ∧ p.accepted = 0 ∧ p.queue = [] ∧ p.refused = false ∧ p.reason = 0 ∧ p.refusedSeq = 0 ∧ p.trapVec = 0 ∧
      p.pstate = 0 ∧ p.stride = 0 ∧ p.preemptSeq = 0 ∧ p.saveBase = 0 ∧ p.resumeSeq = 0 ∧ p.vintOn = false ∧ p.vintBase = 0 ∧
      p.end0 = 0 ∧ p.end1 = 0 ∧ p.root = 0) ∧
  (∀ c, let k := State.reset.core c
    k.rollbacks = 0 ∧ k.mismatches = 0 ∧ k.strikes = 0 ∧ k.remoteDrops = 0 ∧ k.lookMisses = 0 ∧ k.pipelineError = false ∧
      k.fenced = false ∧ k.origin = .instr 0 ∧ k.originAt = 0 ∧ k.originSet = false) ∧
  State.reset.mgmt.ttEnable = 0xF ∧ State.reset.mgmt.ttPolicy = 0 ∧ State.reset.mgmt.ttLock = false ∧ State.reset.mgmt.tripped = 0 ∧
  State.reset.mgmt.fabricNum = 0 ∧ State.reset.mgmt.hkLock = false ∧ State.reset.mgVa = 0 ∧ State.reset.mgDst = 0 ∧
  State.reset.mgAsid = 0 ∧ State.reset.mgStatus = 0 ∧ State.reset.mem = [] ∧ State.reset.teams = [] ∧ State.reset.links = []

/-- R25, R109, R188: an SFU instruction leaves each active thread with its result outstanding and the thread at the next word, and the team pays four
tokens; without room for a result or without tokens it waits. That the value is computed at issue in fixed point is log 5. -/
def Obligations.SfuInstructionsAskForResults : Prop := ∀ mk f,
  (mk, f) ∈ [(Instr.rcpF32, sfuRcp), (.rsqrtF32, sfuRsqrt), (.sqrtF32, sfuSqrt), (.exp2F32, sfuExp2), (.log2F32, sfuLog2), (.sinF32, sfuSin),
    (.cosF32, sfuCos), (.sinpiF32, sfuSinpi), (.cospiF32, sfuCospi), (.tanhF32, sfuTanh)] →
  ∀ d a l s c, LaneReady s c { reads := [(a.toNat, 1)], writes := [(d.toNat, 1)] } →
    (c.roomForOut = true → c.team.sfuMay = true → ∃ t g, exec (mk d a l) s = .next t ∧ Pays s t c 4 g ∧ GroupDone c g fun i u =>
      AsksFor (c.group.thread i) u 
        { dst := [vIndex c.group.handler d.toNat], look := l.toNat, kind := .ready [BitVec.ofNat 32 (f ((c.view i).v a.toNat).toNat)] }) ∧
    ((c.roomForOut = false ∨ c.team.sfuMay = false) → exec (mk d a l) s = .next s)

/-- R110: the special values of the SFU. -/
def Obligations.SfuSpecialValues : Prop :=  let nan := 0x7FC00000; let pinf := 0x7F800000; let ninf := 0xFF800000; let nzero := 0x80000000; let one := 0x3F800000
  (∀ f, f ∈ [sfuRcp, sfuRsqrt, sfuSqrt, sfuExp2, sfuLog2, sfuSin, sfuCos, sfuSinpi, sfuCospi, sfuTanh] →
    ∀ a, a < 2 ^ 32 → pinf < a % 2 ^ 31 → f a = nan) ∧
  (sfuRcp ninf = nzero ∧ sfuRcp pinf = 0 ∧ sfuRcp nzero = ninf ∧ sfuRcp 0 = pinf ∧
    ∀ a, 0 < a → a < 2 ^ 21 → sfuRcp a = pinf ∧ sfuRcp (2 ^ 31 + a) = ninf) ∧
  (sfuRsqrt pinf = 0 ∧ sfuRsqrt nzero = ninf ∧ sfuRsqrt 0 = pinf ∧ sfuSqrt pinf = pinf ∧ sfuSqrt nzero = nzero ∧ sfuSqrt 0 = 0 ∧
    sfuLog2 pinf = pinf ∧ sfuLog2 nzero = ninf ∧ sfuLog2 0 = ninf ∧ sfuLog2 one = 0 ∧
    ∀ a, nzero < a → a ≤ ninf → sfuRsqrt a = nan ∧ sfuSqrt a = nan ∧ sfuLog2 a = nan) ∧
  (sfuExp2 ninf = 0 ∧ sfuExp2 pinf = pinf ∧ sfuExp2 nzero = one ∧ sfuExp2 0 = one ∧
    (∀ a, 0x43000000 ≤ a → a ≤ pinf → sfuExp2 a = pinf) ∧
    ∀ a neg m e n, Fmt.f32.decode a = .fin neg m e → 0 < m → m * 2 ^ e.toNat = n * 2 ^ (-e).toNat →
      (neg = false → n ≤ 127 → sfuExp2 a = (n + 127) * 2 ^ 23) ∧ (neg = true → n ≤ 126 → sfuExp2 a = (127 - n) * 2 ^ 23) ∧
      (neg = true → 127 ≤ n → n ≤ 149 → sfuExp2 a = 2 ^ (149 - n))) ∧
  (∀ f, f ∈ [sfuSin, sfuSinpi] → f pinf = nan ∧ f ninf = nan) ∧ (∀ f, f ∈ [sfuCos, sfuCospi] → f pinf = nan ∧ f ninf = nan ∧ f 0 = one) ∧
  sfuTanh ninf = 0xBF800000 ∧ sfuTanh pinf = one ∧
  (∀ f, f ∈ [sfuSin, sfuSinpi, sfuTanh] → f 0 = 0 ∧ ∀ a, a < pinf → f (2 ^ 31 + a) = if 2 ^ 31 ≤ f a then f a - 2 ^ 31 else f a + 2 ^ 31) ∧
  (∀ f, f ∈ [sfuCos, sfuCospi] → ∀ a, a < pinf → f (2 ^ 31 + a) = f a) ∧
  ∀ a, a ≤ pinf → sfuTanh a ≤ one

/-- R25, R26, R122, R125, R350, R356, R332: a result that is available is written to its registers and is outstanding no more; one that came from
outside the core enters the journal, which has room for it; that of a group's uniform instruction closes the windows it opened. A poisoned one kills
the gang, and a handler that waited for nothing but this result is entered. When a poisoned result counts as consumed is the model's choice (log 33).
-/
def Obligations.ResultsAreWritten : Prop := ∀ (s : State) (t : Team) (g : Group) (pos : Nat) (o : OutRes), s.team? t.id = some t → t.group? g.idx = some g →
  (if pos < 32 then (g.thread pos).out else g.kout).find? (fun o => o.due && (!o.ext || s.journalRoom t.core o.vals.length)) = some o →
  (∀ va, o.kind = .poisoned va → exec (.longLatencyResult t.id g.idx pos) s = .next (s.killGangOf t.id 0x11 va)) ∧
  ∀ vs : List Word, o.kind = .ready vs →
    let enters := g.pending ≠ .none ∧
      (pos < 32 → g.kout = [] ∧ (g.thread pos).out = [o] ∧ ∀ i, i ≠ pos → (g.thread i).out = []) ∧
      (32 ≤ pos → g.kout = [o] ∧ ∀ i x, x ∈ (g.thread i).out → x.kind = .uniform o.tag)
    ∃ u T h, exec (.longLatencyResult t.id g.idx pos) s = .next u ∧ { u with teams := s.teams, cores := s.cores } = s ∧
      (∀ k, u.core k = if o.ext = true ∧ k = t.core then
        { s.core k with journal := (vs.map fun w => (s.now k, w)).reverse ++ (s.core k).journal } else s.core k) ∧
      u.team? t.id = some T ∧ (∀ j, j ≠ t.id → u.team? j = s.team? j) ∧ OnlyGroup t T g.idx h ∧
      (pos < 32 → h.kout = g.kout ∧ h.k = g.k ∧ h.hk = g.hk ∧ h.kpoison = g.kpoison ∧
        (∀ i j, i ≠ pos → (h.thread i).readV j = (g.thread i).readV j) ∧
        (pos < g.threads.length → (h.thread pos).out = (g.thread pos).out.erase o ∧ (h.thread pos).spec = (g.thread pos).spec ∧
          (∀ j, j ∉ o.dst → (h.thread pos).readV j = (g.thread pos).readV j) ∧
          (o.dst.Nodup → o.dst.length = vs.length → ∀ (k j : Nat) (x : Word), o.dst[k]? = some j → vs[k]? = some x → (h.thread pos).readV j = x))) ∧
      (32 ≤ pos → h.kout = g.kout.erase o ∧ (∀ j, j ∉ o.dst → h.readK j = g.readK j) ∧
        (o.dst.Nodup → o.dst.length = vs.length → ∀ (k j : Nat) (x : Word), o.dst[k]? = some j → j ≠ 0 → vs[k]? = some x → h.readK j = x) ∧
        ∀ i, (h.thread i).out = (g.thread i).out.filter fun x => x.kind != .uniform o.tag) ∧
      (¬ enters → { h with threads := g.threads, k := g.k, hk := g.hk, kout := g.kout, kpoison := g.kpoison } = g ∧
        (pos < 32 → (h.thread pos).pc = (g.thread pos).pc ∧ ∀ i, i ≠ pos → h.thread i = g.thread i) ∧
        (32 ≤ pos → ∀ i, h.thread i = { g.thread i with out := (h.thread i).out })) ∧
      (enters → h.handler = true ∧ h.pending = .none ∧ h.teamHandler = decide (g.pending = .team) ∧
        ∀ i, (g.thread i).status = .running ∨ (g.thread i).status = .parked →
          (h.thread i).status = .running ∧ (h.thread i).pc = (s.port t.asid).trapVec ∧ (h.thread i).resume = some (g.thread i).pc)

/-- R118, R119, R25: a load that may be made leaves each active thread at the next word with its result outstanding, whose source is what the L1
gives: the value, or the line it is asked for; the state is otherwise as filling the lines leaves it. R118, R119, R346: a store that may be made, with
room in the settling buffer, puts its bytes into the L1, one entry for each line it writes, in ascending thread order, and leaves each active thread
at the next word; without room it waits, and lines of private pages out of reach are asked for. How a line is filled and written back, and that a
store's overlap with a speculation entry is judged by virtual bytes, are the model's choices (logs 6 and 56). -/
def Obligations.LoadsAskAndStoresSettle : Prop :=
  (∀ mk n span signed,
  (mk, n, span, signed) ∈ [(Instr.ldN8, 1, 1, false), (.ldI8, 1, 1, true), (.ldN16, 2, 1, false), (.ldI16, 2, 1, true), (.ldB32, 4, 1, false),
    (.ldB64, 8, 2, false), (.ldB128, 16, 4, false)] →
  ∀ t a l sc o (s s' : State) (c : Ctx) at' ks,
    AccessReady s c { reads := [(a.toNat, 2)], writes := [(t.toNat, span)] } a.toNat n false true o sc at' →
    (s.kept c at').startLoads c n signed (spotsAt c a.toNat at') = some (s', ks) →
    ks.map (·.1) = c.ms ∧ exec (mk t a l sc o) s = .next (s'.afterIssue c fun i u =>
      ({ u with spec := if MemOrder.acquires o = true then [] else u.spec.filter fun e =>
          !overlaps e.addr.toNat (e.addr.toNat + e.bytes) (vaddr ((c.view i).pair a.toNat)).toNat ((vaddr ((c.view i).pair a.toNat)).toNat + n) } : Thread).ask
        { dst := operandIdx c.group.handler (t.toNat, span), look := l.toNat, acquire := MemOrder.acquires o, ext := true, kind := kindAt ks i })) ∧
  (∀ mk n span,
  (mk, n, span) ∈ [(Instr.stB8, 1, 1), (.stB16, 2, 1), (.stB32, 4, 1), (.stB64, 8, 2), (.stB128, 16, 4)] →
  ∀ t a sc o (s s' : State) (c : Ctx) at',
    AccessReady s c { reads := [(a.toNat, 2), (t.toNat, span)] } a.toNat n true false o sc at' →
    let bs := storeWrites n (fun i => (c.view i).words t.toNat span) (spotsAt c a.toNat at')
    (linesOf bs ≤ s.room c.team.core → (s.kept c at').storeLines c.team.core c.team.id c.group.slotKey bs = some s' →
      exec (mk t a sc o) s = .next (s'.afterIssue c fun i u => Thread.next (Thread.tick
        { u with spec := if (o == .sc) = true then [] else u.spec.filter fun e =>
            !overlaps e.addr.toNat (e.addr.toNat + e.bytes) (vaddr ((c.view i).pair a.toNat)).toNat ((vaddr ((c.view i).pair a.toNat)).toNat + n) }))) ∧
    (s.room c.team.core < linesOf bs → exec (mk t a sc o) s = .next (s.askSpots (spotsAt c a.toNat at'))))

/-- R118, R209: a load's value is the bytes its core sees, little-endian, zero- or sign-extended; nothing the core sees changes. R118, R209, R347:
after a store the core sees the bytes stored, the last write of each address, and every other byte as before, wherever the lines are in the L1 or
there is room for them, each line is written through pages of one attribute, and no word of it is left over from a page of another attribute. That the
core's own newest bytes are seen before they settle is one execution of the memory model (log 15). -/
def Obligations.LoadsSeeStoredBytes : Prop :=
  (∀ (s s' : State) core slot attr pa n signed va (k : OutKind),
  isDevice pa = false → n ∈ [1, 2, 4, 8, 16] → pa % n = 0 → s.startLoad core slot attr pa n signed va = some (s', k) →
  (∀ vs, k = .ready vs → (∀ i, i < n → BitVec.ofNat 8 ((vs.getD (i / 4) 0).toNat / 256 ^ (i % 4)) = s'.seesByte core (pa + i)) ∧
    (n < 4 → signed = false → (vs.getD 0 0).toNat < 256 ^ n) ∧
    (n < 4 → signed = true → -(256 ^ n / 2 : Int) ≤ (vs.getD 0 0).toInt ∧ (vs.getD 0 0).toInt < (256 ^ n / 2 : Int))) ∧
  (((s.core core).l1.line? (pa / 128)).isSome = true ∨ (s.core core).l1.length < Config.l1Lines →
    ∀ a, isDevice a = false → s'.seesByte core a = s.seesByte core a)) ∧
  (∀ (s s' : State) core team slot (bs : List (Nat × Nat × Byte)),
  (∀ b, b ∈ bs → isDevice b.2.1 = false ∧ (∀ b', b' ∈ bs → b'.2.1 / 128 = b.2.1 / 128 → b'.1 = b.1) ∧
    let x := (s.core core).cell (b.2.1 / 128) (b.2.1 / 4 % 32)
    (isCoherent b.1 = false → x.pendMask = 0) ∧ (isCoherent b.1 = true → x.st = .i ∨ x.tracked = true) ∧
    (x.pendMask ≠ 0 → (x.tracked && x.owned && !x.shr) = false)) →
  ((∀ b, b ∈ bs → ((s.core core).l1.line? (b.2.1 / 128)).isSome = true) ∨ (s.core core).l1.length + linesOf bs ≤ Config.l1Lines) →
  s.storeLines core team slot bs = some s' →
  ∀ a, isDevice a = false → s'.seesByte core a = (lastWrite (bs.map (·.2)) a).getD (s.seesByte core a))

/-- R122: uniform loads and stores make one access for their path: a load leaves its result outstanding for the group, with the window open for every
thread of the path, and a store enters the settling buffer. That a store's overlap with a speculation entry is judged by virtual bytes is the model's
choice (log 56). -/
def Obligations.UniformAccessesActOnce : Prop :=  (∀ mk n span, (mk, n, span) ∈ [(Instr.kldB32, 4, 1), (.kldB64, 8, 2)] →
    ∀ t a l sc o (s s' : State) (c : Ctx) pa attr e k,
      KAccessReady s c { reads := [(a.toNat, 2)], writes := [(t.toNat, span)] } a.toNat n false true o sc pa attr e →
      (s.keep c.team.core none e).startLoad c.team.core c.group.slotKey attr pa n false (vaddr (c.group.kpair a.toNat)) = some (s', k) →
      exec (mk t a l sc o) s = .next (({ s' with fresh := s'.fresh + 1 } : State).mapGroup c.team.id c.group.idx fun g =>
        Group.issued { (g.mapAt c.ms fun _ u => (u.dropSpec (MemOrder.acquires o) (vaddr (c.group.kpair a.toNat)).toNat n).ask
            { dst := [], look := l.toNat, tag := s'.fresh, kind := .uniform s'.fresh }) with
          kout := g.kout ++ [{ dst := (List.range span).map fun j => kIndex c.group.handler (t.toNat + j), look := l.toNat,
                               acquire := MemOrder.acquires o, ext := true, tag := s'.fresh, kind := k }] } c.lead)) ∧
  ∀ mk n span, (mk, n, span) ∈ [(Instr.kstB32, 4, 1), (.kstB64, 8, 2)] →
    ∀ t a sc o (s s' : State) (c : Ctx) pa attr e,
      KAccessReady s c { reads := [(a.toNat, 2), (t.toNat, span)] } a.toNat n true false o sc pa attr e →
      let bs := (storeBytes pa n ((List.range span).map fun j => c.group.kv (t.toNat + j))).map fun b => (attr, b.1, b.2)
      linesOf bs ≤ s.room c.team.core →
      (s.keep c.team.core none e).storeLines c.team.core c.team.id c.group.slotKey bs = some s' →
      exec (mk t a sc o) s = .next (s'.afterIssue c fun _ u =>
        (u.dropSpec (o == .sc) (vaddr (c.group.kpair a.toNat)).toNat n).tick.next)

/-- R119, R215: the checks of an access, in their order: alignment (cause 0x03), canonical form and lease (lease violations 1 and 0), a valid and
permitting page (2 and 3), a store to a read-shared page (cause 0x05), a held range (cause 0x07). -/
def Obligations.AccessChecksInOrder : Prop := ∀ (s : State) (t : Team) lane ea n store,
  let need : Need := if store = true then .store else .load
  let va := vaddr ea
  (va.toNat % n ≠ 0 → s.checkAccess t lane ea n store = .trap { code := 0x03, tval := va }) ∧
  (va.toNat % n = 0 → canonical ea = false → s.checkAccess t lane ea n store = .violation 1 va) ∧
  (va.toNat % n = 0 → canonical ea = true → leaseCovers (s.leases t) va.toNat n need = false →
    s.checkAccess t lane ea n store = .violation 0 va) ∧
  (va.toNat % n = 0 → canonical ea = true → leaseCovers (s.leases t) va.toNat n need = true →
    (s.translate t.core lane t.asid va = .invalid → s.checkAccess t lane ea n store = .violation 2 va) ∧
    ∀ e, s.translate t.core lane t.asid va = .found e →
      (permits e.perm need = false → s.checkAccess t lane ea n store = .violation 3 va) ∧
      (permits e.perm need = true → store = true → e.attr = 1 → s.checkAccess t lane ea n store = .trap { code := 0x05, tval := va }) ∧
      (permits e.perm need = true → (store = false ∨ e.attr ≠ 1) → s.rangeLocked t.core false t.asid va.toNat n store = true →
        s.checkAccess t lane ea n store = .trap { code := 0x07, tval := va }) ∧
      (permits e.perm need = true → (store = false ∨ e.attr ≠ 1) → s.rangeLocked t.core false t.asid va.toNat n store = false →
        s.checkAccess t lane ea n store = .ok (e.pa + (va.toNat - e.va)) e.attr e))

/-- R214, R215: an atomic's new word and old values: each thread's operation in ascending order of threads, each seeing the word the one before left.
R214 to R216: an atomic that may be made, with room in the settling buffer, is performed, or asked of its home, once for each active thread or once
for the path, and leaves its old value outstanding. Where an atomic is performed, and that its overlap with a speculation entry is judged by virtual
bytes, follow logs 6, 8, 49 and 56. -/
def Obligations.AtomicsUpdateAndReturn : Prop :=
  ((∀ op m, atomAll op m [] = (m, [])) ∧
  (∀ op m x r, atomAll op m (x :: r) =
    ((atomAll op (atomNew op m x.1 x.2) r).1, m :: (atomAll op (atomNew op m x.1 x.2) r).2)) ∧
  ∀ m v e : Word,
    atomNew .add m v e = BitVec.ofNat 32 (m.toNat + v.toNat) ∧ atomNew .and m v e = m &&& v ∧ atomNew .or m v e = m ||| v ∧
    atomNew .xor m v e = m ^^^ v ∧ (atomNew .minI m v e).toInt = min m.toInt v.toInt ∧ (atomNew .maxI m v e).toInt = max m.toInt v.toInt ∧
    (atomNew .minN m v e).toNat = min m.toNat v.toNat ∧ (atomNew .maxN m v e).toNat = max m.toNat v.toNat ∧ atomNew .exch m v e = v ∧
    (m = v → atomNew .cas m v e = e) ∧ (m ≠ v → atomNew .cas m v e = m) ∧
    (atomNew .fadd m v e).toNat = roundTo .f32 .rn false (FVal.add .rn (f32 m) (f32 v)) ∧
    (atomNew .fadd2 m v e).toNat = roundTo .bf16 .rn false (FVal.add .rn (Fmt.bf16.decode (m.toNat / 2 ^ 16)) (Fmt.bf16.decode (v.toNat / 2 ^ 16))) * 2 ^ 16 +
      roundTo .bf16 .rn false (FVal.add .rn (Fmt.bf16.decode (m.toNat % 2 ^ 16)) (Fmt.bf16.decode (v.toNat % 2 ^ 16)))) ∧
  ((∀ mk op, (mk, op) ∈ [(Instr.atomAddI32, AtomOp.add), (.atomAndB32, .and), (.atomOrB32, .or), (.atomXorB32, .xor), (.atomMinI32, .minI),
      (.atomMaxI32, .maxI), (.atomMinN32, .minN), (.atomMaxN32, .maxN), (.atomExchB32, .exch), (.atomCasB32, .cas), (.atomFaddF32Rn, .fadd),
      (.atomFadd2Bf16Rn, .fadd2)] →
    ∀ t a l sc o (s s' : State) (c : Ctx) at' ks, let span := if op = .cas then 2 else 1
      AccessReady s c { reads := [(2 * a.toNat, 2), (t.toNat, span)], writes := [(t.toNat, 1)] } (2 * a.toNat) 4 true true o sc at' →
      (s.kept c at').atoms c.team.core c.team.id c.group.slotKey op
        ((spotsAt c (2 * a.toNat) at').map fun x => { spot := x, args := (c.view x.pos).words t.toNat span }) = some (s', ks) →
      exec (mk t a l sc o) s = .next (s'.afterIssue c fun i u =>
        (u.dropSpec (MemOrder.acquires o) (vaddr ((c.view i).pair (2 * a.toNat))).toNat 4).ask
          { dst := [vIndex c.group.handler t.toNat], look := l.toNat, acquire := MemOrder.acquires o, ext := true, kind := kindAt ks i })) ∧
  ∀ mk op, (mk, op) ∈ [(Instr.katomAddI32, AtomOp.add), (.katomAndB32, .and), (.katomOrB32, .or), (.katomXorB32, .xor), (.katomMinI32, .minI),
      (.katomMaxI32, .maxI), (.katomMinN32, .minN), (.katomMaxN32, .maxN), (.katomExchB32, .exch), (.katomCasB32, .cas),
      (.katomFaddF32Rn, .fadd)] →
    ∀ t a l sc o (s s' : State) (c : Ctx) pa attr e ks, let span := if op = .cas then 2 else 1
      KAccessReady s c { reads := [(a.toNat, 2), (t.toNat, span)], writes := [(t.toNat, 1)] } a.toNat 4 true true o sc pa attr e →
      (s.keep c.team.core none e).atoms c.team.core c.team.id c.group.slotKey op
        [{ spot := { pos := c.lead, va := vaddr (c.group.kpair a.toNat), pa := pa, attr := attr },
           args := (List.range span).map fun j => c.group.kv (t.toNat + j) }] = some (s', ks) →
      exec (mk t a l sc o) s = .next (({ s' with fresh := s'.fresh + 1 } : State).mapGroup c.team.id c.group.idx fun g =>
        Group.issued { (g.mapAt c.ms fun _ u => (u.dropSpec (MemOrder.acquires o) (vaddr (c.group.kpair a.toNat)).toNat 4).ask
            { dst := [], look := l.toNat, tag := s'.fresh, kind := .uniform s'.fresh }) with
          kout := g.kout ++ [{ dst := [kIndex c.group.handler t.toNat], look := l.toNat, acquire := MemOrder.acquires o, ext := true,
                               tag := s'.fresh, kind := kindAt ks c.lead }] } c.lead))

/-- R123, R348: scratchpad accesses. A load of the own scratchpad, and of another member's where nothing of the bytes is on its way, leaves its value
outstanding; a store writes the own scratchpad at once, or sends the bytes to the other member, one settling-buffer entry for each member and line of
128 bytes. That a load of bytes on their way waits is the model's choice (log 36). -/
def Obligations.ScratchpadAccesses : Prop :=  (∀ t a l w o (s : State) (c : Ctx) (T : Nat → Team) (own : Nat → Bool) (off : Nat → Nat), let n := LpWidth.bytes w; let span := LpWidth.span w
    LaneReady s c { reads := [(a.toNat, 1)], writes := [(t.toNat, span)] } → c.roomForOut = true → s.orderMay c o .clu false = true →
    (∀ i, i ∈ c.ms → s.checkScratch c.team ((c.view i).v a.toNat) n false = .at (some (T i).id) (own i) (off i) ∧
      s.team? (T i).id = some (T i) ∧ (T i).scratchBad (off i) n = false ∧
      (own i = false → s.scratchUnsettled (T i).id (off i) n = false ∧ s.remotePending c.team.core (T i).id (off i) n = false)) →
    exec (.lds t a l w o) s = .next (s.afterIssue c fun i u =>
      ({ u with spec := if MemOrder.acquires o = true then [] else u.spec } : Thread).ask
        { dst := operandIdx c.group.handler (t.toNat, span), look := l.toNat, acquire := MemOrder.acquires o, ext := !(own i),
          kind := .ready (loadValue (off i) n (LpWidth.signed w) ((accessWords (off i) n).map fun j => (T i).scratch.word (4 * j))) })) ∧
  (∀ t a w o (s : State) (c : Ctx) (m line : Nat) (own : Bool) (off : Nat → Nat), let n := LpWidth.bytes w; let span := LpWidth.span w
    LaneReady s c { reads := [(a.toNat, 1), (t.toNat, span)] } → s.orderMay c o .clu true = true →
    (∀ i, i ∈ c.ms → (if ((c.view i).v a.toNat).toNat / 2 ^ 28 = 15 then c.team.member else ((c.view i).v a.toNat).toNat / 2 ^ 28) = m ∧
      ∃ rcv, s.checkScratch c.team ((c.view i).v a.toNat) n true = .at rcv own (off i)) →
    (∀ i, i ∈ c.ms → off i / 128 = line) → 0 < s.room c.team.core →
    let bs := c.ms.flatMap fun i => storeBytes (off i) n ((c.view i).words t.toNat span)
    let upd := fun (_ : Nat) (u : Thread) => Thread.next (Thread.tick { u with spec := if (o == MemOrder.sc) = true then [] else u.spec })
    (m = c.team.member → exec (.sts t a w o) s = .next (((s.mapTeam c.team.id fun x => x.setScratch bs).produce c.team.core c.team.id
      (.own c.team.id (touchedWords bs))).afterIssue c upd)) ∧
    (m ≠ c.team.member → exec (.sts t a w o) s = .next ((s.produce c.team.core c.team.id
      (.remoteScratch (c.team.ref m) bs c.ms.length)).afterIssue c upd))) ∧
  ∀ (T : Team) bs x, T.scratch.wf = true → (T.setScratch bs).scratch.get x = (lastWrite bs x).getD (T.scratch.get x)

/-- R124, R126: `ld.spec` leaves its result outstanding and, where every check passes, an address-table entry, and a result of 0 and no entry where
one fails; `chk` frees the entry that serves it and goes on, and is a relaxed load where there is none. That `ld.spec` of a byte not yet delivered
writes 0, and that overlaps are judged by virtual bytes, are the model's choices (logs 56 and 59). -/
def Obligations.SpeculativeLoadsAndChecks : Prop :=  (∀ mk n span, (mk, n, span) ∈ [(Instr.ldSpecB32, 4, 1), (.ldSpecB64, 8, 2)] → ∀ t a l sc (s s' : State) (c : Ctx) ks,
    LaneReady s c { reads := [(a.toNat, 2)], writes := [(t.toNat, span)] } → c.roomForOut = true → s.throttleHolds c = false →
    s.orderMay c .rlx sc false = true →
    let xs := s.attempts c c.ms a.toNat n false
    let dst := operandIdx c.group.handler (t.toNat, span)
    s.someWait c n xs = false → (s.keepAll c xs).startLoads c n false (spotsOf xs) = some (s', ks) →
    exec (mk t a l sc) s = .next (s'.afterIssue c fun i u =>
      if ((spotsOf xs).any fun x => x.pos == i) = true then
        let va := vaddr ((c.view i).pair a.toNat)
        ((u.dropSpec false va.toNat n).ask { dst := dst, look := l.toNat, ext := true, kind := kindAt ks i }).addSpec
          { addr := va, bytes := n, reg := vIndex c.group.handler t.toNat }
      else u.ask { dst := dst, look := l.toNat, kind := .ready (List.replicate span 0) })) ∧
  (∀ t e, (Thread.addSpec t e).spec.length ≤ max 16 t.spec.length ∧ e ∈ (Thread.addSpec t e).spec ∧
    (t.spec.length < 16 → (Thread.addSpec t e).spec = t.spec ++ [e]) ∧ (t.spec.length = 16 → (Thread.addSpec t e).spec = t.spec.drop 1 ++ [e])) ∧
  ∀ mk n span, (mk, n, span) ∈ [(Instr.chkB32, 4, 1), (.chkB64, 8, 2)] → ∀ t a l sc (s s' : State) (c : Ctx),
    LaneReady s c { reads := [(a.toNat, 2)], writes := [(t.toNat, span)] } → c.roomForOut = true → s.throttleHolds c = false →
    s.orderMay c .rlx sc false = true →
    let hit := fun (i : Nat) (e : SpecEntry) => e.addr == vaddr ((c.view i).pair a.toNat) && e.bytes == n && e.reg == vIndex c.group.handler t.toNat
    ((∀ i, i ∈ c.ms → (c.group.thread i).spec.any (hit i) = true) → exec (mk t a l sc) s = .next (s.afterIssue c fun i u =>
      Thread.next (Thread.tick { u with spec := u.spec.filter fun e => !hit i e }))) ∧
    ∀ at' ks, (∀ i, i ∈ c.ms → (c.group.thread i).spec.any (hit i) = false) →
      AccessReady s c { reads := [(a.toNat, 2)], writes := [(t.toNat, span)] } a.toNat n false true .rlx sc at' →
      (s.kept c at').startLoads c n false (spotsAt c a.toNat at') = some (s', ks) →
      exec (mk t a l sc) s = .next (s'.afterIssue c fun i u =>
        (u.dropSpec false (vaddr ((c.view i).pair a.toNat)).toNat n).ask
          { dst := operandIdx c.group.handler (t.toNat, span), look := l.toNat, ext := true, kind := kindAt ks i })

/-- R149, R151, R152: the shuffles and swizzles, whose members are the path's. R149, R153, R155: votes and reductions over the members of a path. -/
def Obligations.ShufflesVotesAndReductions : Prop :=
  ((∀ d a b : BitVec 7, let r : Regs := { reads := [(d.toNat, 1), (a.toNat, 1), (b.toNat, 1)], writes := [(d.toNat, 1)] }
    let A := fun (c : Ctx) i => (c.view i).v a.toNat
    let B := fun (c : Ctx) i => (c.view i).v b.toNat
    Exchanges (.shflSel d a b) r d.toNat (fun c i => memberOr c (A c) ((B c i).toNat % 32) 0) ∧
    Exchanges (.shflStep d a b) r d.toNat (fun c i => let j := (i : Int) + ((B c i).setWidth 6).toInt
      if 0 ≤ j ∧ j ≤ 31 then memberOr c (A c) j.toNat 0 else 0) ∧
    Exchanges (.shflWrap d a b) r d.toNat (fun c i => A c (c.ms.getD ((c.ms.idxOf i + (B c i).toNat % 32) % c.ms.length) 0)) ∧
    Exchanges (.shflRank d a b) r d.toNat (fun c i => let k := (B c i).toNat % 32
      if k < c.ms.length then A c (c.ms.getD k 0) else 0)) ∧
  ∀ (d a : BitVec 7) (x : BitVec 5), let r : Regs := { reads := [(d.toNat, 1), (a.toNat, 1)], writes := [(d.toNat, 1)] }
    let A := fun (c : Ctx) i => (c.view i).v a.toNat
    Exchanges (.swzXor d a x) r d.toNat (fun c i => memberOr c (A c) (Nat.xor i x.toNat) (A c i)) ∧
    Exchanges (.swzBcast d a x) r d.toNat (fun c i => memberOr c (A c) x.toNat (A c i)) ∧
    Exchanges (.swzRot d a x) r d.toNat (fun c i => memberOr c (A c) ((i + x.toNat) % 32) (A c i))) ∧
  ((∀ (d : BitVec 7) (p : BitVec 3), let r : Regs := { reads := [(d.toNat, 1)], writes := [(d.toNat, 1)], predReads := [p.toNat] }
    let P := fun (c : Ctx) i => (c.view i).p p.toNat
    let has := fun (c : Ctx) (x : Bool) => c.ms.any fun i => P c i == x
    Exchanges (.voteCount d p) r d.toNat (fun c _ => BitVec.ofNat 32 (c.ms.filter (P c)).length) ∧
    (∃ f, Exchanges (.voteMask d p) r d.toNat f ∧ ∀ c i u, u < 32 → (∀ j, j ∈ c.ms → j < 32) → c.ms.Nodup →
      (f c i).getLsbD u = (decide (u ∈ c.ms) && P c u)) ∧
    Exchanges (.voteSpan d p) r d.toNat (fun c _ => BitVec.ofNat 32 ((if has c true then 1 else 0) + (if has c false then 0 else 2) +
      (if has c false then 4 else 0) + (if has c true then 0 else 8)))) ∧
  ∀ d a : BitVec 7, let r : Regs := { reads := [(d.toNat, 1), (a.toNat, 1)], writes := [(d.toNat, 1)] }
    let A := fun (c : Ctx) => c.ms.map fun i => (c.view i).v a.toNat
    Exchanges (.reduxAddI32 d a) r d.toNat (fun c _ => BitVec.ofNat 32 ((A c).map BitVec.toNat).sum) ∧
    (∃ f, Exchanges (.reduxMinI32 d a) r d.toNat f ∧ ∀ c i, c.ms ≠ [] → f c i ∈ A c ∧ ∀ x, x ∈ A c → (f c i).toInt ≤ x.toInt) ∧
    (∃ f, Exchanges (.reduxMaxI32 d a) r d.toNat f ∧ ∀ c i, c.ms ≠ [] → f c i ∈ A c ∧ ∀ x, x ∈ A c → x.toInt ≤ (f c i).toInt) ∧
    (∃ f, Exchanges (.reduxAndB32 d a) r d.toNat f ∧ ∀ c i u, c.ms ≠ [] → u < 32 → (f c i).getLsbD u = (A c).all fun x => x.getLsbD u) ∧
    (∃ f, Exchanges (.reduxOrB32 d a) r d.toNat f ∧ ∀ c i u, c.ms ≠ [] → u < 32 → (f c i).getLsbD u = (A c).any fun x => x.getLsbD u) ∧
    Exchanges (.reduxFaddF32Rn d a) r d.toNat (fun c _ =>
      (pairwiseTree addRn 5 ((List.range 32).map fun i => if i ∈ c.ms then some ((c.view i).v a.toNat) else none)).getD 0))

/-- R149, R154: a match leaves the mask of the members with the same key outstanding; members whose mask does not name themselves trap with cause
0x0C, and members that wait for others do so inside the instruction. That an exchange completes after the last arrival of a path's threads is the
model's choice (log 53). -/
def Obligations.MatchesAndMismatches : Prop :=  (∀ d a : BitVec 7, ∀ l : BitVec 4, ∀ mk span, (mk, span) ∈ [(Instr.matchB32, 1), (.matchB64, 2)] →
    ∀ (s : State) (c : Ctx) M, LaneReady s c { reads := [(d.toNat, 1), (a.toNat, span)], writes := [(d.toNat, 1)] } → Together c d.toNat M →
    c.roomForOut = true →
    let key := fun i => if span = 1 then ((c.view i).v a.toNat).setWidth 64 else (c.view i).pair a.toNat
    ∃ t g, ∃ R : Nat → Word, exec (mk d a l) s = .next t ∧ Alters s t c g ∧ (GroupDone c g fun i u => AsksFor (c.group.thread i) u
        { dst := [vIndex c.group.handler d.toNat], look := l.toNat, kind := .ready [R i] }) ∧
      ∀ i u, i ∈ c.ms → u < 32 → (R i).getLsbD u = (decide (u ∈ c.ms) && key u == key i)) ∧
  (∀ (d a b : BitVec 7) (s : State) (c : Ctx), LaneReady s c { reads := [(d.toNat, 1), (a.toNat, 1), (b.toNat, 1)], writes := [(d.toNat, 1)] } →
    (∀ u, (c.group.thread u).arrival? = none) → (∀ i, i ∈ c.ms → ((c.view i).v d.toNat).getLsbD i = false) →
    exec (.shflSel d a b) s = .next ((s.putGroup c (c.group.issued c.lead)).takeTraps c.team.id c.group.idx
      (c.ms.map fun i => { pos := i, info := { code := 0x0C }, epc := (c.group.thread i).pc }))) ∧
  ∀ (d a b : BitVec 7) (s : State) (c : Ctx) (M : Mask) (w : Nat),
    LaneReady s c { reads := [(d.toNat, 1), (a.toNat, 1), (b.toNat, 1)], writes := [(d.toNat, 1)] } →
    (∀ u, (c.group.thread u).arrival? = none) → (∀ i, i ∈ c.ms → (c.view i).v d.toNat = M ∧ M.getLsbD i = true) →
    w < 32 → M.getLsbD w = true → (c.group.thread w).live = true → w ∉ c.ms →
    ∃ t g, exec (.shflSel d a b) s = .next t ∧ Alters s t c g ∧ GroupDone c g fun i u =>
      ∃ x, u = { (c.group.thread i).tick with status := .blocked (.exchange x) } ∧ x.mask = M ∧
        x.a = ((c.view i).v a.toNat).setWidth 64 ∧ x.b = (c.view i).v b.toNat

/-- R127, R128, R129, R168: a push takes the threads' words in ascending thread order, counts them at its queue, sends them, to an engine or another
core as outgoing effects of at most 32 words and to a member of the same core at once, and waits until the last is admitted; a pop joins the pops that
wait at its queue; each then lets whatever may go on at the team's queues go on. A queue register bound to nothing of the kind traps with cause 0x08.
R129: a try-pop claims its entries where all of them are there and no pop waits at the queue: each thread's go to it in ascending order, its predicate
is 1 and its values are outstanding; else its predicate is 0 and nothing is claimed. That a push blocks until its last entry is admitted is the
model's choice (log 32). -/
def Obligations.QueuesPushPopAndTry : Prop :=
  ((∀ mk span, (mk, span) ∈ [(Instr.qpushB32, 1), (.qpushB64, 2)] → ∀ q a (s : State) (c : Ctx),
    LaneReady s c { reads := [(a.toNat, span)] } →
    let b := s.binding c.team c.group q.toNat
    let ws := c.ms.flatMap fun i => (List.range span).map fun k => (c.view i).v (a.toNat + k)
    let n := BitVec.ofNat 32 ws.length
    let wait := fun (s : State) (eng : Option Nat) (upto : Word) =>
      s.mapGroup c.team.id c.group.idx fun g => g.mapAt c.ms fun _ u => { u.tick with status := .blocked (.push eng q.toNat upto) }
    (pushEnd b = none → exec (mk q a) s = .next (s.trapPath c { code := 0x08, detail := q.toNat })) ∧
    (∀ e, pushEnd b = some (.engine e) → let cs := chunks32 (ws.length / 32 + 1) ws
      (s.room c.team.core < cs.length → exec (mk q a) s = .next s) ∧
      (cs.length ≤ s.room c.team.core → exec (mk q a) s = .next ((wait
        ((cs.foldl (fun s w => s.produce c.team.core c.team.id (.command c.team.id e w)) s).mapTeam c.team.id fun t => t.mapEng e fun p =>
          { p with pushed := p.pushed + n, used := true }) (some e) ((SMap.getD c.team.engs e {}).pushed + n)).queueProgress c.team.id |>.issue c))) ∧
    ∀ m, pushEnd b = some (.link m) →
      let rcv := c.team.ref (s.linkMember c.team m)
      let first := (SMap.getD c.team.links q.toNat {}).pushed
      let s1 := wait ((s.mapTeam c.team.id fun t => t.mapLink q.toNat fun l => { l with pushed := l.pushed + n }).countLap
        c.team.id c.group.role q.toNat ws.length true) none (first + n)
      ((m = 15 ∨ rcv.core = c.team.core) → s.mayRelease c .core = true →
        exec (mk q a) s = .next ((s1.linkArrives rcv q.toNat c.team.id first ws).issue c)) ∧
      (m ≠ 15 → rcv.core ≠ c.team.core → s.mayRelease c .clu = true → (pushChunks first ws).length ≤ s.room c.team.core →
        exec (mk q a) s = .next (((pushChunks first ws).foldl (fun s k => s.produce c.team.core c.team.id (.link rcv q.toNat k.1 k.2)) s1).issue c))) ∧
  ∀ mk span, (mk, span) ∈ [(Instr.qpopB32, 1), (.qpopB64, 2)] → ∀ d q l (s : State) (c : Ctx), s.path? = some c →
    let b := s.binding c.team c.group q.toNat
    (operandOk c.group.regs (d.toNat, span) = true → popEnd c.group.role b = none →
      exec (mk d q l) s = .next (s.trapPath c { code := 0x08, detail := q.toNat })) ∧
    ∀ e, LaneReady s c { writes := [(d.toNat, span)] } → popEnd c.group.role b = some e → c.roomForOut = true →
      exec (mk d q l) s = .next ((((s.mapGroup c.team.id c.group.idx fun g => g.mapAt c.ms fun _ u =>
        { u.tick with status := .blocked (.pop q.toNat) }).mapTeam c.team.id fun t =>
          { t with pops := t.pops ++ [popOf s c e q.toNat span d.toNat l.toNat] }).queueProgress c.team.id).issue c)) ∧
  ((∀ span ms ws (g : Group), (∀ i, i ∈ ms → i < g.threads.length ∧ (g.thread i).carried = []) → ms.Nodup → ms.length * span ≤ ws.length →
    (∀ k i, ms[k]? = some i → ((fillCarried span ms ws g).thread i).carried = (ws.drop (k * span)).take span) ∧
    ∀ i, i ∉ ms → (fillCarried span ms ws g).thread i = g.thread i) ∧
  ∀ mk span, (mk, span) ∈ [(Instr.qtryB32, 1), (.qtryB64, 2)] → ∀ d q l p (s : State) (c : Ctx) e,
    LaneReady s c { writes := [(d.toNat, span)], predWrites := [p.toNat] } → c.roomForOut = true →
    popEnd c.group.role (s.binding c.team c.group q.toNat) = some e →
    let w := popOf s c e q.toNat span d.toNat l.toNat
    let there := c.team.entries w.eng w.q
    let n := c.ms.length * span
    let waiting := c.team.pops.any fun x => x.eng == w.eng && (x.eng.isSome || x.q == w.q)
    ((n ≤ 32 ∧ n ≤ there.length ∧ waiting = false) → exec (mk d q l p) s = .next
      ((((s.mapTeam c.team.id fun t => t.takeEntries w.eng w.q n).mapGroup c.team.id c.group.idx fun g =>
        ((fillCarried span c.ms (there.take n) (g.mapAt c.ms fun _ t => { t with carried := [] })).mapAt c.ms fun _ t =>
          (Thread.popped g.handler w w.far (t.tick.writeP g.handler p.toNat true))).issued c.lead).countPop c.team.id c.group.role w n).queueProgress
        c.team.id)) ∧
    (¬ (n ≤ 32 ∧ n ≤ there.length ∧ waiting = false) → ∃ t g, exec (mk d q l p) s = .next t ∧ Alters s t c g ∧ GroupDone c g fun i u =>
      u = { (c.group.thread i).writeP c.group.handler p.toNat false with
        pc := (c.group.thread i).pc + 4
        rel := none
        stall := []
        kstall := []
        out := (c.group.thread i).out.map OutRes.tick
        spec := [] }))

/-- R156, R158, R163: joining a barrier counts each thread's arrival, and a thread goes on at once exactly if its barrier is complete: every live
thread of the team, and for `bar.clu` of every other member as far as its arrivals have settled here, has joined its generation; its arrival is not
more than 15 beyond the phase; the Cooper has signalled as often as it has waited, once more; its group has no child. An arrival is a release (R157,
R158, R243), which waits for the reads before it. That `bar.clu` waits for the threads of an ended member, and how a signal count compares after its
wrap, are the model's choices (logs 57 and 72). -/
def Obligations.BarriersJoinAndComplete : Prop := ∀ (s : State) (c : Ctx), s.path? = some c → c.ready {} = true → c.awake →
  let joins := fun (i : Instr) (s0 : State) (f : Thread → Thread) (g : Thread → Thread) (b : Thread → Block) (go : Team → Group → Thread → Bool) =>
    ∃ t T h, exec i s = .next t ∧ { t with teams := s0.teams } = s0 ∧ t.team? c.team.id = some T ∧ T.group? c.group.idx = some h ∧
      ∀ j, j ∈ c.ms → Waited (c.group.thread j) (h.thread j) (go T h (f (c.group.thread j))) f g (b (f (c.group.thread j)))
  (s.mayRelease c .core = true → joins .barTeam s (fun t => { t with barT := t.barT + 1 }) (fun t => { t with spec := [] }) (fun t => .barTeam t.barT)
    (fun T _ t => T.allJoined t.barT)) ∧
  (s.mayRelease c .core = false → exec .barTeam s = .next (s.beginRelease c .core)) ∧
  (∀ n, c.team.cooper.isSome = true →
    (s.mayRelease c .core = true →
      joins (.barNbArrive n) s (fun t => { t with nbA := SMap.put t.nbA n.toNat (SMap.getD t.nbA n.toNat 0 + 1) }) (fun t => t)
        (fun _ => .nbArrive n.toNat) (fun T _ t => decide (SMap.getD t.nbA n.toNat 0 ≤ T.phase n.toNat + 15))) ∧
    (s.mayRelease c .core = false → exec (.barNbArrive n) s = .next (s.beginRelease c .core)) ∧
    joins (.barNbWait n) s (fun t => t) (fun t => { t with nbW := SMap.put t.nbW n.toNat (SMap.getD t.nbW n.toNat 0 + 1), spec := [] })
      (fun _ => .nbWait n.toNat) (fun T _ t => decide (SMap.getD t.nbW n.toNat 0 + 1 ≤ (SMap.getD T.nbZ n.toNat 0).toNat))) ∧
  (∀ n, c.team.cooper.isSome = false → exec (.barNbArrive n) s = .next (s.trapPath c { code := 0x09 }) ∧
    exec (.barNbWait n) s = .next (s.trapPath c { code := 0x09 })) ∧
  joins .waitchild s (fun t => t) (fun t => { t with spec := [] }) (fun _ => .waitChild) (fun _ g _ => g.children == 0) ∧
  (s.mayRelease c .clu = true → (s.peers c.team).length ≤ s.room c.team.core →
    joins .barClu ((s.peers c.team).foldl (fun s m => s.produce c.team.core c.team.id (.barClu (c.team.ref m) c.team.member
        (c.ms.map fun i => (32 * c.group.idx + i, (c.group.thread i).barC + 1)))) s)
      (fun t => { t with barC := t.barC + 1 }) (fun t => { t with spec := [] }) (fun t => .barClu t.barC)
      (fun T _ t => T.cluJoined (s.peers c.team) (((s.launchOf c.team).map (·.threadCount)).getD 0) t.barC))

/-- R159 to R161: where each descriptor is read and valid, every request has room and nobody waits with one, `spawn` appends its threads' requests to
the core's queue in ascending order, and `kspawn` one of its lowest position, and the path goes on; the group counts the children. R175: `klaunch` of
a record that is aligned and leased leaves its submission in the settling buffer, once the release is done and no other submission of the core is
under way, and its result outstanding; misaligned it traps, not leased it ends the team. That klaunch carries no lookahead window is the model's
reading (log 50). -/
def Obligations.SpawnsAndLaunchesAreQueued : Prop :=
  (∀ (s s' : State) (c : Ctx) (who : List Nat) (i : Instr) (lane : Nat → Option Nat) (da arg : Nat → DWord) (desc : Nat → List Word),
    ((∃ a b, i = .spawn a b ∧ LaneReady s c { reads := [(a.toNat, 2), (b.toNat, 2)] } ∧ who = c.ms ∧ (lane = fun i => some (laneOf c.group i)) ∧
        (da = fun i => (c.view i).pair a.toNat) ∧ arg = fun i => (c.view i).pair b.toNat) ∨
      ∃ a b, i = .kspawn a b ∧ KReady s c { reads := [(a.toNat, 2), (b.toNat, 2)] } ∧ who = c.ms.take 1 ∧ (lane = fun _ => none) ∧
        (da = fun _ => c.group.kpair a.toNat) ∧ arg = fun _ => c.group.kpair b.toNat) →
    s.mayRelease c .clu = true → s.journalRoom c.team.core (8 * who.length) = true → c.awake →
    who.foldl (fun (a : State × List (Nat × DescRead)) i =>
      ((a.1.readDesc c (lane i) (da i)).1, a.2 ++ [(i, (a.1.readDesc c (lane i) (da i)).2)])) (s, []) = (s', who.map fun i => (i, .ok (desc i))) →
    (s'.core c.team.core).spawnQ.length + who.length ≤ Config.spawnEntries →
    (s'.teams.map (·.id)).Nodup → (∀ t, t ∈ s'.teams → (t.groups.map (·.idx)).Nodup) →
    (∀ t g h d x y p, t ∈ s'.teams → g ∈ t.groups → h ∈ g.threads → h.status ≠ .blocked (.spawn d x y p)) →
    ∃ t T g, exec i s = .next t ∧ t.mem = s'.mem ∧ t.team? c.team.id = some T ∧ T.group? c.group.idx = some g ∧
      (t.core c.team.core).spawnQ = (s'.core c.team.core).spawnQ ++ who.map (fun i =>
        { parent := { team := c.team.id, group := c.group.idx }, desc := desc i, da := da i, arg := arg i, pos := i, depth := c.group.depth + 1 }) ∧
      g.children = c.group.children + who.length ∧
      ∀ j, j ∈ c.ms → (g.thread j).running = true ∧ (g.thread j).pc = (c.group.thread j).pc + 4 ∧ (g.thread j).v = (c.group.thread j).v) ∧
  (∀ d a (s : State) (c : Ctx), KReady s c { reads := [(a.toNat, 2)], writes := [(d.toNat, 1)] } →
  let ra := c.group.kpair a.toNat
  (ra.toNat % 256 ≠ 0 → exec (.klaunch d a) s = .next (s.trapPath c { code := 0x03, tval := vaddr ra })) ∧
  (ra.toNat % 256 = 0 → canonical ra = false → exec (.klaunch d a) s = .next (s.endTeam c.team.id 0x0F 1 (vaddr ra))) ∧
  (ra.toNat % 256 = 0 → canonical ra = true → leaseCovers (s.leases c.team) (vaddr ra).toNat 256 .load = false →
    exec (.klaunch d a) s = .next (s.endTeam c.team.id 0x0F 0 (vaddr ra))) ∧
  (ra.toNat % 256 = 0 → canonical ra = true → leaseCovers (s.leases c.team) (vaddr ra).toNat 256 .load = true →
    (s.core c.team.core).submission = none → (∀ e x y z, e ∈ (s.core c.team.core).buffer → e.eff ≠ .submit x y z) →
    0 < s.room c.team.core → s.mayRelease c .dev = true →
    exec (.klaunch d a) s = .next ((({ s with fresh := s.fresh + 1 } : State).produce c.team.core c.team.id
        (.submit c.team.asid s.fresh (vaddr ra))).mapGroup c.team.id c.group.idx fun g =>
      Group.issued { g.mapAt c.ms (fun _ t => t.tick.next) with
        kout := g.kout ++ [{ dst := [kIndex c.group.handler d.toNat], look := 0, tag := s.fresh, ext := true, kind := .submitted }] } c.lead)))

/-- R125, R218, R247: a fence goes on once its release side is done, when it has one, and the reads made before it are performed, when it acquires,
which takes the speculation entries; `fence.eng` has both sides, `grp` acting as `core`. That a release waits for the whole core's stores is the
model's choice (log 26). -/
def Obligations.FencesWaitThenGoOn : Prop := ∀ i (acq rel : Bool) (sc : Scope),
  ((∃ o, i = .fence sc o ∧ acq = (o == .acq || o == .ar || o == .sc) ∧ rel = (o == .rel || o == .ar || o == .sc)) ∨
    ∃ x, i = .fenceEng x ∧ acq = true ∧ rel = true ∧ sc = if x = .grp then .core else x) →
  ∀ (s : State) (c : Ctx), s.path? = some c → c.ready {} = true →
    let read := (∀ j, j ∈ c.ms → (c.group.thread j).readsDone = true) ∧ ∀ o, o ∈ c.group.kout → o.unbound = false
    (rel = true → s.mayRelease c sc = false → exec i s = .next (s.beginRelease c sc)) ∧
    ((rel = true → s.mayRelease c sc = true) → acq = true → ¬ read → exec i s = .next s) ∧
    ((rel = true → s.mayRelease c sc = true) → (acq = true → read) → ∃ t g, exec i s = .next t ∧ Alters s t c g ∧ GroupDone c g fun j u =>
      u = { c.group.thread j with
        pc := (c.group.thread j).pc + 4
        rel := none
        stall := []
        kstall := []
        out := (c.group.thread j).out.map OutRes.tick
        spec := if acq = true then [] else (c.group.thread j).spec })

/-- R219, R220: a cache-control instruction acts on each active thread's line, in ascending order, once everything of the line is settled and nothing
of it in flight in the caches of its scope; `cwb` leaves the line's dirty words clean and their values at their home, or in the die's RDC where that
registers them, and a lease violation ends the team. R219, R220: a prefetch fills the lines of the addresses that pass its checks, as far as they have
room, and always goes on. That it waits until the line is quiet and that a violation ends it whole are the model's choices (logs 27 and 28). -/
def Obligations.CacheControlAndPrefetch : Prop :=
  ((∀ mk quiet (f : State → Ctx → Scope → Nat → State),
    (mk, quiet, f) ∈ [(Instr.cwb, true, fun s c sc l => s.cwbLine (s.scopeCores c.team sc) (scopeDies c.team sc) l),
      (.cinv, true, fun s c sc l => s.cinvLine (s.scopeCores c.team sc) (scopeDies c.team sc) l),
      (.cwbinv, true, fun s c sc l =>
        s.cwbinvLine (s.scopeCores c.team sc) (scopeDies c.team sc) l),
      (.icinv, false, fun s c sc l => (s.scopeCores c.team sc).foldl (fun s k => s.mapCore k fun x =>
        { x with icache := x.icache.filter fun e => e.1 != l }) s)] →
    ∀ a sc (s : State) (c : Ctx) (at' : Leads), LaneReady s c { reads := [(a.toNat, 2)] } →
      (∀ i, i ∈ c.ms → s.checkCache c.team (laneOf c.group i) ((c.view i).pair a.toNat) = .ok (at' i).1 (at' i).2.1 (at' i).2.2 ∧
        s.inTransition (at' i).1 = false ∧ c.mustWait i ((at' i).1 / 128 * 128) 128 = false ∧
        (quiet = true → s.lineQuiet (s.scopeCores c.team sc) (scopeDies c.team sc) ((at' i).1 / 128) = true)) →
      exec (mk a sc) s = .next ((c.ms.foldl (fun s i => f s c sc ((at' i).1 / 128)) (s.kept c at')).afterIssue c fun _ u => u.tick.next)) ∧
  (∀ (s : State) core line w h, w < 32 → homeOf (line * 128) = .home h → s.isDead (.home h) = false → s.mem.wf = true →
    dieOf core < s.dies.length →
    let x := (s.core core).cell line w
    let t := s.cwbL1 core line
    let r := (t.die (dieOf core)).rdcCell line w
    x.st = .m → x.unset = 0 → x.mirs = 0 → x.pendMask = 0 →
    ((t.core core).cell line w).st ≠ .m ∧ ((t.core core).cell line w).val = x.val ∧
      (x.tracked = true → x.loose = false → h ≠ dieOf core → r.st = .m ∧ r.val = x.val) ∧
      (x.tracked = false ∨ x.loose = true ∨ h = dieOf core → (t.homeWord (line * 32 + w)).1 = x.val)) ∧
  ∀ mk, mk ∈ [Instr.cwb, .cinv, .cwbinv, .icinv] → ∀ a sc (s : State) (c : Ctx) i sub va, LaneReady s c { reads := [(a.toNat, 2)] } →
    c.ms.head? = some i → s.checkCache c.team (laneOf c.group i) ((c.view i).pair a.toNat) = .violation sub va →
    exec (mk a sc) s = .next (s.breach c.team.id sub va)) ∧
  (∀ mk (f : State → Ctx → Spot → State),
  (mk, f) ∈ [(Instr.pfL1, fun s c x => (s.loadLine c.team.core c.group.slotKey x.attr (x.pa / 128 * 128) 128).getD s),
    (.pfL2, fun s c x => s.prefetchL2 c.team.core (x.pa / 128) (isCoherent x.attr))] →
  ∀ a sc (s : State) (c : Ctx), LaneReady s c { reads := [(a.toNat, 2)] } →
    let xs := c.ms.map fun i => Attempt.mk i (vaddr ((c.view i).pair a.toNat)) (s.checkCache c.team (laneOf c.group i) ((c.view i).pair a.toNat))
    exec (mk a sc) s = .next ((((spotsOf xs).filter fun x => !s.inTransition x.pa).foldl (fun s x => f s c x) (s.keepAll c xs)).afterIssue c
      fun _ u => u.tick.next))

/-- R221, R223, R224: `rgn.conv` is an illegal instruction outside handler mode; in it the path's threads convert one after another. Each waits as
`fence.sc.dev` does, makes its checks, and takes its pages in order: a page enters transition once its request has settled, is swept when it is quiet,
its conflict records are written, and its leaf entry says coherent; then the thread's register holds the count of its records, and the log pointer has
moved past them. When the last thread has ended the path goes on. A swept word's home holds the copy that wins. What is marked while pages are
converted, and that an unmapped page is a region fault, are the model's choices (log 34). -/
def Obligations.RegionConversion : Prop := (∀ t a (s : State) (c : Ctx), s.path? = some c →
  let r : Regs := { reads := [(t.toNat, 1), (a.toNat, 2)], writes := [(t.toNat, 1)] }
  (c.group.handler = false → exec (.rgnConv t a) s = .next (s.trapPath c { code := 0x01 })) ∧
  (c.group.handler = true → LaneReady s c r → c.group.conv = none → exec (.rgnConv t a) s = .next (s.putConv c { ms := c.ms })) ∧
  ∀ v, c.group.handler = true → r.ok c.group.regs = true → c.group.conv = some v → v.ms = c.ms →
    (v.thread? = none → v.traps = [] → ∃ u g, exec (.rgnConv t a) s = .next u ∧ Alters s u c g ∧ g.conv = none ∧
      ∀ i, i ∈ c.ms → i ∈ v.ended.map (·.1) → g.thread i = { (c.group.thread i).tick with pc := (c.group.thread i).pc + 4, status := (g.thread i).status }) ∧
    ∀ i, v.thread? = some i →
      (s.mayRelease (c.alone i) .dev = false → (v.pages = none ∨ v.pages = some []) →
        exec (.rgnConv t a) s = .next (s.beginRelease (c.alone i) .dev)) ∧
      (s.mayRelease (c.alone i) .dev = true → v.pages = none →
        let check := s.checkConv c.team (vaddr ((c.view i).pair a.toNat)) ((c.view i).v t.toNat).toNat c.group.cfl
        let go := fun (w : Conv) => s.mapGroup c.team.id c.group.idx fun g => { g.mapAt [i] (fun _ u => { u with rel := none }) with conv := some w }
        (∀ ps, check = .ok ps → exec (.rgnConv t a) s = .next (go { v with pages := some (ps.filter fun e => e.attr != 2), n := 0 })) ∧
        (∀ x, check = .trap x → exec (.rgnConv t a) s = .next (go { v with traps := v.traps ++ [(i, x)] })) ∧
        ∀ sub va, check = .violation sub va → exec (.rgnConv t a) s = .next (s.breach c.team.id sub va)) ∧
      (s.mayRelease (c.alone i) .dev = true → v.pages = some [] → s.team? c.team.id = some c.team →
        c.team.group? c.group.idx = some c.group → i < 32 →
        ∃ u T g, exec (.rgnConv t a) s = .next u ∧ u.team? c.team.id = some T ∧ T.group? c.group.idx = some g ∧ u.mem = s.mem ∧
          g.conv = some { v with ended := v.ended ++ [(i, v.n)], pages := none } ∧ g.cfl = c.group.cfl + BitVec.ofNat 56 (16 * v.n) ∧
          (g.thread i).readV (vIndex true t.toNat) = BitVec.ofNat 32 v.n ∧ (g.thread i).spec = []) ∧
      ∀ e rest, v.pages = some (e :: rest) →
        (v.asked = false → 0 < s.room c.team.core →
          exec (.rgnConv t a) s = .next ((s.putConv c { v with asked := true }).produce c.team.core c.team.id (.convert e.pa e.size))) ∧
        (v.asked = true → v.swept = none → s.converting c.team.id e = true → s.pageQuiet e.pa e.size = true →
          exec (.rgnConv t a) s = .next ((s.sweep e (s.cachedWords e)).1.inputTeam c.team.id
            (Team.sweptPage c.group.idx e (s.sweep e (s.cachedWords e)).2))) ∧
        (∀ x xs s', v.asked = true → v.swept = some (x :: xs) →
          s.storeAt c.team.core c.team.id c.group.slotKey c.team.asid (c.group.cfl.toNat + 16 * v.n) x = some s' →
          exec (.rgnConv t a) s = .next (s'.putConv c { v with swept := some xs, n := v.n + 1 })) ∧
        ∀ s', v.asked = true → v.swept = some [] → s.setCoherent e = some s' →
          exec (.rgnConv t a) s = .next (({ s' with transition := s'.transition.erase (e.pa, e.size, some c.team.id) } : State).putConv c
            { v with pages := some rest, asked := false, swept := none })) ∧
  ∀ (s : State) (e : TlbEntry) (line w : Nat) (k : DirtyCopy) r, isDevice (line * 128) = false → w < 32 → s.isDead (homeOf (line * 128)) = false →
    s.mem.wf = true → s.dirtyCopies line w = k :: r →
    ((s.sweepWord e line w).1.homeWord (line * 32 + w)).1 = k.val ∧
    (((k :: r).map (·.val)).eraseDups.length < 2 → (s.sweepWord e line w).2 = []) ∧
    (2 ≤ ((k :: r).map (·.val)).eraseDups.length → (s.sweepWord e line w).2 =
      [convRecord (e.va + (line * 128 + 4 * w - e.pa)) k.val ((k :: r).map (·.val)).eraseDups.length k.core k.die])

/-- R284, R285, R291: tile movement. `tld` copies its slot's 4,096 stored bytes into its `m` register and empties a latch that holds it; `tst` writes
the accumulator's elements, rounded or not, at the places of the stored order, at once into an own slot and by outgoing effects into another member's;
`tzero` clears an accumulator, another member's by outgoing effects. R292: the element-wise operations on an accumulator, with the slot's element at
the same place or, for the row forms, of row 0; every other accumulator, the matrix registers and the scratchpad keep their contents. That a tile
instruction completes when it is issued, and the order of its traps, are the model's choices (logs 40 and 63). -/
def Obligations.TileMovementAndElements : Prop :=
  ((∀ m x (s : State) t k spot, TileReady s t k { m := some m.toNat, slots := [x.toNat] } [] spot true →
    ∃ v T, exec (.tld m x) s = .next v ∧ TileDone s v t T k 1 ∧ T.m = t.m.setBytes (4096 * m.toNat) (spot.1.scratch.bytes (spot.2.headD 0) 4096) ∧
      T.acc = t.acc ∧ T.scratch = t.scratch ∧ (v.core t.core).latch ≠ some (t.id, m.toNat)) ∧
  (∀ mk (put : Nat → Nat → Nat) (size : Nat) (val : Word → Nat) (a : BitVec 4) (x : BitVec 8),
    ((∃ h, mk = Instr.tstBf16Rn a x h ∧ (put = fun i n => tileOffset i (2 * ((if h = true then 32 else 0) + n))) ∧ size = 2 ∧
        val = fun w => (toBf16 .rn (f32 w)).toNat) ∨
      mk = .tstF32 a x ∧ (put = fun i n => tileOffset i (4 * n)) ∧ size = 4 ∧ val = BitVec.toNat) →
    ∀ (s : State) t k p spot, TileReady s t k { accs := [a.toNat], own := true, accWrite := false, slots := [x.toNat], writes := true, room := 32 }
        [p] spot true → let off := spot.2.headD 0
      ∃ v T, exec mk s = .next v ∧ TileDone s v t T k 1 ∧ T.m = t.m ∧ T.acc = t.acc ∧
        (spot.1.id = t.id → t.scratch.wf = true →
          (∀ i n, i < 32 → n < 32 → T.scratch.nat (off + put i n) size = val (t.accElem p.2 i n)) ∧
          ∀ b, (∀ i n j, i < 32 → n < 32 → j < size → b ≠ off + put i n + j) → T.scratch.get b = t.scratch.get b) ∧
        (spot.1.id ≠ t.id → T.scratch = t.scratch ∧ (v.core t.core).buffer.length = (s.core t.core).buffer.length + 32)) ∧
  ∀ a (s : State) t k p spot, TileReady s t k { accs := [a.toNat], accRead := false, room := 32 } [p] spot true →
    ∃ v T, exec (.tzero a) s = .next v ∧ TileDone s v t T k 1 ∧ T.m = t.m ∧ T.scratch = t.scratch ∧
      (p.1 = t.member → t.acc.wf = true → ∀ b i n, i < 32 → n < 32 → T.accElem b i n = if b = p.2 then 0 else t.accElem b i n) ∧
      (p.1 ≠ t.member → T.acc = t.acc ∧ (v.core t.core).buffer.length = (s.core t.core).buffer.length + 32)) ∧
  (∀ (i : Instr) (a : BitVec 4) (slots : List Nat) (rowOnly reads : Bool) (f : Word → Word → Word),
  ((∃ x, slots = [BitVec.toNat (w := 8) x] ∧ (i, rowOnly, reads, f) ∈ [(Instr.tewLd a x, false, false, fun _ w => w), (.tewAdd a x, false, true, addRn),
      (.tewMul a x, false, true, mulRn), (.tewAddrow a x, true, true, addRn), (.tewMulrow a x, true, true, mulRn)]) ∨
    slots = [] ∧ rowOnly = false ∧ reads = true ∧ (i, f) ∈ [(Instr.tewRelu a, fun x _ => BitVec.ofNat 32 (fMinMax .f32 true false x.toNat 0)),
      (.tewSq a, fun x _ => mulRn x x), (.tewTanh a, fun x _ => BitVec.ofNat 32 (sfuTanh x.toNat)), (.tewNeg a, fun x _ => x ^^^ 0x80000000)]) →
  ∀ (s : State) t k p spot, TileReady s t k { accs := [a.toNat], own := true, accRead := reads, slots := slots } [p] spot true → t.acc.wf = true →
    ∃ v T, exec i s = .next v ∧ TileDone s v t T k 1 ∧ T.m = t.m ∧ T.scratch = t.scratch ∧
      ∀ b r n, r < 32 → n < 32 → T.accElem b r n = if b = p.2 then
        f (t.accElem b r n) (if slots = [] then 0 else spot.1.scratch.word (spot.2.headD 0 + tileOffset (if rowOnly = true then 0 else r) (4 * n)))
        else t.accElem b r n)

/-- R74, R286, R288, R296: the matrix products add to the accumulator, or for `tmma.s` to the four from it, the eight chunk sums of eight products
each, every chunk rounded once and added in order, and for `tmma.i8` the exact integer sum; the team pays eight tensor tokens and the latch holds the
`m` register exactly for `.reuse`. The product with a zero term and an infinity follows log 14; completion at issue log 40. -/
def Obligations.MatrixProducts : Prop :=  let A := fun (t : Team) (m i : Nat) => bf16Pairs (tileRow (t.mBytes m) i)
  let slot := fun (spot : Team × List Nat) (q : Nat) => spot.1.scratch.bytes (spot.2.getD q 0) 4096
  let sums := fun (ps : List FVal) (old : Word) =>
    (List.range 8).foldl (fun x j => addRn x (toF32 .rn false (exactTree 3 ((ps.drop (8 * j)).take 8)))) old
  let paid := fun (s v : State) (t T : Team) (k : Cooper) (m : Nat) (r : Bool) => TileDone s v t T k 1 ∧ T.m = t.m ∧ T.scratch = t.scratch ∧
    T.tensorSpent = t.tensorSpent + 8 ∧ T.tensorIssued = true ∧ (v.core t.core).latch = if r = true then some (t.id, m) else none
  (∀ a m r x (s : State) t k p spot, TileReady s t k { m := some m.toNat, mRead := true, accs := [a.toNat], mma := true, slots := [x.toNat], tensor := true, room := 32 }
      [p] spot true → ∃ v T, exec (.tmmaW a m r x) s = .next v ∧ paid s v t T k m.toNat r ∧
      (p.1 = t.member → t.acc.wf = true → ∀ b i n, i < 32 → n < 32 → T.accElem b i n = if b = p.2 then
        sums (((A t m.toNat i).zip (bf16Pairs (tileRow (slot spot 0) n))).map fun q => FVal.mul q.1 q.2) (t.accElem b i n) else t.accElem b i n) ∧
      (p.1 ≠ t.member → T.acc = t.acc ∧ (v.core t.core).buffer.length = (s.core t.core).buffer.length + 32)) ∧
  (∀ a m r x (s : State) t k accs spot, a.toNat % 4 = 0 →
    TileReady s t k { m := some m.toNat, mRead := true, accs := (List.range 4).map fun q => a.toNat + q, mma := true,
                      slots := (List.range 3).map fun q => x.toNat + q, tensor := true, room := 128 } accs spot true →
    ∃ v T, exec (.tmmaS a m r x) s = .next v ∧ paid s v t T k m.toNat r ∧
      ((∀ p, p ∈ accs → p.1 = t.member) → t.acc.wf = true → ∀ b i n, i < 32 → n < 32 → T.accElem b i n =
        (List.range 4).foldl (fun x q => if accs[q]? = some (t.member, b) then
          sums (((A t m.toNat i).zip ((sp2Columns ((List.range 3).flatMap (slot spot))).getD (32 * q + n) [])).map fun y =>
            FVal.add .rn (FVal.mul y.1 y.2.1) (FVal.mul y.1 y.2.2)) x else x) (t.accElem b i n)) ∧
      ((∀ p, p ∈ accs → p.1 ≠ t.member) → T.acc = t.acc ∧ (v.core t.core).buffer.length = (s.core t.core).buffer.length + 128)) ∧
  (∀ a m r x (s : State) t k, s.coop? = some (t, k) → a.toNat % 4 ≠ 0 → exec (.tmmaS a m r x) s = .next (s.coopTrap t 0x01 0)) ∧
  ∀ a m r x (s : State) t k p spot, TileReady s t k { m := some m.toNat, mRead := true, accs := [a.toNat], mma := true, slots := [x.toNat], tensor := true, room := 32 }
      [p] spot false → ∃ v T, exec (.tmmaI8 a m r x) s = .next v ∧ paid s v t T k m.toNat r ∧
      (p.1 = t.member → t.acc.wf = true → ∀ b i n, i < 32 → n < 32 → T.accElem b i n = if b = p.2 then
        BitVec.ofInt 32 ((t.accElem b i n).toInt + ((List.range 128).map fun j =>
          sByte ((tileRow (t.mBytes m.toNat) i).getD j 0) * sByte ((tileRow (slot spot 0) n).getD j 0)).sum) else t.accElem b i n) ∧
      (p.1 ≠ t.member → T.acc = t.acc ∧ (v.core t.core).buffer.length = (s.core t.core).buffer.length + 32)

/-- R278, R283, R290: `twait` goes on once the phase has come to its count, waits while a launched thread lives, and else stops the Cooper for good
and reports it; `tsig`, once everything before it has retired, counts a signal; `tbar` joins a generation of its object, reports it, and goes on at
once exactly if every other Cooper of the cluster has joined it or stopped. How a count compares after its wrap is the model's reading (log 72). -/
def Obligations.CooperBarriers : Prop := ∀ n (s : State) t k, s.coop? = some (t, k) → let others := s.peers t
  (let j := SMap.getD k.twaits n.toNat 0 + 1;
    (j ≤ t.phase n.toNat → ∃ v T, exec (.twait n) s = .next v ∧ OnlyTeam s v t.id T ∧
      T = { t with cooper := some { k with cpc := k.cpc + 4, wait := .running, twaits := SMap.put k.twaits n.toNat j } }) ∧
    (t.phase n.toNat < j → t.anyLive = true → exec (.twait n) s = .next s) ∧
    (t.phase n.toNat < j → t.anyLive = false → others.length ≤ s.room t.core → ∃ v T, exec (.twait n) s = .next v ∧ v.team? t.id = some T ∧
      T = { t with cooper := some { k with wait := .stopped } } ∧
      (v.core t.core).buffer.length = (s.core t.core).buffer.length + others.length)) ∧
  (s.coopDone t = true → ∃ v T, exec (.tsig n) s = .next v ∧ v.team? t.id = some T ∧
    T.nbZ = SMap.put t.nbZ n.toNat (SMap.getD t.nbZ n.toNat 0 + 1) ∧ T.cooper = some { k with cpc := k.cpc + 4, wait := .running }) ∧
  (s.coopDone t = false → exec (.tsig n) s = .next s) ∧
  ((∀ b g, k.wait ≠ .tbar b g) → s.coopRetired t = true → others.length ≤ s.room t.core →
    let g := SMap.getD t.tbarGen n.toNat 0 + 1
    ∃ v T, exec (.tbar n) s = .next v ∧ v.team? t.id = some T ∧ T.tbarGen = SMap.put t.tbarGen n.toNat g ∧
      (v.core t.core).buffer.length = (s.core t.core).buffer.length + others.length ∧
      (s.tbarMet t n.toNat g = true → T.cooper = some { k with cpc := k.cpc + 4, wait := .running }) ∧
      (s.tbarMet t n.toNat g = false → T.cooper = some { k with wait := .tbar n.toNat g })) ∧
  ∀ b g, k.wait = .tbar b g → (s.tbarMet t b g = true → ∃ v T, exec (.tbar n) s = .next v ∧ OnlyTeam s v t.id T ∧
      T = { t with cooper := some { k with cpc := k.cpc + 4, wait := .running } }) ∧
    (s.tbarMet t b g = false → exec (.tbar n) s = .next s)

/-- R271, R299, R304, R307, R308: `dtask` adds its task to the dependency table with its header, block and command words; `rec.beg` starts recording
at its origin; `rec.end` stops and leaves the chain's descriptor to be written; `reverse` checks the chain, then makes the updates one after another,
and goes on at its end. The phases of reverse and how record writes queue are the model's choices (log 41), and so is the order of the traps at issue
(log 63). -/
def Obligations.TasksRecordingAndReverse : Prop := ∀ (s : State) t k, s.coop? = some (t, k) →
  (∀ n ext eng out ins bs, taskHeader (BitVec.toNat (w := 4) n) ext = some (eng, out, ins) → (∀ v, .acc v ∈ out :: ins → v < t.accs.length) →
    let block := joinWords (ext.getD 1 0) (ext.getD 2 0)
    block.toNat % 4 = 0 → s.taskCommand t eng block = .ok bs → s.tasksOn t.core < Config.taskEntries →
    s.journalFits t.core (bytesWords bs) = true → t.log.recording = false →
    ∃ v T, exec (.dtask n ext) s = .next v ∧ TileDone s v t T k (1 + n.toNat) ∧ v.fresh = s.fresh + 1 ∧
      T.tasks = t.tasks ++ [{ id := s.fresh, engine := eng, out := out, ins := ins, block := vaddr block, cmd := bytesWords bs, ext := ext,
                              word := BitVec.ofNat 32 (0x74 * 2 ^ 25 + n.toNat * 32) }]) ∧
  (∀ n ext, taskHeader (BitVec.toNat (w := 4) n) ext = none → exec (.dtask n ext) s = .next (s.coopTrap t 0x01 0)) ∧
  (∀ w1 w2 w3 w4, let base : VAddr := BitVec.ofNat 56 (w1.toNat + 2 ^ 32 * (w2.toNat % 2 ^ 24))
    let limit : VAddr := BitVec.ofNat 56 (w3.toNat + 2 ^ 32 * (w4.toNat % 2 ^ 24))
    let origin := ((s.launchOf t).map Launch.logBase).getD 0
    w2.toNat / 2 ^ 24 ≤ 1 → w4.toNat / 2 ^ 24 = 0 → s.coopDone t = true → t.log.recording = false → origin ≠ 0 →
    base.toNat % 16 = 0 → limit.toNat % 16 = 0 → origin % 16 = 0 → base.toNat + 16 ≤ limit.toNat →
    ∃ v T, exec (.recBeg w1 w2 w3 w4) s = .next v ∧ TileDone s v t T k 5 ∧ T.log.recording = true ∧ T.log.count = 0 ∧ T.log.last = 0 ∧
      T.log.policy.toNat = w2.toNat / 2 ^ 24 ∧ T.log.base = base ∧ T.log.origin = BitVec.ofNat 64 (origin + t.index * limit.toNat) ∧
      T.log.ptr = vaddr T.log.origin + base + 16 ∧ T.log.lim = vaddr T.log.origin + limit) ∧
  (t.log.recording = true → s.coopDone t = true → ∃ v T, exec .recEnd s = .next v ∧ TileDone s v t T k 1 ∧ T.log.recording = false ∧
    T.log.count = t.log.count ∧ T.log.last = t.log.last ∧ T.log.pend ≠ []) ∧
  (t.log.recording = false → exec .recEnd s = .next (s.coopTrap t 0x09 0)) ∧
  ∀ w1 w2 w3 w4, s.coopDone t = true →
    let gmap : VAddr := BitVec.ofNat 56 (w3.toNat + 2 ^ 32 * (w4.toNat % 2 ^ 24))
    let base : VAddr := BitVec.ofNat 56 (w1.toNat + 2 ^ 32 * (w2.toNat % 2 ^ 24))
    (∀ r, t.log.revOn = false → t.log.recording = false → t.log.begun = true → w2.toNat / 2 ^ 24 = 0 → w4.toNat / 2 ^ 24 = 0 →
      s.revStart t base gmap = .ok r → s.journalFits t.core r.reads = true →
      ∃ v T, exec (.reverse w1 w2 w3 w4) s = .next v ∧ OnlyTeam (s.journalAll t.core r.reads) v t.id T ∧
        T = { t with log := { t.log with revOn := true, revRec := r.first, revPhase := 0, revSeed := r.seed, revLeaf := r.leaf } }) ∧
    (∀ v, t.log.revOn = true → t.log.revRec ≠ 0 → s.revUpdate t gmap = .ok v → exec (.reverse w1 w2 w3 w4) s = .next v) ∧
    (t.log.revOn = true → t.log.revRec = 0 → ∃ v T, exec (.reverse w1 w2 w3 w4) s = .next v ∧ TileDone s v t T k 5 ∧ T.log.revOn = false) ∧
    (t.log.revOn = false → (t.log.recording = true ∨ t.log.begun = false) → exec (.reverse w1 w2 w3 w4) s = .next (s.coopTrap t 0x09 0))

/-- R252, R253, R255, R268: a command that an engine has admitted takes the next number, leaves its stream and joins the engine's operations: refused
with the status of its first failing check, or with its words, its signal and its ranges, which are locked. An access violation ends the team, and a
command waits while a page of it is not known or the range-lock table is full. That sources are read at the start, commands parsed at admission, when
a command is issued, and how many ranges an SP2 rk.load holds, are the model's choices (logs 37, 61 and 62). -/
def Obligations.EngineCommandsQueue : Prop := ∀ (i : Instr) (ws : List Word) (press : Bool),
  (i, press) ∈ [(Instr.rkLoad ws, false), (.rkStore ws, false), (.rkCopy ws, false), (.rkGather ws, false), (.rkScale ws, false),
    (.pressCommand ws, true)] →
  ∀ (s : State) (core eng team : Nat) (t : Team) (task : Option Nat), s.actor = .engine core eng team → s.team? team = some t → t.core = core →
    (eng == 8) = press → t.nextCommand eng = some (task, ws) → (commandLength press (ws.headD 0)).isSome = true →
  let number := (SMap.getD t.engs eng {}).nextNumber
  let ops := (s.core core).engOps eng
  let clear := fun (l : Lock) => { l with done := 0 }
  (∀ st, s.parse t eng ws = .refused st → ops ≠ [] → ∃ v, exec i s = .next v ∧ v.mem = s.mem ∧ (v.core core).locks = (s.core core).locks ∧
    (v.core core).engOps eng = ops ++ [{ team := team, code := numAt ws 0 / 2 ^ 24, number := number, status := st, task := task, started := true }]) ∧
  (∀ rs, s.parse t eng ws = .ok rs → ∀ h r, ops = h :: r → h.started = true → h.left = [] → h.sig = none → ∃ v, exec i s = .next v ∧
    ((v.core core).engOps eng).length = ops.length + 1 ∧
    ((v.core core).engOps eng).getLast? = some { team := team, code := numAt ws 0 / 2 ^ 24, number := number, status := 0, words := ws, task := task,
                                                 sig := (commandSignal ws).map vaddr } ∧
    (v.core core).locks.map clear = (s.core core).locks.map clear ++ rs.mapIdx fun i r =>
      { eng := eng, team := team, scratch := r.scratch, space := r.space, lo := r.lo, hi := r.hi, dest := r.dest, number := number,
        part := ((rs.take i).filter (·.dest)).length }) ∧
  (∀ rs, s.parse t eng ws = .ok rs → ∃ v, exec i s = .next v) ∧
  (∀ sub va, s.parse t eng ws = .violation sub va → exec i s = .next (s.breach team sub va)) ∧
  (s.parse t eng ws = .wait → exec i s = .next s)

/-- R252, R256, R272, R360: an operation whose writes are performed and whose signal is written releases its ranges and leaves its result entry, which
waits while the endpoint is full and is discarded where no role binds it or no thread of the team lives; the first declared of the tasks that are
ready is issued through the settling buffer. -/
def Obligations.EngineOperationsEnd : Prop :=  (∀ (s : State) (core eng : Nat) (o : EngOp) (t : Team), (s.core core).engOps eng = [o] → s.team? o.team = some t → o.task = none →
    o.delivered = true → t.pops = [] → (∀ e x, e ≠ eng → ((s.core core).engOps e).head? = some x → x.started = true ∧ x.left = [] ∧ x.sig = none) → (o.sig = none ∨ o.sigEntry.isSome = true) →
    let p := SMap.getD t.engs eng {}
    let heard := s.resultBound t eng = true ∧ (t.groups.any fun g => g.threads.any Thread.live) = true
    let entry := fun (st : Nat) => [BitVec.ofNat 32 (st * 2 ^ 24 + o.code % 256 * 2 ^ 16 + o.number.toNat % 2 ^ 16), if eng < 8 then p.sat else 0]
    let left := fun (v : State) (ws : List Word) => (v.core core).engOps eng = [] ∧ ∃ T, v.team? o.team = some T ∧
      (SMap.getD T.engs eng {}).res = p.res ++ ws
    (o.resultWaits = false → (o.sig = none ∧ o.sigOld = none ∨ ∃ x, o.sigOld = some (some x)) →
      let st := match o.sigOld with
        | some (some x) => if x ≠ 0 ∧ x ≠ o.number then 0x0A else o.status
        | _ => o.status
      ∃ v, exec (.engineOperationComplete core eng) s = .next v ∧
        (∀ l, l ∈ (v.core core).locks → l.eng = eng → l.team = o.team → l.number ≠ o.number) ∧
        (heard → p.res.length + 2 ≤ 32 → left v (entry st)) ∧ (¬ heard → left v []) ∧
        (heard → 32 < p.res.length + 2 → ∃ x, (v.core core).engOps eng = [x] ∧ x.resultWaits = true ∧ x.status = st)) ∧
    (o.resultWaits = true → heard → p.res.length + 2 ≤ 32 →
      ∃ v, exec (.resultEntryWrite core eng) s = .next v ∧ left v (entry o.status)) ∧
    (o.resultWaits = false → ∀ va, o.sig = some va → o.sigOld = some none →
      exec (.engineOperationComplete core eng) s = .next (s.killGangOf o.team 0x11 va))) ∧
  ∀ (s : State) (team task : Nat) (t : Team), s.team? team = some t → s.taskReady t task = true → s.taskFirst t task = true → 0 < s.room t.core →
    ∃ v, exec (.taskIssue team task) s = .next v ∧
      v.team? team = some { t with tasks := t.tasks.map fun x => if x.id = task then { x with issued := true } else x } ∧
      (∀ j, j ≠ team → v.team? j = s.team? j) ∧ v.mem = s.mem ∧
      (v.core t.core).buffer = (s.core t.core).buffer ++ [Entry.mk ((s.core t.core).effNo + 1) (s.now t.core) team (.taskCommand team task)]

/-- R172, R173, R164, R171, R176, R177: a written record address takes the port's next number, or waits in arrival order while the port is full; the
distributor refuses the oldest record with the code of its first failing check, or keeps it; a launch waits for the one it depends on and for its
lease ranges, and one whose range is declined is refused. That leasing with an Invalid walk refuses the launch at once with reason 8 is the model's
choice (log 52). -/
def Obligations.LaunchesAreAcceptedAndChecked : Prop :=  (∀ (s : State) (asid : Nat) (value : DWord), asid < Config.numAsids → let p := s.port asid
    let addr : VAddr := BitVec.ofNat 56 (value.toNat % 2 ^ 56 / 256 * 256)
    (p.queue.length < Config.portQueue → p.stalled = [] → ∃ v, exec (.lpSubmit asid value) s = .next v ∧
      { v with ports := s.ports, fresh := s.fresh } = s ∧ (∀ a, a ≠ asid → v.port a = s.port a) ∧
      v.port asid = { p with
        lastAddr := addr, lastSeq := if p.lastSeq = 0xFFFFFFFF then 1 else p.lastSeq + 1, accepted := p.accepted + 1, queue := p.queue ++ [addr],
        launches := p.launches ++ [{ asid := asid, seq := (if p.lastSeq = 0xFFFFFFFF then 1 else p.lastSeq + 1 : Word).toNat, addr := addr,
                                     before := p.accepted, order := s.fresh }] }) ∧
    (Config.portQueue ≤ p.queue.length ∨ p.stalled ≠ [] → ∃ v, exec (.lpSubmit asid value) s = .next v ∧
      OnlyPort s v asid { p with stalled := p.stalled ++ [(addr, .other)] })) ∧
  (∀ (s : State) (asid : Nat) (l : Launch) (a : VAddr) (rest : List VAddr),
    ((s.port asid).launches.find? fun l => l.state == .accepted) = some l → (s.port asid).queue = a :: rest → (s.port asid).stalled = [] →
    let refused := fun (v : State) (code : Nat) => (v.port asid).queue = rest ∧ (v.port asid).refused = true ∧
      (v.port asid).reason = BitVec.ofNat 8 code ∧ (v.port asid).refusedSeq = BitVec.ofNat 32 l.seq ∧ l.seq ∈ (v.port asid).signalled
    ((s.port asid).rootOk = false → ∃ v, exec (.launchRecordCheck asid) s = .next v ∧ refused v 8 ∧ v.launch? asid l.seq = none) ∧
    ((s.port asid).rootOk = true → ∀ ws rs, s.distRead asid l.addr.toNat 64 = .ok ws →
      s.readLeases asid ({ l with record := ws } : Launch).leaseList = .ok rs → let m : Launch := { l with record := ws, leases := rs }
      (∀ code, s.recordCode m = some code → ∃ v, exec (.launchRecordCheck asid) s = .next v ∧ refused v code ∧
        v.launch? asid l.seq = if m.signalOk = true then some { m with state := .refused, reason := code, refuseSignal := true } else none) ∧
      (s.recordCode m = none → ∃ v, exec (.launchRecordCheck asid) s = .next v ∧ (v.port asid).queue = rest ∧
        v.launch? asid l.seq = some { m with state := .waiting, toPlace := List.range m.teamCount }))) ∧
  ∀ (s : State) (asid seq : Nat) (l : Launch), s.launch? asid seq = some l →
    (l.state = .waiting → (s.port asid).dependencyMet l = true → (s.port asid).rootDue = false →
      ((s.port asid).rootOk = true → ∃ v P, exec (.dependencySatisfied asid seq) s = .next v ∧ OnlyPort s v asid P ∧
        v.launch? asid seq = some { l with state := .leasing }) ∧
      ((s.port asid).rootOk = false → ∃ v P, exec (.dependencySatisfied asid seq) s = .next v ∧ OnlyPort s v asid P ∧ P.reason = 8 ∧ P.refused = true ∧
        P.refusedSeq = BitVec.ofNat 32 seq ∧ v.launch? asid seq = some { l with state := .refused, reason := 8, refuseSignal := true })) ∧
    (l.state = .leasing → (∀ r, r ∈ l.leases → s.resident asid r.2.2 (r.2.1 / 65536 + 2) r.1 (r.1 + r.2.1) = true) →
      ∃ v P, exec (.leasingComplete asid seq) s = .next v ∧ OnlyPort s v asid P ∧
        v.launch? asid seq = some { l with state := .placing, place := s.settlePlace l }) ∧
    (l.state = .leasing → (∃ r, r ∈ l.leases ∧ s.unmapped asid (r.2.1 / 65536 + 2) r.1 (r.1 + r.2.1) = true) →
      ∃ v P, exec (.leasingComplete asid seq) s = .next v ∧ OnlyPort s v asid P ∧ P.reason = 8 ∧ P.refused = true ∧
        P.refusedSeq = BitVec.ofNat 32 seq ∧ v.launch? asid seq = some { l with state := .refused, reason := 8, refuseSignal := true }) ∧
    (l.state = .leasing → ∃ v P, exec (.leaseDeclined asid seq) s = .next v ∧ OnlyPort s v asid P ∧ P.reason = 8 ∧ P.refused = true ∧
      P.refusedSeq = BitVec.ofNat 32 seq ∧ v.launch? asid seq = some { l with state := .refused, reason := 8, refuseSignal := true })

/-- R28, R162, R167, R178 to R183: the next cluster of a placing launch has a team of its own at its entry state on each core of its place, and a
request for a child that finds room a team of one group, on its own core, or is handed to another core through the settling buffer. The side a child
takes, and the place of a co-located launch that had none when its placing began, are the model's choices (logs 58 and 65). -/
def Obligations.TeamsStartAtTheirEntryState : Prop :=  (∀ (s : State) (asid seq : Nat) (l : Launch) (spot : List Nat) (k : Nat), s.launch? asid seq = some l → s.nextSpot l = some spot →
    l.nextCluster = some k → s.mayPlace l spot = true → l.saved = [] →
    let place := (List.range l.clusterSize).filter fun m => l.toPlace.contains (k * l.clusterSize + m)
    ∃ v new, exec (.teamPlacement asid seq) s = .next v ∧ v.teams = s.teams ++ new ∧ v.mem = s.mem ∧
      new.map (fun t => (t.index, t.member, t.core)) = place.map (fun m => (k * l.clusterSize + m, m, spot.getD m 0)) ∧
      ∀ t, t ∈ new → t.asid = l.asid ∧ t.seq = l.seq ∧ t.cluster = k ∧ t.parent = none ∧ t.scratch = [] ∧ t.scratchBytes = l.scratchBytes ∧
        t.cooper.isSome = l.hasTile ∧ (∀ c, t.cooper = some c → c.cpc = l.addr + 256 ∧ c.wait = .running) ∧
        t.groups.length = l.groupRoles.length ∧ ∀ g, g ∈ t.groups → ∃ r, l.groupRoles[g.idx]? = some r ∧ g.role = l.roleKind r ∧
          g.regs = l.roleRegs r ∧ g.handler = false ∧ g.readK 1 = BitVec.ofNat 32 (l.roleKind r) ∧
          joinWords (g.readK 2) (g.readK 3) = l.addr.signExtend 64 ∧ ∀ i, i < 32 → (g.thread i).status = .running ∧
            (g.thread i).pc = BitVec.ofNat 56 (l.roleEntry r) ∧ (∀ j, (g.thread i).readV j = 0) ∧ (∀ b j, (g.thread i).readP b j = decide (j = 0))) ∧
  ∀ (s : State) (core rcv side : Nat) (q : SpawnReq) (p : Team), s.placeable core = some (q, rcv, side) → s.team? q.parent.team = some p →
    p.core = core →
    (rcv = core → s.team? s.fresh = none → ∃ v T g, exec (.childPlacement core) s = .next v ∧ v.team? s.fresh = some T ∧ T.parent = some q.parent ∧
      T.core = core ∧ (T.asid, T.seq, T.cluster, T.member) = (p.asid, p.seq, p.cluster, p.member) ∧ T.cooper = none ∧ T.groups = [g] ∧
      g.regs = descRegs q.desc ∧ g.depth = q.depth ∧ joinWords (g.readK 2) (g.readK 3) = q.da ∧ joinWords (g.readK 4) (g.readK 5) = q.arg ∧
      g.readK 6 = BitVec.ofNat 32 q.pos ∧ (∀ i, descThreads q.desc ≤ i → i < 32 → (g.thread i).status = .absent) ∧
      ∀ i, i < descThreads q.desc → i < 32 → (g.thread i).status = .running ∧ (g.thread i).pc = BitVec.ofNat 56 (descEntry q.desc) ∧
        ∀ j, (g.thread i).readV j = 0) ∧
    (rcv ≠ core → 0 < s.room core → ∃ v, exec (.childPlacement core) s = .next v ∧ v.mem = s.mem ∧
      (v.core core).buffer = (s.core core).buffer ++
        [Entry.mk ((s.core core).effNo + 1) (s.now core) q.parent.team (.spawn rcv q.parent q.desc q.da q.arg q.pos q.depth)])

/-- R163, R189, R190, R177: a team that is done reports its retirement through the settling buffer and its incomplete commands go; once the cores'
effects up to its flush are performed a launch is flushed; it writes its status at the word after its signal, then its number at the signal, and has
ended; the port remembers the signal as one of its latest 4,096 numbers. How far the flush waits and what it writes back are the model's choices (log
29). -/
def Obligations.TeamsRetireAndLaunchesSignal : Prop :=  (∀ (s : State) (team : Nat) (t : Team), s.team? team = some t → (∀ p, t.parent = some p → p.team ≠ team) → t.retiring = false →
    s.teamDone t = true → t.streamsDone = true → s.childReleased t = true → 2 ≤ s.room t.core →
    ∃ v, exec (.teamRetirement team) s = .next v ∧ v.mem = s.mem ∧
      v.team? team = some { t with retiring := true, engs := t.engs.map fun p => (p.1, { p.2 with cmd := [] }) } ∧
      ((v.core t.core).buffer.getLast?).map (·.eff) = some (.retire team) ∧
      (t.parent = none → (v.core t.core).buffer.length = (s.core t.core).buffer.length + 1 ∧ ∀ j, j ≠ team → v.team? j = s.team? j)) ∧
  (∀ (s : State) (asid seq : Nat) (l : Launch), s.launch? asid seq = some l → l.state = .flushing →
    (∀ x, x ∈ l.flushUpto → (∀ n, n ∈ (s.core x.1).writes → x.2 < n) ∧ (∀ n, n ∈ (s.core x.1).unmir → x.2 < n) ∧
      ∀ e, e ∈ (s.core x.1).buffer → x.2 < e.no) →
    ∀ (todo sent : List Nat) (pages : List (Nat × Nat)),
    l.flush = some (todo, sent) ∨ (l.flush = none ∧ sent = [] ∧ s.pagesOf l.asid = some pages ∧ todo = s.dirtyLines.filter (l.flushes pages)) →
    let ready := todo.filter fun n => !s.lineBusy n
    let u := ready.foldl (fun s n => s.cwbLine (s.cores.map (·.1)) (List.range Config.numDies) n) s
    ((∀ n, n ∈ todo → s.lineBusy n = false) → (∀ n, n ∈ sent ++ ready → u.lineBusy n = false) →
      ∃ v P, exec (.launchFlush asid seq) s = .next v ∧ OnlyPort u v asid P ∧
        v.launch? asid seq = some { l with state := .signalled, flush := none }) ∧
    (ready ≠ [] → (∃ n, n ∈ todo ∧ s.lineBusy n = true) ∨ (∃ n, n ∈ sent ++ ready ∧ u.lineBusy n = true) →
      ∃ v P, exec (.launchFlush asid seq) s = .next v ∧ OnlyPort u v asid P ∧
        v.launch? asid seq = some { l with flush := some (todo.filter s.lineBusy, sent ++ ready) })) ∧
  (∀ (s s1 s2 : State) (asid seq : Nat) (l : Launch), s.launch? asid seq = some l → l.state = .signalled ∨ l.state = .refused →
    s.signalWrite asid l 4 (BitVec.ofNat 32 (if l.state = .refused then l.reason else if l.gangKilled = true then 0x11
      else if l.teamEnded = true then 0x10 else l.reason)) = some s1 →
    s1.signalWrite asid l 0 (BitVec.ofNat 32 seq) = some s2 →
    ∃ v P, exec (.launchSignalWrite asid seq) s = .next v ∧ OnlyPort s2 v asid P ∧ v.launch? asid seq = none ∧
      (seqDelta P.lastSeq.toNat seq < Config.rememberedSeqs → seq ∈ P.signalled)) ∧
  ∀ (s : State) (asid off pa : Nat) (l : Launch) (x : Word), l.signalPa = some (pa - off) ∧ off ≤ pa ∨
      (l.signalPa = none ∧ ∃ e, s.walkPa asid (l.signal % 2 ^ 56 + off) = some (some e) ∧ pa = e.phys (l.signal % 2 ^ 56 + off)) →
    s.wordQuiet (pa / 4) = true → s.inTransition pa = false → isDevice (4 * (pa / 4)) = false → s.isDead (homeOf (4 * (pa / 4))) = false →
    s.mem.wf = true → ∃ v, s.signalWrite asid l off x = some v ∧ (v.homeWord (pa / 4)).1 = x

/-- R324, R320, R332, R404: a root written while a launch of the address space holds it is held pending and takes effect once none does, when every
translation of the address space is dropped; a 64-bit write of region 0x7 acts on the register its address names; `hk_ctl` is held pending while a
launch runs, and once locked ignores writes. When a device register is read or written is the model's choice (log 49). -/
def Obligations.PackageRegistersAreWritten : Prop :=  (∀ (s : State) (asid : Nat) (value : DWord), asid < Config.numAsids →
    let p := s.port asid
    let held := ∃ l, l ∈ p.launches ∧ l.state.holdsRoot = true
    let applied := fun (u : State) (x : DWord) => u.port asid = { p with root := x, rootPending := none } ∧ (∀ a, a ≠ asid → u.port a = s.port a) ∧
      u.mem = s.mem ∧ u.teams = s.teams ∧ ∀ c, (∀ e, e ∈ (u.core c).tlb → e.asid ≠ asid) ∧ ∀ e, e ∈ (u.core c).lastPage → e.2.asid ≠ asid
    (held → ∃ u, exec (.atRootWrite asid value) s = .next u ∧ OnlyPort s u asid { p with rootPending := some (value &&& 0x800FFFFFFFF00000) }) ∧
    (¬ held → ∃ u, exec (.atRootWrite asid value) s = .next u ∧ applied u (value &&& 0x800FFFFFFFF00000)) ∧
    (∀ x, p.rootPending = some x → ¬ held → ∃ u, exec (.atRootApply asid) s = .next u ∧ applied u x)) ∧
  (∀ (s : State) (pa : Nat) (value : DWord), isDevice pa = true → pa % 8 = 0 →
    let does := fun (i : Instr) => exec (.registerWrite pa value) s = exec i s
    (∀ a, a < Config.numAsids →
      (devReg pa = .port a 0x000 → does (.lpSubmit a value)) ∧ (devReg pa = .port a 0x198 → does (.lpPreemptWrite a value)) ∧
      (devReg pa = .port a 0x1A8 → does (.lpResumeWrite a value)) ∧ (devReg pa = .atRoot a → does (.atRootWrite a value)) ∧
      (∀ k, k < 18 → devReg pa = .port a (0x100 + 8 * k) → ∃ u, exec (.registerWrite pa value) s = .next u ∧
        OnlyPort s u a { s.port a with coreSet := SMap.put (s.port a).coreSet k value }) ∧
      (devReg pa = .port a 0x190 → ∃ u x, exec (.registerWrite pa value) s = .next u ∧ OnlyPort s u a { s.port a with trapVec := x } ∧
        x.toNat = value.toNat % 2 ^ 56 / 4 * 4) ∧
      (devReg pa = .port a 0x1A0 → ∃ u x, exec (.registerWrite pa value) s = .next u ∧ OnlyPort s u a { s.port a with saveBase := x } ∧
        x.toNat = value.toNat % 2 ^ 56 / 4096 * 4096)) ∧
    (devReg pa = .platform 0x08 → does (.hkCtlWrite value)) ∧ (devReg pa = .migrate 0x10 → does (.mgCtlGo value)) ∧
    (∀ d, d < Config.numDies → devReg pa = .die d → value.getLsbD 8 = true → does (.ddStateKill d))) ∧
  ∀ (s : State) (value : DWord),
    let runs := ∃ p l, p ∈ s.ports ∧ l ∈ p.2.launches ∧ l.state.holdsRoot = true
    (s.mgmt.hkLock = true → exec (.hkCtlWrite value) s = .next s) ∧
    (s.mgmt.hkLock = false → runs → exec (.hkCtlWrite value) s = .next { s with
      mgmt := { s.mgmt with hkLock := value.getLsbD 10, fabricPending := some (value.setWidth 10) } }) ∧
    (s.mgmt.hkLock = false → ¬ runs → ∃ u, exec (.hkCtlWrite value) s = .next u ∧
      u.mgmt = { s.mgmt with hkLock := value.getLsbD 10, fabricNum := value.setWidth 10, fabricPending := none } ∧ u.mem = s.mem ∧ u.teams = s.teams) ∧
    ∀ n, s.mgmt.fabricPending = some n → ¬ runs → ∃ u, exec .fabricNumApply s = .next u ∧
      u.mgmt = { s.mgmt with fabricNum := n, fabricPending := none } ∧ u.mem = s.mem ∧ u.teams = s.teams

/-- R382, R383: `mg_ctl` with go set refuses a move by its history, its leaf entry or its target, and otherwise puts the page in transition; once
nothing of the page is in flight its dirty words are written back, and once none is left its bytes stand in the new frame, the leaf entry names it and
the transition has ended; a window that ends leaves the history. What is counted, and what the move waits for, are the model's choices (log 47); that
go reads 1 once it was set is log 54. -/
def Obligations.PagesMigrate : Prop :=  (∀ (s : State) (value : DWord), let m : State := { s with mgAsid := value.setWidth 10, mgGo := true }
    let asid := (value.setWidth 10 : BitVec 10).toNat
    let page := s.mgVa.toNat / 65536
    let gives := fun (n : Nat) => exec (.mgCtlGo value) s = .next { m with mgStatus := n }
    (value.getLsbD 10 = false ∨ s.mgStatus = 1 → exec (.mgCtlGo value) s = .next { s with mgAsid := value.setWidth 10 }) ∧
    (value.getLsbD 10 = true → s.mgStatus ≠ 1 →
      (m.moveRefused asid page = true → gives 3) ∧
      (m.moveRefused asid page = false → m.walk asid s.mgVa = .invalid → gives 4) ∧
      ∀ e, m.moveRefused asid page = false → m.walk asid s.mgVa = .found e →
        (e.size ≠ 65536 ∨ e.attr ≠ 2 → gives 4) ∧
        (e.size = 65536 → e.attr = 2 → m.frameReachable s.mgFrame = false → gives 5) ∧
        (e.size = 65536 → e.attr = 2 → m.frameReachable s.mgFrame = true → ∃ u, exec (.mgCtlGo value) s = .next u ∧ u.mgStatus = 1 ∧
          u.mgJob = some { leaf := e.tags.headD 0, src := e.pa, dst := s.mgFrame } ∧
          u.transition = s.transition ++ [(e.pa, 65536, none)] ∧ u.mem = s.mem ∧ u.mgGo = true ∧
          ∃ x, u.movesOf asid page = some x ∧ x.moves = ((m.movesOf asid page).map (·.moves)).getD 0 + 1))) ∧
  (∀ (s : State) (j : MoveJob), s.mgStatus = 1 → s.mgJob = some j → s.mem.wf = true →
    j.src + 65536 ≤ j.dst ∨ j.dst + 65536 ≤ j.src →
    s.pageQuiet j.src 65536 = true → s.pageQuiet j.dst 65536 = true → s.wordQuiet (j.leaf / 4) = true → s.wordQuiet (j.leaf / 4 + 1) = true →
    regionOf j.src = 0 → regionOf j.dst = 0 → j.leaf % 8 = 0 → j.src % 65536 = 0 → j.dst % 65536 = 0 →
    (j.leaf + 8 ≤ j.dst ∨ j.dst + 65536 ≤ j.leaf) → regionOf j.leaf = 0 → s.isDead (homeOf j.leaf) = false →
    (s.dirtyIn j.src ≠ [] → exec .pageMigrationComplete s =
      .next ((s.dirtyIn j.src).foldl (fun s l => s.cwbLine (s.cores.map (·.1)) (List.range Config.numDies) l) s)) ∧
    (s.dirtyIn j.src = [] → ∃ u, exec .pageMigrationComplete s = .next u ∧ u.mgStatus = 2 ∧ u.mgJob = none ∧
      u.transition = s.transition.filter (fun t => !(t.1 == j.src && t.2.2.isNone)) ∧
      (∀ b, b < 65536 → u.mem.get (j.dst + b) = s.mem.get (j.src + b)) ∧
      (∀ x y, s.view none (j.leaf / 4) = some x → s.view none (j.leaf / 4 + 1) = some y →
        u.mem.dword j.leaf = (joinWords x.1 y.1 &&& 0xFFF000000000FFFF) ||| BitVec.ofNat 64 j.dst) ∧
      ∀ a, (a < j.dst ∨ j.dst + 65536 ≤ a) → (a < j.leaf ∨ j.leaf + 8 ≤ a) → u.mem.get a = s.mem.get a)) ∧
  ∀ (s : State) (asid page : Nat), (s.movesOf asid page).isSome = true → ∃ u, exec (.moveWindowEnd asid page) s = .next u ∧
    { u with moves := s.moves } = s ∧ u.movesOf asid page = none ∧ ∀ a p, (a, p) ≠ (asid, page) → u.movesOf a p = s.movesOf a p

/-- R143, R184, R185, R187, R188, R332, R336: a drained group whose trap is pending enters its handler; a Cooper's trap runs the team handler on the
lowest group that can; a group that became divided at a full quantum rotates; the oldest ready pending group takes a place of the active set; a new
window restores the tokens, and halves the scores, of every team of its core. That each is a step of its own, in turns, is the model's choice (log 2),
and so are that a handler's entry is an event apart from the trap (log 10), that a rotation without a favour starts at the lowest live position (log
24), and the slot whose score rises (log 31). -/
def Obligations.GroupAndWindowEvents : Prop :=  (∀ (s : State) (team group : Nat) (t : Team) (g : Group), s.team? team = some t → t.group? group = some g →
    let enters := fun (i : Instr) (own : Bool) => ∃ u T G, exec i s = .next u ∧ OnlyTeam s u team T ∧ OnlyGroup t T group G ∧
      G.handler = true ∧ G.teamHandler = !own ∧ G.pending = .none ∧ G.fmask = (if own = true then g.fmask else 0) ∧
      ∀ i, ((g.thread i).status = .running ∨ (g.thread i).status = .parked → G.thread i = { g.thread i with
          status := .running, held := (g.thread i).status, resume := some (g.thread i).pc, pc := (s.port t.asid).trapVec, stall := [], kstall := [] }) ∧
        ((g.thread i).status = .exited ∨ (g.thread i).status = .absent → G.thread i = { g.thread i with stall := [], kstall := [] })
    (g.pending = .own → g.drained = true → enters (.trapHandlerEntry team group) true) ∧
    (g.pending = .team → g.drained = true → enters (.trapHandlerEntry team group) false) ∧
    (t.handlerDue = true → t.handlerGroup = some group →
      (g.drained = true → enters (.teamHandlerEntry team) false) ∧
      (g.drained = false → ∃ u T G, exec (.teamHandlerEntry team) s = .next u ∧ OnlyTeam s u team T ∧ OnlyGroup t T group G ∧
        G = { g with pending := .team })) ∧
    (g.divided = true → g.quantum.toNat ≠ 0 → g.quantum.toNat ≤ g.n → ∃ u T G, exec (.quantumRotation team group) s = .next u ∧
      OnlyTeam s u team T ∧ OnlyGroup t T group G ∧ G.n = 0 ∧ { G with n := g.n, favour := g.favour } = g ∧
      ∀ i, i < 32 → (g.thread i).live = true → (∀ j, j < i → (g.thread j).live = false) → G.favour = (g.rotate i).favour)) ∧
  (∀ (s : State) (team : Nat) (t : Team), s.team? team = some t → t.handlerDue = true → t.handlerGroup = none →
    exec (.teamHandlerEntry team) s = .next (s.endTeam team (t.tcause.toNat % 64) 0 0)) ∧
  (∀ (s : State) (core side : Nat) (p : Seat) (t : Team) (g : Group), (s.seats core side).find? (fun x => !x.active && x.ready) = some p →
    s.team? p.team = some t → t.group? p.group = some g → let act := (s.seats core side).filter (·.active)
    (act.length < 8 → ∃ u T, exec (.groupSwap core side) s = .next u ∧ OnlyTeam s u p.team T ∧ OnlyGroup t T p.group { g with active := true }) ∧
    (8 ≤ act.length → ∀ a ta ga, act.find? (·.waiting) = some a → s.team? a.team = some ta → ta.group? a.group = some ga →
      (a.team, a.group) ≠ (p.team, p.group) → ∃ u T A, exec (.groupSwap core side) s = .next u ∧ { u with teams := s.teams } = s ∧
        u.team? p.team = some T ∧ T.group? p.group = some { g with active := true } ∧ u.team? a.team = some A ∧
        A.group? a.group = some { ga with active := false } ∧ ∀ j, j ≠ p.team → j ≠ a.team → u.team? j = s.team? j) ∧
    (8 ≤ act.length → act.find? (·.waiting) = none → exec (.groupSwap core side) s = .refused .notDue)) ∧
  ∀ (s : State) (core : Nat), let w := s.now core / Config.tokenWindow
    ((s.core core).window < w → ∃ u, exec (.tokenWindowStart core) s = .next u ∧ u.core core = { s.core core with window := w } ∧
      (∀ c, c ≠ core → u.core c = s.core c) ∧ { u with teams := s.teams, cores := s.cores } = s ∧
      ∀ id t, s.team? id = some t → u.team? id = some (if t.core = core then
        { t with tensorSpent := 0, sfuSpent := 0, tensorIssued := false, sfuIssued := false } else t)) ∧
    ((s.core core).halved < w → ∃ u, exec (.throttleScoreHalving core) s = .next u ∧ u.core core = { s.core core with halved := w } ∧
      (∀ c, c ≠ core → u.core c = s.core c) ∧ { u with teams := s.teams, cores := s.cores } = s ∧
      ∀ id t, s.team? id = some t → u.team? id = some (if t.core = core then
        { t with groups := t.groups.map fun (g : Group) => { g with score := g.score / 2 } } else t))

/-- R345, R346, R350, R352 to R356: the oldest entry settles once it has aged; the two newest snapshots are kept; a strike is counted and rolls the
core back to a kept snapshot, or kills the gangs on it where none serves; a second checker mismatch of one origin fences the core; an uncorrectable
error poisons what its array lost. How a rollback restores a snapshot or a mark, which reports are due, and the poison of a directory or page-table
word are the model's choices (logs 23, 44 and 66). -/
def Obligations.StrikesSettlingAndPoison : Prop :=  (∀ (s : State) (core : Nat) (e : Entry) (r : List Entry), (s.core core).buffer = e :: r →
    (s.bound core ≤ s.now core - e.made → ∃ u, exec (.settle core) s = .next u ∧ (u.core core).settled = e.no ∧ (u.core core).settledAt = e.made ∧
      (∀ rcv bs n t, e.eff = .remoteScratch rcv bs n → s.member? rcv = some t → t.retiring = false → s.team? t.id = some t → (s.core core).ops = [] →
        ∃ T, u.team? t.id = some T ∧ ∀ a x, lastWrite bs a = some x → t.scratch.wf = true → T.scratch.get a = x)) ∧
    (s.now core - e.made < s.bound core → exec (.settle core) s = .refused .notDue)) ∧
  (∀ (s : State) (core : Nat), s.alive (dieOf core) = true → (s.core core).stop = none → s.now core % s.bound core = 0 →
    (∀ x, x ∈ (s.core core).snaps → x.at' ≠ s.now core) → ∃ u k, exec (.snapshot core) s = .next u ∧ OnlyCore s u core k ∧
      k.snaps = (s.saveOf core :: (s.core core).snaps).take 2 ∧ { k with snaps := (s.core core).snaps, journal := (s.core core).journal } = s.core core) ∧
  (∀ (s : State) (core time : Nat), s.coreRuns core = true → s.recent core time = true →
    let k := s.core core
    let struck := s.mapCore core fun k => { k with strikes := min (2 ^ 16 - 1) (k.strikes + 1) }
    let goesBack := fun (u : State) (x : Saved) => (u.core core).rollbacks = min (2 ^ 32 - 1) (k.rollbacks + 1) ∧
      (u.core core).settled = k.settled ∧ ∀ t, t ∈ u.teams → t.core = core → ∃ y, y ∈ x.teams ∧ y.id = t.id
    (k.fenced = true → exec (.strikeReport core time) s = .next struck) ∧
    (k.fenced = false → k.rollbackTo time = none → exec (.strikeReport core time) s = .next (struck.killOn core 0x10)) ∧
    (k.fenced = false → ∀ x y, k.rollbackTo time = some (x, y) →
      (x.lost = true → exec (.strikeReport core time) s = .next (struck.killOn core 0x11)) ∧
      (x.lost = false → ∃ u, exec (.strikeReport core time) s = .next u ∧ goesBack u y ∧ (u.core core).strikes = min (2 ^ 16 - 1) (k.strikes + 1))) ∧
    ∀ origin, k.fenced = false →
      (s.secondMismatch core origin time = true → ∃ u, exec (.checkerMismatch core origin time) s = .next u ∧ (u.core core).fenced = true ∧
        (u.core core).pipelineError = true ∧ (u.core core).mismatches = min (2 ^ 16 - 1) (k.mismatches + 1)) ∧
      (s.secondMismatch core origin time = false → ∀ x y, k.rollbackTo time = some (x, y) → x.lost = false →
        ∃ u, exec (.checkerMismatch core origin time) s = .next u ∧ goesBack u y ∧ (u.core core).fenced = false ∧
          (u.core core).mismatches = min (2 ^ 16 - 1) (k.mismatches + 1) ∧ (u.core core).origin = origin ∧ (u.core core).originAt = time)) ∧
  ∀ (s : State),
    (∀ pa, onPackage pa = true → ∃ u, exec (.uncorrectableError (.dram pa)) s = .next u ∧ { u with poison := s.poison } = s ∧
      ∀ w, w ∈ u.poison ↔ w = pa / 4 ∨ w ∈ s.poison) ∧
    (∀ core pa, s.coreRuns core = true → ∃ u k, exec (.uncorrectableError (.l1 core pa)) s = .next u ∧ OnlyCore s u core k ∧
      ∀ line w, k.l1.cell line w = if line = pa / 128 ∧ w = pa / 4 % 32 ∧ ((s.core core).l1.cell line w).st ≠ .i then
        { (s.core core).l1.cell line w with poison := true } else (s.core core).l1.cell line w) ∧
    (∀ die pa, die < Config.numDies → s.dies.length = Config.numDies → s.alive die = true → ∃ u k,
      exec (.uncorrectableError (.rdc die pa)) s = .next u ∧ OnlyDie s u die k ∧
      ∀ line w, k.rdc.cell line w = if line = pa / 128 ∧ w = pa / 4 % 32 ∧ ((s.die die).rdc.cell line w).st ≠ .i then
        { (s.die die).rdc.cell line w with poison := true } else (s.die die).rdc.cell line w) ∧
    (∀ team off t, s.team? team = some t → off < t.granules.length * Config.granuleBytes → ∃ u T,
      exec (.uncorrectableError (.scratch team off)) s = .next u ∧ OnlyTeam s u team T ∧ { T with scratchPoison := t.scratchPoison } = t ∧
      ∀ w, w ∈ T.scratchPoison ↔ w = off / 4 ∨ w ∈ t.scratchPoison) ∧
    (∀ team group pos reg t g, s.team? team = some t → t.group? group = some g → pos < 32 → pos < g.threads.length → reg < g.regs → ∃ u T G,
      exec (.uncorrectableError (.vreg team group pos reg)) s = .next u ∧ OnlyTeam s u team T ∧ OnlyGroup t T group G ∧
      (∀ i, i ≠ pos → G.thread i = g.thread i) ∧ { G.thread pos with poison := (g.thread pos).poison } = g.thread pos ∧
      ∀ j, j ∈ (G.thread pos).poison ↔ j = reg ∨ j ∈ (g.thread pos).poison) ∧
    (∀ team off t, s.team? team = some t →
      (off < 4096 * t.mregs.length → ∃ u T, exec (.uncorrectableError (.mreg team off)) s = .next u ∧ OnlyTeam s u team T ∧
        { T with mPoison := t.mPoison } = t ∧ ∀ w, w ∈ T.mPoison ↔ w = off / 4 ∨ w ∈ t.mPoison) ∧
      (off < 4096 * t.accs.length → ∃ u T, exec (.uncorrectableError (.acc team off)) s = .next u ∧ OnlyTeam s u team T ∧
        { T with accPoison := t.accPoison } = t ∧ ∀ w, w ∈ T.accPoison ↔ w = off / 4 ∨ w ∈ t.accPoison)) ∧
    (∀ team group reg t g, s.team? team = some t → t.group? group = some g → 0 < reg → reg < 72 → ∃ u T G,
      exec (.uncorrectableError (.kreg team group reg)) s = .next u ∧ OnlyTeam s u team T ∧ OnlyGroup t T group G ∧
      { G with kpoison := g.kpoison } = g ∧ ∀ j, j ∈ G.kpoison ↔ j = reg ∨ j ∈ g.kpoison) ∧
    (∀ die pa, s.alive die = true → (s.die die).l2.contains (pa / 128) = true → ∃ u, exec (.uncorrectableError (.l2 die pa)) s = .next u ∧
      { u with poison := s.poison } = s ∧ ∀ w, w ∈ u.poison ↔ w = pa / 4 ∨ w ∈ s.poison) ∧
    ∀ core time, (∃ x, x ∈ (s.core core).snaps ∧ x.at' = time) → ∃ u k, exec (.uncorrectableError (.snapshot core time)) s = .next u ∧
      OnlyCore s u core k ∧ { k with snaps := (s.core core).snaps } = s.core core ∧
      k.snaps = (s.core core).snaps.map fun x => if x.at' = time then { x with lost := true } else x

/-- R339, R340, R342 to R344, R275: a write to `lp_preempt` stops the launch it names, if that runs or is placing and the save area takes its images;
once every team is quiet and its effects are performed, each team's image enters its core's settling buffer line by line, the team leaves the machine
when its image is written, and the launch is pre-empted when none is left; a launch with laps leaves without images; a write to `lp_resume` brings the
launch saved last back to placing, any other is ignored; a gang whose roles have all reached the lap has its images written, which then are its
vintage, and goes on. What the images hold, the port's state after a resume and the lap's token are the model's choices (logs 16, 42 and 43). -/
def Obligations.PreemptionAndVintages : Prop :=  (∀ (s : State) (asid : Nat) (v : DWord), asid < Config.numAsids → let p := s.port asid
    let seq := v.toNat % 2 ^ 32
    let q : Port := { p with stride := v.toNat / 2 ^ 32 % 2 ^ 24, preemptSeq := BitVec.ofNat 32 seq }
    let answers := fun (c : Nat) (k : Bool) => ∃ u, exec (.lpPreemptWrite asid v) s = .next u ∧ OnlyPort s u asid { q with pstate := c, preemptCheck := k }
    (p.pstate = 1 → exec (.lpPreemptWrite asid v) s = .next s) ∧
    (p.pstate ≠ 1 → (s.launch? asid seq = none → answers 5 false) ∧ ∀ l, s.launch? asid seq = some l → l.asid = asid →
      (l.state ≠ .running → l.state ≠ .placing → answers 5 false) ∧
      (l.state = .running ∨ l.state = .placing → let check := (s.mapPort asid fun _ => q).imagesCheck l
        (l.laps = 0 → (∃ t, t ∈ s.residents l ∧ q.stride * 4096 < imageBytes t ((s.familyOf t).drop 1)) → answers 3 false) ∧
        (l.laps = 0 → ∀ c, check = some c → c ≠ 2 → answers c false) ∧
        (l.laps = 0 → check = none → answers 1 true) ∧
        (l.laps ≠ 0 ∨ check = some 2 → ∃ u P, exec (.lpPreemptWrite asid v) s = .next u ∧ OnlyPort s u asid P ∧ P.pstate = 1 ∧
          u.launch? asid seq = some { l with state := .preempting, flushUpto := [], imaging := none })))) ∧
  (∀ (s : State) (asid : Nat) (l : Launch), (s.port asid).preemptCheck = false →
    ((s.port asid).launches.find? fun l => l.state == .preempting) = some l → l.asid = asid →
    s.launch? asid l.seq = some l → let cores := s.launchCores l
    (l.laps ≠ 0 → l.vintaging = [] → ∃ u m, exec (.preemptSaved asid) s = .next u ∧ u.mem = s.mem ∧ (u.port asid).pstate = 2 ∧
      u.launch? asid l.seq = some m ∧ m.state = .preempted ∧ u.residents l = []) ∧
    (l.laps = 0 → l.imaging = none → (∀ t, t ∈ s.teams → t.asid = asid → t.seq = l.seq → s.quiet t = true) →
      (l.flushUpto = [] → cores ≠ [] → ∃ u P, exec (.preemptSaved asid) s = .next u ∧ OnlyPort s u asid P ∧ P.pstate = (s.port asid).pstate ∧
        u.launch? asid l.seq = some { l with flushUpto := cores.map fun c => (c, (s.core c).effNo) }) ∧
      (l.flushUpto ≠ [] ∨ cores = [] → (∀ c, c ∈ cores → (s.core c).paths = []) → s.saveFlushed l = true →
        (∀ code, s.imagesCheck l = some code → code ≠ 2 → ∃ u m, exec (.preemptSaved asid) s = .next u ∧ u.teams = s.teams ∧ u.mem = s.mem ∧
          (u.port asid).pstate = code ∧ u.launch? asid l.seq = some m ∧ m.state ≠ .preempting ∧ m.toPlace = l.toPlace) ∧
        (s.imagesCheck l = some 2 → ∃ u P, exec (.preemptSaved asid) s = .next u ∧ OnlyPort { s with fresh := s.fresh + 1 } u asid P ∧
          u.launch? asid l.seq = some { l with imaging := some s.fresh }))) ∧
    (l.laps = 0 → ∀ save, l.imaging = some save → let ts := sortBy (fun (a b : Team) => decide (a.index ≤ b.index)) (s.residents l)
      let kids := fun (t : Team) => (s.familyOf t).drop 1
      let step := fun (t : Team) => s.imageStep t (kids t) ((s.port asid).imageBase t) (teamImage save t (kids t) none)
      (∀ a b t u, ts = a ++ t :: b → (∀ x, x ∈ a → step x = none) → step t = some u → exec (.preemptSaved asid) s = .next u) ∧
      (∀ a b t, ts = a ++ t :: b → (∀ x, x ∈ ts → step x = none) → (∀ x, x ∈ a → s.imageDone x (kids x) = false) → s.imageDone t (kids t) = true →
        ∃ u m, exec (.preemptSaved asid) s = .next u ∧ u.mem = s.mem ∧
          u.teams = s.teams.filter (fun x => !((s.familyOf t).map (·.id)).contains x.id) ∧ u.launch? asid l.seq = some m ∧ m.state = .preempting ∧
          SMap.get? m.saved t.index = some ((s.familyOf t).map Team.atSave) ∧ SMap.get? m.savedAt t.index = some ((s.port asid).imageBase t)) ∧
      (s.residents l = [] → ∃ u m, exec (.preemptSaved asid) s = .next u ∧ u.teams = s.teams ∧ u.mem = s.mem ∧ (u.port asid).pstate = 2 ∧
        u.launch? asid l.seq = some m ∧ m.state = .preempted ∧ m.saved = l.saved ∧ ∀ i, i ∈ l.saved.map (·.1) → i ∈ m.toPlace))) ∧
  (∀ (s u : State) (t : Team) (kids : List Team) (va n : Nat) (ws : List Word), s.team? t.id = some t → t.imageAt = some n →
    s.imageStep t kids va ws = some u → let lines := ((chunks32 (ws.length / 32 + 1) ws).drop n).take (s.room t.core)
    u.mem = s.mem ∧ u.team? t.id = some { t with imageAt := some (n + lines.length) } ∧
    (u.core t.core).buffer.map (·.eff) = (s.core t.core).buffer.map (·.eff) ++ lines.zipIdx.map fun x => .image t.asid (va + 128 * (n + x.2)) x.1) ∧
  (∀ (s : State) (asid : Nat) (v : DWord), asid < Config.numAsids → let p := s.port asid
    let seq := v.toNat % 2 ^ 32
    (∀ l, s.launch? asid seq = some l → l.state = .preempted → p.preemptSeq.toNat = seq → l.toPlace ≠ [] →
      ∃ u P, exec (.lpResumeWrite asid v) s = .next u ∧ OnlyPort s u asid P ∧
        { P with launches := p.launches } = { p with pstate := 0, resumeSeq := BitVec.ofNat 32 seq } ∧
        u.launch? asid seq = some { l with state := .placing, cursor := 0 }) ∧
    ((∀ l, s.launch? asid seq = some l → l.state ≠ .preempted ∨ p.preemptSeq.toNat ≠ seq) → exec (.lpResumeWrite asid v) s = .next s)) ∧
  ∀ (s : State) (asid seq cluster : Nat) (l : Launch), s.launch? asid seq = some l → l.asid = asid → l.seq = seq → let ts := s.gang asid seq cluster
    let lap := l.nextLap cluster
    let b := SMap.getD l.vintageBuf cluster 0
    ts.length = l.clusterSize →
    (SMap.get? l.vintaging cluster = none → l.state ≠ .preempting → (∀ t, t ∈ ts → s.teamAtLap t = true ∧ s.quiet t = true) →
      (s.childless ts = false ∨ s.vintagePages asid b ts = some false → ∃ u P, exec (.vintageWrite asid seq cluster) s = .next u ∧
        OnlyPort s u asid P ∧ u.launch? asid seq = some { l with vintageNext := SMap.put l.vintageNext cluster (lap + l.laps) }) ∧
      (s.childless ts = true → s.vintagePages asid b ts = some true → ∃ u P, exec (.vintageWrite asid seq cluster) s = .next u ∧
        OnlyPort { s with fresh := s.fresh + 1 } u asid P ∧
        u.launch? asid seq = some { l with vintaging := SMap.put l.vintaging cluster (s.fresh, lap) })) ∧
    ∀ save x, SMap.get? l.vintaging cluster = some (save, x) →
      let step := fun (t : Team) => s.imageStep t [] ((s.port asid).vintageBase t b) (teamImage save t [] (some lap))
      (∀ y z t u, ts.filter s.teamAtLap = y ++ t :: z → (∀ x, x ∈ y → step x = none) → step t = some u →
        exec (.vintageWrite asid seq cluster) s = .next u) ∧
      ((∀ t, t ∈ ts.filter s.teamAtLap → step t = none) → (∀ t, t ∈ ts → s.imageDone t [] = true) → ∃ u m,
        exec (.vintageWrite asid seq cluster) s = .next u ∧ u.mem = s.mem ∧ u.launch? asid seq = some m ∧
        SMap.get? m.vintage cluster = some (lap, ts.map Team.atSave) ∧ SMap.getD m.vintageBuf cluster 0 = 1 - b ∧ m.nextLap cluster = lap + l.laps)

/-- R214, R366, R370 to R372: a request for words that no unit holds is granted by their home, which registers the requester as their owner; an atomic
is performed on the home's word and its `Cmp` brings the old values; the answer that a transaction waits for is passed on in the grant, or the grant
says that the owner has sent the data itself; a write-back is granted for the words its sender owns, and its data is written and acknowledged; a
`CleanEv` ends its sender's registrations. That waiting snoops and some grant fields are as the model has them is logs 7 and 25; what the filters hold
is log 17. -/
def Obligations.RequestsAreServedAtTheirHome : Prop :=  (∀ k mk (m : Msg), (k, mk) ∈ [(MsgKind.rds, Instr.rds), (.rdOwn, .rdOwn), (.ownNd, .ownNd), (.upg, .upg)] →
    ∀ (s : State) (d c : Nat), Alone s k m d → HomeFree s d → m.dst = .home d → (m.src = .l1 c ∧ dieOf c = d) ∨ m.src = .app c ∨
        (m.src = .rdc c ∧ c ≠ d ∧ (s.die c).rdcHub.waitq = [] ∧ s.filterRoom (.home d) m = true) →
      homeOf (m.line * 128) = .home d → (∀ e, e ∈ (s.die d).home.dir → e.1 ≠ m.line) →
      ∃ u, exec (mk m) s = .next u ∧ u.mem = s.mem ∧ u.teams = s.teams ∧ u.cores = s.cores ∧
        u.wires = [Wire.mk .gnt { src := .home d, dst := m.src, line := m.line, mask := m.mask, tag := m.tag, excl := m.mask,
                                  poison := maskOfWords ((wordsOf m.mask).filter fun w => (s.homeWord (m.line * 32 + w)).2),
                                  data := (wordsOf m.mask).map fun w => (w, (s.homeWord (m.line * 32 + w)).1) }] ∧
        ∀ w, w < 32 → ((u.die d).home.entry m.line).ownerOf w = if m.mask.getLsbD w = true then some m.src else none) ∧
  (∀ (s : State) (m : Msg) (d c w : Nat), Alone s .atomReq m d → HomeFree s d → m.dst = .home d → m.src = .core c → dieOf c = d →
    (∀ e, e ∈ (s.die d).home.dir → e.1 ≠ m.line) → w < 32 → m.mask = bitOf w → regionOf (4 * (m.line * 32 + w)) = 0 →
    s.isDead (homeOf (4 * (m.line * 32 + w))) = false → s.isPoisoned (m.line * 32 + w) = false → s.mem.wf = true →
    let r := atomAll m.op (s.homeWord (m.line * 32 + w)).1 (atomOperands m.op m.args)
    ∃ u, exec (.atomReq m) s = .next u ∧ (u.homeWord (m.line * 32 + w)).1 = r.1 ∧ u.teams = s.teams ∧
      u.wires = [Wire.mk .cmp { src := .home d, dst := .core c, line := m.line, mask := m.mask, tag := m.tag, args := r.2 }]) ∧
  (∀ k mk (m : Msg), (k, mk) ∈ [(MsgKind.snpData, Instr.snpData), (.snpAck, .snpAck)] →
    ∀ (s : State) (d c w : Nat) (t : Txn), Alone s k m d → (s.die d).home.txns = [t] → (s.die d).home.waitq = [] → m.dst = .home d →
      m.line = t.msg.line → homeOf (m.line * 128) = .home d → t.req = .rdOwn → t.msg.src = .l1 c → w < 32 → t.msg.mask = bitOf w → t.waits = [(m.src, t.msg.mask)] → t.queue = [] →
      t.got = [] → t.sent = 0 → t.dirty = 0 → t.poison = 0 → m.poison = 0 → m.asked = bitOf w → m.reader = none → (∃ b, m.src = .l1 b ∨ m.src = .rdc b ∧ b ≠ d) →
      (∀ b, m.src = .rdc b → (s.die b).rdcHub.waitq = []) →
      ((m.dirty = 0 ∧ m.data = [] ∧ m.excl = 0 ∧ (s.homeWord (m.line * 32 + w)).2 = false) ∨
        (m.dirty = bitOf w ∧ m.excl = 0 ∧ ∃ x, m.data = [(w, x)]) ∨ (m.data = [] ∧ m.excl = bitOf w ∧ (m.dirty = 0 ∨ m.dirty = bitOf w))) →
      ∃ u, exec (mk m) s = .next u ∧ (u.die d).home.txns = [] ∧ ((u.die d).home.entry m.line).ownerOf w = some (.l1 c) ∧ u.mem = s.mem ∧
        u.wires = [Wire.mk .gnt { src := .home d, dst := .l1 c, line := m.line, mask := bitOf w, tag := t.msg.tag, excl := bitOf w, dirty := m.dirty,
                                  asked := m.excl, data := if m.excl = 0 then
                                    [(w, ((m.data.head?).map (·.2)).getD (s.homeWord (m.line * 32 + w)).1)] else [] }]) ∧
  (∀ (s : State) (m : Msg) (d c : Nat), Alone s .wbReq m d → HomeFree s d → m.dst = .home d → m.src = .l1 c →
    ∃ u, exec (.wbReq m) s = .next u ∧ u.mem = s.mem ∧ u.cores = s.cores ∧ u.wires = [Wire.mk .wbGnt {
      src := .home d, dst := .l1 c, line := m.line,
      mask := maskOfWords ((wordsOf m.mask).filter fun w => ((s.die d).home.entry m.line).ownerOf w == some m.src) }]) ∧
  (∀ (s : State) (m : Msg) (d c w : Nat) (x : Word), Alone s .wbData m d → (s.die d).home.waitq = [] → m.dst = .home d → m.src = .l1 c →
    m.data = [(w, x)] → regionOf (4 * (m.line * 32 + w)) = 0 → s.isDead (homeOf (4 * (m.line * 32 + w))) = false → s.mem.wf = true →
    ∃ u, exec (.wbData m) s = .next u ∧ u.wires = [Wire.mk .cmp { src := .home d, dst := .core c, line := m.line, mask := m.mask }] ∧
      (u.homeWord (m.line * 32 + w)).1 = x ∧ u.teams = s.teams ∧
      (u.die d).home.txns = (s.die d).home.txns.filter fun t => !(t.on m.line && t.req == .wb && t.msg.src == m.src && (t.msg.mask &&& m.mask) != 0)) ∧
  ∀ (s : State) (m : Msg) (d c : Nat), Alone s .cleanEv m d → (s.die d).home.waitq = [] → m.dst = .home d → m.src = .l1 c →
    let e := (s.die d).home.entry m.line
    e.owner.sorted = true → e.sharers.sorted = true →
    ∃ u, exec (.cleanEv m) s = .next u ∧ u.wires = [] ∧ u.mem = s.mem ∧ ∀ w, w < 32 → let f := (u.die d).home.entry m.line
      (m.mask.getLsbD w = true → f.ownerOf w ≠ some m.src ∧ m.src ∉ f.sharersOf w) ∧
      (m.mask.getLsbD w = false → f.ownerOf w = e.ownerOf w ∧ f.sharersOf w = e.sharersOf w)

/-- R370 to R375, R379, R210: a grant fills the words of an L1, and waits for data that their owner sends; a snoop of an owned word is answered with
its value, to the home or to the requester it names, and leaves it shared or invalid, but waits while the word's last store has not settled; a granted
write-back leaves the victim buffer as data; `Cmp` and `MarkAck` end what a core waits for; mirrored words stand in the mirror store until they are
cleared; a marker is answered once what came ahead of it has been performed; a message that no route is left for does not arrive. The answer to a
snoop of a modified word (log 25) and the routes R364 leaves open (log 68) are the model's choices. -/
def Obligations.MessagesActAtCachesAndCores : Prop :=  (∀ (s : State) (m : Msg) (d c w : Nat) (x : Word), Alone s .gnt m d → (s.die d).home.waitq = [] → m.src = .home d → m.dst = .l1 c →
    L1Holds s c m.line → w < 32 → m.mask.getLsbD w = true → (∀ v, v < 32 → v ≠ w → m.asked.getLsbD v = false) →
    ((s.core c).cell m.line w).st = .i → ((s.core c).cell m.line w).pendMask = 0 → ((s.core c).cell m.line w).loose = false →
    (∀ e, s.early = [e] → e.dst = m.dst ∧ e.line = m.line) → s.early.length < 2 →
    let dirty := m.dirty.getLsbD w || s.early.any fun e => e.dirty.getLsbD w
    let poison := m.poison.getLsbD w || s.early.any fun e => e.poison.getLsbD w
    (((m.data.find? fun y => y.1 == w) = some (w, x) ∧ s.early = []) ∨ ((m.data.find? fun y => y.1 == w) = none ∧ ∃ e, s.early = [e] ∧ e.data = [(w, x)]) →
      ∃ u, exec (.gnt m) s = .next u ∧ u.mem = s.mem ∧ u.early = [] ∧ let g := (u.core c).cell m.line w
        g.val = x ∧ g.tracked = true ∧ g.poison = poison ∧ g.st = if m.excl.getLsbD w = true then (if dirty = true then .m else .e) else .s) ∧
    (m.asked.getLsbD w = true → (m.data.find? fun y => y.1 == w) = none → s.early = [] → exec (.gnt m) s = .refused .notDue)) ∧
  (∀ (s : State) (m : Msg) (d c : Nat), Alone s .snpData m d → m.dst = .l1 c → m.reader = some (.l1 c) → s.isDead (homeOf (m.line * 128)) = false →
    (s.hub m.src).waitq = [] → (s.hub m.src).outq = [] → (∃ b, m.src = .l1 b ∨ m.src = .rdc b) →
    exec (.snpData m) s = .next { s with wires := [], early := s.early ++ [m] }) ∧
  (∀ k mk (m : Msg), (k, mk) ∈ [(MsgKind.snpFwd, Instr.snpFwd), (.snpOwn, .snpOwn), (.snpInv, .snpInv), (.snpRcl, .snpRcl)] →
    ∀ (s : State) (d c w : Nat), Alone s k m d → (s.die d).home.waitq = [] → m.src = .home d → m.dst = .l1 c → w < 32 → m.mask = bitOf w →
      (((s.core c).l1.line? m.line).isSome = true ∨ ((s.core c).victim.line? m.line).isSome = true) →
      let g := (s.core c).cell m.line w
      let held := if g.tracked = true ∧ g.st ≠ .i then bitOf w else 0
      let gives := g.tracked = true ∧ g.st ≠ .i ∧ (g.loose = true ∨ (k ≠ .snpInv ∧ (g.st = .m ∨ g.st = .e)))
      let dirty := if g.st = .m ∨ g.loose = true then bitOf w else 0
      let poison := if g.poison = true then bitOf w else 0
      let back : Msg := { src := .l1 c, dst := .home d, line := m.line, mask := held, tag := m.tag, asked := bitOf w }
      let after := fun (u : State) => (u.core c).cell m.line w
      (g.suppliable = true ∨ held = 0 →
        (gives → m.reader = none → ∃ u, exec (mk m) s = .next u ∧
          u.wires = [Wire.mk .snpData { back with data := [(w, g.val)], dirty := dirty, poison := poison }]) ∧
        (∀ r, gives → m.reader = some r → (∃ b, r = .l1 b ∨ r = .rdc b) → ∃ u, exec (mk m) s = .next u ∧ u.wires = [
          Wire.mk .snpData { back with dst := r, reader := some r, data := [(w, g.val)], dirty := if k = .snpFwd then 0 else dirty, poison := poison },
          Wire.mk .snpAck { back with excl := bitOf w, dirty := dirty, poison := poison }]) ∧
        (¬ gives → ∃ u, exec (mk m) s = .next u ∧ u.wires = [Wire.mk .snpAck back]) ∧
        ∀ u, exec (mk m) s = .next u →
          (held = 0 → after u = g) ∧ (held = bitOf w → k = .snpFwd → g.st = .m → after u = { g with shr := true }) ∧
          (held = bitOf w → k = .snpFwd → g.st = .e → after u = { g with st := .s }) ∧ (k = .snpFwd → g.st = .s → after u = g) ∧
          (held = bitOf w → k ≠ .snpFwd → k ≠ .snpInv ∨ g.st = .s → (after u).st = .i)) ∧
      (g.suppliable = false → held = bitOf w → ∃ u, exec (mk m) s = .next u ∧ u.wires = [] ∧ after u = g ∧
        (u.core c).heldSnoops = (s.core c).heldSnoops ++ [Wire.mk k m])) ∧
  (∀ (s : State) (m : Msg) (d c : Nat), Alone s .wbGnt m d → (s.die d).home.waitq = [] → m.src = .home d → m.dst = .l1 c → (s.core c).l1 = [] →
    m.mask ≠ 0 → ∃ u, exec (.wbGnt m) s = .next u ∧ ((u.core c).victim.line? m.line) = none ∧ u.mem = s.mem ∧
      u.wires = [Wire.mk .wbData {
        src := .l1 c, dst := .home d, line := m.line, mask := m.mask, dirty := m.mask,
        data := (wordsOf m.mask).map fun w => (w, ((s.core c).victim.cell m.line w).val),
        poison := maskOfWords ((wordsOf m.mask).filter fun w => ((s.core c).victim.cell m.line w).poison) }]) ∧
  (∀ (s : State) (m : Msg) (d c : Nat), Alone s .cmp m d → (s.die d).home.waitq = [] → m.src = .home d → m.dst = .core c →
    ∃ u, exec (.cmp m) s = .next u ∧ u.wires = [] ∧ u.mem = s.mem ∧ (u.core c).writes = (s.core c).writes.erase m.tag ∧
      ∀ id t, s.team? id = some t → u.team? id = some (if t.core = c then
        { t with groups := t.groups.map fun (g : Group) => g.mapOut (OutRes.atomDone m.tag (m.line * 32 + (wordsOf m.mask).headD 0) m.args) }
        else t)) ∧
  (∀ (s : State) (m : Msg) (d c : Nat), Alone s .mir m d → m.src = .l1 c → m.dst = .mirror d →
    (dieOf c ∈ (s.die d).told → exec (.mir m) s = .next { s with wires := [] }) ∧
    (dieOf c ∉ (s.die d).told → (s.die d).mirror.length < Config.mirrorEntries → ∃ u, exec (.mir m) s = .next u ∧
      u.wires = [Wire.mk .mirAck { m with src := m.dst, dst := m.src, data := [] }] ∧
      (u.die d).mirror = mirrorPut (dieOf c) m.line (m.data.map fun x => (x.1, x.2, m.poison.getLsbD x.1)) (s.die d).mirror ∧
      { u with wires := s.wires, dies := s.dies } = s)) ∧
  (∀ (s : State) (m : Msg) (d c : Nat), Alone s .mirAck m d → m.src = .mirror d → m.dst = .l1 c → L1Holds s c m.line →
    ∃ u, exec (.mirAck m) s = .next u ∧ u.mem = s.mem ∧ (u.core c).unmir = (s.core c).unmir.erase m.tag ∧
      ∀ w, w < 32 → ((u.core c).cell m.line w).mirs = ((s.core c).cell m.line w).mirs - if m.mask.getLsbD w = true then 1 else 0) ∧
  (∀ (s : State) (m : Msg) (d c : Nat), Alone s .mirClr m d → m.src = .l1 c → m.dst = .mirror d → ∃ u k, exec (.mirClr m) s = .next u ∧
    OnlyDie { s with wires := [] } u d k ∧ k = { s.die d with mirror := (s.die d).mirror.filterMap (mirrorDrop (dieOf c) m.line m.mask) }) ∧
  (∀ (s : State) (m : Msg) (d c i : Nat), Alone s .mark m d → m.src = .core c → m.dst = .ioHome i →
    (s.postedLeft c m.dst = true → exec (.mark m) s = .next s) ∧
    (s.postedLeft c m.dst = false → exec (.mark m) s = .next { s with wires := [Wire.mk .markAck { m with src := m.dst, dst := m.src }] })) ∧
  (∀ (s : State) (m : Msg) (d c : Nat), Alone s .markAck m d → (s.die d).home.waitq = [] → m.src = .home d → m.dst = .core c →
    ∃ u k, exec (.markAck m) s = .next u ∧ OnlyCore { s with wires := [] } u c k ∧
      k = { s.core c with marksOut := (s.core c).marksOut.filter fun x => x != (m.tag, m.src) }) ∧
  ∀ (s : State) (m : Msg), (s.wires = [] ∧ ∀ p, m.src ≠ .pkg p) ∨ (s.isDead m.src = false ∧ s.routeOf m = none) → ∀ i, i ∈ [Instr.rds m, .rdOwn m, .ownNd m, .upg m, .atomReq m, .gnt m, .snpFwd m,
      .snpOwn m, .snpInv m, .snpRcl m, .snpAck m, .snpData m, .wbReq m, .wbGnt m, .wbData m, .cleanEv m, .cmp m, .mir m, .mirAck m, .mirClr m, .mark m,
      .markAck m, .dieDown m, .rbReport m.tag m, .takeReq m] → exec i s = .refused .notDue

/-- R364, R365, R376 to R380: a link that refuses or resends loses nothing and counts it, and steps down one rate at a time; a die that does not
answer, that loses its links, that is too hot or whose kill bit is set is dead, its gangs are killed and nothing is sent to it any more; its slices
move to its buddy, or to the first living die of its quarter, the buddy takes over its mirrored words, and what it alone held, with its memory, is
poisoned. The sensor values, details of a die's death, what a report says, and the routes R364 leaves open are the model's choices (logs 17, 35, 45
and 68). -/
def Obligations.LinksStepDownAndDiesDie : Prop :=  (∀ (s : State) (k n : Nat), let l := s.link k
    let becomes := fun (u : State) (x : LinkState) => { u with links := s.links } = s ∧ u.link k = x ∧ ∀ j, j ≠ k → u.link j = s.link j
    (k < 116 → l.rate ≠ 3 →
      (∃ u, exec (.nack k) s = .next u ∧ becomes u { l with nacks := min (2 ^ 16 - 1) (l.nacks + 1) }) ∧
      ∃ u, exec (.linkLevelRetry k n) s = .next u ∧ becomes u { l with fec := min (2 ^ 32 - 1) (l.fec + n) }) ∧
    (k < 112 → l.rate < 3 → (l.rate < 2 ∨ 96 ≤ k ∨ ∃ e, e < 4 ∧ k / 4 * 4 + e ≠ k ∧ (s.link (k / 4 * 4 + e)).rate ≠ 3) →
      ∃ u, exec (.linkRateStep k n) s = .next u ∧
        becomes u { l with rate := l.rate + 1, stepped := l.stepped || decide (l.rate < 2), margin := min 255 n })) ∧
  (∀ (s : State) (d k : Nat), d < Config.numDies → s.dies.length = Config.numDies →
    let died := fun (u : State) (cause : Nat) => (u.die d).state = 3 ∧ (u.die d).cause = cause ∧ (u.die d).rdc = [] ∧ (u.die d).rdcVictim = [] ∧
      (u.die d).mirror = [] ∧ (u.die d).home = {} ∧ (u.die d).rdcHub = {} ∧ (u.die (buddyOf d)).unmirrored = true ∧ u.mem = s.mem ∧
      (∀ c, dieOf c = d → (u.core c).l1 = [] ∧ (u.core c).buffer = [] ∧ (u.core c).fenced = (s.core c).fenced ∧
        (u.core c).strikes = (s.core c).strikes ∧ (u.core c).mismatches = (s.core c).mismatches ∧ (u.core c).rollbacks = (s.core c).rollbacks) ∧
      (∀ t, t ∈ u.teams → t.parent = none → dieOf t.core ≠ d) ∧ (∀ w, w ∈ u.wires → onDie d w.msg.dst = false) ∧
      (∀ n, (∃ r, r < Config.numDies ∧ r ≠ d ∧ s.alive r = true ∧ n = Node.home r) ∨ (∃ q, q < 4 ∧ n = Node.ioHome q) →
        ∃ w, w ∈ u.wires ∧ w.kind = .dieDown ∧ w.msg.dst = n ∧ w.msg.tag = d) ∧
      ∃ h, u.slices = (s.slices.map fun x => if x.2.1 = d then (x.1, h, []) else x) ++ [(d, h, [])] ∧ (s.alive (buddyOf d) = true → h = buddyOf d) ∧
        (s.alive (buddyOf d) = false → ∀ i, i < 6 → d / 6 * 6 + i ≠ d → s.alive (d / 6 * 6 + i) = true →
          (∀ j, j < i → d / 6 * 6 + j = d ∨ s.alive (d / 6 * 6 + j) = false) → h = d / 6 * 6 + i)
    (s.alive d = true → (∃ x t w, x ∈ s.dies ∧ t ∈ x.home.txns ∧ t.req ≠ .wb ∧ w ∈ t.waits ∧ onDie d w.1 = true) →
      ∃ u, exec (.snoopTimeout d) s = .next u ∧ died u 1 ∧ (u.die d).kill = (s.die d).kill) ∧
    ((s.die d).state ≠ 3 → k / 4 = d → (s.link k).rate = 2 → (∀ e, e < 4 → 4 * d + e ≠ k → (s.link (4 * d + e)).rate = 3) →
      ∃ u, exec (.linkRateStep k 0) s = .next u ∧ died u 2 ∧ (u.link k).rate = 3) ∧
    ((s.die d).state ≠ 3 → ∃ u, exec (.ddStateKill d) s = .next u ∧ died u 3 ∧ (u.die d).kill = true) ∧
    ((s.die d).state ≠ 3 → 125 < (s.die d).tempC → ∃ u, exec (.dieOvertemperature d) s = .next u ∧ died u 3 ∧ (u.die d).kill = true) ∧
    ((s.die d).state = 3 → ∃ u, exec (.ddStateKill d) s = .next u ∧ OnlyDie s u d { s.die d with kill := true })) ∧
  (∀ (s : State) (m : Msg), s.dies.length = Config.numDies → (s.hub m.src).waitq = [] → (s.hub m.src).outq = [] →
    (∀ k, k < Config.numDies → m.dst = .home k → Arrives s .dieDown m → ∃ u, exec (.dieDown m) s = .next u ∧
      (u.die k).told = (s.die k).told ++ [m.tag] ∧ u.slices = s.slices ∧ u.mem = s.mem ∧
      ∀ x, x ∈ s.slices → x.1 ∈ (u.die k).told → k ∉ x.2.2 → s.isDead (.home x.2.1) = false →
        ∃ w, w ∈ u.wires ∧ w.kind = .rbReport ∧ w.msg.src = .home k ∧ w.msg.dst = .home x.2.1 ∧ w.msg.tag = x.1) ∧
    (∀ dead k h, m.src = .home k → m.dst = .home h → Arrives s .rbReport { m with tag := dead } → (∃ x, x ∈ s.slices ∧ x.1 = dead ∧ x.2.1 = h) →
      ∃ u, exec (.rbReport dead m) s = .next u ∧ u.mem = s.mem ∧ u.teams = s.teams ∧
        u.slices = s.slices.map fun x => if x.1 = dead ∧ k ∉ x.2.2 then (x.1, x.2.1, x.2.2 ++ [k]) else x) ∧
    ∀ b d h w x p, b < Config.numDies → d < Config.numDies → b = buddyOf d → h < Config.numDies → m.src = .rdc b → m.dst = .home h → m.tag = d →
      Arrives s .takeReq m → homeOf (m.line * 128) = .home h → h ≠ b → w < 32 →
      (s.die b).mirror.filter (fun e => e.1 == d && e.2.1 == m.line) = [(d, m.line, [(w, x, p)])] →
      ((s.die h).home.entry m.line).ownerOf w = some (.rdc d) → (∀ t, t ∈ (s.die h).home.txns → t.msg.line ≠ m.line) →
      ∃ u, exec (.takeReq m) s = .next u ∧ ((u.die h).home.entry m.line).ownerOf w = some (.rdc b) ∧ u.mem = s.mem ∧
        (u.die b).mirror = (s.die b).mirror.filter (fun e => !(e.1 == d && e.2.1 == m.line)) ∧
        ((u.die b).rdcCell m.line w).st = .m ∧ ((u.die b).rdcCell m.line w).val = x ∧ ((u.die b).rdcCell m.line w).poison = p) ∧
  (∀ (s : State) (d : Nat), d < Config.numDies → s.dies.length = Config.numDies → (s.die d).state = 3 →
    ((∃ x, x ∈ s.slices ∧ x.1 = d ∧ ∀ r, s.alive r = true → r ∈ x.2.2) → let b := buddyOf d
      ((s.die d).rebuilt = false → (∀ e, e ∈ (s.die b).mirror → e.1 ≠ d) → (∀ w, w ∈ s.wires → onDie d w.msg.src = false) →
        (∀ x, x ∈ s.dies → x.home.txns = [] ∧ x.home.waitq = [] ∧ x.rdcHub.txns = [] ∧ x.rdcHub.waitq = []) →
        (∀ x, x ∈ s.ios → x.hub.txns = [] ∧ x.hub.waitq = []) → (∀ x, x ∈ s.cores → x.2.unowned = [] ∧ x.2.heldSnoops = []) →
        ∃ u, exec (.sliceRebuildComplete d) s = .next u ∧ (u.die d).rebuilt = true ∧
          (∀ w, homeOf (4 * w) = .home d → u.isPoisoned w = true) ∧
          ∀ h line w n, s.alive h = true → homeOf (line * 128) = .home h → w < 32 → ((s.die h).home.entry line).ownerOf w = some n →
            onDie d n = true → u.isPoisoned (line * 32 + w) = true))) ∧
  ∀ (s : State) (p : Nat), p ∉ s.lostPkgs → (∃ x t w, x ∈ s.dies ∧ t ∈ x.home.txns ∧ t.req ≠ .wb ∧ w ∈ t.waits ∧ w.1 = Node.pkg p) →
    ∃ u, exec (.packageSnoopTimeout p) s = .next u ∧ u.lostPkgs = p :: s.lostPkgs ∧ ∀ w, homeOf (4 * w) = .pkg p → u.isPoisoned w = true

/-- R227, R173: a load or load-reserved of an application core that its home has registered reads the newest value, and one that it has not asks to be
registered; a store writes at the home with every copy gone, an atomic exchanges, a store-conditional writes exactly if its reservation stands; an
access waits behind those before it and while its core is stalled; one to a reserved address faults. That they act at once and wait in arrival order
(log 7), what a reserved address and a poisoned word give (log 48), and when a reservation stands (log 67) are the model's choices. -/
def Obligations.ApplicationCoresAccessMemory : Prop :=  ∀ (s : State) (a : AppAccess), a.quarter < 4 → a.core < 4 → s.serves = true → let w := a.pa / 4
    let me := Node.app a.quarter
    let key := 4 * a.quarter + a.core
    let answered := fun (x : Word) (p : Bool) => if p = true then Out.appPoison a.label else .appValue a.label (x.setWidth 64)
    (s.reserved a.pa (appBytes a) = true → exec (.applicationCoreAccess a) s = .fault (.reservedAddress a.pa)) ∧
    (s.reserved a.pa (appBytes a) = false →
      (s.waiting ≠ [] ∨ s.stalledAt (.app key) = true → ∃ u, exec (.applicationCoreAccess a) s = .next u ∧ u.waiting = s.waiting ++ [.app a]) ∧
      (s.waiting = [] → s.stalledAt (.app key) = false →
        (∀ r w' x y z, a.op = .fence r w' x y z → exec (.applicationCoreAccess a) s = .next s) ∧
        (∀ b n, a.op = .setHdm b n → exec (.applicationCoreAccess a) s = .next { s with hdm := (b, n) }) ∧
        (∀ n v, a.op = .store n v → isDevice a.pa = true → exec (.applicationCoreAccess a) s =
          .next (s.deviceWrite (.app key) ((List.range n).map fun i => (a.pa + i, BitVec.ofNat 8 (v.toNat / 256 ^ i))))) ∧
        (∀ n v, a.op = .sc n v → SMap.get? s.appLr key ≠ some (a.pa, n) → exec (.applicationCoreAccess a) s =
          .next (({ s with appLr := SMap.del s.appLr key } : State).emit (.appValue a.label 1))) ∧
        ∀ x p, a.pa % 4 = 0 → s.latest none w = some (x, p) → s.inTransition a.pa = false →
          (s.registered me w = true →
            (a.op = .load 4 → exec (.applicationCoreAccess a) s = .next (s.emit (answered x p))) ∧
            (a.op = .lr 4 → exec (.applicationCoreAccess a) s =
              .next { s.emit (answered x p) with appLr := SMap.put s.appLr key (a.pa, 4) })) ∧
          (s.registered me w = false → s.asked me (w / 32) (w % 32) false = false → a.op = .load 4 ∨ a.op = .lr 4 →
            ∃ u, exec (.applicationCoreAccess a) s = .next u ∧ u.waiting = [.app a] ∧
              Wire.mk .rds { src := me, dst := homeOf (w / 32 * 128), line := w / 32, mask := bitOf (w % 32) } ∈ u.wires) ∧
          (∀ op v, p = true → a.op = .amo op 4 v → exec (.applicationCoreAccess a) s = .next (s.emit (.appPoison a.label))) ∧
          (s.wordQuiet w (some me) = true → regionOf a.pa = 0 → s.isDead (homeOf a.pa) = false → s.mem.wf = true →
            s.linesSorted → let wrote := fun (u : State) (v : Word) => u.homeWord w = (v, false) ∧ u.teams = s.teams ∧ u.waiting = [] ∧
              (∀ b, b / 4 ≠ w → u.mem.get b = s.mem.get b) ∧
              ∀ c, ((u.core c).cell (w / 32) (w % 32)).tracked = true → ((u.core c).cell (w / 32) (w % 32)).st = .i
            (∀ v, a.op = .store 4 v → ∃ u, exec (.applicationCoreAccess a) s = .next u ∧ wrote u (v.setWidth 32)) ∧
            (∀ v, a.op = .sc 4 v → SMap.get? s.appLr key = some (a.pa, 4) → ∃ u, exec (.applicationCoreAccess a) s = .next u ∧
              wrote u (v.setWidth 32) ∧ u.outbox.getLast? = some (.appValue a.label 0)) ∧
            ∀ op v, p = false → a.op = .amo op 4 v → ∃ u, exec (.applicationCoreAccess a) s = .next u ∧
              wrote u ((amoNew op 4 (x.setWidth 64) v).setWidth 32) ∧ u.outbox.getLast? = some (.appValue a.label (x.setWidth 64)))))

/-- R381: a host's load of the package's memory reads the newest value once the home has registered it as a holder, and asks for that first; its store
is performed at the home, and its answer to a back-invalidate snoop lets the home go on; a snoop of its own lines is answered with their words once no
unit of the package owns, or holds, one, which are recalled first, and leaves them shared, gone or as they were; what it grants is held, with its
data, until it is given back. That accesses and snoops wait in arrival order in `State.waiting`, and that a granted line is kept, are the model's
choices (log 7); so are what a host keeps and when its store is performed (logs 8 and 18), and that a poisoned word gives no value (log 48). -/
def Obligations.HostsShareMemory : Prop :=  (∀ (s : State) (a : HostAccess) (x : Word) (p : Bool) (d : Nat), a.io < 4 → s.serves = true → s.hdm.1 ≤ a.pa → a.pa + hostBytes a ≤ s.hdm.1 + s.hdm.2 →
    s.reserved a.pa (hostBytes a) = false → a.pa % 4 = 0 → let w := a.pa / 4
    (s.waiting ≠ [] → ∃ u, exec (.hostMemAccess a) s = .next u ∧ u.waiting = s.waiting ++ [.host a]) ∧
    (s.waiting = [] → s.latest none w = some (x, p) → s.inTransition a.pa = false → homeOf a.pa = .home d → s.isDead (homeOf a.pa) = false →
      (a.op = .load 4 → s.registered (.ioHome a.io) w = true → exec (.hostMemAccess a) s =
        .next (s.emit (if p = true then .hostPoison a.label else .hostValue a.label (x.setWidth 64)))) ∧
      (a.op = .load 4 → s.registered (.ioHome a.io) w = false → s.asked (.ioHome a.io) (w / 32) (w % 32) false = false →
        ∃ u, exec (.hostMemAccess a) s = .next u ∧ u.waiting = [.host a] ∧
          Wire.mk .rds { src := .ioHome a.io, dst := .home d, line := w / 32, mask := bitOf (w % 32) } ∈ u.wires) ∧
      ∀ v, a.op = .store 4 v → s.wordQuiet w (some (.ioHome a.io)) = true → s.mem.wf = true →
        ∃ u, exec (.hostMemAccess a) s = .next u ∧ u.homeWord w = (v.setWidth 32, false) ∧ u.teams = s.teams)) ∧
  (∀ (s : State) (d line c i w : Nat) (t : Txn) (data : List (Nat × Word)), d < Config.numDies → s.dies.length = Config.numDies →
    (∀ x, x ∈ s.dies → x.state ≠ 3) → homeOf (line * 128) = .home d →
    ((s.die d).home.entry line).sharers.sorted = true → (s.die d).home.txns = [t] → (s.die d).home.waitq = [] → t.msg.line = line →
    t.req = .rdOwn → t.msg.src = .l1 c → w < 32 → t.msg.mask = bitOf w → t.waits = [(.ioHome i, bitOf w)] → t.queue = [] → t.got = [] → t.sent = 0 → t.dirty = 0 →
    t.poison = 0 → (s.die d).home.outq = [] → (∀ x, x ∈ s.wires → x.msg.line ≠ line) → s.mem.wf = true → ((data = [] ∧ (s.homeWord (line * 32 + w)).2 = false) ∨ ∃ x, data = [(w, x)]) →
    ∃ u, exec (.backInvalidateResponse line data) s = .next u ∧ (u.die d).home.txns = [] ∧
      ((u.die d).home.entry line).ownerOf w = some (.l1 c) ∧ Node.ioHome i ∉ ((u.die d).home.entry line).sharersOf w ∧
      u.wires = s.wires ++ [Wire.mk .gnt { src := .home d, dst := .l1 c, line := line, mask := bitOf w, tag := t.msg.tag, excl := bitOf w,
                                           data := [(w, ((data.head?).map (·.2)).getD (s.homeWord (line * 32 + w)).1)] }]) ∧
  ∀ (s : State) (io line : Nat), hostLine io line = true → s.ios.length = 4 →
    (∀ i x, (i, x) ∈ [(Instr.cxlSnpData io line, Outside.snpData io line), (.cxlSnpInv io line, .snpInv io line), (.cxlSnpCur io line, .snpCur io line)] →
      (s.waiting ≠ [] → exec i s = .next { s with waiting := s.waiting ++ [x] }) ∧
      (s.waiting = [] → (s.ioLine io line).st = .i → exec i s = .next (s.emit (.h2dAnswer io line [])))) ∧
    (s.waiting = [] → (s.ioLine io line).st ≠ .i →
      ((∀ w, w < 32 → (s.latest none (line * 32 + w)).isSome = true) → exec (.cxlSnpCur io line) s = .next (s.emit (.h2dAnswer io line
        ((List.range 32).map fun w => (w, ((s.latest none (line * 32 + w)).map (·.1)).getD 0))))) ∧
      (s.lineBusy line = false → let e := (s.hub (.ioHome io)).entry line
        (e.owner = [] → ∃ u, exec (.cxlSnpData io line) s = .next u ∧ (u.ioLine io line).st = .s ∧ (u.ioLine io line).dirty = 0 ∧
          u.outbox.getLast? = some (.h2dAnswer io line ((List.range 32).map fun w => (w, (s.homeWord (line * 32 + w)).1)))) ∧
        (e.owner ≠ [] → ∃ u, exec (.cxlSnpData io line) s = .next u ∧ u.waiting = [.snpData io line]) ∧
        (e.nodes = [] → (s.ios.getD io {}).lines.sorted = true → ∃ u, exec (.cxlSnpInv io line) s = .next u ∧ (u.ioLine io line).st = .i ∧
          u.outbox.getLast? = some (.h2dAnswer io line
            ((wordsOf (s.ioLine io line).dirty).map fun w => (w, (s.homeWord (line * 32 + w)).1)))) ∧
        (e.nodes ≠ [] → ∃ u, exec (.cxlSnpInv io line) s = .next u ∧ u.waiting = [.snpInv io line]))) ∧
    ∀ req data, (line, req) ∈ (s.ios.getD io {}).d2h → let left := ((s.ios.getD io {}).d2h).erase (line, req)
      (grantedState req = none → ∃ u, exec (.cxlH2dResponse io line req data) s = .next u ∧ { u with ios := s.ios } = s ∧
        (u.ios.getD io {}).d2h = left ∧ (u.ios.getD io {}).lines = (s.ios.getD io {}).lines) ∧
      ∀ st, grantedState req = some st → (s.ios.getD io {}).hub.txns = [] → (s.ios.getD io {}).hub.waitq = [] → s.mem.wf = true →
        ∃ u, exec (.cxlH2dResponse io line req data) s = .next u ∧ (u.ios.getD io {}).d2h = left ∧ u.teams = s.teams ∧
          u.ioLine io line = { st := st, dirty := 0, kept := true } ∧ ∀ w x, w < 32 → data = [(w, x)] → u.homeWord (line * 32 + w) = (x, false)

/-- R379, R393 to R395, R398, R400 to R403: I/O die 0 leaves reset to verify its firmware and runs of each kind the newest slot it accepts; a die that
passes its test enters reduced service, and one that fails it stays in reset; for full service each core stops at its next instruction boundary and
takes a snapshot, and goes on once every core's effects have settled; a die's readings lower its clock; an enabled alarm is noted and sent, ends the
session, and resets what the policy names. The layout of a firmware image, the extent of the resets, and the two named algorithms' constants are the
model's choices or taken from outside the spec (logs 38, 46 and 69). -/
def Obligations.PlatformRunsAndResets : Prop :=  (∀ (s : State), (s.mgmt.released = false → exec .ioDie0ResetRelease s = .next { s with
      mgmt := { s.mgmt with released := true, verified := false, running := [] } }) ∧
    (s.mgmt.released = true → s.mgmt.verified = false → ∃ u, exec .firmwareVerifyDone s = .next u ∧ { u with mgmt := s.mgmt } = s ∧
      { u.mgmt with verified := false, running := s.mgmt.running } = s.mgmt ∧ u.mgmt.verified = true ∧ ∀ k, k < 3 →
        let new := s.mgmt.newestSlot k
        let fits := fun (slot : Nat) => s.mgmt.accepts k (s.mgmt.image k slot) = true
        (fits new → SMap.get? u.mgmt.running k = some new) ∧ (¬ fits new → fits (1 - new) → SMap.get? u.mgmt.running k = some (1 - new)) ∧
        (¬ fits new → ¬ fits (1 - new) → SMap.get? u.mgmt.running k = none))) ∧
  (∀ (s : State) (d power temp : Nat), d < Config.numDies → s.dies.length = Config.numDies → let x := s.die d
    (x.state = 0 → x.selfFailed = false → s.serves = true → (SMap.get? s.mgmt.running 1).isSome = true →
      (∃ u, exec (.selfTestPass ⟨d, true⟩) s = .next u ∧ OnlyDie s u d { x with state := 1, counter := 0, selfTested := true }) ∧
      ∃ u, exec (.selfTestPass ⟨d, false⟩) s = .next u ∧ OnlyDie s u d { x with selfFailed := true }) ∧
    (x.selfFailed = true → ∀ b, exec (.selfTestPass ⟨d, b⟩) s = .refused .notDue) ∧
    (x.state = 1 → x.transition = none → ∃ u, exec (.serviceTransitionStart d) s = .next u ∧
      u.die d = { x with transition := some x.counter } ∧ u.teams = s.teams ∧ u.mem = s.mem ∧ ∀ c, c ∈ s.dieCores d → (s.core c).stop = none →
        (s.atBoundary c = true → ∃ v r, (u.core c).snaps = v :: r ∧ v.at' = s.now c ∧ v.teams = s.teams.filter (fun t => t.core == c) ∧
          (u.core c).stop = some (s.now c)) ∧
        (s.atBoundary c = false → u.core c = s.core c)) ∧
    (x.transition ≠ none → (∀ c, c ∈ s.dieCores d → (s.core c).buffer = [] ∧ ∃ t, (s.core c).stop = some t ∧ t + 1536 ≤ x.counter) →
      ∃ u, exec (.serviceTransitionEnd d) s = .next u ∧ u.die d = { x with state := 2, transition := none } ∧ u.teams = s.teams ∧ u.mem = s.mem ∧
        ∀ c, c ∈ s.dieCores d → u.core c = { s.core c with snaps := (s.core c).snaps.take 1, stop := none }) ∧
    ∃ u, exec (.dieThrottle d power temp) s = .next u ∧ OnlyDie s u d { x with
      powerW := min (2 ^ 16 - 1) power, tempC := min (2 ^ 16 - 1) temp,
      throttled := decide (x.capW < min (2 ^ 16 - 1) power ∨ 105 < min (2 ^ 16 - 1) temp) }) ∧
  ∀ (s : State) (sensor : Sensor), let on := s.mgmt.released && s.mgmt.ttEnable.getLsbD (sensorBit sensor)
    let m : Mgmt := { s.mgmt with tripped := s.mgmt.tripped ||| BitVec.ofNat 4 (2 ^ sensorBit sensor), session := none }
    (on = false → exec (.tamperAlarm sensor) s = .refused .notDue) ∧
    (on = true →
      (s.mgmt.ttPolicy = 0 → exec (.tamperAlarm sensor) s = .next { s with mgmt := m, outbox := s.outbox ++ [.alarm sensor] }) ∧
      (s.mgmt.ttPolicy ≠ 0 → ∃ u, exec (.tamperAlarm sensor) s = .next u ∧ Out.alarm sensor ∈ u.outbox ∧ u.teams = [] ∧
        (∀ d, d < Config.numDies → (u.die d).state = 0 ∧ ((∀ x, x ∈ s.ios → x.hub.txns = [] ∧ x.hub.waitq = []) →
          ∀ w, homeOf (4 * w) = .home d → u.isPoisoned w = true)) ∧
        (s.mgmt.ttPolicy = 1 → u.mgmt = m ∧ ∀ asid l, s.launch? asid l.seq = some l → l.asid = asid → s.residents l ≠ [] →
          ∀ x, u.launch? asid l.seq = some x → x.state = .signalled ∧ x.reason = 0x12) ∧
        (s.mgmt.ttPolicy ≠ 1 → u.ports = [] ∧ u.wires = [] ∧ u.mgmt.released = false ∧ u.mgmt.verified = false ∧ u.mgmt.erased = true ∧
          u.mgmt.session = none ∧ u.mgmt.challenge = none ∧ u.mgmt.tripped = m.tripped ∧ u.mgmt.slots = s.mgmt.slots ∧
          (s.mgmt.ttLock = true → (u.mgmt.ttEnable, u.mgmt.ttPolicy) = (s.mgmt.ttEnable, s.mgmt.ttPolicy)) ∧
          (s.mgmt.ttLock = false → (u.mgmt.ttEnable, u.mgmt.ttPolicy) = (0xF, 0)))))

/-- R393, R396 to R399, R404, with the layouts of bodies of log 39: I/O die 0 answers no message before its release, none whose length is not that of
its body, and any as busy while it verifies; then each acts as its code says, those that need the session only for the source that opened it, and the
reply carries the outcome; a session and a challenge end when their time has passed. The layouts of message bodies are the model's choice (log 39),
and the bytes of keys and signatures are taken from outside the spec (log 69). -/
def Obligations.ManagementMessagesAreAnswered : Prop :=  (∀ (s : State) (m : Mlad) (i : Instr) (code : Nat), (i, code) ∈ [(Instr.identify m, 1), (.regRead m, 2), (.regWrite m, 3), (.powerStep m, 4),
      (.fwWrite m, 5), (.fwCommit m, 6), (.attest m, 7), (.sessionOpen m, 9), (.sessionProve m, 10), (.sessionClose m, 11)] →
    let whole := m.code.toNat = code ∧ m.length.toNat = 8 + m.body.length
    (s.mgmt.released = false ∨ ¬ whole → exec i s = .refused .notDue) ∧
    (s.mgmt.released = true → s.mgmt.verified = false → whole → exec i s = .next (s.reply m 5 [])) ∧
    (s.mgmt.released = true → s.mgmt.verified = true → whole → s.mgmt.session ≠ some (m.ip, m.port) →
      code ∈ [2, 3, 5, 6, 11] → exec i s = .next (s.reply m 2 []))) ∧
  (∀ (s : State) (m : Mlad), s.mgmt.released = true → m.length.toNat = 8 + m.body.length →
    exec (.mladlithUnknownCode m) s = if m.code.toNat = 0 ∨ m.code.toNat = 8 ∨ 11 < m.code.toNat then
      .next (s.reply m (if s.mgmt.verified = true then 1 else 5) []) else .refused .notDue) ∧
  (∀ (s : State) (m : Mlad), s.mgmt.released = true → s.mgmt.verified = true → m.length.toNat = 8 + m.body.length →
    (m.code = 4 → exec (.powerStep m) s = .next (s.reply m 0 [])) ∧
    (m.code = 1 → exec (.identify m) s = .next (s.reply m 0
      (leBytes 8 (s.readReg 0x7000500000000).toNat ++ leBytes 8 (s.readReg 0x7000500000008).toNat))) ∧
    (m.code = 7 →
    (s.mgmt.erased = true → exec (.attest m) s = .next (s.reply m 4 [])) ∧
    (s.mgmt.erased = false → (m.body.length ≠ 48 → exec (.attest m) s = .next (s.reply m 3 [])) ∧
      (m.body.length = 48 → let report := m.body ++ leBytes 8 (s.readReg 0x7000500000000).toNat ++ s.mgmt.measurements
        exec (.attest m) s = .next (s.reply m 0 (report ++ beBytes 96 (Config.identitySign (sha384 report)).toNat))))) ∧
    (m.code = 9 → let c := Config.challenge s.mgmt.drawn
     exec (.sessionOpen m) s =
      .next ({ s with mgmt := { s.mgmt with session := none, challenge := some c, drawn := s.mgmt.drawn + 1 } }.reply m 0 (beBytes 48 c.toNat))) ∧
    (m.code = 10 → (∃ c, s.mgmt.challenge = some c ∧ proves m.body c = true) → exec (.sessionProve m) s =
      .next ({ s with mgmt := { s.mgmt with challenge := none, session := some (m.ip, m.port) } }.reply m 0 [])) ∧
    (m.code = 10 → (∀ c, s.mgmt.challenge = some c → proves m.body c = false) → exec (.sessionProve m) s =
      .next ({ s with mgmt := { s.mgmt with challenge := none } }.reply m 3 []))) ∧
  (∀ (s : State) (m : Mlad), s.mgmt.released = true → s.mgmt.verified = true → s.mgmt.session = some (m.ip, m.port) →
    m.length.toNat = 8 + m.body.length →
    (m.code = 11 → exec (.sessionClose m) s = .next ({ s with mgmt := { s.mgmt with session := none } }.reply m 0 [])) ∧
    (∀ pa, m.code = 2 → m.body = leBytes 8 pa → isDevice pa = true → pa % 8 = 0 → pa < 2 ^ 64 →
      exec (.regRead m) s = .next (s.reply m 0 (leBytes 8 (s.readReg pa).toNat))) ∧
    (∀ pa, ∀ v : DWord, m.code = 3 → m.body = leBytes 8 pa ++ leBytes 8 v.toNat → isDevice pa = true → pa % 8 = 0 → pa < 2 ^ 64 →
      ∃ u, exec (.registerWrite pa v) s = .next u ∧ exec (.regWrite m) s = .next (u.reply m 0 [])) ∧
    (m.code = 2 → m.body.length ≠ 8 → exec (.regRead m) s = .next (s.reply m 3 [])) ∧ (m.code = 3 → m.body.length ≠ 16 → exec (.regWrite m) s = .next (s.reply m 3 [])) ∧
    ∀ k, k < 3 → let slot := s.mgmt.inactiveSlot k
      let im := s.mgmt.image k slot
      (∀ off bs, m.code = 5 → off < 2 ^ 32 → bs.length ≤ 1024 → m.body = BitVec.ofNat 8 k :: (leBytes 4 off ++ bs) → ∃ u x, exec (.fwWrite m) s = .next u ∧
        { u with mgmt := s.mgmt } = s.reply m 0 [] ∧ { u.mgmt with slots := s.mgmt.slots } = s.mgmt ∧ u.mgmt.image k slot = x ∧
        (x.drop off).take bs.length = bs ∧ (∀ j, j < off → x.getD j 0 = im.getD j 0) ∧ (∀ j, off + bs.length ≤ j → x[j]? = im[j]?) ∧
        ∀ k' s', (2 * k' + s' ≠ 2 * k + slot) → u.mgmt.image k' s' = s.mgmt.image k' s') ∧
      (m.code = 6 → m.body = [BitVec.ofNat 8 k] →
        (s.mgmt.accepts k im = true → ∃ u, exec (.fwCommit m) s = .next u ∧ { u with mgmt := s.mgmt } = s.reply m 0 [] ∧
          { u.mgmt with newest := s.mgmt.newest, minVersion := s.mgmt.minVersion } = s.mgmt ∧ u.mgmt.newestSlot k = slot ∧
          u.mgmt.leastVersion k = max (Config.fusedMinVersion k) (imageVersion im)) ∧
        (s.mgmt.accepts k im = false → exec (.fwCommit m) s = .next (s.reply m 3 [])))) ∧
  ∀ (s : State), (s.mgmt.session.isSome = true → exec .sessionTimeout s = .next { s with mgmt := { s.mgmt with session := none } }) ∧
    (s.mgmt.challenge.isSome = true → exec .challengeExpiry s = .next { s with mgmt := { s.mgmt with challenge := none } })
end

