-- ==== Sys2Proof/Laws/State.lean ====
section
/-! SUPPORT. One lemma per field of the state and per update: what an update leaves as it was, each true by `rfl`. -/
namespace Sys2Proof.Machine
open Sys2Proof


/-! `State.setTeam` -/

@[simp] theorem State.setTeam_mem (s : State) (t : Team) : (s.setTeam t).mem = s.mem := rfl
@[simp] theorem State.setTeam_poison (s : State) (t : Team) : (s.setTeam t).poison = s.poison := rfl
@[simp] theorem State.setTeam_cores (s : State) (t : Team) : (s.setTeam t).cores = s.cores := rfl
@[simp] theorem State.setTeam_dies (s : State) (t : Team) : (s.setTeam t).dies = s.dies := rfl
@[simp] theorem State.setTeam_ports (s : State) (t : Team) : (s.setTeam t).ports = s.ports := rfl
@[simp] theorem State.setTeam_ios (s : State) (t : Team) : (s.setTeam t).ios = s.ios := rfl
@[simp] theorem State.setTeam_links (s : State) (t : Team) : (s.setTeam t).links = s.links := rfl
@[simp] theorem State.setTeam_slices (s : State) (t : Team) : (s.setTeam t).slices = s.slices := rfl
@[simp] theorem State.setTeam_lostDies (s : State) (t : Team) : (s.setTeam t).lostDies = s.lostDies := rfl
@[simp] theorem State.setTeam_lostPkgs (s : State) (t : Team) : (s.setTeam t).lostPkgs = s.lostPkgs := rfl
@[simp] theorem State.setTeam_mgVa (s : State) (t : Team) : (s.setTeam t).mgVa = s.mgVa := rfl
@[simp] theorem State.setTeam_mgDst (s : State) (t : Team) : (s.setTeam t).mgDst = s.mgDst := rfl
@[simp] theorem State.setTeam_mgAsid (s : State) (t : Team) : (s.setTeam t).mgAsid = s.mgAsid := rfl
@[simp] theorem State.setTeam_mgStatus (s : State) (t : Team) : (s.setTeam t).mgStatus = s.mgStatus := rfl
@[simp] theorem State.setTeam_mgGo (s : State) (t : Team) : (s.setTeam t).mgGo = s.mgGo := rfl
@[simp] theorem State.setTeam_mgJob (s : State) (t : Team) : (s.setTeam t).mgJob = s.mgJob := rfl
@[simp] theorem State.setTeam_moves (s : State) (t : Team) : (s.setTeam t).moves = s.moves := rfl
@[simp] theorem State.setTeam_transition (s : State) (t : Team) : (s.setTeam t).transition = s.transition := rfl
@[simp] theorem State.setTeam_hdm (s : State) (t : Team) : (s.setTeam t).hdm = s.hdm := rfl
@[simp] theorem State.setTeam_mgmt (s : State) (t : Team) : (s.setTeam t).mgmt = s.mgmt := rfl
@[simp] theorem State.setTeam_wires (s : State) (t : Team) : (s.setTeam t).wires = s.wires := rfl
@[simp] theorem State.setTeam_early (s : State) (t : Team) : (s.setTeam t).early = s.early := rfl
@[simp] theorem State.setTeam_wroteFar (s : State) (t : Team) : (s.setTeam t).wroteFar = s.wroteFar := rfl
@[simp] theorem State.setTeam_tookFar (s : State) (t : Team) : (s.setTeam t).tookFar = s.tookFar := rfl
@[simp] theorem State.setTeam_inputs (s : State) (t : Team) : (s.setTeam t).inputs = s.inputs := rfl
@[simp] theorem State.setTeam_regWrites (s : State) (t : Team) : (s.setTeam t).regWrites = s.regWrites := rfl
@[simp] theorem State.setTeam_imageWrites (s : State) (t : Team) : (s.setTeam t).imageWrites = s.imageWrites := rfl
@[simp] theorem State.setTeam_waiting (s : State) (t : Team) : (s.setTeam t).waiting = s.waiting := rfl
@[simp] theorem State.setTeam_appLr (s : State) (t : Team) : (s.setTeam t).appLr = s.appLr := rfl
@[simp] theorem State.setTeam_outbox (s : State) (t : Team) : (s.setTeam t).outbox = s.outbox := rfl
@[simp] theorem State.setTeam_actor (s : State) (t : Team) : (s.setTeam t).actor = s.actor := rfl
@[simp] theorem State.setTeam_turn (s : State) (t : Team) : (s.setTeam t).turn = s.turn := rfl
@[simp] theorem State.setTeam_fresh (s : State) (t : Team) : (s.setTeam t).fresh = s.fresh := rfl

/-! `State.mapTeam` -/

@[simp] theorem State.mapTeam_mem (s : State) (i : Nat) (f : Team → Team) : (s.mapTeam i f).mem = s.mem := rfl
@[simp] theorem State.mapTeam_poison (s : State) (i : Nat) (f : Team → Team) : (s.mapTeam i f).poison = s.poison := rfl
@[simp] theorem State.mapTeam_cores (s : State) (i : Nat) (f : Team → Team) : (s.mapTeam i f).cores = s.cores := rfl
@[simp] theorem State.mapTeam_dies (s : State) (i : Nat) (f : Team → Team) : (s.mapTeam i f).dies = s.dies := rfl
@[simp] theorem State.mapTeam_ports (s : State) (i : Nat) (f : Team → Team) : (s.mapTeam i f).ports = s.ports := rfl
@[simp] theorem State.mapTeam_ios (s : State) (i : Nat) (f : Team → Team) : (s.mapTeam i f).ios = s.ios := rfl
@[simp] theorem State.mapTeam_links (s : State) (i : Nat) (f : Team → Team) : (s.mapTeam i f).links = s.links := rfl
@[simp] theorem State.mapTeam_slices (s : State) (i : Nat) (f : Team → Team) : (s.mapTeam i f).slices = s.slices := rfl
@[simp] theorem State.mapTeam_lostDies (s : State) (i : Nat) (f : Team → Team) : (s.mapTeam i f).lostDies = s.lostDies := rfl
@[simp] theorem State.mapTeam_lostPkgs (s : State) (i : Nat) (f : Team → Team) : (s.mapTeam i f).lostPkgs = s.lostPkgs := rfl
@[simp] theorem State.mapTeam_mgVa (s : State) (i : Nat) (f : Team → Team) : (s.mapTeam i f).mgVa = s.mgVa := rfl
@[simp] theorem State.mapTeam_mgDst (s : State) (i : Nat) (f : Team → Team) : (s.mapTeam i f).mgDst = s.mgDst := rfl
@[simp] theorem State.mapTeam_mgAsid (s : State) (i : Nat) (f : Team → Team) : (s.mapTeam i f).mgAsid = s.mgAsid := rfl
@[simp] theorem State.mapTeam_mgStatus (s : State) (i : Nat) (f : Team → Team) : (s.mapTeam i f).mgStatus = s.mgStatus := rfl
@[simp] theorem State.mapTeam_mgGo (s : State) (i : Nat) (f : Team → Team) : (s.mapTeam i f).mgGo = s.mgGo := rfl
@[simp] theorem State.mapTeam_mgJob (s : State) (i : Nat) (f : Team → Team) : (s.mapTeam i f).mgJob = s.mgJob := rfl
@[simp] theorem State.mapTeam_moves (s : State) (i : Nat) (f : Team → Team) : (s.mapTeam i f).moves = s.moves := rfl
@[simp] theorem State.mapTeam_transition (s : State) (i : Nat) (f : Team → Team) : (s.mapTeam i f).transition = s.transition := rfl
@[simp] theorem State.mapTeam_hdm (s : State) (i : Nat) (f : Team → Team) : (s.mapTeam i f).hdm = s.hdm := rfl
@[simp] theorem State.mapTeam_mgmt (s : State) (i : Nat) (f : Team → Team) : (s.mapTeam i f).mgmt = s.mgmt := rfl
@[simp] theorem State.mapTeam_wires (s : State) (i : Nat) (f : Team → Team) : (s.mapTeam i f).wires = s.wires := rfl
@[simp] theorem State.mapTeam_early (s : State) (i : Nat) (f : Team → Team) : (s.mapTeam i f).early = s.early := rfl
@[simp] theorem State.mapTeam_wroteFar (s : State) (i : Nat) (f : Team → Team) : (s.mapTeam i f).wroteFar = s.wroteFar := rfl
@[simp] theorem State.mapTeam_tookFar (s : State) (i : Nat) (f : Team → Team) : (s.mapTeam i f).tookFar = s.tookFar := rfl
@[simp] theorem State.mapTeam_inputs (s : State) (i : Nat) (f : Team → Team) : (s.mapTeam i f).inputs = s.inputs := rfl
@[simp] theorem State.mapTeam_regWrites (s : State) (i : Nat) (f : Team → Team) : (s.mapTeam i f).regWrites = s.regWrites := rfl
@[simp] theorem State.mapTeam_imageWrites (s : State) (i : Nat) (f : Team → Team) : (s.mapTeam i f).imageWrites = s.imageWrites := rfl
@[simp] theorem State.mapTeam_waiting (s : State) (i : Nat) (f : Team → Team) : (s.mapTeam i f).waiting = s.waiting := rfl
@[simp] theorem State.mapTeam_appLr (s : State) (i : Nat) (f : Team → Team) : (s.mapTeam i f).appLr = s.appLr := rfl
@[simp] theorem State.mapTeam_outbox (s : State) (i : Nat) (f : Team → Team) : (s.mapTeam i f).outbox = s.outbox := rfl
@[simp] theorem State.mapTeam_actor (s : State) (i : Nat) (f : Team → Team) : (s.mapTeam i f).actor = s.actor := rfl
@[simp] theorem State.mapTeam_turn (s : State) (i : Nat) (f : Team → Team) : (s.mapTeam i f).turn = s.turn := rfl
@[simp] theorem State.mapTeam_fresh (s : State) (i : Nat) (f : Team → Team) : (s.mapTeam i f).fresh = s.fresh := rfl

/-! `State.mapGroup` -/

@[simp] theorem State.mapGroup_mem (s : State) (i j : Nat) (f : Group → Group) : (s.mapGroup i j f).mem = s.mem := rfl
@[simp] theorem State.mapGroup_poison (s : State) (i j : Nat) (f : Group → Group) : (s.mapGroup i j f).poison = s.poison := rfl
@[simp] theorem State.mapGroup_cores (s : State) (i j : Nat) (f : Group → Group) : (s.mapGroup i j f).cores = s.cores := rfl
@[simp] theorem State.mapGroup_dies (s : State) (i j : Nat) (f : Group → Group) : (s.mapGroup i j f).dies = s.dies := rfl
@[simp] theorem State.mapGroup_ports (s : State) (i j : Nat) (f : Group → Group) : (s.mapGroup i j f).ports = s.ports := rfl
@[simp] theorem State.mapGroup_ios (s : State) (i j : Nat) (f : Group → Group) : (s.mapGroup i j f).ios = s.ios := rfl
@[simp] theorem State.mapGroup_links (s : State) (i j : Nat) (f : Group → Group) : (s.mapGroup i j f).links = s.links := rfl
@[simp] theorem State.mapGroup_slices (s : State) (i j : Nat) (f : Group → Group) : (s.mapGroup i j f).slices = s.slices := rfl
@[simp] theorem State.mapGroup_lostDies (s : State) (i j : Nat) (f : Group → Group) : (s.mapGroup i j f).lostDies = s.lostDies := rfl
@[simp] theorem State.mapGroup_lostPkgs (s : State) (i j : Nat) (f : Group → Group) : (s.mapGroup i j f).lostPkgs = s.lostPkgs := rfl
@[simp] theorem State.mapGroup_mgVa (s : State) (i j : Nat) (f : Group → Group) : (s.mapGroup i j f).mgVa = s.mgVa := rfl
@[simp] theorem State.mapGroup_mgDst (s : State) (i j : Nat) (f : Group → Group) : (s.mapGroup i j f).mgDst = s.mgDst := rfl
@[simp] theorem State.mapGroup_mgAsid (s : State) (i j : Nat) (f : Group → Group) : (s.mapGroup i j f).mgAsid = s.mgAsid := rfl
@[simp] theorem State.mapGroup_mgStatus (s : State) (i j : Nat) (f : Group → Group) : (s.mapGroup i j f).mgStatus = s.mgStatus := rfl
@[simp] theorem State.mapGroup_mgGo (s : State) (i j : Nat) (f : Group → Group) : (s.mapGroup i j f).mgGo = s.mgGo := rfl
@[simp] theorem State.mapGroup_mgJob (s : State) (i j : Nat) (f : Group → Group) : (s.mapGroup i j f).mgJob = s.mgJob := rfl
@[simp] theorem State.mapGroup_moves (s : State) (i j : Nat) (f : Group → Group) : (s.mapGroup i j f).moves = s.moves := rfl
@[simp] theorem State.mapGroup_transition (s : State) (i j : Nat) (f : Group → Group) : (s.mapGroup i j f).transition = s.transition := rfl
@[simp] theorem State.mapGroup_hdm (s : State) (i j : Nat) (f : Group → Group) : (s.mapGroup i j f).hdm = s.hdm := rfl
@[simp] theorem State.mapGroup_mgmt (s : State) (i j : Nat) (f : Group → Group) : (s.mapGroup i j f).mgmt = s.mgmt := rfl
@[simp] theorem State.mapGroup_wires (s : State) (i j : Nat) (f : Group → Group) : (s.mapGroup i j f).wires = s.wires := rfl
@[simp] theorem State.mapGroup_early (s : State) (i j : Nat) (f : Group → Group) : (s.mapGroup i j f).early = s.early := rfl
@[simp] theorem State.mapGroup_wroteFar (s : State) (i j : Nat) (f : Group → Group) : (s.mapGroup i j f).wroteFar = s.wroteFar := rfl
@[simp] theorem State.mapGroup_tookFar (s : State) (i j : Nat) (f : Group → Group) : (s.mapGroup i j f).tookFar = s.tookFar := rfl
@[simp] theorem State.mapGroup_inputs (s : State) (i j : Nat) (f : Group → Group) : (s.mapGroup i j f).inputs = s.inputs := rfl
@[simp] theorem State.mapGroup_regWrites (s : State) (i j : Nat) (f : Group → Group) : (s.mapGroup i j f).regWrites = s.regWrites := rfl
@[simp] theorem State.mapGroup_imageWrites (s : State) (i j : Nat) (f : Group → Group) : (s.mapGroup i j f).imageWrites = s.imageWrites := rfl
@[simp] theorem State.mapGroup_waiting (s : State) (i j : Nat) (f : Group → Group) : (s.mapGroup i j f).waiting = s.waiting := rfl
@[simp] theorem State.mapGroup_appLr (s : State) (i j : Nat) (f : Group → Group) : (s.mapGroup i j f).appLr = s.appLr := rfl
@[simp] theorem State.mapGroup_outbox (s : State) (i j : Nat) (f : Group → Group) : (s.mapGroup i j f).outbox = s.outbox := rfl
@[simp] theorem State.mapGroup_actor (s : State) (i j : Nat) (f : Group → Group) : (s.mapGroup i j f).actor = s.actor := rfl
@[simp] theorem State.mapGroup_turn (s : State) (i j : Nat) (f : Group → Group) : (s.mapGroup i j f).turn = s.turn := rfl
@[simp] theorem State.mapGroup_fresh (s : State) (i j : Nat) (f : Group → Group) : (s.mapGroup i j f).fresh = s.fresh := rfl

/-! `State.putGroup` -/

@[simp] theorem State.putGroup_mem (s : State) (c : Ctx) (g : Group) : (s.putGroup c g).mem = s.mem := rfl
@[simp] theorem State.putGroup_poison (s : State) (c : Ctx) (g : Group) : (s.putGroup c g).poison = s.poison := rfl
@[simp] theorem State.putGroup_cores (s : State) (c : Ctx) (g : Group) : (s.putGroup c g).cores = s.cores := rfl
@[simp] theorem State.putGroup_dies (s : State) (c : Ctx) (g : Group) : (s.putGroup c g).dies = s.dies := rfl
@[simp] theorem State.putGroup_ports (s : State) (c : Ctx) (g : Group) : (s.putGroup c g).ports = s.ports := rfl
@[simp] theorem State.putGroup_ios (s : State) (c : Ctx) (g : Group) : (s.putGroup c g).ios = s.ios := rfl
@[simp] theorem State.putGroup_links (s : State) (c : Ctx) (g : Group) : (s.putGroup c g).links = s.links := rfl
@[simp] theorem State.putGroup_slices (s : State) (c : Ctx) (g : Group) : (s.putGroup c g).slices = s.slices := rfl
@[simp] theorem State.putGroup_lostDies (s : State) (c : Ctx) (g : Group) : (s.putGroup c g).lostDies = s.lostDies := rfl
@[simp] theorem State.putGroup_lostPkgs (s : State) (c : Ctx) (g : Group) : (s.putGroup c g).lostPkgs = s.lostPkgs := rfl
@[simp] theorem State.putGroup_mgVa (s : State) (c : Ctx) (g : Group) : (s.putGroup c g).mgVa = s.mgVa := rfl
@[simp] theorem State.putGroup_mgDst (s : State) (c : Ctx) (g : Group) : (s.putGroup c g).mgDst = s.mgDst := rfl
@[simp] theorem State.putGroup_mgAsid (s : State) (c : Ctx) (g : Group) : (s.putGroup c g).mgAsid = s.mgAsid := rfl
@[simp] theorem State.putGroup_mgStatus (s : State) (c : Ctx) (g : Group) : (s.putGroup c g).mgStatus = s.mgStatus := rfl
@[simp] theorem State.putGroup_mgGo (s : State) (c : Ctx) (g : Group) : (s.putGroup c g).mgGo = s.mgGo := rfl
@[simp] theorem State.putGroup_mgJob (s : State) (c : Ctx) (g : Group) : (s.putGroup c g).mgJob = s.mgJob := rfl
@[simp] theorem State.putGroup_moves (s : State) (c : Ctx) (g : Group) : (s.putGroup c g).moves = s.moves := rfl
@[simp] theorem State.putGroup_transition (s : State) (c : Ctx) (g : Group) : (s.putGroup c g).transition = s.transition := rfl
@[simp] theorem State.putGroup_hdm (s : State) (c : Ctx) (g : Group) : (s.putGroup c g).hdm = s.hdm := rfl
@[simp] theorem State.putGroup_mgmt (s : State) (c : Ctx) (g : Group) : (s.putGroup c g).mgmt = s.mgmt := rfl
@[simp] theorem State.putGroup_wires (s : State) (c : Ctx) (g : Group) : (s.putGroup c g).wires = s.wires := rfl
@[simp] theorem State.putGroup_early (s : State) (c : Ctx) (g : Group) : (s.putGroup c g).early = s.early := rfl
@[simp] theorem State.putGroup_wroteFar (s : State) (c : Ctx) (g : Group) : (s.putGroup c g).wroteFar = s.wroteFar := rfl
@[simp] theorem State.putGroup_tookFar (s : State) (c : Ctx) (g : Group) : (s.putGroup c g).tookFar = s.tookFar := rfl
@[simp] theorem State.putGroup_inputs (s : State) (c : Ctx) (g : Group) : (s.putGroup c g).inputs = s.inputs := rfl
@[simp] theorem State.putGroup_regWrites (s : State) (c : Ctx) (g : Group) : (s.putGroup c g).regWrites = s.regWrites := rfl
@[simp] theorem State.putGroup_imageWrites (s : State) (c : Ctx) (g : Group) : (s.putGroup c g).imageWrites = s.imageWrites := rfl
@[simp] theorem State.putGroup_waiting (s : State) (c : Ctx) (g : Group) : (s.putGroup c g).waiting = s.waiting := rfl
@[simp] theorem State.putGroup_appLr (s : State) (c : Ctx) (g : Group) : (s.putGroup c g).appLr = s.appLr := rfl
@[simp] theorem State.putGroup_outbox (s : State) (c : Ctx) (g : Group) : (s.putGroup c g).outbox = s.outbox := rfl
@[simp] theorem State.putGroup_actor (s : State) (c : Ctx) (g : Group) : (s.putGroup c g).actor = s.actor := rfl
@[simp] theorem State.putGroup_turn (s : State) (c : Ctx) (g : Group) : (s.putGroup c g).turn = s.turn := rfl
@[simp] theorem State.putGroup_fresh (s : State) (c : Ctx) (g : Group) : (s.putGroup c g).fresh = s.fresh := rfl

/-! `State.setCore` -/

@[simp] theorem State.setCore_mem (s : State) (i : Nat) (k : Core) : (s.setCore i k).mem = s.mem := rfl
@[simp] theorem State.setCore_poison (s : State) (i : Nat) (k : Core) : (s.setCore i k).poison = s.poison := rfl
@[simp] theorem State.setCore_teams (s : State) (i : Nat) (k : Core) : (s.setCore i k).teams = s.teams := rfl
@[simp] theorem State.setCore_dies (s : State) (i : Nat) (k : Core) : (s.setCore i k).dies = s.dies := rfl
@[simp] theorem State.setCore_ports (s : State) (i : Nat) (k : Core) : (s.setCore i k).ports = s.ports := rfl
@[simp] theorem State.setCore_ios (s : State) (i : Nat) (k : Core) : (s.setCore i k).ios = s.ios := rfl
@[simp] theorem State.setCore_links (s : State) (i : Nat) (k : Core) : (s.setCore i k).links = s.links := rfl
@[simp] theorem State.setCore_slices (s : State) (i : Nat) (k : Core) : (s.setCore i k).slices = s.slices := rfl
@[simp] theorem State.setCore_lostDies (s : State) (i : Nat) (k : Core) : (s.setCore i k).lostDies = s.lostDies := rfl
@[simp] theorem State.setCore_lostPkgs (s : State) (i : Nat) (k : Core) : (s.setCore i k).lostPkgs = s.lostPkgs := rfl
@[simp] theorem State.setCore_mgVa (s : State) (i : Nat) (k : Core) : (s.setCore i k).mgVa = s.mgVa := rfl
@[simp] theorem State.setCore_mgDst (s : State) (i : Nat) (k : Core) : (s.setCore i k).mgDst = s.mgDst := rfl
@[simp] theorem State.setCore_mgAsid (s : State) (i : Nat) (k : Core) : (s.setCore i k).mgAsid = s.mgAsid := rfl
@[simp] theorem State.setCore_mgStatus (s : State) (i : Nat) (k : Core) : (s.setCore i k).mgStatus = s.mgStatus := rfl
@[simp] theorem State.setCore_mgGo (s : State) (i : Nat) (k : Core) : (s.setCore i k).mgGo = s.mgGo := rfl
@[simp] theorem State.setCore_mgJob (s : State) (i : Nat) (k : Core) : (s.setCore i k).mgJob = s.mgJob := rfl
@[simp] theorem State.setCore_moves (s : State) (i : Nat) (k : Core) : (s.setCore i k).moves = s.moves := rfl
@[simp] theorem State.setCore_transition (s : State) (i : Nat) (k : Core) : (s.setCore i k).transition = s.transition := rfl
@[simp] theorem State.setCore_hdm (s : State) (i : Nat) (k : Core) : (s.setCore i k).hdm = s.hdm := rfl
@[simp] theorem State.setCore_mgmt (s : State) (i : Nat) (k : Core) : (s.setCore i k).mgmt = s.mgmt := rfl
@[simp] theorem State.setCore_wires (s : State) (i : Nat) (k : Core) : (s.setCore i k).wires = s.wires := rfl
@[simp] theorem State.setCore_early (s : State) (i : Nat) (k : Core) : (s.setCore i k).early = s.early := rfl
@[simp] theorem State.setCore_wroteFar (s : State) (i : Nat) (k : Core) : (s.setCore i k).wroteFar = s.wroteFar := rfl
@[simp] theorem State.setCore_tookFar (s : State) (i : Nat) (k : Core) : (s.setCore i k).tookFar = s.tookFar := rfl
@[simp] theorem State.setCore_inputs (s : State) (i : Nat) (k : Core) : (s.setCore i k).inputs = s.inputs := rfl
@[simp] theorem State.setCore_regWrites (s : State) (i : Nat) (k : Core) : (s.setCore i k).regWrites = s.regWrites := rfl
@[simp] theorem State.setCore_imageWrites (s : State) (i : Nat) (k : Core) : (s.setCore i k).imageWrites = s.imageWrites := rfl
@[simp] theorem State.setCore_waiting (s : State) (i : Nat) (k : Core) : (s.setCore i k).waiting = s.waiting := rfl
@[simp] theorem State.setCore_appLr (s : State) (i : Nat) (k : Core) : (s.setCore i k).appLr = s.appLr := rfl
@[simp] theorem State.setCore_outbox (s : State) (i : Nat) (k : Core) : (s.setCore i k).outbox = s.outbox := rfl
@[simp] theorem State.setCore_actor (s : State) (i : Nat) (k : Core) : (s.setCore i k).actor = s.actor := rfl
@[simp] theorem State.setCore_turn (s : State) (i : Nat) (k : Core) : (s.setCore i k).turn = s.turn := rfl
@[simp] theorem State.setCore_fresh (s : State) (i : Nat) (k : Core) : (s.setCore i k).fresh = s.fresh := rfl

/-! `State.mapCore` -/

@[simp] theorem State.mapCore_mem (s : State) (i : Nat) (f : Core → Core) : (s.mapCore i f).mem = s.mem := rfl
@[simp] theorem State.mapCore_poison (s : State) (i : Nat) (f : Core → Core) : (s.mapCore i f).poison = s.poison := rfl
@[simp] theorem State.mapCore_teams (s : State) (i : Nat) (f : Core → Core) : (s.mapCore i f).teams = s.teams := rfl
@[simp] theorem State.mapCore_dies (s : State) (i : Nat) (f : Core → Core) : (s.mapCore i f).dies = s.dies := rfl
@[simp] theorem State.mapCore_ports (s : State) (i : Nat) (f : Core → Core) : (s.mapCore i f).ports = s.ports := rfl
@[simp] theorem State.mapCore_ios (s : State) (i : Nat) (f : Core → Core) : (s.mapCore i f).ios = s.ios := rfl
@[simp] theorem State.mapCore_links (s : State) (i : Nat) (f : Core → Core) : (s.mapCore i f).links = s.links := rfl
@[simp] theorem State.mapCore_slices (s : State) (i : Nat) (f : Core → Core) : (s.mapCore i f).slices = s.slices := rfl
@[simp] theorem State.mapCore_lostDies (s : State) (i : Nat) (f : Core → Core) : (s.mapCore i f).lostDies = s.lostDies := rfl
@[simp] theorem State.mapCore_lostPkgs (s : State) (i : Nat) (f : Core → Core) : (s.mapCore i f).lostPkgs = s.lostPkgs := rfl
@[simp] theorem State.mapCore_mgVa (s : State) (i : Nat) (f : Core → Core) : (s.mapCore i f).mgVa = s.mgVa := rfl
@[simp] theorem State.mapCore_mgDst (s : State) (i : Nat) (f : Core → Core) : (s.mapCore i f).mgDst = s.mgDst := rfl
@[simp] theorem State.mapCore_mgAsid (s : State) (i : Nat) (f : Core → Core) : (s.mapCore i f).mgAsid = s.mgAsid := rfl
@[simp] theorem State.mapCore_mgStatus (s : State) (i : Nat) (f : Core → Core) : (s.mapCore i f).mgStatus = s.mgStatus := rfl
@[simp] theorem State.mapCore_mgGo (s : State) (i : Nat) (f : Core → Core) : (s.mapCore i f).mgGo = s.mgGo := rfl
@[simp] theorem State.mapCore_mgJob (s : State) (i : Nat) (f : Core → Core) : (s.mapCore i f).mgJob = s.mgJob := rfl
@[simp] theorem State.mapCore_moves (s : State) (i : Nat) (f : Core → Core) : (s.mapCore i f).moves = s.moves := rfl
@[simp] theorem State.mapCore_transition (s : State) (i : Nat) (f : Core → Core) : (s.mapCore i f).transition = s.transition := rfl
@[simp] theorem State.mapCore_hdm (s : State) (i : Nat) (f : Core → Core) : (s.mapCore i f).hdm = s.hdm := rfl
@[simp] theorem State.mapCore_mgmt (s : State) (i : Nat) (f : Core → Core) : (s.mapCore i f).mgmt = s.mgmt := rfl
@[simp] theorem State.mapCore_wires (s : State) (i : Nat) (f : Core → Core) : (s.mapCore i f).wires = s.wires := rfl
@[simp] theorem State.mapCore_early (s : State) (i : Nat) (f : Core → Core) : (s.mapCore i f).early = s.early := rfl
@[simp] theorem State.mapCore_wroteFar (s : State) (i : Nat) (f : Core → Core) : (s.mapCore i f).wroteFar = s.wroteFar := rfl
@[simp] theorem State.mapCore_tookFar (s : State) (i : Nat) (f : Core → Core) : (s.mapCore i f).tookFar = s.tookFar := rfl
@[simp] theorem State.mapCore_inputs (s : State) (i : Nat) (f : Core → Core) : (s.mapCore i f).inputs = s.inputs := rfl
@[simp] theorem State.mapCore_regWrites (s : State) (i : Nat) (f : Core → Core) : (s.mapCore i f).regWrites = s.regWrites := rfl
@[simp] theorem State.mapCore_imageWrites (s : State) (i : Nat) (f : Core → Core) : (s.mapCore i f).imageWrites = s.imageWrites := rfl
@[simp] theorem State.mapCore_waiting (s : State) (i : Nat) (f : Core → Core) : (s.mapCore i f).waiting = s.waiting := rfl
@[simp] theorem State.mapCore_appLr (s : State) (i : Nat) (f : Core → Core) : (s.mapCore i f).appLr = s.appLr := rfl
@[simp] theorem State.mapCore_outbox (s : State) (i : Nat) (f : Core → Core) : (s.mapCore i f).outbox = s.outbox := rfl
@[simp] theorem State.mapCore_actor (s : State) (i : Nat) (f : Core → Core) : (s.mapCore i f).actor = s.actor := rfl
@[simp] theorem State.mapCore_turn (s : State) (i : Nat) (f : Core → Core) : (s.mapCore i f).turn = s.turn := rfl
@[simp] theorem State.mapCore_fresh (s : State) (i : Nat) (f : Core → Core) : (s.mapCore i f).fresh = s.fresh := rfl

/-! `State.produce` -/

@[simp] theorem State.produce_mem (s : State) (i j : Nat) (e : Effect) : (s.produce i j e).mem = s.mem := rfl
@[simp] theorem State.produce_poison (s : State) (i j : Nat) (e : Effect) : (s.produce i j e).poison = s.poison := rfl
@[simp] theorem State.produce_teams (s : State) (i j : Nat) (e : Effect) : (s.produce i j e).teams = s.teams := rfl
@[simp] theorem State.produce_dies (s : State) (i j : Nat) (e : Effect) : (s.produce i j e).dies = s.dies := rfl
@[simp] theorem State.produce_ports (s : State) (i j : Nat) (e : Effect) : (s.produce i j e).ports = s.ports := rfl
@[simp] theorem State.produce_ios (s : State) (i j : Nat) (e : Effect) : (s.produce i j e).ios = s.ios := rfl
@[simp] theorem State.produce_links (s : State) (i j : Nat) (e : Effect) : (s.produce i j e).links = s.links := rfl
@[simp] theorem State.produce_slices (s : State) (i j : Nat) (e : Effect) : (s.produce i j e).slices = s.slices := rfl
@[simp] theorem State.produce_lostDies (s : State) (i j : Nat) (e : Effect) : (s.produce i j e).lostDies = s.lostDies := rfl
@[simp] theorem State.produce_lostPkgs (s : State) (i j : Nat) (e : Effect) : (s.produce i j e).lostPkgs = s.lostPkgs := rfl
@[simp] theorem State.produce_mgVa (s : State) (i j : Nat) (e : Effect) : (s.produce i j e).mgVa = s.mgVa := rfl
@[simp] theorem State.produce_mgDst (s : State) (i j : Nat) (e : Effect) : (s.produce i j e).mgDst = s.mgDst := rfl
@[simp] theorem State.produce_mgAsid (s : State) (i j : Nat) (e : Effect) : (s.produce i j e).mgAsid = s.mgAsid := rfl
@[simp] theorem State.produce_mgStatus (s : State) (i j : Nat) (e : Effect) : (s.produce i j e).mgStatus = s.mgStatus := rfl
@[simp] theorem State.produce_mgGo (s : State) (i j : Nat) (e : Effect) : (s.produce i j e).mgGo = s.mgGo := rfl
@[simp] theorem State.produce_mgJob (s : State) (i j : Nat) (e : Effect) : (s.produce i j e).mgJob = s.mgJob := rfl
@[simp] theorem State.produce_moves (s : State) (i j : Nat) (e : Effect) : (s.produce i j e).moves = s.moves := rfl
@[simp] theorem State.produce_transition (s : State) (i j : Nat) (e : Effect) : (s.produce i j e).transition = s.transition := rfl
@[simp] theorem State.produce_hdm (s : State) (i j : Nat) (e : Effect) : (s.produce i j e).hdm = s.hdm := rfl
@[simp] theorem State.produce_mgmt (s : State) (i j : Nat) (e : Effect) : (s.produce i j e).mgmt = s.mgmt := rfl
@[simp] theorem State.produce_wires (s : State) (i j : Nat) (e : Effect) : (s.produce i j e).wires = s.wires := rfl
@[simp] theorem State.produce_early (s : State) (i j : Nat) (e : Effect) : (s.produce i j e).early = s.early := rfl
@[simp] theorem State.produce_wroteFar (s : State) (i j : Nat) (e : Effect) : (s.produce i j e).wroteFar = s.wroteFar := rfl
@[simp] theorem State.produce_tookFar (s : State) (i j : Nat) (e : Effect) : (s.produce i j e).tookFar = s.tookFar := rfl
@[simp] theorem State.produce_inputs (s : State) (i j : Nat) (e : Effect) : (s.produce i j e).inputs = s.inputs := rfl
@[simp] theorem State.produce_regWrites (s : State) (i j : Nat) (e : Effect) : (s.produce i j e).regWrites = s.regWrites := rfl
@[simp] theorem State.produce_imageWrites (s : State) (i j : Nat) (e : Effect) : (s.produce i j e).imageWrites = s.imageWrites := rfl
@[simp] theorem State.produce_waiting (s : State) (i j : Nat) (e : Effect) : (s.produce i j e).waiting = s.waiting := rfl
@[simp] theorem State.produce_appLr (s : State) (i j : Nat) (e : Effect) : (s.produce i j e).appLr = s.appLr := rfl
@[simp] theorem State.produce_outbox (s : State) (i j : Nat) (e : Effect) : (s.produce i j e).outbox = s.outbox := rfl
@[simp] theorem State.produce_actor (s : State) (i j : Nat) (e : Effect) : (s.produce i j e).actor = s.actor := rfl
@[simp] theorem State.produce_turn (s : State) (i j : Nat) (e : Effect) : (s.produce i j e).turn = s.turn := rfl
@[simp] theorem State.produce_fresh (s : State) (i j : Nat) (e : Effect) : (s.produce i j e).fresh = s.fresh := rfl

/-! `State.setDie` -/

@[simp] theorem State.setDie_mem (s : State) (i : Nat) (d : Die) : (s.setDie i d).mem = s.mem := rfl
@[simp] theorem State.setDie_poison (s : State) (i : Nat) (d : Die) : (s.setDie i d).poison = s.poison := rfl
@[simp] theorem State.setDie_teams (s : State) (i : Nat) (d : Die) : (s.setDie i d).teams = s.teams := rfl
@[simp] theorem State.setDie_cores (s : State) (i : Nat) (d : Die) : (s.setDie i d).cores = s.cores := rfl
@[simp] theorem State.setDie_ports (s : State) (i : Nat) (d : Die) : (s.setDie i d).ports = s.ports := rfl
@[simp] theorem State.setDie_ios (s : State) (i : Nat) (d : Die) : (s.setDie i d).ios = s.ios := rfl
@[simp] theorem State.setDie_links (s : State) (i : Nat) (d : Die) : (s.setDie i d).links = s.links := rfl
@[simp] theorem State.setDie_slices (s : State) (i : Nat) (d : Die) : (s.setDie i d).slices = s.slices := rfl
@[simp] theorem State.setDie_lostDies (s : State) (i : Nat) (d : Die) : (s.setDie i d).lostDies = s.lostDies := rfl
@[simp] theorem State.setDie_lostPkgs (s : State) (i : Nat) (d : Die) : (s.setDie i d).lostPkgs = s.lostPkgs := rfl
@[simp] theorem State.setDie_mgVa (s : State) (i : Nat) (d : Die) : (s.setDie i d).mgVa = s.mgVa := rfl
@[simp] theorem State.setDie_mgDst (s : State) (i : Nat) (d : Die) : (s.setDie i d).mgDst = s.mgDst := rfl
@[simp] theorem State.setDie_mgAsid (s : State) (i : Nat) (d : Die) : (s.setDie i d).mgAsid = s.mgAsid := rfl
@[simp] theorem State.setDie_mgStatus (s : State) (i : Nat) (d : Die) : (s.setDie i d).mgStatus = s.mgStatus := rfl
@[simp] theorem State.setDie_mgGo (s : State) (i : Nat) (d : Die) : (s.setDie i d).mgGo = s.mgGo := rfl
@[simp] theorem State.setDie_mgJob (s : State) (i : Nat) (d : Die) : (s.setDie i d).mgJob = s.mgJob := rfl
@[simp] theorem State.setDie_moves (s : State) (i : Nat) (d : Die) : (s.setDie i d).moves = s.moves := rfl
@[simp] theorem State.setDie_transition (s : State) (i : Nat) (d : Die) : (s.setDie i d).transition = s.transition := rfl
@[simp] theorem State.setDie_hdm (s : State) (i : Nat) (d : Die) : (s.setDie i d).hdm = s.hdm := rfl
@[simp] theorem State.setDie_mgmt (s : State) (i : Nat) (d : Die) : (s.setDie i d).mgmt = s.mgmt := rfl
@[simp] theorem State.setDie_wires (s : State) (i : Nat) (d : Die) : (s.setDie i d).wires = s.wires := rfl
@[simp] theorem State.setDie_early (s : State) (i : Nat) (d : Die) : (s.setDie i d).early = s.early := rfl
@[simp] theorem State.setDie_wroteFar (s : State) (i : Nat) (d : Die) : (s.setDie i d).wroteFar = s.wroteFar := rfl
@[simp] theorem State.setDie_tookFar (s : State) (i : Nat) (d : Die) : (s.setDie i d).tookFar = s.tookFar := rfl
@[simp] theorem State.setDie_inputs (s : State) (i : Nat) (d : Die) : (s.setDie i d).inputs = s.inputs := rfl
@[simp] theorem State.setDie_regWrites (s : State) (i : Nat) (d : Die) : (s.setDie i d).regWrites = s.regWrites := rfl
@[simp] theorem State.setDie_imageWrites (s : State) (i : Nat) (d : Die) : (s.setDie i d).imageWrites = s.imageWrites := rfl
@[simp] theorem State.setDie_waiting (s : State) (i : Nat) (d : Die) : (s.setDie i d).waiting = s.waiting := rfl
@[simp] theorem State.setDie_appLr (s : State) (i : Nat) (d : Die) : (s.setDie i d).appLr = s.appLr := rfl
@[simp] theorem State.setDie_outbox (s : State) (i : Nat) (d : Die) : (s.setDie i d).outbox = s.outbox := rfl
@[simp] theorem State.setDie_actor (s : State) (i : Nat) (d : Die) : (s.setDie i d).actor = s.actor := rfl
@[simp] theorem State.setDie_turn (s : State) (i : Nat) (d : Die) : (s.setDie i d).turn = s.turn := rfl
@[simp] theorem State.setDie_fresh (s : State) (i : Nat) (d : Die) : (s.setDie i d).fresh = s.fresh := rfl

/-! `State.mapDie` -/

@[simp] theorem State.mapDie_mem (s : State) (i : Nat) (f : Die → Die) : (s.mapDie i f).mem = s.mem := rfl
@[simp] theorem State.mapDie_poison (s : State) (i : Nat) (f : Die → Die) : (s.mapDie i f).poison = s.poison := rfl
@[simp] theorem State.mapDie_teams (s : State) (i : Nat) (f : Die → Die) : (s.mapDie i f).teams = s.teams := rfl
@[simp] theorem State.mapDie_cores (s : State) (i : Nat) (f : Die → Die) : (s.mapDie i f).cores = s.cores := rfl
@[simp] theorem State.mapDie_ports (s : State) (i : Nat) (f : Die → Die) : (s.mapDie i f).ports = s.ports := rfl
@[simp] theorem State.mapDie_ios (s : State) (i : Nat) (f : Die → Die) : (s.mapDie i f).ios = s.ios := rfl
@[simp] theorem State.mapDie_links (s : State) (i : Nat) (f : Die → Die) : (s.mapDie i f).links = s.links := rfl
@[simp] theorem State.mapDie_slices (s : State) (i : Nat) (f : Die → Die) : (s.mapDie i f).slices = s.slices := rfl
@[simp] theorem State.mapDie_lostDies (s : State) (i : Nat) (f : Die → Die) : (s.mapDie i f).lostDies = s.lostDies := rfl
@[simp] theorem State.mapDie_lostPkgs (s : State) (i : Nat) (f : Die → Die) : (s.mapDie i f).lostPkgs = s.lostPkgs := rfl
@[simp] theorem State.mapDie_mgVa (s : State) (i : Nat) (f : Die → Die) : (s.mapDie i f).mgVa = s.mgVa := rfl
@[simp] theorem State.mapDie_mgDst (s : State) (i : Nat) (f : Die → Die) : (s.mapDie i f).mgDst = s.mgDst := rfl
@[simp] theorem State.mapDie_mgAsid (s : State) (i : Nat) (f : Die → Die) : (s.mapDie i f).mgAsid = s.mgAsid := rfl
@[simp] theorem State.mapDie_mgStatus (s : State) (i : Nat) (f : Die → Die) : (s.mapDie i f).mgStatus = s.mgStatus := rfl
@[simp] theorem State.mapDie_mgGo (s : State) (i : Nat) (f : Die → Die) : (s.mapDie i f).mgGo = s.mgGo := rfl
@[simp] theorem State.mapDie_mgJob (s : State) (i : Nat) (f : Die → Die) : (s.mapDie i f).mgJob = s.mgJob := rfl
@[simp] theorem State.mapDie_moves (s : State) (i : Nat) (f : Die → Die) : (s.mapDie i f).moves = s.moves := rfl
@[simp] theorem State.mapDie_transition (s : State) (i : Nat) (f : Die → Die) : (s.mapDie i f).transition = s.transition := rfl
@[simp] theorem State.mapDie_hdm (s : State) (i : Nat) (f : Die → Die) : (s.mapDie i f).hdm = s.hdm := rfl
@[simp] theorem State.mapDie_mgmt (s : State) (i : Nat) (f : Die → Die) : (s.mapDie i f).mgmt = s.mgmt := rfl
@[simp] theorem State.mapDie_wires (s : State) (i : Nat) (f : Die → Die) : (s.mapDie i f).wires = s.wires := rfl
@[simp] theorem State.mapDie_early (s : State) (i : Nat) (f : Die → Die) : (s.mapDie i f).early = s.early := rfl
@[simp] theorem State.mapDie_wroteFar (s : State) (i : Nat) (f : Die → Die) : (s.mapDie i f).wroteFar = s.wroteFar := rfl
@[simp] theorem State.mapDie_tookFar (s : State) (i : Nat) (f : Die → Die) : (s.mapDie i f).tookFar = s.tookFar := rfl
@[simp] theorem State.mapDie_inputs (s : State) (i : Nat) (f : Die → Die) : (s.mapDie i f).inputs = s.inputs := rfl
@[simp] theorem State.mapDie_regWrites (s : State) (i : Nat) (f : Die → Die) : (s.mapDie i f).regWrites = s.regWrites := rfl
@[simp] theorem State.mapDie_imageWrites (s : State) (i : Nat) (f : Die → Die) : (s.mapDie i f).imageWrites = s.imageWrites := rfl
@[simp] theorem State.mapDie_waiting (s : State) (i : Nat) (f : Die → Die) : (s.mapDie i f).waiting = s.waiting := rfl
@[simp] theorem State.mapDie_appLr (s : State) (i : Nat) (f : Die → Die) : (s.mapDie i f).appLr = s.appLr := rfl
@[simp] theorem State.mapDie_outbox (s : State) (i : Nat) (f : Die → Die) : (s.mapDie i f).outbox = s.outbox := rfl
@[simp] theorem State.mapDie_actor (s : State) (i : Nat) (f : Die → Die) : (s.mapDie i f).actor = s.actor := rfl
@[simp] theorem State.mapDie_turn (s : State) (i : Nat) (f : Die → Die) : (s.mapDie i f).turn = s.turn := rfl
@[simp] theorem State.mapDie_fresh (s : State) (i : Nat) (f : Die → Die) : (s.mapDie i f).fresh = s.fresh := rfl

/-! `State.mapPort` -/

@[simp] theorem State.mapPort_mem (s : State) (i : Nat) (f : Port → Port) : (s.mapPort i f).mem = s.mem := rfl
@[simp] theorem State.mapPort_poison (s : State) (i : Nat) (f : Port → Port) : (s.mapPort i f).poison = s.poison := rfl
@[simp] theorem State.mapPort_teams (s : State) (i : Nat) (f : Port → Port) : (s.mapPort i f).teams = s.teams := rfl
@[simp] theorem State.mapPort_cores (s : State) (i : Nat) (f : Port → Port) : (s.mapPort i f).cores = s.cores := rfl
@[simp] theorem State.mapPort_dies (s : State) (i : Nat) (f : Port → Port) : (s.mapPort i f).dies = s.dies := rfl
@[simp] theorem State.mapPort_ios (s : State) (i : Nat) (f : Port → Port) : (s.mapPort i f).ios = s.ios := rfl
@[simp] theorem State.mapPort_links (s : State) (i : Nat) (f : Port → Port) : (s.mapPort i f).links = s.links := rfl
@[simp] theorem State.mapPort_slices (s : State) (i : Nat) (f : Port → Port) : (s.mapPort i f).slices = s.slices := rfl
@[simp] theorem State.mapPort_lostDies (s : State) (i : Nat) (f : Port → Port) : (s.mapPort i f).lostDies = s.lostDies := rfl
@[simp] theorem State.mapPort_lostPkgs (s : State) (i : Nat) (f : Port → Port) : (s.mapPort i f).lostPkgs = s.lostPkgs := rfl
@[simp] theorem State.mapPort_mgVa (s : State) (i : Nat) (f : Port → Port) : (s.mapPort i f).mgVa = s.mgVa := rfl
@[simp] theorem State.mapPort_mgDst (s : State) (i : Nat) (f : Port → Port) : (s.mapPort i f).mgDst = s.mgDst := rfl
@[simp] theorem State.mapPort_mgAsid (s : State) (i : Nat) (f : Port → Port) : (s.mapPort i f).mgAsid = s.mgAsid := rfl
@[simp] theorem State.mapPort_mgStatus (s : State) (i : Nat) (f : Port → Port) : (s.mapPort i f).mgStatus = s.mgStatus := rfl
@[simp] theorem State.mapPort_mgGo (s : State) (i : Nat) (f : Port → Port) : (s.mapPort i f).mgGo = s.mgGo := rfl
@[simp] theorem State.mapPort_mgJob (s : State) (i : Nat) (f : Port → Port) : (s.mapPort i f).mgJob = s.mgJob := rfl
@[simp] theorem State.mapPort_moves (s : State) (i : Nat) (f : Port → Port) : (s.mapPort i f).moves = s.moves := rfl
@[simp] theorem State.mapPort_transition (s : State) (i : Nat) (f : Port → Port) : (s.mapPort i f).transition = s.transition := rfl
@[simp] theorem State.mapPort_hdm (s : State) (i : Nat) (f : Port → Port) : (s.mapPort i f).hdm = s.hdm := rfl
@[simp] theorem State.mapPort_mgmt (s : State) (i : Nat) (f : Port → Port) : (s.mapPort i f).mgmt = s.mgmt := rfl
@[simp] theorem State.mapPort_wires (s : State) (i : Nat) (f : Port → Port) : (s.mapPort i f).wires = s.wires := rfl
@[simp] theorem State.mapPort_early (s : State) (i : Nat) (f : Port → Port) : (s.mapPort i f).early = s.early := rfl
@[simp] theorem State.mapPort_wroteFar (s : State) (i : Nat) (f : Port → Port) : (s.mapPort i f).wroteFar = s.wroteFar := rfl
@[simp] theorem State.mapPort_tookFar (s : State) (i : Nat) (f : Port → Port) : (s.mapPort i f).tookFar = s.tookFar := rfl
@[simp] theorem State.mapPort_inputs (s : State) (i : Nat) (f : Port → Port) : (s.mapPort i f).inputs = s.inputs := rfl
@[simp] theorem State.mapPort_regWrites (s : State) (i : Nat) (f : Port → Port) : (s.mapPort i f).regWrites = s.regWrites := rfl
@[simp] theorem State.mapPort_imageWrites (s : State) (i : Nat) (f : Port → Port) : (s.mapPort i f).imageWrites = s.imageWrites := rfl
@[simp] theorem State.mapPort_waiting (s : State) (i : Nat) (f : Port → Port) : (s.mapPort i f).waiting = s.waiting := rfl
@[simp] theorem State.mapPort_appLr (s : State) (i : Nat) (f : Port → Port) : (s.mapPort i f).appLr = s.appLr := rfl
@[simp] theorem State.mapPort_outbox (s : State) (i : Nat) (f : Port → Port) : (s.mapPort i f).outbox = s.outbox := rfl
@[simp] theorem State.mapPort_actor (s : State) (i : Nat) (f : Port → Port) : (s.mapPort i f).actor = s.actor := rfl
@[simp] theorem State.mapPort_turn (s : State) (i : Nat) (f : Port → Port) : (s.mapPort i f).turn = s.turn := rfl
@[simp] theorem State.mapPort_fresh (s : State) (i : Nat) (f : Port → Port) : (s.mapPort i f).fresh = s.fresh := rfl

/-! `State.mapLaunch` -/

@[simp] theorem State.mapLaunch_mem (s : State) (i j : Nat) (f : Launch → Launch) : (s.mapLaunch i j f).mem = s.mem := rfl
@[simp] theorem State.mapLaunch_poison (s : State) (i j : Nat) (f : Launch → Launch) : (s.mapLaunch i j f).poison = s.poison := rfl
@[simp] theorem State.mapLaunch_teams (s : State) (i j : Nat) (f : Launch → Launch) : (s.mapLaunch i j f).teams = s.teams := rfl
@[simp] theorem State.mapLaunch_cores (s : State) (i j : Nat) (f : Launch → Launch) : (s.mapLaunch i j f).cores = s.cores := rfl
@[simp] theorem State.mapLaunch_dies (s : State) (i j : Nat) (f : Launch → Launch) : (s.mapLaunch i j f).dies = s.dies := rfl
@[simp] theorem State.mapLaunch_ios (s : State) (i j : Nat) (f : Launch → Launch) : (s.mapLaunch i j f).ios = s.ios := rfl
@[simp] theorem State.mapLaunch_links (s : State) (i j : Nat) (f : Launch → Launch) : (s.mapLaunch i j f).links = s.links := rfl
@[simp] theorem State.mapLaunch_slices (s : State) (i j : Nat) (f : Launch → Launch) : (s.mapLaunch i j f).slices = s.slices := rfl
@[simp] theorem State.mapLaunch_lostDies (s : State) (i j : Nat) (f : Launch → Launch) : (s.mapLaunch i j f).lostDies = s.lostDies := rfl
@[simp] theorem State.mapLaunch_lostPkgs (s : State) (i j : Nat) (f : Launch → Launch) : (s.mapLaunch i j f).lostPkgs = s.lostPkgs := rfl
@[simp] theorem State.mapLaunch_mgVa (s : State) (i j : Nat) (f : Launch → Launch) : (s.mapLaunch i j f).mgVa = s.mgVa := rfl
@[simp] theorem State.mapLaunch_mgDst (s : State) (i j : Nat) (f : Launch → Launch) : (s.mapLaunch i j f).mgDst = s.mgDst := rfl
@[simp] theorem State.mapLaunch_mgAsid (s : State) (i j : Nat) (f : Launch → Launch) : (s.mapLaunch i j f).mgAsid = s.mgAsid := rfl
@[simp] theorem State.mapLaunch_mgStatus (s : State) (i j : Nat) (f : Launch → Launch) : (s.mapLaunch i j f).mgStatus = s.mgStatus := rfl
@[simp] theorem State.mapLaunch_mgGo (s : State) (i j : Nat) (f : Launch → Launch) : (s.mapLaunch i j f).mgGo = s.mgGo := rfl
@[simp] theorem State.mapLaunch_mgJob (s : State) (i j : Nat) (f : Launch → Launch) : (s.mapLaunch i j f).mgJob = s.mgJob := rfl
@[simp] theorem State.mapLaunch_moves (s : State) (i j : Nat) (f : Launch → Launch) : (s.mapLaunch i j f).moves = s.moves := rfl
@[simp] theorem State.mapLaunch_transition (s : State) (i j : Nat) (f : Launch → Launch) : (s.mapLaunch i j f).transition = s.transition := rfl
@[simp] theorem State.mapLaunch_hdm (s : State) (i j : Nat) (f : Launch → Launch) : (s.mapLaunch i j f).hdm = s.hdm := rfl
@[simp] theorem State.mapLaunch_mgmt (s : State) (i j : Nat) (f : Launch → Launch) : (s.mapLaunch i j f).mgmt = s.mgmt := rfl
@[simp] theorem State.mapLaunch_wires (s : State) (i j : Nat) (f : Launch → Launch) : (s.mapLaunch i j f).wires = s.wires := rfl
@[simp] theorem State.mapLaunch_early (s : State) (i j : Nat) (f : Launch → Launch) : (s.mapLaunch i j f).early = s.early := rfl
@[simp] theorem State.mapLaunch_wroteFar (s : State) (i j : Nat) (f : Launch → Launch) : (s.mapLaunch i j f).wroteFar = s.wroteFar := rfl
@[simp] theorem State.mapLaunch_tookFar (s : State) (i j : Nat) (f : Launch → Launch) : (s.mapLaunch i j f).tookFar = s.tookFar := rfl
@[simp] theorem State.mapLaunch_inputs (s : State) (i j : Nat) (f : Launch → Launch) : (s.mapLaunch i j f).inputs = s.inputs := rfl
@[simp] theorem State.mapLaunch_regWrites (s : State) (i j : Nat) (f : Launch → Launch) : (s.mapLaunch i j f).regWrites = s.regWrites := rfl
@[simp] theorem State.mapLaunch_imageWrites (s : State) (i j : Nat) (f : Launch → Launch) : (s.mapLaunch i j f).imageWrites = s.imageWrites := rfl
@[simp] theorem State.mapLaunch_waiting (s : State) (i j : Nat) (f : Launch → Launch) : (s.mapLaunch i j f).waiting = s.waiting := rfl
@[simp] theorem State.mapLaunch_appLr (s : State) (i j : Nat) (f : Launch → Launch) : (s.mapLaunch i j f).appLr = s.appLr := rfl
@[simp] theorem State.mapLaunch_outbox (s : State) (i j : Nat) (f : Launch → Launch) : (s.mapLaunch i j f).outbox = s.outbox := rfl
@[simp] theorem State.mapLaunch_actor (s : State) (i j : Nat) (f : Launch → Launch) : (s.mapLaunch i j f).actor = s.actor := rfl
@[simp] theorem State.mapLaunch_turn (s : State) (i j : Nat) (f : Launch → Launch) : (s.mapLaunch i j f).turn = s.turn := rfl
@[simp] theorem State.mapLaunch_fresh (s : State) (i j : Nat) (f : Launch → Launch) : (s.mapLaunch i j f).fresh = s.fresh := rfl

/-! `State.emit` -/

@[simp] theorem State.emit_mem (s : State) (o : Out) : (s.emit o).mem = s.mem := rfl
@[simp] theorem State.emit_poison (s : State) (o : Out) : (s.emit o).poison = s.poison := rfl
@[simp] theorem State.emit_teams (s : State) (o : Out) : (s.emit o).teams = s.teams := rfl
@[simp] theorem State.emit_cores (s : State) (o : Out) : (s.emit o).cores = s.cores := rfl
@[simp] theorem State.emit_dies (s : State) (o : Out) : (s.emit o).dies = s.dies := rfl
@[simp] theorem State.emit_ports (s : State) (o : Out) : (s.emit o).ports = s.ports := rfl
@[simp] theorem State.emit_ios (s : State) (o : Out) : (s.emit o).ios = s.ios := rfl
@[simp] theorem State.emit_links (s : State) (o : Out) : (s.emit o).links = s.links := rfl
@[simp] theorem State.emit_slices (s : State) (o : Out) : (s.emit o).slices = s.slices := rfl
@[simp] theorem State.emit_lostDies (s : State) (o : Out) : (s.emit o).lostDies = s.lostDies := rfl
@[simp] theorem State.emit_lostPkgs (s : State) (o : Out) : (s.emit o).lostPkgs = s.lostPkgs := rfl
@[simp] theorem State.emit_mgVa (s : State) (o : Out) : (s.emit o).mgVa = s.mgVa := rfl
@[simp] theorem State.emit_mgDst (s : State) (o : Out) : (s.emit o).mgDst = s.mgDst := rfl
@[simp] theorem State.emit_mgAsid (s : State) (o : Out) : (s.emit o).mgAsid = s.mgAsid := rfl
@[simp] theorem State.emit_mgStatus (s : State) (o : Out) : (s.emit o).mgStatus = s.mgStatus := rfl
@[simp] theorem State.emit_mgGo (s : State) (o : Out) : (s.emit o).mgGo = s.mgGo := rfl
@[simp] theorem State.emit_mgJob (s : State) (o : Out) : (s.emit o).mgJob = s.mgJob := rfl
@[simp] theorem State.emit_moves (s : State) (o : Out) : (s.emit o).moves = s.moves := rfl
@[simp] theorem State.emit_transition (s : State) (o : Out) : (s.emit o).transition = s.transition := rfl
@[simp] theorem State.emit_hdm (s : State) (o : Out) : (s.emit o).hdm = s.hdm := rfl
@[simp] theorem State.emit_mgmt (s : State) (o : Out) : (s.emit o).mgmt = s.mgmt := rfl
@[simp] theorem State.emit_wires (s : State) (o : Out) : (s.emit o).wires = s.wires := rfl
@[simp] theorem State.emit_early (s : State) (o : Out) : (s.emit o).early = s.early := rfl
@[simp] theorem State.emit_wroteFar (s : State) (o : Out) : (s.emit o).wroteFar = s.wroteFar := rfl
@[simp] theorem State.emit_tookFar (s : State) (o : Out) : (s.emit o).tookFar = s.tookFar := rfl
@[simp] theorem State.emit_inputs (s : State) (o : Out) : (s.emit o).inputs = s.inputs := rfl
@[simp] theorem State.emit_regWrites (s : State) (o : Out) : (s.emit o).regWrites = s.regWrites := rfl
@[simp] theorem State.emit_imageWrites (s : State) (o : Out) : (s.emit o).imageWrites = s.imageWrites := rfl
@[simp] theorem State.emit_waiting (s : State) (o : Out) : (s.emit o).waiting = s.waiting := rfl
@[simp] theorem State.emit_appLr (s : State) (o : Out) : (s.emit o).appLr = s.appLr := rfl
@[simp] theorem State.emit_actor (s : State) (o : Out) : (s.emit o).actor = s.actor := rfl
@[simp] theorem State.emit_turn (s : State) (o : Out) : (s.emit o).turn = s.turn := rfl
@[simp] theorem State.emit_fresh (s : State) (o : Out) : (s.emit o).fresh = s.fresh := rfl

/-! Threads -/

@[simp] theorem Thread.tick_status (t : Thread)  : (t.tick).status = t.status := rfl
@[simp] theorem Thread.tick_pc (t : Thread)  : (t.tick).pc = t.pc := rfl
@[simp] theorem Thread.tick_v (t : Thread)  : (t.tick).v = t.v := rfl
@[simp] theorem Thread.tick_p (t : Thread)  : (t.tick).p = t.p := rfl
@[simp] theorem Thread.tick_hv (t : Thread)  : (t.tick).hv = t.hv := rfl
@[simp] theorem Thread.tick_hp (t : Thread)  : (t.tick).hp = t.hp := rfl
@[simp] theorem Thread.tick_spec (t : Thread)  : (t.tick).spec = t.spec := rfl
@[simp] theorem Thread.tick_clockHi (t : Thread)  : (t.tick).clockHi = t.clockHi := rfl
@[simp] theorem Thread.tick_barT (t : Thread)  : (t.tick).barT = t.barT := rfl
@[simp] theorem Thread.tick_barC (t : Thread)  : (t.tick).barC = t.barC := rfl
@[simp] theorem Thread.tick_nbA (t : Thread)  : (t.tick).nbA = t.nbA := rfl
@[simp] theorem Thread.tick_nbW (t : Thread)  : (t.tick).nbW = t.nbW := rfl
@[simp] theorem Thread.tick_cause (t : Thread)  : (t.tick).cause = t.cause := rfl
@[simp] theorem Thread.tick_tval (t : Thread)  : (t.tick).tval = t.tval := rfl
@[simp] theorem Thread.tick_epc (t : Thread)  : (t.tick).epc = t.epc := rfl
@[simp] theorem Thread.tick_resume (t : Thread)  : (t.tick).resume = t.resume := rfl
@[simp] theorem Thread.tick_held (t : Thread)  : (t.tick).held = t.held := rfl
@[simp] theorem Thread.tick_carried (t : Thread)  : (t.tick).carried = t.carried := rfl
@[simp] theorem Thread.tick_poison (t : Thread)  : (t.tick).poison = t.poison := rfl
@[simp] theorem Thread.tick_ppoison (t : Thread)  : (t.tick).ppoison = t.ppoison := rfl
@[simp] theorem Thread.next_status (t : Thread)  : (t.next).status = t.status := rfl
@[simp] theorem Thread.next_v (t : Thread)  : (t.next).v = t.v := rfl
@[simp] theorem Thread.next_p (t : Thread)  : (t.next).p = t.p := rfl
@[simp] theorem Thread.next_hv (t : Thread)  : (t.next).hv = t.hv := rfl
@[simp] theorem Thread.next_hp (t : Thread)  : (t.next).hp = t.hp := rfl
@[simp] theorem Thread.next_spec (t : Thread)  : (t.next).spec = t.spec := rfl
@[simp] theorem Thread.next_out (t : Thread)  : (t.next).out = t.out := rfl
@[simp] theorem Thread.next_stall (t : Thread)  : (t.next).stall = t.stall := rfl
@[simp] theorem Thread.next_kstall (t : Thread)  : (t.next).kstall = t.kstall := rfl
@[simp] theorem Thread.next_clockHi (t : Thread)  : (t.next).clockHi = t.clockHi := rfl
@[simp] theorem Thread.next_barT (t : Thread)  : (t.next).barT = t.barT := rfl
@[simp] theorem Thread.next_barC (t : Thread)  : (t.next).barC = t.barC := rfl
@[simp] theorem Thread.next_nbA (t : Thread)  : (t.next).nbA = t.nbA := rfl
@[simp] theorem Thread.next_nbW (t : Thread)  : (t.next).nbW = t.nbW := rfl
@[simp] theorem Thread.next_cause (t : Thread)  : (t.next).cause = t.cause := rfl
@[simp] theorem Thread.next_tval (t : Thread)  : (t.next).tval = t.tval := rfl
@[simp] theorem Thread.next_epc (t : Thread)  : (t.next).epc = t.epc := rfl
@[simp] theorem Thread.next_resume (t : Thread)  : (t.next).resume = t.resume := rfl
@[simp] theorem Thread.next_held (t : Thread)  : (t.next).held = t.held := rfl
@[simp] theorem Thread.next_rel (t : Thread)  : (t.next).rel = t.rel := rfl
@[simp] theorem Thread.next_carried (t : Thread)  : (t.next).carried = t.carried := rfl
@[simp] theorem Thread.next_poison (t : Thread)  : (t.next).poison = t.poison := rfl
@[simp] theorem Thread.next_ppoison (t : Thread)  : (t.next).ppoison = t.ppoison := rfl
@[simp] theorem Thread.goTo_status (t : Thread) (a : VAddr) : (t.goTo a).status = t.status := rfl
@[simp] theorem Thread.goTo_v (t : Thread) (a : VAddr) : (t.goTo a).v = t.v := rfl
@[simp] theorem Thread.goTo_p (t : Thread) (a : VAddr) : (t.goTo a).p = t.p := rfl
@[simp] theorem Thread.goTo_hv (t : Thread) (a : VAddr) : (t.goTo a).hv = t.hv := rfl
@[simp] theorem Thread.goTo_hp (t : Thread) (a : VAddr) : (t.goTo a).hp = t.hp := rfl
@[simp] theorem Thread.goTo_spec (t : Thread) (a : VAddr) : (t.goTo a).spec = t.spec := rfl
@[simp] theorem Thread.goTo_out (t : Thread) (a : VAddr) : (t.goTo a).out = t.out := rfl
@[simp] theorem Thread.goTo_stall (t : Thread) (a : VAddr) : (t.goTo a).stall = t.stall := rfl
@[simp] theorem Thread.goTo_kstall (t : Thread) (a : VAddr) : (t.goTo a).kstall = t.kstall := rfl
@[simp] theorem Thread.goTo_clockHi (t : Thread) (a : VAddr) : (t.goTo a).clockHi = t.clockHi := rfl
@[simp] theorem Thread.goTo_barT (t : Thread) (a : VAddr) : (t.goTo a).barT = t.barT := rfl
@[simp] theorem Thread.goTo_barC (t : Thread) (a : VAddr) : (t.goTo a).barC = t.barC := rfl
@[simp] theorem Thread.goTo_nbA (t : Thread) (a : VAddr) : (t.goTo a).nbA = t.nbA := rfl
@[simp] theorem Thread.goTo_nbW (t : Thread) (a : VAddr) : (t.goTo a).nbW = t.nbW := rfl
@[simp] theorem Thread.goTo_cause (t : Thread) (a : VAddr) : (t.goTo a).cause = t.cause := rfl
@[simp] theorem Thread.goTo_tval (t : Thread) (a : VAddr) : (t.goTo a).tval = t.tval := rfl
@[simp] theorem Thread.goTo_epc (t : Thread) (a : VAddr) : (t.goTo a).epc = t.epc := rfl
@[simp] theorem Thread.goTo_resume (t : Thread) (a : VAddr) : (t.goTo a).resume = t.resume := rfl
@[simp] theorem Thread.goTo_held (t : Thread) (a : VAddr) : (t.goTo a).held = t.held := rfl
@[simp] theorem Thread.goTo_rel (t : Thread) (a : VAddr) : (t.goTo a).rel = t.rel := rfl
@[simp] theorem Thread.goTo_carried (t : Thread) (a : VAddr) : (t.goTo a).carried = t.carried := rfl
@[simp] theorem Thread.goTo_poison (t : Thread) (a : VAddr) : (t.goTo a).poison = t.poison := rfl
@[simp] theorem Thread.goTo_ppoison (t : Thread) (a : VAddr) : (t.goTo a).ppoison = t.ppoison := rfl

@[simp] theorem Thread.goTo_pc (t : Thread) (a : VAddr) : (t.goTo a).pc = a := rfl
@[simp] theorem Thread.next_pc (t : Thread) : t.next.pc = t.pc + 4 := rfl
@[simp] theorem Thread.tick_out (t : Thread) : t.tick.out = t.out.map OutRes.tick := rfl
@[simp] theorem Thread.tick_rel (t : Thread) : t.tick.rel = none := rfl
@[simp] theorem Thread.tick_stall (t : Thread) : t.tick.stall = [] := rfl
@[simp] theorem Thread.tick_kstall (t : Thread) : t.tick.kstall = [] := rfl


/-! Groups -/

@[simp] theorem Group.setThread_idx (g : Group) (i : Nat) (t : Thread) : (g.setThread i t).idx = g.idx := rfl
@[simp] theorem Group.setThread_side (g : Group) (i : Nat) (t : Thread) : (g.setThread i t).side = g.side := rfl
@[simp] theorem Group.setThread_slot (g : Group) (i : Nat) (t : Thread) : (g.setThread i t).slot = g.slot := rfl
@[simp] theorem Group.setThread_age (g : Group) (i : Nat) (t : Thread) : (g.setThread i t).age = g.age := rfl
@[simp] theorem Group.setThread_active (g : Group) (i : Nat) (t : Thread) : (g.setThread i t).active = g.active := rfl
@[simp] theorem Group.setThread_role (g : Group) (i : Nat) (t : Thread) : (g.setThread i t).role = g.role := rfl
@[simp] theorem Group.setThread_regs (g : Group) (i : Nat) (t : Thread) : (g.setThread i t).regs = g.regs := rfl
@[simp] theorem Group.setThread_count (g : Group) (i : Nat) (t : Thread) : (g.setThread i t).count = g.count := rfl
@[simp] theorem Group.setThread_depth (g : Group) (i : Nat) (t : Thread) : (g.setThread i t).depth = g.depth := rfl
@[simp] theorem Group.setThread_k (g : Group) (i : Nat) (t : Thread) : (g.setThread i t).k = g.k := rfl
@[simp] theorem Group.setThread_hk (g : Group) (i : Nat) (t : Thread) : (g.setThread i t).hk = g.hk := rfl
@[simp] theorem Group.setThread_kpoison (g : Group) (i : Nat) (t : Thread) : (g.setThread i t).kpoison = g.kpoison := rfl
@[simp] theorem Group.setThread_quantum (g : Group) (i : Nat) (t : Thread) : (g.setThread i t).quantum = g.quantum := rfl
@[simp] theorem Group.setThread_n (g : Group) (i : Nat) (t : Thread) : (g.setThread i t).n = g.n := rfl
@[simp] theorem Group.setThread_favour (g : Group) (i : Nat) (t : Thread) : (g.setThread i t).favour = g.favour := rfl
@[simp] theorem Group.setThread_handler (g : Group) (i : Nat) (t : Thread) : (g.setThread i t).handler = g.handler := rfl
@[simp] theorem Group.setThread_teamHandler (g : Group) (i : Nat) (t : Thread) : (g.setThread i t).teamHandler = g.teamHandler := rfl
@[simp] theorem Group.setThread_pending (g : Group) (i : Nat) (t : Thread) : (g.setThread i t).pending = g.pending := rfl
@[simp] theorem Group.setThread_stopped (g : Group) (i : Nat) (t : Thread) : (g.setThread i t).stopped = g.stopped := rfl
@[simp] theorem Group.setThread_fmask (g : Group) (i : Nat) (t : Thread) : (g.setThread i t).fmask = g.fmask := rfl
@[simp] theorem Group.setThread_cfl (g : Group) (i : Nat) (t : Thread) : (g.setThread i t).cfl = g.cfl := rfl
@[simp] theorem Group.setThread_children (g : Group) (i : Nat) (t : Thread) : (g.setThread i t).children = g.children := rfl
@[simp] theorem Group.setThread_kout (g : Group) (i : Nat) (t : Thread) : (g.setThread i t).kout = g.kout := rfl
@[simp] theorem Group.setThread_score (g : Group) (i : Nat) (t : Thread) : (g.setThread i t).score = g.score := rfl
@[simp] theorem Group.setThread_conv (g : Group) (i : Nat) (t : Thread) : (g.setThread i t).conv = g.conv := rfl
@[simp] theorem Group.setThread_retired (g : Group) (i : Nat) (t : Thread) : (g.setThread i t).retired = g.retired := rfl
@[simp] theorem Group.mapAt_idx (g : Group) (ms : List Nat) (f : Nat → Thread → Thread) : (g.mapAt ms f).idx = g.idx := rfl
@[simp] theorem Group.mapAt_side (g : Group) (ms : List Nat) (f : Nat → Thread → Thread) : (g.mapAt ms f).side = g.side := rfl
@[simp] theorem Group.mapAt_slot (g : Group) (ms : List Nat) (f : Nat → Thread → Thread) : (g.mapAt ms f).slot = g.slot := rfl
@[simp] theorem Group.mapAt_age (g : Group) (ms : List Nat) (f : Nat → Thread → Thread) : (g.mapAt ms f).age = g.age := rfl
@[simp] theorem Group.mapAt_active (g : Group) (ms : List Nat) (f : Nat → Thread → Thread) : (g.mapAt ms f).active = g.active := rfl
@[simp] theorem Group.mapAt_role (g : Group) (ms : List Nat) (f : Nat → Thread → Thread) : (g.mapAt ms f).role = g.role := rfl
@[simp] theorem Group.mapAt_regs (g : Group) (ms : List Nat) (f : Nat → Thread → Thread) : (g.mapAt ms f).regs = g.regs := rfl
@[simp] theorem Group.mapAt_count (g : Group) (ms : List Nat) (f : Nat → Thread → Thread) : (g.mapAt ms f).count = g.count := rfl
@[simp] theorem Group.mapAt_depth (g : Group) (ms : List Nat) (f : Nat → Thread → Thread) : (g.mapAt ms f).depth = g.depth := rfl
@[simp] theorem Group.mapAt_k (g : Group) (ms : List Nat) (f : Nat → Thread → Thread) : (g.mapAt ms f).k = g.k := rfl
@[simp] theorem Group.mapAt_hk (g : Group) (ms : List Nat) (f : Nat → Thread → Thread) : (g.mapAt ms f).hk = g.hk := rfl
@[simp] theorem Group.mapAt_kpoison (g : Group) (ms : List Nat) (f : Nat → Thread → Thread) : (g.mapAt ms f).kpoison = g.kpoison := rfl
@[simp] theorem Group.mapAt_quantum (g : Group) (ms : List Nat) (f : Nat → Thread → Thread) : (g.mapAt ms f).quantum = g.quantum := rfl
@[simp] theorem Group.mapAt_n (g : Group) (ms : List Nat) (f : Nat → Thread → Thread) : (g.mapAt ms f).n = g.n := rfl
@[simp] theorem Group.mapAt_favour (g : Group) (ms : List Nat) (f : Nat → Thread → Thread) : (g.mapAt ms f).favour = g.favour := rfl
@[simp] theorem Group.mapAt_handler (g : Group) (ms : List Nat) (f : Nat → Thread → Thread) : (g.mapAt ms f).handler = g.handler := rfl
@[simp] theorem Group.mapAt_teamHandler (g : Group) (ms : List Nat) (f : Nat → Thread → Thread) : (g.mapAt ms f).teamHandler = g.teamHandler := rfl
@[simp] theorem Group.mapAt_pending (g : Group) (ms : List Nat) (f : Nat → Thread → Thread) : (g.mapAt ms f).pending = g.pending := rfl
@[simp] theorem Group.mapAt_stopped (g : Group) (ms : List Nat) (f : Nat → Thread → Thread) : (g.mapAt ms f).stopped = g.stopped := rfl
@[simp] theorem Group.mapAt_fmask (g : Group) (ms : List Nat) (f : Nat → Thread → Thread) : (g.mapAt ms f).fmask = g.fmask := rfl
@[simp] theorem Group.mapAt_cfl (g : Group) (ms : List Nat) (f : Nat → Thread → Thread) : (g.mapAt ms f).cfl = g.cfl := rfl
@[simp] theorem Group.mapAt_children (g : Group) (ms : List Nat) (f : Nat → Thread → Thread) : (g.mapAt ms f).children = g.children := rfl
@[simp] theorem Group.mapAt_kout (g : Group) (ms : List Nat) (f : Nat → Thread → Thread) : (g.mapAt ms f).kout = g.kout := rfl
@[simp] theorem Group.mapAt_score (g : Group) (ms : List Nat) (f : Nat → Thread → Thread) : (g.mapAt ms f).score = g.score := rfl
@[simp] theorem Group.mapAt_conv (g : Group) (ms : List Nat) (f : Nat → Thread → Thread) : (g.mapAt ms f).conv = g.conv := rfl
@[simp] theorem Group.mapAt_retired (g : Group) (ms : List Nat) (f : Nat → Thread → Thread) : (g.mapAt ms f).retired = g.retired := rfl

end Sys2Proof.Machine
end

