-- ==== Sys2Proof/Laws/Registers.lean ====
section
/-! SUPPORT. The laws of register files: what every register and predicate reads after one is written. -/
namespace Sys2Proof.Machine
open Sys2Proof

/-- A register file with one register written. -/
theorem putAt_getD (l : List Word) (i j : Nat) (x : Word) : (putAt l i x).getD j 0 = if j = i then x else l.getD j 0 := by
  induction l generalizing i j with
  | nil =>
    induction i generalizing j with
    | zero => cases j <;> simp [putAt]
    | succ i ih => cases j with
      | zero => simp [putAt]
      | succ j => simpa [putAt] using ih j
  | cons y r ih =>
    cases i with
    | zero => cases j <;> simp [putAt]
    | succ i => cases j with
      | zero => simp [putAt]
      | succ j => simpa [putAt] using ih i j

/-- A write of a storage register and every read after it. -/
theorem Thread.readV_writeV (t : Thread) (i j : Nat) (x : Word) : (t.writeV i x).readV j = if j = i then x else t.readV j := by
  unfold Thread.writeV Thread.readV
  by_cases hi : i < 128 <;> by_cases hj : j < 128 <;> simp only [hi, hj, if_true, if_false, putAt_getD]
  · rw [if_neg (by omega)]
  · rw [if_neg (by omega)]
  · by_cases e : j = i
    · subst e; simp
    · rw [if_neg (by omega), if_neg e]

@[simp] theorem Thread.writeV_readP (t : Thread) (i : Nat) (x : Word) (h : Bool) (k : Nat) :
    (t.writeV i x).readP h k = t.readP h k := by unfold Thread.writeV; split <;> rfl

/-- A write of a register leaves the rest of the thread. -/
theorem Thread.writeV_rest (t : Thread) (i : Nat) (x : Word) :
    t.writeV i x = { t with v := (t.writeV i x).v, hv := (t.writeV i x).hv, spec := (t.writeV i x).spec, poison := (t.writeV i x).poison } := by
  unfold Thread.writeV; split <;> rfl

@[simp] theorem Thread.writeV_spec (t : Thread) (i : Nat) (x : Word) : (t.writeV i x).spec = t.spec.filter fun e => !e.touches i := by
  unfold Thread.writeV; split <;> rfl
@[simp] theorem Thread.writeV_poison (t : Thread) (i : Nat) (x : Word) : (t.writeV i x).poison = t.poison.filter fun k => k != i := by
  unfold Thread.writeV; split <;> rfl
@[simp] theorem Thread.writeV_pc (t : Thread) (i : Nat) (x : Word) : (t.writeV i x).pc = t.pc := by unfold Thread.writeV; split <;> rfl
@[simp] theorem Thread.writeV_out (t : Thread) (i : Nat) (x : Word) : (t.writeV i x).out = t.out := by unfold Thread.writeV; split <;> rfl

@[simp] theorem Thread.next_readV (t : Thread) (j : Nat) : t.next.readV j = t.readV j := rfl
@[simp] theorem Thread.goTo_readV (t : Thread) (a : VAddr) (j : Nat) : (t.goTo a).readV j = t.readV j := rfl
@[simp] theorem Thread.tick_readV (t : Thread) (j : Nat) : t.tick.readV j = t.readV j := rfl
@[simp] theorem Thread.next_readP (t : Thread) (h : Bool) (j : Nat) : t.next.readP h j = t.readP h j := rfl
@[simp] theorem Thread.goTo_readP (t : Thread) (a : VAddr) (h : Bool) (j : Nat) : (t.goTo a).readP h j = t.readP h j := rfl
@[simp] theorem Thread.tick_readP (t : Thread) (h : Bool) (j : Nat) : t.tick.readP h j = t.readP h j := rfl

/-- Bits of a predicate byte with one written. -/
theorem setBit8_getLsbD (b : BitVec 8) (i k : Nat) (x : Bool) (hi : i < 8) :
    (setBit8 b i x).getLsbD k = if k = i then x else b.getLsbD k := by
  have h : i = 0 ∨ i = 1 ∨ i = 2 ∨ i = 3 ∨ i = 4 ∨ i = 5 ∨ i = 6 ∨ i = 7 := by omega
  by_cases hk : k < 8
  · have h2 : k = 0 ∨ k = 1 ∨ k = 2 ∨ k = 3 ∨ k = 4 ∨ k = 5 ∨ k = 6 ∨ k = 7 := by omega
    rcases h with rfl | rfl | rfl | rfl | rfl | rfl | rfl | rfl <;>
      rcases h2 with rfl | rfl | rfl | rfl | rfl | rfl | rfl | rfl <;> cases x <;> simp [setBit8]
  · have e1 : ∀ c : BitVec 8, c.getLsbD k = false := fun c => BitVec.getLsbD_of_ge c k (by omega)
    rw [e1, e1, if_neg (by omega)]

/-- A write of a predicate and every read after it. -/
theorem Thread.readP_writeP (t : Thread) (h b : Bool) (i k : Nat) (x : Bool) (hi : i < 8) :
    (t.writeP h i x).readP b k = if k = i ∧ k ≠ 0 ∧ b = h then x else t.readP b k := by
  unfold Thread.writeP
  by_cases h0 : i = 0
  · subst h0; simp only [if_true]; rw [if_neg (by omega)]
  · simp only [h0, if_false]
    unfold Thread.readP
    cases h <;> cases b <;> simp [setBit8_getLsbD _ _ _ _ hi] <;> by_cases hk : k = i <;> simp [hk, h0]

@[simp] theorem Thread.writeP_readV (t : Thread) (h : Bool) (i j : Nat) (x : Bool) : (t.writeP h i x).readV j = t.readV j := by
  unfold Thread.writeP; split
  · rfl
  · split <;> rfl
@[simp] theorem Thread.writeP_pc (t : Thread) (h : Bool) (i : Nat) (x : Bool) : (t.writeP h i x).pc = t.pc := by
  unfold Thread.writeP; split
  · rfl
  · split <;> rfl
@[simp] theorem Thread.writeP_out (t : Thread) (h : Bool) (i : Nat) (x : Bool) : (t.writeP h i x).out = t.out := by
  unfold Thread.writeP; split
  · rfl
  · split <;> rfl
@[simp] theorem Thread.writeP_spec (t : Thread) (h : Bool) (i : Nat) (x : Bool) : (t.writeP h i x).spec = t.spec := by
  unfold Thread.writeP; split
  · rfl
  · split <;> rfl
@[simp] theorem Thread.writeP_poison (t : Thread) (h : Bool) (i : Nat) (x : Bool) : (t.writeP h i x).poison = t.poison := by
  unfold Thread.writeP; split
  · rfl
  · split <;> rfl
@[simp] theorem Thread.writeP_ppoison (t : Thread) (h : Bool) (i : Nat) (x : Bool) :
    (t.writeP h i x).ppoison = t.ppoison.filter fun j => i == 0 || j != pIndex h i := by
  unfold Thread.writeP
  by_cases e : i = 0
  · subst e; exact (List.filter_eq_self.mpr fun _ _ => rfl).symm
  · have e0 : (i == 0) = false := by simpa using e
    simp only [e, if_false, e0, Bool.false_or]; cases h <;> rfl
@[simp] theorem Thread.writeV_ppoison (t : Thread) (i : Nat) (x : Word) : (t.writeV i x).ppoison = t.ppoison := by
  unfold Thread.writeV; split <;> rfl
/-- A write of a predicate leaves the rest of the thread. -/
theorem Thread.writeP_rest (t : Thread) (h : Bool) (i : Nat) (x : Bool) :
    t.writeP h i x = { t with p := (t.writeP h i x).p, hp := (t.writeP h i x).hp, ppoison := (t.writeP h i x).ppoison } := by
  unfold Thread.writeP; dsimp only; split
  · rfl
  · split <;> rfl

/-- A register file of a group with one register written. -/
theorem Group.readK_writeK (g : Group) (i j : Nat) (x : Word) :
    (g.writeK i x).readK j = if j = i ∧ j ≠ 0 then x else g.readK j := by
  unfold Group.writeK Group.readK
  by_cases h0 : i = 0
  · subst h0
    have e : ¬ (j = 0 ∧ j ≠ 0) := fun h => h.2 h.1
    simp only [if_true, e, if_false]
  · simp only [h0, if_false]
    by_cases j0 : j = 0
    · subst j0; simp
    · by_cases hi : i < 64 <;> by_cases hj : j < 64 <;> simp only [hi, hj, j0, if_true, if_false, putAt_getD]
      · by_cases e : j = i <;> simp [e, h0]
      · rw [if_neg (by omega)]
      · rw [if_neg (by omega)]
      · by_cases e : j = i
        · subst e; simp [j0]
        · rw [if_neg (by omega), if_neg (by omega)]

/-- A write of a `k` register leaves the rest of the group. -/
theorem Group.writeK_rest (g : Group) (i : Nat) (x : Word) :
    g.writeK i x = { g with k := (g.writeK i x).k, hk := (g.writeK i x).hk, kpoison := (g.writeK i x).kpoison } := by
  unfold Group.writeK; dsimp only; split
  · rfl
  · split <;> rfl

/-- A write of a `k` register clears its poison (R356). -/
@[simp] theorem Group.writeK_kpoison (g : Group) (i : Nat) (x : Word) :
    (g.writeK i x).kpoison = g.kpoison.filter fun j => i == 0 || j != i := by
  unfold Group.writeK
  by_cases e : i = 0
  · subst e; exact (List.filter_eq_self.mpr fun _ _ => rfl).symm
  · have e0 : (i == 0) = false := by simpa using e
    simp only [e, if_false, e0, Bool.false_or]; split <;> rfl
@[simp] theorem Group.writeK_handler (g : Group) (i : Nat) (x : Word) : (g.writeK i x).handler = g.handler := by
  unfold Group.writeK; split
  · rfl
  · dsimp only; split <;> rfl

/-- Register numbers name different storage. -/
theorem vIndex_inj {h : Bool} {i j : Nat} (hi : i < 128) (hj : j < 128) (e : vIndex h i = vIndex h j) : i = j := by
  unfold vIndex at e; cases h <;> simp at e <;> (repeat' split at e) <;> omega

end Sys2Proof.Machine
end

