-- ==== Sys2Proof/Laws/Paths.lean ====
section
/-! SUPPORT. What a path's instruction can do: replacing its group alters nothing else, the issue count and the rotation touch
the group's count and favour alone, and an instruction of the common shape completes or stops as `Computes` says. -/
namespace Sys2Proof.Machine
open Sys2Proof

/-- Reads a team after every team was changed by a function that keeps its number. -/
theorem State.team?_map (s : State) (f : Team → Team) (hf : ∀ t, (f t).id = t.id) (i : Nat) :
    ({ s with teams := s.teams.map f } : State).team? i = (s.team? i).map f := by
  simp only [State.team?, List.find?_map]
  congr 1
  exact congrArg (fun p => List.find? p s.teams) (funext fun t => by simp [hf])

/-- Reads a group after every group was changed by a function that keeps its number. -/
theorem Team.group?_map (t : Team) (f : Group → Group) (hf : ∀ g, (f g).idx = g.idx) (i : Nat) :
    ({ t with groups := t.groups.map f } : Team).group? i = (t.group? i).map f := by
  simp only [Team.group?, List.find?_map]
  congr 1
  exact congrArg (fun p => List.find? p t.groups) (funext fun g => by simp [hf])

/-- A found team has the number asked for. -/
theorem State.team?_id {s : State} {i : Nat} {t : Team} (h : s.team? i = some t) : t.id = i := by
  simpa using List.find?_some h
/-- A found group has the number asked for. -/
theorem Team.group?_idx {t : Team} {i : Nat} {g : Group} (h : t.group? i = some g) : g.idx = i := by
  simpa using List.find?_some h

/-- What a path of a state is. -/
theorem State.path?_spec {s : State} {c : Ctx} (h : s.path? = some c) :
    s.actor = .path c.team.id c.group.idx c.lead ∧ s.team? c.team.id = some c.team ∧ c.team.group? c.group.idx = some c.group ∧
      c.ms = c.group.members c.lead ∧ c.ms ≠ [] := by
  unfold State.path? at h
  split at h <;> try contradiction
  rename_i t g l ha
  split at h <;> try contradiction
  rename_i team ht
  split at h <;> try contradiction
  rename_i group hg
  by_cases hm : (group.members l).isEmpty
  · simp [hm] at h
  · simp only [hm] at h
    cases h
    exact ⟨by rw [ha, State.team?_id ht, Team.group?_idx hg], by rw [State.team?_id ht]; exact ht,
      by rw [Team.group?_idx hg]; exact hg, rfl, by simpa using hm⟩

/-- A member of a path is a running thread of its group, at the path's pc. -/
theorem Group.mem_members {g : Group} {l i : Nat} (h : i ∈ g.members l) :
    i < 32 ∧ i < g.threads.length ∧ (g.thread i).running = true ∧ (g.thread i).pc = (g.thread l).pc := by
  unfold Group.members at h
  split at h
  · simp only [List.mem_filter, List.mem_range, Bool.and_eq_true, beq_iff_eq] at h
    refine ⟨h.1, ?_, h.2.1, h.2.2⟩
    apply Classical.byContradiction
    intro hn
    have : g.thread i = { status := .absent } := by
      simp [Group.thread, List.getD_eq_getElem?_getD, List.getElem?_eq_none (Nat.le_of_not_lt hn)]
    rw [this] at h; simp [Thread.running] at h
  · simp at h

/-- A position of a path is one of its group's threads. -/
theorem State.path?_mem {s : State} {c : Ctx} (h : s.path? = some c) {i : Nat} (hi : i ∈ c.ms) :
    i < c.group.threads.length := by
  obtain ⟨-, -, -, hm, -⟩ := State.path?_spec h
  rw [hm] at hi
  exact (Group.mem_members hi).2.1

/-- A change of one group, read back. -/
theorem State.mapGroup_alters {s : State} {team : Team} {group : Group} {i : Nat} (ht : s.team? team.id = some team)
    (hg : team.group? group.idx = some group) (f : Group → Group) (hf : ∀ g, (f g).idx = group.idx) (hi : i = team.id) :
    OnlyTeam s (s.mapGroup i group.idx f) team.id
        { team with groups := team.groups.map fun h => if h.idx == group.idx then f h else h } ∧
      OnlyGroup team { team with groups := team.groups.map fun h => if h.idx == group.idx then f h else h } group.idx (f group) := by
  subst hi
  have hk : ∀ h : Group, (if h.idx == group.idx then f h else h).idx = h.idx := by
    intro h; by_cases e : h.idx == group.idx
    · simp only [e, if_true, hf]; exact (beq_iff_eq.mp e).symm
    · simp [e]
  refine ⟨⟨rfl, ?_, ?_⟩, ⟨rfl, ?_, ?_⟩⟩
  · have := State.team?_map s (fun t => if t.id == team.id then { t with groups := t.groups.map fun g => if g.idx == group.idx then f g else g } else t)
      (fun t => by split <;> rfl) team.id
    simp only [State.mapGroup]; rw [this, ht]; simp
  · intro j hj
    have := State.team?_map s (fun t => if t.id == team.id then { t with groups := t.groups.map fun g => if g.idx == group.idx then f g else g } else t)
      (fun t => by split <;> rfl) j
    simp only [State.mapGroup]; rw [this]
    cases h : s.team? j with
    | none => rfl
    | some u => have := State.team?_id h; subst this; simp [hj]
  · rw [Team.group?_map team _ hk, hg]; simp
  · intro j hj
    rw [Team.group?_map team _ hk]
    cases h : team.group? j with
    | none => rfl
    | some u => have := Team.group?_idx h; subst this; simp [hj]

/-- Replacing the group of a path alters nothing else. -/
theorem State.putGroup_alters {s : State} {c : Ctx} (h : s.path? = some c) {g : Group} (hg : g.idx = c.group.idx) :
    Alters s (s.putGroup c g) c g := by
  obtain ⟨-, ht, hgr, -, -⟩ := State.path?_spec h
  obtain ⟨h1, h2⟩ := State.mapGroup_alters (i := c.team.id) ht hgr (fun _ => g) (fun _ => hg) rfl
  exact ⟨_, h1, h2⟩

/-- A rotation changes the count and the favour alone. -/
theorem Group.rotate_rest (g : Group) (i : Nat) : { g.rotate i with n := g.n, favour := g.favour } = g := by
  unfold Group.rotate; dsimp only; split <;> rfl

/-- A full quantum changes the count and the favour alone. -/
theorem Group.settleFavour_rest (g : Group) (i : Nat) : { g.settleFavour i with n := g.n, favour := g.favour } = g := by
  unfold Group.settleFavour
  split
  · split
    · exact Group.rotate_rest g i
    · rfl
  · rfl

/-- An issue changes the count and the favour alone. -/
theorem Group.issued_rest (g : Group) (i : Nat) : { g.issued i with n := g.n, favour := g.favour } = g := by
  have := Group.settleFavour_rest { g with n := g.n + 1 } i
  unfold Group.issued
  calc { ({ g with n := g.n + 1 } : Group).settleFavour i with n := g.n, favour := g.favour }
      = { { ({ g with n := g.n + 1 } : Group).settleFavour i with n := g.n + 1, favour := g.favour } with n := g.n } := rfl
    _ = { ({ g with n := g.n + 1 } : Group) with n := g.n } := by rw [this]
    _ = g := rfl

@[simp] theorem Group.issued_threads (g : Group) (i : Nat) : (g.issued i).threads = g.threads := by
  have h := congrArg Group.threads (Group.issued_rest g i); exact h
@[simp] theorem Group.issued_idx (g : Group) (i : Nat) : (g.issued i).idx = g.idx := by
  have h := congrArg Group.idx (Group.issued_rest g i); exact h
@[simp] theorem Group.issued_k (g : Group) (i : Nat) : (g.issued i).k = g.k := by
  have h := congrArg Group.k (Group.issued_rest g i); exact h
@[simp] theorem Group.issued_hk (g : Group) (i : Nat) : (g.issued i).hk = g.hk := by
  have h := congrArg Group.hk (Group.issued_rest g i); exact h
@[simp] theorem Group.issued_handler (g : Group) (i : Nat) : (g.issued i).handler = g.handler := by
  have h := congrArg Group.handler (Group.issued_rest g i); exact h
@[simp] theorem Group.issued_kout (g : Group) (i : Nat) : (g.issued i).kout = g.kout := by
  have h := congrArg Group.kout (Group.issued_rest g i); exact h
@[simp] theorem Group.issued_thread (g : Group) (i j : Nat) : (g.issued i).thread j = g.thread j := by
  unfold Group.thread; rw [Group.issued_threads]

/-- A thread at a changed position. -/
theorem Group.thread_mapAt_mem {g : Group} {ms : List Nat} {f : Nat → Thread → Thread} {i : Nat} (hi : i ∈ ms)
    (hl : i < g.threads.length) : (g.mapAt ms f).thread i = f i (g.thread i) := by
  simp [Group.thread, Group.mapAt, List.getD_eq_getElem?_getD, hl, hi]

/-- A thread elsewhere. -/
theorem Group.thread_mapAt_not {g : Group} {ms : List Nat} {f : Nat → Thread → Thread} {i : Nat} (hi : i ∉ ms) :
    (g.mapAt ms f).thread i = g.thread i := by
  by_cases hl : i < g.threads.length
  · simp [Group.thread, Group.mapAt, List.getD_eq_getElem?_getD, hl, hi]
  · simp [Group.thread, Group.mapAt, List.getD_eq_getElem?_getD, List.getElem?_eq_none (Nat.le_of_not_lt hl)]

/-- The group of a path whose threads `f` changes, after the issue. -/
theorem State.groupDone {s : State} {c : Ctx} (h : s.path? = some c) (f : Nat → Thread → Thread) (l : Nat) (p : Nat → Thread → Prop)
    (hp : ∀ i, i ∈ c.ms → p i (f i (c.group.thread i))) : GroupDone c ((c.group.mapAt c.ms f).issued l) p where
  rest := by
    have := Group.issued_rest (c.group.mapAt c.ms f) l
    calc { (c.group.mapAt c.ms f).issued l with threads := c.group.threads, n := c.group.n, favour := c.group.favour }
        = { ({ (c.group.mapAt c.ms f).issued l with n := c.group.n, favour := c.group.favour } : Group) with threads := c.group.threads } := rfl
      _ = { c.group.mapAt c.ms f with threads := c.group.threads } :=
          congrArg (fun g : Group => { g with threads := c.group.threads }) this
      _ = c.group := rfl
  length := by simp [Group.mapAt]
  off := fun i hi => by rw [Group.issued_thread, Group.thread_mapAt_not hi]
  on := fun i hi => by rw [Group.issued_thread, Group.thread_mapAt_mem hi (State.path?_mem h hi)]; exact hp i hi

/-- An instruction of the common shape computes. -/
theorem computes_of_laneStep {i : Instr} {r : Regs} {F : View → Thread} {pc : View → VAddr} {ws : View → List (Nat × Word)}
    {ps : View → List (Nat × Bool)} (he : ∀ s, exec i s = laneStep r F s)
    (hF : ∀ (w : View) (n : Nat), r.ok n = true → ThreadDone w.handler w.t (F w).tick (pc w) (ws w) (ps w)) : Computes i r pc ws ps := by
  constructor
  · intro s c h
    refine ⟨s.putGroup c ((c.group.mapAt c.ms fun i _ => (F (c.view i)).tick).issued c.lead), ?_, ?_⟩
    · rw [he, laneStep, h.path]; simp only [h.named, h.sound, h.free, if_true, if_false, Bool.false_eq_true]
    refine ⟨_, State.putGroup_alters h.path (by simp), ?_⟩
    exact State.groupDone h.path _ _ _ fun i _ => hF (c.view i) _ h.named
  · intro s c h
    refine ⟨fun h1 => ?_, fun h1 h2 => ?_, fun h1 h2 h3 => ?_⟩ <;> rw [he, laneStep, h] <;> simp_all

/-- What the writes of a list read back as. -/
theorem newV_nil (h : Bool) (t : Thread) (j : Nat) : newV h [] t j = t.readV j := rfl
theorem newV_cons (h : Bool) (d : Nat) (x : Word) (ws : List (Nat × Word)) (t : Thread) (j : Nat) :
    newV h ((d, x) :: ws) t j = if j = vIndex h d then x else newV h ws t j := by
  by_cases e : j = vIndex h d
  · subst e; simp [newV]
  · have e2 : ¬ vIndex h d = j := fun k => e k.symm
    simp [newV, e, e2]
theorem newP_nil (h : Bool) (t : Thread) (b : Bool) (i : Nat) : newP h [] t b i = t.readP b i := rfl
theorem newP_one (h : Bool) (p : Nat) (x : Bool) (t : Thread) (b : Bool) (i : Nat) :
    newP h [(p, x)] t b i = if i = p ∧ i ≠ 0 ∧ b = h then x else t.readP b i := by
  by_cases e : i = p ∧ i ≠ 0 ∧ b = h
  · obtain ⟨rfl, h0, rfl⟩ := e; simp [newP, h0]
  · have : (p == i && i != 0 && b == h) = false := by
      apply Bool.eq_false_iff.mpr; intro k; apply e
      simp only [Bool.and_eq_true, beq_iff_eq, bne_iff_ne] at k; exact ⟨k.1.1.symm, k.1.2, k.2⟩
    simp [newP, this, e]

/-- A thread with one register written. -/
theorem threadDone_setV (w : View) (d : Nat) (x : Word) (pc : VAddr) :
    ThreadDone w.handler w.t ((w.setV d x).goTo pc).tick pc [(d, x)] [] where
  rest := by unfold View.setV Thread.writeV; dsimp only; split <;> rfl
  regs := fun j => by simp [View.setV, Thread.readV_writeV, newV_cons, newV_nil]
  preds := fun b i => by simp [View.setV, newP_nil]
  spec := by simp [View.setV]
  poison := by simp [View.setV]
  ppoison := by simp only [View.setV, Thread.tick_ppoison, Thread.goTo_ppoison, Thread.writeV_ppoison, List.all_nil]; exact (List.filter_eq_self.mpr fun _ _ => rfl).symm

/-- A thread with a pair written. -/
theorem threadDone_setPair (w : View) (d : Nat) (x : DWord) (pc : VAddr) (hd : d + 1 < 128) :
    ThreadDone w.handler w.t ((w.setPair d x).goTo pc).tick pc (pairAt d x) [] where
  rest := by unfold View.setPair Thread.writeV; dsimp only; split <;> split <;> rfl
  regs := fun j => by
    have : vIndex w.handler (d + 1) ≠ vIndex w.handler d := fun e => by have := vIndex_inj hd (by omega) e; omega
    simp only [View.setPair, Thread.tick_readV, Thread.goTo_readV, Thread.readV_writeV, pairAt, newV_cons, newV_nil]
    by_cases e : j = vIndex w.handler (d + 1)
    · subst e; simp [this]
    · simp [e]
  preds := fun b i => by simp [View.setPair, newP_nil]
  spec := by simp [View.setPair, pairAt, List.filter_filter, Bool.and_comm]
  poison := by simp [View.setPair, pairAt, List.filter_filter, Bool.and_comm]
  ppoison := by
    simp only [View.setPair, Thread.tick_ppoison, Thread.goTo_ppoison, Thread.writeV_ppoison, List.all_nil]
    exact (List.filter_eq_self.mpr fun _ _ => rfl).symm

/-- A thread with a predicate written. -/
theorem threadDone_setP (w : View) (p : Nat) (x : Bool) (pc : VAddr) (hp : p < 8) :
    ThreadDone w.handler w.t ((w.setP p x).goTo pc).tick pc [] [(p, x)] where
  rest := by
    unfold View.setP Thread.writeP
    split
    · rfl
    · split <;> rfl
  regs := fun j => by simp [View.setP, newV_nil]
  preds := fun b i => by simp [View.setP, newP_one, Thread.readP_writeP _ _ _ _ _ _ hp]
  spec := by simp only [View.setP, Thread.tick_spec, Thread.goTo_spec, Thread.writeP_spec, List.all_nil]; exact (List.filter_eq_self.mpr fun _ _ => rfl).symm
  poison := by simp only [View.setP, Thread.tick_poison, Thread.goTo_poison, Thread.writeP_poison, List.all_nil]; exact (List.filter_eq_self.mpr fun _ _ => rfl).symm
  ppoison := by simp [View.setP]

/-- A thread that only goes on. -/
theorem threadDone_goTo (w : View) (pc : VAddr) : ThreadDone w.handler w.t (w.t.goTo pc).tick pc [] [] where
  rest := rfl
  regs := fun _ => rfl
  preds := fun _ _ => rfl
  spec := (List.filter_eq_self.mpr fun _ _ => rfl).symm
  poison := (List.filter_eq_self.mpr fun _ _ => rfl).symm
  ppoison := (List.filter_eq_self.mpr fun _ _ => rfl).symm

end Sys2Proof.Machine
end

