-- ==== Sys2Proof/Laws/Access.lean ====
section
/-! SUPPORT. What an access of a path comes to when nothing keeps it from being made: a lane-set one (`AccessReady`) and a uniform
one (`KAccessReady`), and where its threads' loads are looked up. -/
namespace Sys2Proof.Machine
open Sys2Proof

/-- A lane-set access that may be made does what its own part says, for every thread of the path. -/
theorem laneAccess_ready {s : State} {c : Ctx} {r : Regs} {a n : Nat} {store out : Bool} {o : MemOrder} {sc : Scope} {at' : Leads}
    (h : AccessReady s c r a n store out o sc at') {f : State → Ctx → List Spot → Option (State × (Nat → Thread → Thread))}
    {s' : State} {upd : Nat → Thread → Thread} (hf : f (s.kept c at') c (spotsAt c a at') = some (s', upd)) :
    laneAccess r a n store out o sc (fun _ => true) f s = .next (s'.afterIssue c upd) := by
  have hx : s.attempts c c.ms a n store = c.ms.map fun i => Attempt.mk i (vaddr ((c.view i).pair a)) (.ok (at' i).1 (at' i).2.1 (at' i).2.2) := by
    unfold State.attempts
    exact List.map_congr_left fun i hi => by rw [h.checked i hi]
  have hfil : c.ms.filter (fun _ => true) = c.ms := List.filter_eq_self.mpr fun _ _ => rfl
  have h1 : s.someWait c n (s.attempts c c.ms a n store) = false := by
    rw [hx]; unfold State.someWait; simp only [List.any_map, List.any_eq_false]
    intro i hi; simp [h.still i hi]
  have h2 : firstViolation (s.attempts c c.ms a n store) = none := by
    rw [hx]; unfold firstViolation; simp
  have h3 : trapsOf c (s.attempts c c.ms a n store) = [] := by
    rw [hx]; unfold trapsOf; simp
  have h4 : spotsOf (s.attempts c c.ms a n store) = spotsAt c a at' := by
    rw [hx]; unfold spotsOf spotsAt; simp [Attempt.ok?, List.filterMap_map, Function.comp_def]
  have h5 : s.keepAll c (s.attempts c c.ms a n store) = s.kept c at' := by
    rw [hx]; unfold State.keepAll State.kept; simp [Attempt.ok?, List.foldl_map]
  have h6 : (out && !c.roomForOut) = false := by
    cases ho : out
    · rfl
    · simp [h.room ho]
  have h7 : (c.ms.filter fun _ => false) = [] := by simp
  have h8 : (spotsAt c a at').map (·.pos) = c.ms := by unfold spotsAt; simp [Function.comp_def]
  unfold laneAccess
  rw [h.lane.path]; dsimp only
  simp only [h.lane.named, h.lane.sound, h.lane.free, h6, h.free, h.order, hfil, h1, h2, h3, h4, h5, hf, Bool.not_true, Bool.false_eq_true, if_false]
  unfold State.takeTraps State.afterIssue
  simp only [h7, h8, List.nil_append]

/-- A uniform access that may be made does what its own part says. -/
theorem uniAccess_ready {s : State} {c : Ctx} {r : KRegs} {a n : Nat} {store out : Bool} {o : MemOrder} {sc : Scope} {pa attr : Nat} {e : TlbEntry}
    (h : KAccessReady s c r a n store out o sc pa attr e) {f : State → Ctx → Spot → Option (State × (Group → Group))}
    {s' : State} {upd : Group → Group}
    (hf : f (s.keep c.team.core none e) c { pos := c.lead, va := vaddr (c.group.kpair a), pa := pa, attr := attr } = some (s', upd)) :
    uniAccess r a n store out o sc f s = .next (s'.mapGroup c.team.id c.group.idx fun g => (upd g).issued c.lead) := by
  have h6 : (out && !c.roomForOut) = false := by
    cases ho : out
    · rfl
    · simp [h.room ho]
  have h1 : (s.inTransition pa || c.mustWait c.lead pa n) = false := by simp [h.still]
  unfold uniAccess
  rw [h.uni.path]; dsimp only
  simp only [h.uni.named, h.uni.sound, h.uni.free, h6, h.free, h.order, h.checked, h1, hf, Bool.not_true, Bool.false_eq_true, if_false]

/-- The loads of a path are listed in the order of its threads. -/
theorem State.startLoads_pos {c : Ctx} {n : Nat} {signed : Bool} : ∀ (xs : List Spot) {s s' : State} {ks : List (Nat × OutKind)},
    s.startLoads c n signed xs = some (s', ks) → ks.map (·.1) = xs.map (·.pos) := by
  intro xs
  induction xs with
  | nil => intro s s' ks h; simp only [State.startLoads] at h; cases h; rfl
  | cons x r ih =>
    intro s s' ks h
    simp only [State.startLoads] at h
    split at h
    · cases h
    · rename_i s1 k he
      cases h1 : State.startLoads s1 c n signed r with
      | none => rw [h1] at h; cases h
      | some y => rw [h1] at h; cases h; simp [ih h1]

/-- The first element equal to one of a list. -/
theorem find?_self {l : List Nat} {i : Nat} (h : i ∈ l) : l.find? (fun j => j == i) = some i := by
  induction l with
  | nil => cases h
  | cons x r ih =>
    by_cases e : x = i
    · subst e; simp
    · have h2 : i ∈ r := by simpa [Ne.symm e] using h
      simp [e, ih h2]

/-- The address of a thread's access. -/
theorem vaAt_spotsAt {c : Ctx} {a : Nat} {at' : Leads} {i : Nat} (hi : i ∈ c.ms) : vaAt (spotsAt c a at') i = vaddr ((c.view i).pair a) := by
  unfold vaAt spotsAt
  rw [List.find?_map]
  have : c.ms.find? ((fun (x : Spot) => x.pos == i) ∘ fun i => { pos := i, va := vaddr ((c.view i).pair a), pa := (at' i).1, attr := (at' i).2.1 }) = some i :=
    find?_self hi
  rw [this]; rfl

/-- Changes of threads that agree on a path are one. -/
theorem Group.mapAt_congr {g : Group} {ms : List Nat} {f f' : Nat → Thread → Thread} (h : ∀ i, i ∈ ms → ∀ t, f i t = f' i t) :
    g.mapAt ms f = g.mapAt ms f' := by
  unfold Group.mapAt
  congr 1
  apply List.ext_getElem
  · simp
  · intro i h1 h2
    simp only [List.getElem_mapIdx]
    split
    · rename_i h3; exact h i (by simpa using h3) _
    · rfl

/-- The same after an issue. -/
theorem State.afterIssue_congr {u : State} {c : Ctx} {f f' : Nat → Thread → Thread} (h : ∀ i, i ∈ c.ms → ∀ t, f i t = f' i t) :
    u.afterIssue c f = u.afterIssue c f' := by
  unfold State.afterIssue; congr 1; funext g; rw [Group.mapAt_congr h]

end Sys2Proof.Machine
end

