-- ==== Sys2Proof/Laws/Lanes.lean ====
section
/-! SUPPORT. What the shared forms of lane-set instructions do: each completes, writes its destination alone and stops where
`LaneStops` says. -/
namespace Sys2Proof.Machine
open Sys2Proof

/-- The last register of an operand that may be named is below 128 where the first one's field is 7 bits wide. -/
theorem pair_below {d : BitVec 7} {r : Regs} {n : Nat} (h : r.ok n = true) (hd : (d.toNat, 2) ∈ r.reads ++ r.writes) :
    d.toNat + 1 < 128 := by
  have := List.all_eq_true.mp h _ hd
  simp only [operandOk, Bool.and_eq_true, decide_eq_true_eq] at this
  have := d.isLt
  omega

/-- A form that writes one register. -/
theorem computes_setV {i : Instr} {r : Regs} {d : Nat} {f : View → Word}
    (he : ∀ s, exec i s = laneOp r (fun w => w.setV d (f w)) s) : Computes i r nextPc (fun w => [(d, f w)]) fun _ => [] := by
  refine computes_of_laneStep he fun w n _ => ?_
  have : (w.setV d (f w)).next = (w.setV d (f w)).goTo (nextPc w) := by
    simp only [Thread.next, Thread.goTo, nextPc]; simp [View.setV]
  rw [this]; exact threadDone_setV w d (f w) _

/-- A form that writes a pair. -/
theorem computes_setPair {i : Instr} {r : Regs} {d : BitVec 7} {f : View → DWord} (hd : (d.toNat, 2) ∈ r.reads ++ r.writes)
    (he : ∀ s, exec i s = laneOp r (fun w => w.setPair d.toNat (f w)) s) :
    Computes i r nextPc (fun w => pairAt d.toNat (f w)) fun _ => [] := by
  refine computes_of_laneStep he fun w n hn => ?_
  have : (w.setPair d.toNat (f w)).next = (w.setPair d.toNat (f w)).goTo (nextPc w) := by
    simp only [Thread.next, Thread.goTo, nextPc]; simp [View.setPair]
  rw [this]; exact threadDone_setPair w _ (f w) _ (pair_below hn hd)

/-- A form that writes a predicate. -/
theorem computes_setP {i : Instr} {r : Regs} {p : BitVec 3} {f : View → Bool}
    (he : ∀ s, exec i s = laneOp r (fun w => w.setP p.toNat (f w)) s) :
    Computes i r nextPc (fun _ => []) fun w => [(p.toNat, f w)] := by
  refine computes_of_laneStep he fun w n _ => ?_
  have : (w.setP p.toNat (f w)).next = (w.setP p.toNat (f w)).goTo (nextPc w) := by
    simp only [Thread.next, Thread.goTo, nextPc]; simp [View.setP]
  rw [this]; exact threadDone_setP w _ (f w) _ p.isLt

end Sys2Proof.Machine
end

