-- ==== Sys2Proof/Laws/Memory.lean ====
section
/-! SUPPORT. The laws of byte memory: a read after a write, a write elsewhere, and the canonical form every operation keeps. -/
namespace Sys2Proof

/-- Every address of a memory in canonical form below its head lies above it. -/
theorem Memory.wf_tail {b : Nat} {v : Byte} {r : Memory} (h : Memory.wf ((b, v) :: r) = true) : Memory.wf r = true := by
  cases r with
  | nil => rfl
  | cons x r => obtain ⟨c, w⟩ := x; simp only [Memory.wf, Bool.and_eq_true] at h; exact h.2

/-- The head of a memory in canonical form is no blank byte. -/
theorem Memory.wf_head {b : Nat} {v : Byte} {r : Memory} (h : Memory.wf ((b, v) :: r) = true) : v ≠ Memory.blank := by
  cases r with
  | nil => simpa [Memory.wf] using h
  | cons x r => obtain ⟨c, w⟩ := x; simp only [Memory.wf, Bool.and_eq_true, decide_eq_true_eq] at h; exact h.1.1

/-- An address at or below the head's is not listed after it. -/
theorem Memory.get_tail {b : Nat} {v : Byte} {r : Memory} (h : Memory.wf ((b, v) :: r) = true) (a : Nat) (ha : a ≤ b) :
    Memory.get r a = Memory.blank := by
  cases r with
  | nil => rfl
  | cons x r =>
    obtain ⟨c, w⟩ := x
    simp only [Memory.wf, Bool.and_eq_true, decide_eq_true_eq] at h
    have hc : a < c := by omega
    simp [Memory.get, Nat.ne_of_gt hc, hc]

/-- Prepending a byte that is not blank at a lower address keeps the form. -/
theorem Memory.wf_cons {b : Nat} {v : Byte} {r : Memory} (hv : v ≠ Memory.blank) (hr : Memory.wf r = true)
    (hb : ∀ c w s, r = (c, w) :: s → b < c) : Memory.wf ((b, v) :: r) = true := by
  cases r with
  | nil => simp [Memory.wf, hv]
  | cons x r => obtain ⟨c, w⟩ := x; simp [Memory.wf, hv, hb c w r rfl]; simpa using hr

/-- What a listed cell's removal leaves at its head. -/
theorem Memory.drop_head {m : Memory} (h : m.wf = true) (a c : Nat) (w : Byte) (s : Memory) (e : Memory.drop m a = (c, w) :: s)
    (b : Nat) (hb : ∀ d x r, m = (d, x) :: r → b < d) : b < c := by
  cases m with
  | nil => simp [Memory.drop] at e
  | cons x r =>
    obtain ⟨d, v⟩ := x
    have hd := hb d v r rfl
    simp only [Memory.drop] at e
    split at e
    · subst e; simp only [Memory.wf, Bool.and_eq_true, decide_eq_true_eq] at h; omega
    · split at e
      · cases e; exact hd
      · cases e; exact hd

/-- Removing a cell keeps the canonical form. -/
theorem Memory.drop_wf {m : Memory} (h : m.wf = true) (a : Nat) : (Memory.drop m a).wf = true := by
  induction m with
  | nil => rfl
  | cons x r ih =>
    obtain ⟨b, v⟩ := x
    simp only [Memory.drop]
    split
    · exact Memory.wf_tail h
    · split
      · exact h
      · refine Memory.wf_cons (Memory.wf_head h) (ih (Memory.wf_tail h)) fun c w s e => ?_
        refine Memory.drop_head (Memory.wf_tail h) a c w s e b fun d x q eq => ?_
        subst eq; simp only [Memory.wf, Bool.and_eq_true, decide_eq_true_eq] at h; exact h.1.2

/-- What an insertion leaves at its head. -/
theorem Memory.insert_head {m : Memory} (a c : Nat) (x w : Byte) (s : Memory) (e : Memory.insert m a x = (c, w) :: s)
    (b : Nat) (ha : b < a) (hb : ∀ d y r, m = (d, y) :: r → b < d) : b < c := by
  cases m with
  | nil => simp [Memory.insert] at e; omega
  | cons y r =>
    obtain ⟨d, v⟩ := y
    have hd := hb d v r rfl
    simp only [Memory.insert] at e
    split at e
    · cases e; exact ha
    · split at e
      · cases e; exact ha
      · cases e; exact hd

/-- Writing a byte that is not blank keeps the canonical form. -/
theorem Memory.insert_wf {m : Memory} (h : m.wf = true) (a : Nat) (x : Byte) (hx : x ≠ Memory.blank) :
    (Memory.insert m a x).wf = true := by
  induction m with
  | nil => simp [Memory.insert, Memory.wf, hx]
  | cons y r ih =>
    obtain ⟨b, v⟩ := y
    simp only [Memory.insert]
    split
    · rename_i e; subst e
      refine Memory.wf_cons hx (Memory.wf_tail h) fun c w s e => ?_
      subst e; simp only [Memory.wf, Bool.and_eq_true, decide_eq_true_eq] at h; exact h.1.2
    · split
      · rename_i hlt; exact Memory.wf_cons hx h fun c w s e => by cases e; exact hlt
      · refine Memory.wf_cons (Memory.wf_head h) (ih (Memory.wf_tail h)) fun c w s e => ?_
        refine Memory.insert_head a c x w s e b (by omega) fun d z q eq => ?_
        subst eq; simp only [Memory.wf, Bool.and_eq_true, decide_eq_true_eq] at h; exact h.1.2

/-- A write of one byte keeps the canonical form. -/
theorem Memory.set_wf {m : Memory} (h : m.wf = true) (a : Nat) (x : Byte) : (Memory.set m a x).wf = true := by
  unfold Memory.set
  split
  · exact Memory.drop_wf h a
  · rename_i hx; exact Memory.insert_wf h a x hx

/-- What an address reads after a cell is removed. -/
theorem Memory.get_drop {m : Memory} (h : m.wf = true) (a b : Nat) :
    Memory.get (Memory.drop m a) b = if b = a then Memory.blank else Memory.get m b := by
  induction m with
  | nil => simp [Memory.drop, Memory.get]
  | cons x r ih =>
    obtain ⟨c, v⟩ := x
    have ih := ih (Memory.wf_tail h)
    simp only [Memory.drop]
    split
    · rename_i e; subst e
      split
      · rename_i e; subst e; exact Memory.get_tail h b (Nat.le_refl _)
      · rename_i hne
        by_cases hb : b < c
        · rw [Memory.get_tail h b (by omega)]; simp [Memory.get, hb]; omega
        · simp [Memory.get, hb]; omega
    · rename_i hne
      split
      · rename_i hlt
        split
        · rename_i e; subst e; simp [Memory.get, hne, hlt]
        · rfl
      · simp only [Memory.get]
        split
        · rename_i e; subst e; simp [hne]
        · rename_i hcb
          split
          · rename_i hbc; split <;> simp_all
          · rw [ih]

/-- What an address reads after a byte is listed. -/
theorem Memory.get_insert {m : Memory} (a b : Nat) (x : Byte) :
    Memory.get (Memory.insert m a x) b = if b = a then x else Memory.get m b := by
  induction m with
  | nil => simp only [Memory.insert, Memory.get, @eq_comm _ b a]; split <;> simp
  | cons y r ih =>
    obtain ⟨c, v⟩ := y
    simp only [Memory.insert]
    split
    · rename_i e; subst e
      by_cases e : b = c
      · subst e; simp [Memory.get]
      · simp only [Memory.get, if_neg (Ne.symm e), if_neg e]
    · rename_i hne
      split
      · rename_i hlt
        by_cases e : b = a
        · subst e; simp [Memory.get]
        · simp only [Memory.get, if_neg (Ne.symm e), if_neg e]
          by_cases e2 : b < a
          · have : ¬ c = b := by omega
            have h3 : b < c := by omega
            simp [e2, this, h3]
          · simp [e2]
      · simp only [Memory.get]
        split
        · rename_i e; subst e; simp [hne]
        · split
          · rename_i hbc
            have : ¬ b = a := by omega
            simp [this]
          · exact ih

/-- A read after a write gives the byte written, and elsewhere what was there. -/
theorem Memory.get_set {m : Memory} (h : m.wf = true) (a b : Nat) (x : Byte) :
    Memory.get (Memory.set m a x) b = if b = a then x else Memory.get m b := by
  unfold Memory.set
  split
  · rename_i e; rw [Memory.get_drop h, e]
  · exact Memory.get_insert a b x

/-- A write of several bytes keeps the canonical form. -/
theorem Memory.setBytes_wf {m : Memory} (h : m.wf = true) (a : Nat) (bs : List Byte) : (Memory.setBytes m a bs).wf = true := by
  induction bs generalizing m a with
  | nil => exact h
  | cons b r ih => exact ih (Memory.set_wf h a b) (a + 1)

/-- What an address reads after several bytes are written. -/
theorem Memory.get_setBytes {m : Memory} (h : m.wf = true) (a : Nat) (bs : List Byte) (b : Nat) :
    Memory.get (Memory.setBytes m a bs) b = if a ≤ b ∧ b < a + bs.length then bs.getD (b - a) 0 else Memory.get m b := by
  induction bs generalizing m a with
  | nil => simp only [Memory.setBytes, List.length_nil]; rw [if_neg (by omega)]
  | cons x r ih =>
    simp only [Memory.setBytes, List.length_cons]
    rw [ih (Memory.set_wf h a x), Memory.get_set h]
    by_cases e : b = a
    · subst e; rw [if_neg (by omega), if_pos rfl, if_pos (by omega)]; simp
    · by_cases hlo : a ≤ b
      · have h1 : a + 1 ≤ b := by omega
        have h2 : b - a = (b - (a + 1)) + 1 := by omega
        by_cases h3 : b < a + 1 + r.length
        · rw [if_pos ⟨h1, h3⟩, if_pos ⟨hlo, by omega⟩, h2]; simp
        · rw [if_neg (by omega), if_neg e, if_neg (by omega)]
      · rw [if_neg (by omega), if_neg e, if_neg (by omega)]

/-- A store of a number keeps the canonical form. -/
theorem Memory.setNat_wf {m : Memory} (h : m.wf = true) (a n x : Nat) : (Memory.setNat m a n x).wf = true :=
  Memory.setBytes_wf h a _

/-- A store of a word keeps the canonical form. -/
theorem Memory.setWord_wf {m : Memory} (h : m.wf = true) (a : Nat) (w : Word) : (Memory.setWord m a w).wf = true :=
  Memory.setNat_wf h a 4 _

/-- A store of a 64-bit value keeps the canonical form. -/
theorem Memory.setDword_wf {m : Memory} (h : m.wf = true) (a : Nat) (w : DWord) : (Memory.setDword m a w).wf = true :=
  Memory.setNat_wf h a 8 _

@[simp] theorem leBytes_length (n x : Nat) : (leBytes n x).length = n := by
  induction n generalizing x with
  | zero => rfl
  | succ n ih => simp [leBytes, ih]

@[simp] theorem Memory.bytes_length (m : Memory) (a n : Nat) : (Memory.bytes m a n).length = n := by
  induction n generalizing a with
  | zero => rfl
  | succ n ih => simp [Memory.bytes, ih]

/-- The bytes of a number stand for it, modulo their width. -/
theorem leNat_leBytes (n x : Nat) : leNat (leBytes n x) = x % 256 ^ n := by
  induction n generalizing x with
  | zero => simp [leBytes, leNat, Nat.mod_one]
  | succ n ih =>
    simp only [leBytes, leNat, ih, BitVec.toNat_ofNat, show 2 ^ 8 = 256 from rfl]
    rw [Nat.pow_succ 256 n, Nat.mul_comm (256 ^ n) 256, Nat.mod_mul]

/-- Bytes outside a store read as before. -/
theorem Memory.bytes_setBytes_ne {m : Memory} (h : m.wf = true) (a : Nat) (bs : List Byte) (b n : Nat)
    (hd : b + n ≤ a ∨ a + bs.length ≤ b) : Memory.bytes (Memory.setBytes m a bs) b n = Memory.bytes m b n := by
  induction n generalizing b with
  | zero => rfl
  | succ n ih =>
    simp only [Memory.bytes]
    rw [Memory.get_setBytes h, if_neg (by omega), ih (b + 1) (by omega)]

/-- A read of what was stored gives it back. -/
theorem Memory.bytes_setBytes {m : Memory} (h : m.wf = true) (a : Nat) (bs : List Byte) :
    Memory.bytes (Memory.setBytes m a bs) a bs.length = bs := by
  induction bs generalizing m a with
  | nil => rfl
  | cons x r ih =>
    simp only [List.length_cons, Memory.bytes, Memory.setBytes]
    rw [ih (Memory.set_wf h a x), Memory.get_setBytes (Memory.set_wf h a x), if_neg (by omega), Memory.get_set h]
    simp

/-- A number read where it was stored. -/
theorem Memory.nat_setNat {m : Memory} (h : m.wf = true) (a n x : Nat) : Memory.nat (Memory.setNat m a n x) a n = x % 256 ^ n := by
  have := Memory.bytes_setBytes h a (leBytes n x)
  rw [leBytes_length] at this
  rw [Memory.nat, Memory.setNat, this, leNat_leBytes]

/-- A word read where it was stored. -/
theorem Memory.word_setWord {m : Memory} (h : m.wf = true) (a : Nat) (w : Word) : Memory.word (Memory.setWord m a w) a = w := by
  rw [Memory.word, Memory.setWord, Memory.nat_setNat h]
  apply BitVec.eq_of_toNat_eq
  simp only [BitVec.toNat_ofNat]
  have := w.isLt
  omega

end Sys2Proof
end

