-- ==== Sys2Proof/Laws/Uniform.lean ====
section
/-! SUPPORT. What the shared forms of uniform instructions do. -/
namespace Sys2Proof.Machine
open Sys2Proof

/-- Storage numbers of `k` registers differ. -/
theorem kIndex_inj {h : Bool} {i j : Nat} (hi : i < 64) (hj : j < 64) (e : kIndex h i = kIndex h j) : i = j := by
  unfold kIndex at e; cases h <;> simp at e <;> (repeat' split at e) <;> omega

theorem newK_nil (h : Bool) (g : Group) (j : Nat) : newK h [] g j = g.readK j := rfl
theorem newK_cons (h : Bool) (d : Nat) (x : Word) (ws : List (Nat × Word)) (g : Group) (j : Nat) :
    newK h ((d, x) :: ws) g j = if j = kIndex h d ∧ j ≠ 0 then x else newK h ws g j := by
  by_cases e : j = kIndex h d ∧ j ≠ 0
  · obtain ⟨rfl, h0⟩ := e; simp [newK, h0]
  · have : (kIndex h d == j && j != 0) = false := by
      apply Bool.eq_false_iff.mpr; intro k; apply e
      simp only [Bool.and_eq_true, beq_iff_eq, bne_iff_ne] at k; exact ⟨k.1.symm, k.2⟩
    simp [newK, this, e]

/-- A uniform instruction of the common shape computes. -/
theorem kcomputes_of_uniStep {i : Instr} {r : KRegs} {F : Group → Group} {pc : Group → VAddr → VAddr} {ws : Group → List (Nat × Word)}
    (he : ∀ s, exec i s = uniStep r F pc s)
    (hrest : ∀ g, F g = { g with k := (F g).k, hk := (F g).hk, kpoison := (F g).kpoison })
    (hpois : ∀ g, r.ok = true → (F g).kpoison = g.kpoison.filter fun j => (ws g).all fun x => kIndex g.handler x.1 == 0 || j != kIndex g.handler x.1)
    (hF : ∀ g, r.ok = true → ∀ j, (F g).readK j = newK g.handler (ws g) g j) : KComputes i r pc ws := by
  constructor
  · intro s c h
    have hk := hF c.group h.named
    have hp := hpois c.group h.named
    have hr := hrest c.group
    generalize (F c.group).k = kk at hr
    generalize (F c.group).hk = hh at hr
    generalize (F c.group).kpoison = pp at hr hp
    refine ⟨s.putGroup c (((F c.group).mapAt c.ms fun _ t => (Thread.tick t).goTo (pc c.group t.pc)).issued c.lead), ?_, ?_⟩
    · rw [he, uniStep, h.path]; simp only [h.named, h.sound, h.free, if_true, if_false, Bool.false_eq_true]
    · rw [hr] at hk ⊢
      refine ⟨_, State.putGroup_alters h.path (by simp), ?_, ?_, ?_, ?_, ?_⟩
      · have := Group.issued_rest (({ c.group with k := kk, hk := hh, kpoison := pp } : Group).mapAt c.ms fun _ t => (Thread.tick t).goTo (pc c.group t.pc)) c.lead
        exact congrArg (fun g : Group => { g with threads := c.group.threads, k := c.group.k, hk := c.group.hk, kpoison := c.group.kpoison }) this
      · have : ∀ g l, (Group.issued g l).kpoison = g.kpoison := fun g l => by
          have h := congrArg Group.kpoison (Group.issued_rest g l); exact h
        rw [this]; exact hp
      · intro j
        have : ∀ g l, (Group.issued g l).readK j = g.readK j := fun g l => by simp [Group.readK]
        rw [this]; exact hk j
      · intro i hi
        rw [Group.issued_thread, Group.thread_mapAt_not hi]; rfl
      · intro i hi
        rw [Group.issued_thread, Group.thread_mapAt_mem (g := { c.group with k := kk, hk := hh, kpoison := pp }) hi (State.path?_mem h.path hi)]
        exact threadDone_goTo ⟨c.group.thread i, c.group.handler⟩ _
  · intro s c h
    refine ⟨fun h1 => ?_, fun h1 h2 => ?_, fun h1 h2 h3 => ?_⟩ <;> rw [he, uniStep, h]
    · simp only [h1, Bool.false_eq_true, if_false]
    · simp only [h1, h2, if_true]
    · simp only [h1, h2, h3, Bool.false_eq_true, if_true, if_false]

/-- A form that writes one `k` register. -/
theorem kcomputes_setK {i : Instr} {r : KRegs} {d : Nat} {f : Group → Word}
    (he : ∀ s, exec i s = uniOp r (fun g => g.setK d (f g)) s) : KComputes i r nextK fun g => [(d, f g)] := by
  refine kcomputes_of_uniStep he (fun g => ?_) (fun g _ => ?_) (fun g _ j => ?_)
  · unfold Group.setK; exact Group.writeK_rest _ _ _
  · unfold Group.setK; rw [Group.writeK_kpoison]; simp only [List.all_cons, List.all_nil, Bool.and_true]
  · simp only [Group.setK, newK_cons, newK_nil]; rw [Group.readK_writeK]

/-- A form that writes a pair. -/
theorem kcomputes_setKpair {i : Instr} {r : KRegs} {d : BitVec 6} {f : Group → DWord} (hd : (d.toNat, 2) ∈ r.reads ++ r.writes)
    (he : ∀ s, exec i s = uniOp r (fun g => g.setKpair d.toNat (f g)) s) :
    KComputes i r nextK fun g => pairAt d.toNat (f g) := by
  refine kcomputes_of_uniStep he (fun g => ?_) (fun g _ => ?_) fun g hr j => ?_
  · unfold Group.setKpair; rw [Group.writeK_rest, Group.writeK_rest]
  · unfold Group.setKpair
    rw [Group.writeK_kpoison, Group.writeK_kpoison, List.filter_filter]
    simp only [pairAt, List.all_cons, List.all_nil, Bool.and_true]
    exact congrArg (List.filter · g.kpoison) (funext fun _ => Bool.and_comm _ _)
  · have h2 := List.all_eq_true.mp hr _ hd
    simp only [kOperandOk, Bool.and_eq_true, decide_eq_true_eq] at h2
    have hne : kIndex g.handler (d.toNat + 1) ≠ kIndex g.handler d.toNat := fun e => by
      have := kIndex_inj (by omega) (by omega) e; omega
    simp only [Group.setKpair, pairAt, newK_cons, newK_nil]
    rw [Group.readK_writeK, Group.readK_writeK]
    by_cases e : j = kIndex g.handler (d.toNat + 1)
    · subst e; simp [hne]
    · simp [e]

end Sys2Proof.Machine
end

