-- ==== Sys2Proof/Tests/Slice0.lean ====
section
/-! SUPPORT. The model's own tests: words of the manual decoded, terms no word can carry refused, states that meet the hypotheses of the
statements, and single steps whose results come from the manual. -/
namespace Sys2Proof.Tests
set_option Elab.async false
open Sys2Proof Sys2Proof.Machine

/-! ### A small machine -/

/-- A thread at the loaded program's first word, with its registers. -/
def aThread (v : List Word) : Thread := { pc := 0x10000, v := v }

/-- A group of two threads with 16 registers: `v0:v1` is 0x100 in the first and 0x180 in the second, `v6` and `v7` are all ones of the group. -/
def aGroup : Group :=
  { regs := 16, threads := [aThread [0x100, 0, 5, 7, 0x80, 0, 3, 3, 0, 0, 0, 0, 0, 0, 0, 0],
      aThread [0x180, 0, 9, 2, 0x80, 0, 3, 3, 0, 0, 0, 0, 0, 0, 0, 0]] }

/-- Its team, with a scratchpad of one granule and a Cooper. -/
def aTeam : Team :=
  { seq := 1, groups := [aGroup], granules := [0], scratchBytes := 8192, mregs := [0, 1], accs := [0, 1, 2, 3], tensorTokens := 8, sfuTokens := 8,
    cooper := some { cpc := 0x10000 } }

/-- A launch that leases the first 2 MiB. -/
def aLaunch : Launch := { asid := 0, seq := 1, addr := 0, state := .running, leases := [(0, 0x200000, 1), (loadAt, 0x10000, 2)] }

/-- A machine whose die 0 is in full service and on which the path of the team's group issues. -/
def aState : State :=
  { teams := [aTeam], cores := [(0, { tlb := [loadEntry] })], dies := List.replicate 24 { state := 2, counter := 1 },
    ports := [(0, { trapVec := 0x10040, launches := [aLaunch] })], actor := .path 0 0 0 }

/-- Its path. -/
def aPath : Ctx := { team := aTeam, group := aGroup, lead := 0, ms := [0, 1] }

theorem test_path : aState.path? = some aPath := rfl

/-- A path whose lane-set instruction may issue: three registers, pairs, predicates. -/
theorem test_lane_ready : LaneReady aState aPath { reads := [(2, 1), (3, 1)], writes := [(8, 1)] } :=
  ⟨rfl, by decide +kernel, by decide +kernel, by decide +kernel⟩

/-! ### What the statements about lanes, uniform instructions and groups suppose -/

/-- The small machine with another group, and its path. -/
def stateOf (g : Group) : State := { aState with teams := [{ aTeam with groups := [g] }] }
/-- The path of the positions `ms` of that group. -/
def pathOf (g : Group) (ms : List Nat) : Ctx := { team := { aTeam with groups := [g] }, group := g, lead := ms.headD 0, ms := ms }

/-- The group in its handler. -/
def inHandler : Group := { aGroup with handler := true, threads := aGroup.threads.map fun t => { t with resume := some 0x10040, held := .parked } }
/-- The group with its second thread elsewhere. -/
def parted : Group := { aGroup with threads := [aThread (aGroup.thread 0).v, { aThread (aGroup.thread 1).v with pc := 0x10010 }] }
/-- The group with a result outstanding in its first thread, whose destination is `v8`. -/
def asking (o : OutRes) : Group := { aGroup with threads := [{ aGroup.thread 0 with out := [o] }, aGroup.thread 1] }

theorem test_pairs_ready : LaneReady aState aPath
    { reads := [(0, 2), (2, 1)], writes := [(8, 2)], predReads := [1], predWrites := [2], kReads := [5], kWrites := [6] } :=
  ⟨rfl, by decide +kernel, by decide +kernel, by decide +kernel⟩
theorem test_wide_ready : LaneReady aState aPath { reads := [(0, 2), (4, 4)], writes := [(12, 4)] } :=
  ⟨rfl, by decide +kernel, by decide +kernel, by decide +kernel⟩
theorem test_lane_stops :
    ({ writes := [(9, 2)] } : Regs).ok aGroup.regs = false ∧ ({ writes := [(16, 1)] } : Regs).ok aGroup.regs = false ∧
    (let c := pathOf { aGroup with threads := [{ aGroup.thread 0 with poison := [2] }] } [0]
     (stateOf c.group).path? = some c ∧ ({ reads := [(2, 1)] } : Regs).ok c.group.regs = true ∧ c.poisoned { reads := [(2, 1)] } = true) ∧
    (let c := pathOf (asking { dst := [8], look := 2, kind := .ready [1] }) [0, 1]
     (stateOf c.group).path? = some c ∧ c.poisoned { reads := [(8, 1)] } = false ∧ c.ready { reads := [(8, 1)] } = false) :=
  ⟨by decide +kernel, by decide +kernel, ⟨rfl, by decide +kernel, by decide +kernel⟩, ⟨rfl, by decide +kernel, by decide +kernel⟩⟩
theorem test_k_ready : KReady aState aPath { reads := [(6, 2), (9, 1)], writes := [(10, 2)] } :=
  ⟨rfl, by decide +kernel, by decide +kernel, by decide +kernel⟩
theorem test_k_stops :
    ({ writes := [(9, 2)] } : KRegs).ok = false ∧
    (let c := pathOf { aGroup with kout := [{ dst := [9], look := 2, kind := .ready [1] }] } [0, 1]
     (stateOf c.group).path? = some c ∧ ({ reads := [(9, 1)] } : KRegs).ok = true ∧ c.kReady { reads := [(9, 1)] } = false) :=
  ⟨by decide +kernel, ⟨rfl, by decide +kernel, by decide +kernel⟩⟩
theorem test_bperm_clauses : ((0 : Word).getLsbD 16 = false ∧ (0 : Word).getLsbD 18 = false ∧ (0 : Word).getLsbD 20 = false) ∧
    (0x10000 : Word).getLsbD 16 = true ∧ ((0x300000 : Word).getLsbD 16 = false ∧ (0x300000 : Word).getLsbD 18 = false ∧ (0x300000 : Word).getLsbD 20 = true ∧
      (0x300000 : Word).getLsbD 21 = true) := by decide +kernel
theorem test_float_clauses : f32 0x7FC00000 = .nan true ∧ f32 0x7F800001 = .nan false ∧ FVal.cmp (f32 0xBF800000) (f32 0x3F800000) = some .lt ∧
    FVal.cmp (f32 0x80000000) (f32 0) = some .eq ∧ f32 0x7F800000 = .inf false ∧ Fmt.e4m3.top < Fmt.e4m3.signBit ∧
    Fmt.f32.decode 0x40400000 = .fin false 0xC00000 (-22) := by decide +kernel
theorem test_rotation_clauses :
    (parted.thread 1).live = true ∧ (parted.thread 1).parked = false ∧ 1 ∉ parted.members 0 ∧
    (∀ k, k < 32 → ¬ ((aGroup.thread ((0 + 1 + k) % 32)).live = true ∧ (aGroup.thread ((0 + 1 + k) % 32)).parked = false ∧
      ((0 + 1 + k) % 32) ∉ aGroup.members 0)) := by decide +kernel
theorem test_quantum_clauses : aGroup.divided = false ∧ parted.divided = true ∧ ({ parted with quantum := 1 } : Group).quantum.toNat ≤ parted.n + 1 := by
  decide +kernel
theorem test_yield_clauses : aPath.ready {} = true ∧
    (let c := pathOf (asking { dst := [8], look := 0, kind := .ready [1] }) [0, 1]; (stateOf c.group).path? = some c ∧ c.ready {} = false) :=
  ⟨by decide +kernel, ⟨rfl, by decide +kernel⟩⟩
theorem test_special_read : LaneReady aState aPath { writes := [(8, 1)] } ∧ (∀ i, aState.special aPath i 0x0F = some 0) ∧
    (∀ i, aState.special aPath i 0x04 = some (BitVec.ofNat 32 i)) ∧ aState.journalRoom 0 2 = true :=
  ⟨⟨rfl, by decide +kernel, by decide +kernel, by decide +kernel⟩, fun _ => rfl, fun _ => rfl, by decide +kernel⟩
theorem test_control_read : let c := pathOf inHandler [0, 1]
    LaneReady (stateOf inHandler) c { writes := [(8, 1)] } ∧ (∀ i, controlReg c.team c.group (c.group.thread i) 0x05 = some 0) ∧
    (∀ i, controlReg aPath.team aPath.group (aPath.group.thread i) 0x00 = some 0) ∧ aPath.group.handler = false :=
  ⟨⟨rfl, by decide +kernel, by decide +kernel, by decide +kernel⟩, fun _ => rfl, fun _ => rfl, rfl⟩
theorem test_k_special_read : KReady aState aPath { writes := [(8, 1)] } ∧ aState.special aPath 0 0x0F = some 0 ∧
    (0x0F : BitVec 7).toNat ∉ [0x00, 0x01, 0x04, 0x0C, 0x0D] ∧ aPath.ms.head? = some aPath.lead ∧ aPath.lead < aPath.group.threads.length ∧
    (0x18 : BitVec 7).toNat = 0x18 :=
  ⟨⟨rfl, by decide +kernel, by decide +kernel, by decide +kernel⟩, by decide +kernel, by decide +kernel, rfl, by decide +kernel, rfl⟩
theorem test_control_write : let c := pathOf inHandler [0, 1]
    LaneReady (stateOf inHandler) c { reads := [(2, 1)] } ∧
    ∀ x, x ∈ [0x00, 0x02, 0x03, 0x04, 0x05, 0x06, 0x07, 0x08, 0x09, 0x20, 0x28, 0x2A, 0x2C] →
      (controlReg c.team c.group (c.group.thread c.lead) x).isSome = true :=
  ⟨⟨rfl, by decide +kernel, by decide +kernel, by decide +kernel⟩, by decide +kernel⟩

/-! ### Traps, steps, transfers and results -/

theorem test_trap_clauses : aPath.ready {} = true ∧ aGroup.handler = false ∧ (aState.port 0).trapVec ≠ 0 ∧ aGroup.drained = true ∧
    (let s := { aState with ports := [(0, { launches := [aLaunch] })] }; s.path? = some aPath ∧ (s.port aPath.team.asid).trapVec = 0) ∧
    (let c := pathOf inHandler [0, 1]; (stateOf inHandler).path? = some c ∧ c.ready {} = true ∧ c.group.handler = true) :=
  ⟨by decide +kernel, rfl, by decide +kernel, by decide +kernel, ⟨rfl, by decide +kernel⟩, ⟨rfl, by decide +kernel, rfl⟩⟩
theorem test_illegal_words : (0xDE000000 : Word).toNat / 2 ^ 25 < 0x70 ∧ 0x70 ≤ (0xE0000000 : Word).toNat / 2 ^ 25 := by decide
theorem test_eret_clauses : let g := { inHandler with fmask := 1, teamHandler := true }
    (stateOf g).path? = some (pathOf g [0, 1]) ∧ (pathOf g [0, 1]).ready {} = true ∧ (g.thread 0).running = true ∧ g.fmask.getLsbD 0 = true ∧
    g.fmask.getLsbD 1 = false := ⟨rfl, by decide +kernel⟩
theorem test_exit_clauses : (∀ i, i ∈ aPath.ms → (aPath.group.thread i).out = []) ∧ (aState.peers aTeam).length ≤ aState.room 0 ∧
    aGroup.children = 0 ∧ (let c := pathOf (asking { dst := [8], look := 2, kind := .ready [1] }) [0, 1]
      (stateOf c.group).path? = some c ∧ ∃ i, i ∈ c.ms ∧ (c.group.thread i).out ≠ []) :=
  ⟨by decide +kernel, by decide +kernel, rfl, rfl, 0, by decide +kernel⟩
/-- Every live thread of a group on the path. -/
theorem test_exit_all : ∀ i, (aPath.group.thread i).live = true → i ∈ aPath.ms := by
  intro i h
  match i with
  | 0 => decide
  | 1 => decide
  | i + 2 => exact absurd h (by simp [aPath, aGroup, Group.thread, Thread.live])

/-- The machine with a program of one word loaded. -/
def loaded (w : Nat) : State := State.reset.withFetchWord 32 w

theorem test_step_clauses : let s := loaded 0x021C1033
    firstOf s s.timedActions = none ∧ s.regWrites = [] ∧ s.inputs = [] ∧ s.turn % 10 = 0 ∧
    (turned (s.turn / 10) s.sides).head? = some (0, 0) ∧ (s.sideOffers 0 0).head? = some { team := 0, group := 0, lead := 0, ms := List.range 32 } ∧
    (∃ t g s', s.team? 0 = some t ∧ t.group? 0 = some g ∧ s.fetchWord t (g.thread 0).pc = .ok 0x021C1033 s') ∧
    isTileWord 0x021C1033 = false ∧ decodeWords [0x021C1033] = .ok (.iaddSatN32 7 2 3, []) :=
  ⟨by decide +kernel, rfl, rfl, rfl, by decide +kernel, by decide +kernel, ⟨_, _, _, rfl, rfl, rfl⟩, rfl, rfl⟩
theorem test_cooper_step_clauses : let s := loaded 0xE6000021
    firstOf s s.timedActions = none ∧ s.turn % 10 = 1 ∧ isTileWord 0xE6000021 = true ∧
    (∃ t k s', (turned (s.turn / 10) s.teams).head? = some t ∧ t.cooper = some k ∧ k.trapped = false ∧ k.wait ≠ .stopped ∧ s.cooperHeld t = false ∧
      s.fetchWord t k.cpc = .ok 0xE6000021 s' ∧ s'.fetchWords' t (extWords 0xE6000021) (k.cpc + 4) [] = .ok ([], s')) ∧
    decodeWords [0xE6000021] = .ok (.tsig 1, []) :=
  ⟨by decide +kernel, rfl, rfl, ⟨_, _, _, rfl, rfl, rfl, by decide +kernel, by decide +kernel, rfl, rfl⟩, rfl⟩
theorem test_step_stops : decodeWords [0x181020A7] = .error .illegal ∧ isTileWord 0x181020A7 = false := ⟨rfl, rfl⟩
/-- Whether a step or an instruction comes to a next state. -/
def isNext {α β γ : Type} : Host.Outcome α β γ → Bool
  | .next _ => true
  | .fault _ => false
  | .refused _ => false
theorem test_step_calm : (loaded 0x021C1033).calm ∧ isNext (step (loaded 0x021C1033)) = true :=
  ⟨⟨rfl, by decide +kernel⟩, by decide +kernel⟩

/-- A group whose threads hold a target in `v0:v1`, and the machine with a `land` there. -/
def jumper (x y : Word) : Group := { aGroup with threads := [aThread [x, 0, 5], aThread [y, 0, 5]], regs := 8 }
def landed (g : Group) : State := { stateOf g with cores := [(0, { tlb := [loadEntry], icache := [(512, [(1, false), (2, false), (1, false)])] })] }

theorem test_jump_clauses : let g := jumper 0x10004 0x10004
    LaneReady (landed g) (pathOf g [0, 1]) { reads := [(0, 2)] } ∧
    ∀ i, i ∈ (pathOf g [0, 1]).ms → (landed g).landing (pathOf g [0, 1]).team (((pathOf g [0, 1]).view i).pair 0) true = .ok :=
  ⟨⟨rfl, by decide +kernel, by decide +kernel, by decide +kernel⟩, by decide +kernel⟩
theorem test_jump_bad : let g := jumper 0x10004 0x10008
    LaneReady (landed g) (pathOf g [0, 1]) { reads := [(0, 2)], writes := [(0, 2)] } ∧
    (landed g).landing (pathOf g [0, 1]).team (((pathOf g [0, 1]).view 0).pair 0) true = .ok ∧
    (landed g).landing (pathOf g [0, 1]).team (((pathOf g [0, 1]).view 1).pair 0) true = .bad :=
  ⟨⟨rfl, by decide +kernel, by decide +kernel, by decide +kernel⟩, by decide +kernel⟩
theorem test_jump_waits : let g := jumper 0x10004 0x10004
    let s := { landed g with wires := [{ kind := .rds, msg := { src := .l1 0, dst := .home 0, line := 512, mask := 1 } }], cores := [(0, { tlb := [loadEntry] })] }
    LaneReady s (pathOf g [0, 1]) { reads := [(0, 2)] } ∧ s.landing (pathOf g [0, 1]).team (((pathOf g [0, 1]).view 0).pair 0) true = .wait :=
  ⟨⟨rfl, by decide +kernel, by decide +kernel, by decide +kernel⟩, by decide +kernel⟩
theorem test_jump_violation : let g := jumper 0x10004 0x200000
    let s := { landed g with cores := [(0, { tlb := [{ loadEntry with perm := 3 }] })] }
    LaneReady s (pathOf g [0, 1]) { reads := [(0, 2)] } ∧ s.landing (pathOf g [0, 1]).team (((pathOf g [0, 1]).view 0).pair 0) true = .violation 3 ∧
    s.landing (pathOf g [0, 1]).team (((pathOf g [0, 1]).view 1).pair 0) true = .bad :=
  ⟨⟨rfl, by decide +kernel, by decide +kernel, by decide +kernel⟩, by decide +kernel⟩

theorem test_sfu_clauses : aPath.roomForOut = true ∧ aPath.team.sfuMay = true ∧
    (let c := pathOf { aGroup with threads := [{ aGroup.thread 0 with out := List.replicate 16 { dst := [8], look := 15, kind := .ready [1] } }] } [0]
     LaneReady (stateOf c.group) c { reads := [(2, 1)], writes := [(3, 1)] } ∧ c.roomForOut = false) ∧
    (let s := { aState with teams := [{ aTeam with sfuSpent := 8, sfuIssued := true }] }
     let c := { aPath with team := { aTeam with sfuSpent := 8, sfuIssued := true } }
     LaneReady s c { reads := [(2, 1)], writes := [(3, 1)] } ∧ c.team.sfuMay = false) :=
  ⟨by decide +kernel, by decide +kernel, ⟨⟨rfl, by decide +kernel, by decide +kernel, by decide +kernel⟩, by decide +kernel⟩,
    ⟨⟨rfl, by decide +kernel, by decide +kernel, by decide +kernel⟩, by decide +kernel⟩⟩
theorem test_sfu_values : Fmt.f32.decode 0x40400000 = .fin false 0xC00000 (-22) ∧ 0xC00000 * 2 ^ ((-22 : Int).toNat) = 3 * 2 ^ (22 : Int).toNat ∧
    sfuExp2 0x40400000 = (3 + 127) * 2 ^ 23 ∧ sfuSin 0x40490FDB = 0xB3BBBD2E ∧ sfuCospi 0x4B000001 = 0xBF800000 := by decide +kernel
theorem test_result_clauses : let o : OutRes := { dst := [8], look := 2, kind := .ready [1] }
    (stateOf (asking o)).team? 0 = some { aTeam with groups := [asking o] } ∧ ((asking o).thread 0).out.find? (fun o => o.due && (stateOf (asking o)).outRoom 0 o) = some o ∧
    (asking o).pending = .none ∧ o.dst.length = 1 :=
  ⟨rfl, by decide +kernel, rfl, rfl⟩
theorem test_result_uniform : let o : OutRes := { dst := [8, 9], look := 2, tag := 3, kind := .ready [1, 2] }
    let g := { aGroup with kout := [o] }
    g.kout.find? (fun o => o.due && (stateOf g).outRoom 0 o) = some o ∧ (¬ (32 : Nat) < 32) ∧ o.dst.Nodup := by decide +kernel
theorem test_result_poisoned : let o : OutRes := { dst := [8], look := 2, kind := .poisoned 0x40 }
    ((asking o).thread 0).out.find? (fun o => o.due && (stateOf (asking o)).outRoom 0 o) = some o := by decide +kernel
theorem test_result_outside : let o : OutRes := { dst := [8], look := 2, ext := true, kind := .ready [1] }
    let g := { asking o with pending := .own }
    (stateOf g).team? 0 = some { aTeam with groups := [g] } ∧ (stateOf g).journalRoom 0 1 = true ∧
    (g.thread 0).out.find? (fun o => o.due && (!o.ext || (stateOf g).journalRoom 0 o.vals.length)) = some o ∧ o.kind = .ready [1] ∧
    g.pending ≠ .none ∧ g.kout = [] ∧ (g.thread 0).out = [o] ∧ (g.thread 1).out = [] := by decide +kernel

/-! ### Accesses, exchanges, queues and barriers -/

/-- Where the threads' accesses through `v0:v1` lead. -/
def aLeads : Leads := fun i => (if i = 0 then 0x100 else 0x180, 2, loadEntry)

theorem test_load_clauses : AccessReady aState aPath { reads := [(0, 2)], writes := [(8, 4)] } 0 16 false true .acq .dev aLeads ∧
    ((aState.kept aPath aLeads).startLoads aPath 16 false (spotsAt aPath 0 aLeads)).isSome = true :=
  ⟨⟨⟨rfl, by decide +kernel, by decide +kernel, by decide +kernel⟩, by decide +kernel, by decide +kernel, by decide +kernel, by decide +kernel,
    by decide +kernel⟩, by decide +kernel⟩
theorem test_store_clauses : AccessReady aState aPath { reads := [(0, 2), (2, 2)] } 0 8 true false .rel .dev aLeads ∧
    (let bs := storeWrites 8 (fun i => (aPath.view i).words 2 2) (spotsAt aPath 0 aLeads)
     linesOf bs ≤ aState.room 0 ∧ ((aState.kept aPath aLeads).storeLines 0 0 aGroup.slotKey bs).isSome = true) :=
  ⟨⟨⟨rfl, by decide +kernel, by decide +kernel, by decide +kernel⟩, by decide +kernel, by decide +kernel, by decide +kernel, by decide +kernel,
    by decide +kernel⟩, by decide +kernel, by decide +kernel⟩
/-- A settling buffer without room. -/
def fullBuffer : State := { aState with cores := [(0, { tlb := [loadEntry], buffer := (List.range Config.settlingEntries).map fun i => { no := i, made := 0, team := 9, eff := .retire 9 } })] }
theorem test_store_waits : AccessReady fullBuffer aPath { reads := [(0, 2), (2, 2)] } 0 8 true false .rlx .dev aLeads ∧
    fullBuffer.room 0 < linesOf (storeWrites 8 (fun i => (aPath.view i).words 2 2) (spotsAt aPath 0 aLeads)) :=
  ⟨⟨⟨rfl, by decide +kernel, by decide +kernel, by decide +kernel⟩, by decide +kernel, by decide +kernel, by decide +kernel, by decide +kernel,
    by decide +kernel⟩, by decide +kernel⟩
/-- The L1 of core 0 holds the lines 2 and 3, owned and clean. -/
def cachedState : State := { aState with cores := [(0, { tlb := [loadEntry], l1 := [(2, { ws := (List.range 32).map fun w => (w, { st := .e, val := 0x80 + BitVec.ofNat 32 w, tracked := true }) }),
  (3, { ws := (List.range 32).map fun w => (w, { st := .e, val := 0xFFFFFF90, tracked := true }) })] })] }
theorem test_bytes_seen : ((1 : Nat) ∈ [1, 2, 4, 8, 16]) ∧ isDevice 0x180 = false ∧
    ((cachedState.startLoad 0 0 2 0x180 1 true 0x180).map (·.2)) = some (.ready [0xFFFFFF90]) ∧
    ((cachedState.core 0).l1.line? (0x180 / 128)).isSome = true := by decide +kernel
theorem test_bytes_stored : let bs : List (Nat × Nat × Byte) := [(2, 0x100, 1), (2, 0x101, 2)]
    (∀ b, b ∈ bs → isDevice b.2.1 = false ∧ (∀ b', b' ∈ bs → b'.2.1 / 128 = b.2.1 / 128 → b'.1 = b.1) ∧
      let x := (cachedState.core 0).cell (b.2.1 / 128) (b.2.1 / 4 % 32)
      (isCoherent b.1 = false → x.pendMask = 0) ∧ (isCoherent b.1 = true → x.st = .i ∨ x.tracked = true) ∧
      (x.pendMask ≠ 0 → (x.tracked && x.owned && !x.shr) = false)) ∧
    (∀ b, b ∈ bs → ((cachedState.core 0).l1.line? (b.2.1 / 128)).isSome = true) ∧ (cachedState.storeLines 0 0 0 bs).isSome = true ∧
    (aState.core 0).l1.length + linesOf bs ≤ Config.l1Lines := by decide +kernel
/-- A group whose `k6:k7` is 0x100. -/
def kGroup : Group := { aGroup with k := [0, 1, 0, 0, 0, 0, 0x100, 0] ++ List.replicate 56 0 }
theorem test_uniform_access_clauses : let c := pathOf kGroup [0, 1]
    KAccessReady (stateOf kGroup) c { reads := [(6, 2)], writes := [(8, 2)] } 6 8 false true .acq .dev 0x100 2 loadEntry ∧
    (((stateOf kGroup).keep 0 none loadEntry).startLoad 0 kGroup.slotKey 2 0x100 8 false (vaddr (kGroup.kpair 6))).isSome = true ∧
    KAccessReady (stateOf kGroup) c { reads := [(6, 2), (8, 2)] } 6 8 true false .rel .dev 0x100 2 loadEntry ∧
    (let bs := (storeBytes 0x100 8 [kGroup.kv 8, kGroup.kv 9]).map fun b => (2, b.1, b.2)
     linesOf bs ≤ (stateOf kGroup).room 0 ∧ (((stateOf kGroup).keep 0 none loadEntry).storeLines 0 0 kGroup.slotKey bs).isSome = true) :=
  ⟨⟨⟨rfl, by decide +kernel, by decide +kernel, by decide +kernel⟩, by decide +kernel, by decide +kernel, by decide +kernel, by decide +kernel, by decide +kernel⟩,
    by decide +kernel,
    ⟨⟨rfl, by decide +kernel, by decide +kernel, by decide +kernel⟩, by decide +kernel, by decide +kernel, by decide +kernel, by decide +kernel, by decide +kernel⟩,
    by decide +kernel⟩
theorem test_check_clauses : (vaddr 0x101).toNat % 4 ≠ 0 ∧ canonical 0x80000000000000 = false ∧ canonical 0x400000 = true ∧
    leaseCovers (aState.leases aTeam) 0x400000 4 .load = false ∧ leaseCovers (aState.leases aTeam) 0x100 4 .store = true ∧
    aState.translate 0 none 0 0x100 = .found loadEntry ∧ permits loadEntry.perm .store = true ∧ aState.rangeLocked 0 false 0 0x100 4 true = false ∧
    (let s := { aState with cores := [(0, {})] }; s.translate 0 none 0 0x100 = .invalid) ∧ permits ({ loadEntry with perm := 1 } : TlbEntry).perm .store = false ∧
    (let s := { aState with cores := [(0, { locks := [{ eng := 0, team := 0, scratch := false, space := 0, lo := 0x100, hi := 0x200, dest := true }] })] }
     s.rangeLocked 0 false 0 0x100 4 false = true) := by decide +kernel
theorem test_atomic_clauses : AccessReady aState aPath { reads := [(2 * 0, 2), (4, 2)], writes := [(4, 1)] } 0 4 true true .acq .dev aLeads ∧
    ((aState.kept aPath aLeads).atoms 0 0 aGroup.slotKey .cas
      ((spotsAt aPath 0 aLeads).map fun x => { spot := x, args := (aPath.view x.pos).words 4 2 })).isSome = true :=
  ⟨⟨⟨rfl, by decide +kernel, by decide +kernel, by decide +kernel⟩, by decide +kernel, by decide +kernel, by decide +kernel, by decide +kernel,
    by decide +kernel⟩, by decide +kernel⟩
theorem test_uniform_atomic_clauses : let c := pathOf kGroup [0, 1]
    KAccessReady (stateOf kGroup) c { reads := [(6, 2), (8, 1)], writes := [(8, 1)] } 6 4 true true .ar .dev 0x100 2 loadEntry ∧
    (((stateOf kGroup).keep 0 none loadEntry).atoms 0 0 kGroup.slotKey .add
      [{ spot := { pos := 0, va := vaddr (kGroup.kpair 6), pa := 0x100, attr := 2 }, args := [kGroup.kv 8] }]).isSome = true :=
  ⟨⟨⟨rfl, by decide +kernel, by decide +kernel, by decide +kernel⟩, by decide +kernel, by decide +kernel, by decide +kernel, by decide +kernel, by decide +kernel⟩,
    by decide +kernel⟩

/-- A group whose threads name offsets 0xF0000000 and 0xF0000004 of the own scratchpad in `v0`. -/
def sGroup (x y : Word) : Group := { aGroup with threads := [aThread [x, 0, 5, 7], aThread [y, 0, 9, 2]], regs := 8 }
theorem test_scratch_clauses : let g := sGroup 0xF0000000 0xF0000004
    LaneReady (stateOf g) (pathOf g [0, 1]) { reads := [(0, 1)], writes := [(2, 1)] } ∧ (pathOf g [0, 1]).roomForOut = true ∧
    (stateOf g).orderMay (pathOf g [0, 1]) .acq .clu false = true ∧
    ∀ i, i ∈ (pathOf g [0, 1]).ms → (stateOf g).checkScratch (pathOf g [0, 1]).team (((pathOf g [0, 1]).view i).v 0) 4 false = .at (some 0) true (4 * i) ∧
      (stateOf g).team? 0 = some (pathOf g [0, 1]).team ∧ (pathOf g [0, 1]).team.scratchBad (4 * i) 4 = false :=
  ⟨⟨rfl, by decide +kernel, by decide +kernel, by decide +kernel⟩, by decide +kernel⟩
theorem test_scratch_store_clauses : let g := sGroup 0xF0000000 0xF0000004
    LaneReady (stateOf g) (pathOf g [0, 1]) { reads := [(0, 1), (2, 1)] } ∧ 0 < (stateOf g).room 0 ∧
    (∀ i, i ∈ (pathOf g [0, 1]).ms → (if (((pathOf g [0, 1]).view i).v 0).toNat / 2 ^ 28 = 15 then 0 else (((pathOf g [0, 1]).view i).v 0).toNat / 2 ^ 28) = 0 ∧
      4 * i / 128 = 0) := ⟨⟨rfl, by decide +kernel, by decide +kernel, by decide +kernel⟩, by decide +kernel⟩
/-- Two members of a cluster, the second on core 1. -/
def twoTeams (g : Group) : State :=
  { stateOf g with
    teams := [{ aTeam with groups := [g], clusterCores := [0, 1] }, { aTeam with id := 1, index := 1, member := 1, core := 1, clusterCores := [0, 1] }]
    ports := [(0, { trapVec := 0x10040, launches := [{ aLaunch with record := [0, 0, 0, 0x120000] }] })] }
def clusterPath (g : Group) : Ctx := { team := { aTeam with groups := [g], clusterCores := [0, 1] }, group := g, lead := 0, ms := [0, 1] }
theorem test_remote_scratch_clauses : let g := sGroup 0x10000000 0x10000004
    LaneReady (twoTeams g) (clusterPath g) { reads := [(0, 1), (2, 1)] } ∧
    (∀ i, i ∈ (clusterPath g).ms → ((twoTeams g).checkScratch (clusterPath g).team (((clusterPath g).view i).v 0) 4 true = .at (some 1) false (4 * i))) ∧
    (∀ i, i ∈ (clusterPath g).ms → (twoTeams g).scratchUnsettled 1 (4 * i) 4 = false ∧ (twoTeams g).remotePending 0 1 (4 * i) 4 = false) :=
  ⟨⟨rfl, by decide +kernel, by decide +kernel, by decide +kernel⟩, by decide +kernel, by decide +kernel⟩

theorem test_spec_clauses : LaneReady aState aPath { reads := [(0, 2)], writes := [(8, 2)] } ∧ aPath.roomForOut = true ∧ aState.throttleHolds aPath = false ∧
    aState.orderMay aPath .rlx .dev false = true ∧ (let xs := aState.attempts aPath aPath.ms 0 8 false
      aState.someWait aPath 8 xs = false ∧ ((aState.keepAll aPath xs).startLoads aPath 8 false (spotsOf xs)).isSome = true) :=
  ⟨⟨rfl, by decide +kernel, by decide +kernel, by decide +kernel⟩, by decide +kernel⟩
theorem test_chk_clauses : let g := { aGroup with threads := [{ aGroup.thread 0 with spec := [{ addr := 0x100, bytes := 8, reg := 8 }] },
        { aGroup.thread 1 with spec := [{ addr := 0x180, bytes := 8, reg := 8 }] }] }
    LaneReady (stateOf g) (pathOf g [0, 1]) { reads := [(0, 2)], writes := [(8, 2)] } ∧
    (∀ i, i ∈ [0, 1] → (g.thread i).spec.any (fun e => e.addr == vaddr (((pathOf g [0, 1]).view i).pair 0) && e.bytes == 8 && e.reg == 8) = true) ∧
    (∀ i, i ∈ aPath.ms → (aGroup.thread i).spec.any (fun _ => true) = false) :=
  ⟨⟨rfl, by decide +kernel, by decide +kernel, by decide +kernel⟩, by decide +kernel⟩

theorem test_exchange_clauses : LaneReady aState aPath { reads := [(6, 1), (2, 1), (3, 1)], writes := [(6, 1)] } ∧ Together aPath 6 3 := by
  refine ⟨⟨rfl, by decide +kernel, by decide +kernel, by decide +kernel⟩, by decide +kernel, by decide +kernel, by decide +kernel, ?_, ?_⟩
  · intro u
    match u with
    | 0 => rfl
    | 1 => rfl
    | u + 2 => simp [aPath, aGroup, Group.thread, Thread.arrival?]
  · intro h; cases h
theorem test_exchange_mismatch : let g := { aGroup with threads := [aThread [0, 0, 5, 7, 0, 0, 2], aThread [0, 0, 5, 7, 0, 0, 1]] }
    LaneReady (stateOf g) (pathOf g [0, 1]) { reads := [(6, 1), (2, 1), (3, 1)], writes := [(6, 1)] } ∧
    ∀ i, i ∈ [0, 1] → (((pathOf g [0, 1]).view i).v 6).getLsbD i = false :=
  ⟨⟨rfl, by decide +kernel, by decide +kernel, by decide +kernel⟩, by decide +kernel⟩
theorem test_exchange_waits : let c := pathOf parted [0]
    LaneReady (stateOf parted) c { reads := [(6, 1), (2, 1), (3, 1)], writes := [(6, 1)] } ∧ (c.view 0).v 6 = 3 ∧ (3 : Mask).getLsbD 1 = true ∧
    (c.group.thread 1).live = true ∧ 1 ∉ c.ms :=
  ⟨⟨rfl, by decide +kernel, by decide +kernel, by decide +kernel⟩, by decide +kernel⟩

/-! ### Queues, barriers, children, fences and cache control -/

/-- A launch of one role and clusters of `n` members, with the bindings: an engine's command and result endpoints, the link to the next member and the
link to the own team. -/
def queueLaunch (n : Nat) : Launch := { aLaunch with record := [0x10000, 0, 0x10002, BitVec.ofNat 32 (0x100001 + n * 0x10000), 8192, 0x42, 0x80008, 0, 0, 0, 0, 0, 0, 0, 0, 0,
  0x10000, 0, 0x10110, 0, 0x5F5E1810] }
/-- The machine with that launch. -/
def queueState (t : Team) : State :=
  { aState with teams := [t, { aTeam with id := 1, index := 1, member := 1, core := 1, clusterCores := [0, 1] }],
                ports := [(0, { trapVec := 0x10040, launches := [queueLaunch 2] })] }
/-- Its first team, whose own link holds two entries. -/
def queueTeam : Team := { aTeam with clusterCores := [0, 1], links := [(3, { q := [1, 2] })] }
def queuePath : Ctx := { aPath with team := queueTeam }

theorem test_push_clauses : LaneReady (queueState queueTeam) queuePath { reads := [(2, 2)] } ∧
    [0, 2, 3, 4].map (fun q => pushEnd ((queueState queueTeam).binding queueTeam aGroup q)) = [some (.engine 0), some (.link 14), some (.link 15), none] ∧
    (queueState queueTeam).mayRelease queuePath .clu = true ∧ (queueTeam.ref ((queueState queueTeam).linkMember queueTeam 14)).core = 1 ∧
    (pushChunks 0 [5, 7, 9, 2]).length ≤ (queueState queueTeam).room 0 ∧ (chunks32 1 [5, 7, 9, 2]).length ≤ (queueState queueTeam).room 0 :=
  ⟨⟨rfl, by decide +kernel, by decide +kernel, by decide +kernel⟩, by decide +kernel⟩
theorem test_push_waits : let s := { fullBuffer with ports := [(0, { launches := [queueLaunch 1] })] }
    LaneReady s aPath { reads := [(2, 1)] } ∧ pushEnd (s.binding aTeam aGroup 0) = some (.engine 0) ∧ s.room 0 < (chunks32 1 [5, 9]).length :=
  ⟨⟨rfl, by decide +kernel, by decide +kernel, by decide +kernel⟩, by decide +kernel⟩
theorem test_pop_clauses : LaneReady (queueState queueTeam) queuePath { writes := [(8, 2)] } ∧
    [1, 3, 4].map (fun q => popEnd 1 ((queueState queueTeam).binding queueTeam aGroup q)) = [some (.engine 0), some (.link 15), none] ∧
    queuePath.roomForOut = true ∧ operandOk aGroup.regs (8, 2) = true :=
  ⟨⟨rfl, by decide +kernel, by decide +kernel, by decide +kernel⟩, by decide +kernel⟩
theorem test_try_clauses : LaneReady (queueState queueTeam) queuePath { writes := [(8, 1)], predWrites := [1] } ∧
    (let w := popOf (queueState queueTeam) queuePath (.link 15) 3 1 8 2
     2 * 1 ≤ (queueTeam.entries w.eng w.q).length ∧ (queueTeam.pops.any fun x => x.eng == w.eng && (x.eng.isSome || x.q == w.q)) = false ∧
     ¬ 2 * 2 ≤ (queueTeam.entries w.eng w.q).length) ∧ (∀ i, i ∈ [0, 1] → i < aGroup.threads.length ∧ (aGroup.thread i).carried = []) :=
  ⟨⟨rfl, by decide +kernel, by decide +kernel, by decide +kernel⟩, by decide +kernel⟩

theorem test_barrier_clauses : aState.path? = some aPath ∧ aPath.ready {} = true ∧ aPath.awake ∧ aPath.team.cooper.isSome = true ∧
    aState.mayRelease aPath .clu = true ∧ aState.mayRelease aPath .core = true ∧ (aState.peers aTeam).length ≤ aState.room 0 ∧
    (let t := { aTeam with cooper := none }; ({ aState with teams := [t] }).path? = some { aPath with team := t } ∧ t.cooper.isSome = false) :=
  ⟨rfl, by decide +kernel, fun h => by simp [aPath, aGroup] at h, by decide +kernel, by decide +kernel, by decide +kernel, by decide +kernel, rfl, rfl⟩

/-- A descriptor of one thread with 8 registers, in the L1's lines 2 and 3. -/
def aDescriptor : List Word := [0x10000, 0, 0x10008, 1, 0, 0, 0, 0]
def childState (g : Group) : State := { stateOf g with cores := [(0, { tlb := [loadEntry], l1 := [2, 3].map fun n =>
  (n, { ws := (List.range 32).map fun w => (w, { st := .e, val := aDescriptor.getD w 0, tracked := true }) }) })] }
theorem test_spawn_clauses : let s := childState aGroup
    let read := aPath.ms.foldl (fun (a : State × List (Nat × DescRead)) i =>
      let da := (aPath.view i).pair 0
      ((a.1.readDesc aPath (some (laneOf aGroup i)) da).1, a.2 ++ [(i, (a.1.readDesc aPath (some (laneOf aGroup i)) da).2)])) (s, [])
    LaneReady s aPath { reads := [(0, 2), (2, 2)] } ∧ s.mayRelease aPath .clu = true ∧ s.journalRoom 0 16 = true ∧
    read.2 = aPath.ms.map (fun i => (i, .ok aDescriptor)) ∧ (read.1.core 0).spawnQ.length + 2 ≤ Config.spawnEntries ∧
    (read.1.teams.map (·.id)).Nodup ∧ (∀ t, t ∈ read.1.teams → (t.groups.map (·.idx)).Nodup) :=
  ⟨⟨rfl, by decide +kernel, by decide +kernel, by decide +kernel⟩, by decide +kernel, by decide +kernel, by decide +kernel, by decide +kernel,
    by decide +kernel, by decide +kernel⟩
theorem test_kspawn_clauses : let s := childState kGroup
    KReady s (pathOf kGroup [0, 1]) { reads := [(6, 2), (8, 2)] } ∧ (s.readDesc (pathOf kGroup [0, 1]) none (kGroup.kpair 6)).2 = .ok aDescriptor :=
  ⟨⟨rfl, by decide +kernel, by decide +kernel, by decide +kernel⟩, by decide +kernel⟩
theorem test_klaunch_clauses : KReady (stateOf kGroup) (pathOf kGroup [0, 1]) { reads := [(6, 2)], writes := [(8, 1)] } ∧
    (kGroup.kpair 6).toNat % 256 = 0 ∧ canonical (kGroup.kpair 6) = true ∧
    leaseCovers ((stateOf kGroup).leases (pathOf kGroup [0, 1]).team) 0x100 256 .load = true ∧ ((stateOf kGroup).core 0).submission = none ∧
    0 < (stateOf kGroup).room 0 ∧ (stateOf kGroup).mayRelease (pathOf kGroup [0, 1]) .dev = true ∧
    (0x180 : DWord).toNat % 256 ≠ 0 ∧ canonical 0x80000000000000 = false ∧ leaseCovers (aState.leases aTeam) 0x400000 256 .load = false :=
  ⟨⟨rfl, by decide +kernel, by decide +kernel, by decide +kernel⟩, by decide +kernel⟩

theorem test_fence_clauses : aState.path? = some aPath ∧ aPath.ready {} = true ∧ aState.mayRelease aPath .dev = true ∧
    (∀ j, j ∈ aPath.ms → (aPath.group.thread j).readsDone = true) ∧ aPath.group.kout = [] ∧
    (let s := { aState with cores := [(0, { writes := [0] })] }; s.path? = some aPath ∧ s.mayRelease aPath .dev = false) ∧
    (let c := pathOf (asking { dst := [8], look := 2, kind := .load 0x100 4 false 0x100 }) [0, 1]
     (stateOf c.group).path? = some c ∧ c.ready {} = true ∧ (c.group.thread 0).readsDone = false ∧ (stateOf c.group).mayRelease c .core = false) :=
  ⟨rfl, by decide +kernel, by decide +kernel, by decide +kernel, rfl, ⟨rfl, by decide +kernel⟩, ⟨rfl, by decide +kernel⟩⟩
theorem test_cache_clauses : LaneReady cachedState aPath { reads := [(0, 2)] } ∧ ∀ i, i ∈ aPath.ms →
    cachedState.checkCache aTeam (laneOf aGroup i) ((aPath.view i).pair 0) = .ok (aLeads i).1 (aLeads i).2.1 (aLeads i).2.2 ∧
    cachedState.inTransition (aLeads i).1 = false ∧ aPath.mustWait i ((aLeads i).1 / 128 * 128) 128 = false ∧
    cachedState.lineQuiet (cachedState.scopeCores aTeam .dev) (scopeDies aTeam .dev) ((aLeads i).1 / 128) = true :=
  ⟨⟨rfl, by decide +kernel, by decide +kernel, by decide +kernel⟩, by decide +kernel⟩
/-- The L1 of core 0 holds a dirty word of line 2. -/
def dirtyState : State := { aState with cores := [(0, { tlb := [loadEntry], l1 := [(2, { ws := [(1, { st := .m, val := 7, tracked := true })] })] })] }
theorem test_write_back_clauses : isDevice (2 * 128) = false ∧ dirtyState.isDead (homeOf (2 * 128)) = false ∧ dirtyState.mem.wf = true ∧
    ((dirtyState.core 0).cell 2 1).st = .m ∧ ((dirtyState.core 0).cell 2 1).unset = 0 := by decide +kernel
theorem test_cache_violation : let g := jumper 0x400000 0x100
    LaneReady (stateOf g) (pathOf g [0, 1]) { reads := [(0, 2)] } ∧
    (stateOf g).checkCache (pathOf g [0, 1]).team (laneOf g 0) (((pathOf g [0, 1]).view 0).pair 0) = .violation 0 0x400000 :=
  ⟨⟨rfl, by decide +kernel, by decide +kernel, by decide +kernel⟩, by decide +kernel⟩

/-- Page tables of address space 0: the first 64 pages of 64 KiB lie where they are addressed, page 3 private, the others coherent. -/
def tables : Memory := (List.range 8).foldl (fun m k => Memory.setWord m (0x202000 + 8 * k) (BitVec.ofNat 32 (0x10000 * k + if k = 3 then 0x1F else 0x5F)))
  (Memory.setWord (Memory.setWord (Memory.setWord [] 0x100000 0x200001) 0x200000 0x201001) 0x201000 0x202001)
/-- The machine with them. -/
def mapped (g : Group) : State := { stateOf g with mem := tables, ports := [(0, { trapVec := 0x10040, root := 0x8000000000100000, launches := [aLaunch] })] }
theorem test_walk : (mapped aGroup).walk 0 0x31234 =
    .found { asid := 0, va := 0x30000, size := 0x10000, pa := 0x30000, attr := 0, perm := 7, tags := [0x202018, 0x201000, 0x200000, 0x100000] } := by decide +kernel
/-- The group of one thread, in its handler, with the range of page 3 and a log pointer. -/
def converter : Group := { inHandler with threads := [{ aThread [] with hv := [0x30000, 0, 0x10000, 0, 0, 0, 0, 0], resume := some 0x10040 }], cfl := 0x40000 }
theorem test_convert_clauses : let s := mapped converter
    let c := pathOf converter [0]
    let e : TlbEntry := { asid := 0, va := 0x30000, size := 0x10000, pa := 0x30000, attr := 0, perm := 7, tags := [0x202018, 0x201000, 0x200000, 0x100000] }
    LaneReady s c { reads := [(2, 1), (0, 2)], writes := [(2, 1)] } ∧ s.mayRelease (c.alone 0) .dev = true ∧ (c.group.conv = none) ∧
    s.checkConv c.team (vaddr ((c.view 0).pair 0)) ((c.view 0).v 2).toNat c.group.cfl = .ok [e] ∧
    s.team? c.team.id = some c.team ∧ c.team.group? c.group.idx = some c.group ∧ 0 < s.room c.team.core ∧
    (let s1 : State := { s with transition := [(0x30000, 0x10000, some 0)] }
     s1.pageQuiet 0x30000 0x10000 = true ∧ s1.converting 0 e = true ∧ (s1.setCoherent e).isSome = true) :=
  ⟨⟨rfl, by decide +kernel, by decide +kernel, by decide +kernel⟩, by decide +kernel⟩
/-- The same with a conversion under way. -/
def convertingGroup (v : Conv) : Group := { converter with conv := some v }
theorem test_convert_going : let e : TlbEntry := { asid := 0, va := 0x30000, size := 0x10000, pa := 0x30000, attr := 0, perm := 7, tags := [0x202018, 0x201000, 0x200000, 0x100000] }
    [{ ms := [0] }, { ms := [0], pages := some [] }, { ms := [0], pages := some [e] }, { ms := [0], pages := some [e], asked := true },
      { ms := [0], pages := some [e], asked := true, swept := some [] }].map (fun v => ((mapped (convertingGroup v)).path?.map (fun c => (c.ms, c.group == convertingGroup v)), v.thread?)) =
      List.replicate 5 (some ([0], true), some 0) ∧
    (let v : Conv := { ms := [0], ended := [(0, 1)] }
     (mapped (convertingGroup v)).path?.map (fun c => (c.ms, c.group == convertingGroup v)) = some ([0], true) ∧ v.thread? = none) ∧
    ((mapped converter).storeAt 0 0 0 0 0x30000 [1, 2, 3, 4]).isSome = true ∧
    (let s := { aState with cores := [0, 1].map fun c => (c, { l1 := [(2, { ws := [(1, { st := .m, val := 7 + BitVec.ofNat 32 c })] })] }) }
     s.dirtyCopies 2 1 = [⟨0, 0, 7⟩, ⟨0, 1, 8⟩] ∧ s.dirtyCopies 2 2 = [] ∧ dirtyState.dirtyCopies 2 1 = [⟨0, 0, 7⟩]) := by decide +kernel

/-! ### The tile stream, tasks, recording and reverse -/

/-- The machine whose Cooper issues for a team, with the words `ws` in memory from 0x100 on. -/
def cooperState (t : Team) (ws : List Word) : State :=
  { aState with teams := [t], actor := .cooper 0, mem := (List.range ws.length).foldl (fun m i => Memory.setWord m (0x100 + 4 * i) (ws.getD i 0)) [] }
/-- The team with a scratchpad of two granules. -/
def tileTeam : Team := { aTeam with granules := [0, 1], scratchBytes := 16384 }
/-- Its Cooper. -/
def aCooper : Cooper := { cpc := 0x10000 }

theorem test_tile_clauses :
    TileReady (cooperState tileTeam []) tileTeam aCooper { m := some 1, slots := [2] } [] (tileTeam, [8192]) true ∧
    TileReady (cooperState tileTeam []) tileTeam aCooper { accs := [2], own := true, accWrite := false, slots := [2], writes := true, room := 32 } [(0, 2)] (tileTeam, [8192]) true ∧
    TileReady (cooperState tileTeam []) tileTeam aCooper { accs := [3], accRead := false, room := 32 } [(0, 3)] (tileTeam, []) true ∧
    TileReady (cooperState tileTeam []) tileTeam aCooper { accs := [3], own := true, slots := [1] } [(0, 3)] (tileTeam, [4096]) true ∧
    tileTeam.scratch.wf = true ∧ tileTeam.acc.wf = true :=
  ⟨⟨rfl, by decide +kernel, rfl, fun _ => by decide +kernel, by decide +kernel, by decide +kernel, by decide +kernel, fun h => absurd h (by decide)⟩,
   ⟨rfl, fun _ h => (nomatch h), by decide +kernel, fun _ => by decide +kernel, by decide +kernel, by decide +kernel, by decide +kernel, fun h => absurd h (by decide)⟩,
   ⟨rfl, fun _ h => (nomatch h), by decide +kernel, fun h => absurd rfl h, by decide +kernel, fun _ h => absurd rfl h, by decide +kernel, fun h => absurd h (by decide)⟩,
   ⟨rfl, fun _ h => (nomatch h), by decide +kernel, fun _ => by decide +kernel, by decide +kernel, by decide +kernel, by decide +kernel, fun h => absurd h (by decide)⟩, rfl, rfl⟩
/-- The same where the team records its Cooper's instructions. -/
def recordingTeam : Team := { tileTeam with log := { recording := true, begun := true, ptr := 0x110, lim := 0x10000 } }
theorem test_tile_recorded :
    TileReady (cooperState recordingTeam []) recordingTeam aCooper { accs := [3], own := true, slots := [1] } [(0, 3)] (recordingTeam, [4096]) true :=
  ⟨rfl, fun _ h => (nomatch h), by decide +kernel, fun _ => by decide +kernel, by decide +kernel, by decide +kernel, by decide +kernel, fun _ _ => by decide +kernel⟩
theorem test_product_clauses :
    TileReady (cooperState tileTeam []) tileTeam aCooper { m := some 1, mRead := true, accs := [2], mma := true, slots := [3], tensor := true, room := 32 } [(0, 2)]
      (tileTeam, [12288]) true ∧
    TileReady (cooperState tileTeam []) tileTeam aCooper { m := some 0, mRead := true, accs := [0, 1, 2, 3], mma := true, slots := [1, 2, 3], tensor := true, room := 128 }
      [(0, 0), (0, 1), (0, 2), (0, 3)] (tileTeam, [4096, 8192, 12288]) true :=
  ⟨⟨rfl, by decide +kernel, by decide +kernel, fun _ => by decide +kernel, by decide +kernel, by decide +kernel, by decide +kernel, fun h => absurd h (by decide)⟩,
   ⟨rfl, by decide +kernel, by decide +kernel, fun _ => by decide +kernel, by decide +kernel, by decide +kernel, by decide +kernel, fun h => absurd h (by decide)⟩⟩
/-- The same with an accumulator and a slot of the cluster's other member. -/
def tileTeams : State := { twoTeams aGroup with teams := [{ tileTeam with clusterCores := [0, 1] },
  { tileTeam with id := 1, index := 1, member := 1, core := 1, clusterCores := [0, 1] }], actor := .cooper 0 }
theorem test_tile_far : let t := { tileTeam with clusterCores := [0, 1] }
    let u := { tileTeam with id := 1, index := 1, member := 1, core := 1, clusterCores := [0, 1] }
    TileReady tileTeams t aCooper { accs := [10], accRead := false, room := 32 } [(1, 2)] (t, []) true ∧
    TileReady tileTeams t aCooper { accs := [2], own := true, accWrite := false, slots := [81], writes := true, room := 32 } [(0, 2)] (u, [4096]) true ∧
    TileReady tileTeams t aCooper { m := some 0, mRead := true, accs := [8, 9, 10, 11], mma := true, slots := [1, 2, 3], tensor := true, room := 128 }
      [(1, 0), (1, 1), (1, 2), (1, 3)] (t, [4096, 8192, 12288]) true :=
  ⟨⟨rfl, fun _ h => (nomatch h), by decide +kernel, fun h => absurd rfl h, by decide +kernel, fun _ h => absurd rfl h, by decide +kernel, fun h => absurd h (by decide)⟩,
   ⟨rfl, fun _ h => (nomatch h), by decide +kernel, fun _ => by decide +kernel, by decide +kernel, by decide +kernel, by decide +kernel, fun h => absurd h (by decide)⟩,
   ⟨rfl, by decide +kernel, by decide +kernel, fun _ => by decide +kernel, by decide +kernel, by decide +kernel, by decide +kernel, fun h => absurd h (by decide)⟩⟩

theorem test_cooper_clauses :
    (let g := { aGroup with threads := aGroup.threads.map fun h => { h with nbA := [(0, 1)] } }
     let t := { tileTeam with groups := [g] }
     (cooperState t []).coop? = some (t, aCooper) ∧ SMap.getD aCooper.twaits 0 0 + 1 ≤ t.phase 0 ∧ t.phase 1 < SMap.getD aCooper.twaits 1 0 + 1 ∧ t.anyLive = true) ∧
    (let t := { tileTeam with groups := [] }
     (cooperState t []).coop? = some (t, aCooper) ∧ t.phase 0 < SMap.getD aCooper.twaits 0 0 + 1 ∧ t.anyLive = false ∧
     ((cooperState t []).peers t).length ≤ (cooperState t []).room 0) ∧
    (cooperState tileTeam []).coopDone tileTeam = true ∧
    (let t := { tileTeam with tasks := [{ id := 1, engine := 0, out := .nothing, ins := [], block := 0, cmd := [], ext := [], word := 0 }] }
     (cooperState t []).coop? = some (t, aCooper) ∧ (cooperState t []).coopDone t = false) ∧
    (cooperState tileTeam []).coopRetired tileTeam = true ∧ (cooperState tileTeam []).tbarMet tileTeam 2 1 = true ∧
    (let t := { tileTeam with clusterCores := [0, 1] }
     tileTeams.coop? = some (t, aCooper) ∧ tileTeams.tbarMet t 2 1 = false) ∧
    (let k : Cooper := { cpc := 0x10000, wait := .tbar 2 1 }
     let t := { tileTeam with cooper := some k }
     (cooperState t []).coop? = some (t, k) ∧ k.wait = .tbar 2 1 ∧ (cooperState t []).tbarMet t 2 1 = true) :=
  ⟨⟨rfl, by decide +kernel⟩, ⟨rfl, by decide +kernel⟩, by decide +kernel, ⟨rfl, by decide +kernel⟩, by decide +kernel, by decide +kernel,
    ⟨rfl, by decide +kernel⟩, ⟨rfl, rfl, by decide +kernel⟩⟩

/-- A task of engine 0 that reads slot 1 and writes slot 2, and its command. -/
def taskWords : List Word := [0x01000002, 0x100, 0, 0x00000001]
theorem test_task_clauses : let s := cooperState tileTeam [0x05000000, 0x1000, 0]
    s.coop? = some (tileTeam, aCooper) ∧ taskHeader (4 : BitVec 4).toNat taskWords = some (0, .slot 2, [.slot 1]) ∧
    (joinWords (taskWords.getD 1 0) (taskWords.getD 2 0)).toNat % 4 = 0 ∧
    (match s.taskCommand tileTeam 0 (joinWords (taskWords.getD 1 0) (taskWords.getD 2 0)) with
     | .ok bs => (bytesWords bs).headD 0 == 0x05000000 && s.journalFits 0 (bytesWords bs)
     | .violation _ _ => false | .poisoned _ => false | .wait _ _ => false) = true ∧
    s.tasksOn 0 < Config.taskEntries ∧ tileTeam.log.recording = false ∧ taskHeader (4 : BitVec 4).toNat [0x01000002, 0x100, 0, 0x00010001] = none :=
  ⟨rfl, by decide +kernel, by decide +kernel, by decide +kernel, by decide +kernel, rfl, by decide +kernel⟩
/-- A launch whose log origin is 0x100. -/
def logLaunch : Launch := { aLaunch with record := [0, 0, 0, 0, 0, 0, 0, 0, 0, 0, 0x100, 0] }
theorem test_record_clauses : let s := { cooperState tileTeam [] with ports := [(0, { launches := [logLaunch] })] }
    s.coop? = some (tileTeam, aCooper) ∧ s.coopDone tileTeam = true ∧ ((s.launchOf tileTeam).map Launch.logBase).getD 0 = 0x100 ∧
    (cooperState recordingTeam []).coop? = some (recordingTeam, aCooper) ∧ (cooperState recordingTeam []).coopDone recordingTeam = true :=
  ⟨rfl, by decide +kernel, by decide +kernel, rfl, by decide +kernel⟩
/-- A team that has recorded: its descriptor at 0x100, its only record, a task's, at 0x110, its grad map at 0x180. -/
def reverseTeam (l : LogState) : Team := { tileTeam with log := l }
def reverseWords : List Word := [0x110, 0, 1, 0, 0xE8000020, 8, 1, 0, 0, 0, 0, 0] ++ List.replicate 20 0 ++ [0x1000, 0, 0x2000, 0, 0x3000, 0, 0x4000, 0, 0x5000, 0]
/-- The same before and in its reverse, and at the end of one. -/
def beforeReverse : Team := reverseTeam { begun := true, origin := 0x100 }
def inReverse : Team := reverseTeam { begun := true, origin := 0x100, revOn := true, revRec := 0x110 }
def endReverse : Team := reverseTeam { begun := true, revOn := true }
theorem test_reverse_clauses :
    (cooperState beforeReverse reverseWords).coop? = some (beforeReverse, aCooper) ∧ (cooperState beforeReverse reverseWords).coopDone beforeReverse = true ∧
    (match (cooperState beforeReverse reverseWords).revStart beforeReverse 0 0x180 with
     | .ok x => x.first == 0x110 && x.seed == 0x4000 && x.leaf == 0x5000 && (cooperState beforeReverse reverseWords).journalFits 0 x.reads
     | .error _ => false) = true ∧
    (cooperState endReverse []).coop? = some (endReverse, aCooper) ∧ (cooperState endReverse []).coopDone endReverse = true := by decide +kernel
theorem test_reverse_goes_on :
    (cooperState inReverse reverseWords).coop? = some (inReverse, aCooper) ∧ (cooperState inReverse reverseWords).coopDone inReverse = true ∧
    (match (cooperState inReverse reverseWords).revUpdate inReverse 0x180 with
     | .ok v => v.teams.map (fun t => (t.log.revPhase, t.log.revRec)) == [(1, 0x110)]
     | .error _ => false) = true := by decide +kernel

/-! ### Engines -/

/-- Commands that copy 64 bytes of the own scratchpad, and that multiply 4 elements of it by themselves. -/
def copyWords : List Word := [0x03600000, 0, 0, 0x1000, 0, 64, 1, 0, 0]
def pressWords : List Word := [0x10710000, 4, 0x02, 0, 0, 0, 0, 0, 0, 0, 0x1000, 0]
/-- The team with the words in an engine's stream. -/
def engTeam (eng : Nat) (ws : List Word) : Team := { aTeam with engs := [(eng, { cmd := ws, used := true })] }
/-- An operation in progress. -/
def anOp : EngOp := { team := 0, code := 3, number := 1, status := 0, started := true }
/-- The machine in which engine `eng` admits the team's next command. -/
def engineState (t : Team) (eng : Nat) (ops : List EngOp) : State :=
  { aState with teams := [t], actor := .engine 0 eng 0, cores := [(0, { tlb := [loadEntry], ops := [(eng, ops)] })] }

theorem test_command_clauses :
    (let t := engTeam 0 copyWords
     let s := engineState t 0 [anOp]
     t.nextCommand 0 = some (none, copyWords) ∧ (commandLength false (copyWords.headD 0)).isSome = true ∧
     s.parse t 0 copyWords = .ok [{ scratch := true, space := 0, lo := 0, hi := 64, dest := false },
       { scratch := true, space := 0, lo := 0x1000, hi := 0x1040, dest := true }] ∧ (s.core 0).engOps 0 = [anOp] ∧ (s.team? 0) = some t) ∧
    (let t := engTeam 8 pressWords
     let s := engineState t 8 [anOp]
     t.nextCommand 8 = some (none, pressWords) ∧ (commandLength true (pressWords.headD 0)).isSome = true ∧
     s.parse t 8 pressWords = .ok [{ scratch := true, space := 0, lo := 0, hi := 16, dest := false },
       { scratch := true, space := 0, lo := 0, hi := 16, dest := false }, { scratch := true, space := 0, lo := 0x1000, hi := 0x1010, dest := true }]) ∧
    (let ws := copyWords.set 5 66
     let t := engTeam 0 ws
     t.nextCommand 0 = some (none, ws) ∧ (engineState t 0 [anOp]).parse t 0 ws = .refused 3) ∧
    (let ws := (copyWords.set 0 0x03200000).set 1 0x400000
     let t := engTeam 0 ws
     t.nextCommand 0 = some (none, ws) ∧ (engineState t 0 []).parse t 0 ws = .violation 0 0x400000) ∧
    (let ws := (copyWords.set 0 0x03200000).set 1 0x400
     let t := engTeam 0 ws
     let held : Lock := { eng := 0, team := 0, scratch := true, space := 9, lo := 0, hi := 1, dest := false }
     let s : State := { engineState t 0 [] with cores := [(0, { tlb := [loadEntry], locks := List.replicate Config.rangeLocks held })] }
     t.nextCommand 0 = some (none, ws) ∧ s.parse t 0 ws = .wait) := by decide +kernel
/-- The operation's last write is delivered. -/
theorem test_operation_clauses :
    (let t := { engTeam 0 [] with scratchBytes := 8192 }
     let s := engineState t 0 [anOp]
     (s.core 0).engOps 0 = [anOp] ∧ s.team? 0 = some t ∧ anOp.delivered = true ∧ anOp.resultWaits = false ∧ (anOp.sig = none ∧ anOp.sigOld = none) ∧
     s.resultBound t 0 = false) ∧
    (let t := queueTeam
     let s := { queueState t with cores := [(0, { ops := [(0, [anOp])] })] }
     s.team? 0 = some t ∧ t.pops = [] ∧ s.resultBound t 0 = true ∧ (t.groups.any fun g => g.threads.any Thread.live) = true ∧
     (SMap.getD t.engs 0 {}).res.length + 2 ≤ 32) ∧
    (let t := { queueTeam with engs := [(0, { res := List.replicate 32 0 })] }
     let o := { anOp with resultWaits := true }
     let s := { queueState t with cores := [(0, { ops := [(0, [o])] })] }
     (s.core 0).engOps 0 = [o] ∧ s.team? 0 = some t ∧ s.resultBound t 0 = true ∧ 32 < (SMap.getD t.engs 0 {}).res.length + 2) ∧
    (let o := { anOp with sig := some 0x100, sigOld := some none }
     o.delivered = true ∧ o.sig = some 0x100 ∧ o.sigOld = some none) := by decide +kernel
theorem test_operation_others : ∀ e x, e ≠ 0 → (((engineState (engTeam 0 []) 0 [anOp]).core 0).engOps e).head? = some x → x.started = true := by
  intro e x h hx
  simp [engineState, State.core, Core.engOps, SMap.getD, SMap.get?] at hx
  split at hx <;> simp_all
theorem test_task_issue_clauses :
    let t := { aTeam with tasks := [{ id := 1, engine := 0, out := .slot 1, ins := [.slot 0], block := 0, cmd := [], ext := [], word := 0 }] }
    let s := { aState with teams := [t] }
    s.team? 0 = some t ∧ s.taskReady t 1 = true ∧ 0 < s.room 0 := by decide +kernel

/-! ### Launches -/

/-- A record of one team of one role with one group of 8 registers, whose signal word is 0x1000 and whose lease list is at 0x1800. -/
def recordWords : List Word := [0x10001, 0, 0x10001, 0x110001, 0, 0, 0x10001, 0, 0x1800, 0, 0, 0, 0x1000, 0, 0, 0, 0x10000, 0, 0x10108] ++ List.replicate 45 0
/-- The lease list: the first 64 KiB for data. -/
def leaseWords : List Word := [1, 0, 0, 0, 0, 0, 0x10000, 1]
/-- Words in memory from an address on. -/
def wordsAt (m : Memory) (a : Nat) (ws : List Word) : Memory := (List.range ws.length).foldl (fun m i => Memory.setWord m (a + 4 * i) (ws.getD i 0)) m
/-- Page tables whose root is the table at 0 and whose first page lies at 0x400000. -/
def onePage : Memory := Memory.setWord (Memory.setWord (Memory.setWord (Memory.setWord [] 0 0x100001) 0x100000 0x101001) 0x101000 0x102001) 0x102000 0x40005F
/-- The machine with a port that has accepted a launch whose record is at 0x200. -/
def launchState (p : Port) : State :=
  { aState with teams := [], actor := .idle, mem := wordsAt (wordsAt onePage 0x400200 recordWords) 0x401800 leaseWords, ports := [(0, p)] }
def acceptedLaunch : Launch := { asid := 0, seq := 1, addr := 0x200 }
def acceptedPort : Port := { root := 0x8000000000000000, lastSeq := 1, accepted := 1, queue := [0x200], coreSet := [(0, 0xFF)], launches := [acceptedLaunch] }

theorem test_submit_clauses : (0 : Nat) < Config.numAsids ∧ acceptedPort.queue.length < Config.portQueue ∧ acceptedPort.stalled = [] ∧
    Config.portQueue ≤ (List.replicate Config.portQueue (0x200 : VAddr)).length := by decide
theorem test_record_check : let s := launchState acceptedPort
    (acceptedPort.launches.find? fun l => l.state == .accepted) = some acceptedLaunch ∧ acceptedPort.rootOk = true ∧
    s.distRead 0 0x200 64 = .ok recordWords ∧ s.readLeases 0 ({ acceptedLaunch with record := recordWords } : Launch).leaseList = .ok [(0, 0x10000, 1)] ∧
    s.recordCode { acceptedLaunch with record := recordWords, leases := [(0, 0x10000, 1)] } = none := by
  have h : [0] ∈ (launchState acceptedPort).rectangles { acceptedLaunch with record := recordWords, leases := [(0, 0x10000, 1)] } :=
    List.mem_filterMap.mpr ⟨0, List.mem_range.mpr (by decide), by decide +kernel⟩
  have c : (launchState acceptedPort).couldPlace { acceptedLaunch with record := recordWords, leases := [(0, 0x10000, 1)] } = true := by
    simp only [State.couldPlace, Bool.and_eq_true, Bool.not_eq_true', List.isEmpty_eq_false_iff]
    exact ⟨by decide +kernel, List.ne_nil_of_mem h⟩
  refine ⟨by decide +kernel, by decide +kernel, by decide +kernel, by decide +kernel, ?_⟩
  unfold State.recordCode
  rw [c]
  decide +kernel
theorem test_record_refused : ({ acceptedPort with root := 0 } : Port).rootOk = false ∧
    aState.recordCode { acceptedLaunch with record := recordWords.set 2 0, leases := [(0, 0x10000, 1)] } = some 1 ∧
    aState.recordCode { acceptedLaunch with record := recordWords.set 16 0x10002, leases := [(0, 0x10000, 1)] } = some 2 ∧
    ({ acceptedLaunch with record := recordWords.set 2 0, leases := [(0, 0x10000, 1)] } : Launch).signalOk = true ∧
    ({ acceptedLaunch with record := recordWords, leases := [] } : Launch).signalOk = false := by decide +kernel
/-- The same launch past its checks. -/
def checked (st : LState) : Launch := { acceptedLaunch with record := recordWords, leases := [(0, 0x10000, 1)], state := st, toPlace := if st = .running then [] else [0] }
/-- The machine with it. -/
def launched (l : Launch) : State := launchState { acceptedPort with queue := [], launches := [l] }
theorem test_launch_clauses : (launched (checked .waiting)).launch? 0 1 = some (checked .waiting) ∧
    ((launched (checked .waiting)).port 0).dependencyMet (checked .waiting) = true ∧
    (launched (checked .leasing)).launch? 0 1 = some (checked .leasing) ∧
    (∀ r, r ∈ (checked .leasing).leases → (launched (checked .leasing)).resident 0 r.2.2 (r.2.1 / 65536 + 2) r.1 (r.1 + r.2.1) = true) := by decide +kernel
theorem test_lease_unmapped : let l := { checked .leasing with leases := [(0, 0x10000, 1), (2 ^ 40, 4, 0)] }
    (launched l).launch? 0 1 = some l ∧ (∃ r, r ∈ l.leases ∧ (launched l).unmapped 0 (r.2.1 / 65536 + 2) r.1 (r.1 + r.2.1) = true) := by
  refine ⟨by decide +kernel, (2 ^ 40, 4, 0), by decide, by decide +kernel⟩
theorem test_placement_clauses : let l := { checked .placing with place := some [0] }
    (launched l).launch? 0 1 = some l ∧ (launched l).nextSpot l = some [0] ∧ l.nextCluster = some 0 ∧ (launched l).mayPlace l [0] = true ∧
    l.saved = [] := by decide +kernel
/-- A request for a child of one thread with 8 registers, of the group of the team on core 0. -/
def aRequest : SpawnReq := { desc := aDescriptor, da := 0x100, arg := 7, parent := { team := 0, group := 0 }, pos := 0, depth := 1 }
theorem test_child_clauses : let s := { aState with cores := [(0, { spawnQ := [aRequest] })], fresh := 5 }
    s.placeable 0 = some (aRequest, 0, 0) ∧ s.team? aRequest.parent.team = some aTeam ∧ s.team? s.fresh = none := by decide +kernel
theorem test_child_elsewhere :
    let g := fun (i : Nat) => { aGroup with idx := i, side := i % 2, slot := i / 2 }
    let s := { aState with teams := [{ aTeam with groups := (List.range 48).map g, clusterCores := [0, 1] }], cores := [(0, { spawnQ := [aRequest] })],
                           ports := [(0, { launches := [aLaunch], coreSet := [(0, 3)] })] }
    s.placeable 0 = some (aRequest, 1, 0) ∧ 0 < s.room 0 := by decide +kernel
theorem test_retirement_clauses : let t := { aTeam with groups := [], cooper := none }
    let s := { aState with teams := [t] }
    s.team? 0 = some t ∧ t.parent = none ∧ t.retiring = false ∧ s.teamDone t = true ∧ t.streamsDone = true ∧ s.childReleased t = true ∧
    2 ≤ s.room 0 := by decide +kernel
/-- A launch in its flush, which has the lines `todo` to write back. -/
def flusher (todo : List Nat) : Launch := { checked .flushing with flush := some (todo, []) }
theorem test_flush_clauses : (launched (checked .flushing)).launch? 0 1 = some (checked .flushing) ∧ (checked .flushing).flushUpto = [] ∧
    (launched (checked .flushing)).pagesOf 0 = some [(0x400000, 0x10000)] ∧ (launched (checked .flushing)).dirtyLines = [] ∧ dirtyState.dirtyLines = [2] ∧
    aLaunch.flushes [(0, 0x10000)] 2 = true ∧ aLaunch.flushes [(0x10000, 0x10000)] 2 = false ∧
    (let s := { launched (flusher [2]) with cores := dirtyState.cores }
     s.launch? 0 1 = some (flusher [2]) ∧ s.lineBusy 2 = false ∧ (s.cwbLine (s.cores.map (·.1)) (List.range Config.numDies) 2).lineBusy 2 = false) := by
  decide +kernel
theorem test_signal_clauses : let s := launched (checked .signalled)
    let l := { checked .signalled with signalPa := some 0x401000 }
    s.launch? 0 1 = some (checked .signalled) ∧ (checked .signalled).signal = 0x1000 ∧
    (match s.signalWrite 0 (checked .signalled) 4 0 with
     | none => false
     | some s1 => (s1.signalWrite 0 (checked .signalled) 0 1).isSome) = true ∧
    l.signalPa = some (0x401004 - 4) ∧ (s.signalWrite 0 l 4 0).isSome = true ∧
    (match s.walkPa 0 0x1000 with
     | some (some e) => s.wordQuiet (e.phys 0x1000 / 4) && !s.inTransition (e.phys 0x1000) && !isDevice (4 * (e.phys 0x1000 / 4))
       && !s.isDead (homeOf (4 * (e.phys 0x1000 / 4)))
     | some none => false
     | none => false) = true ∧ s.mem.wf = true := by decide +kernel

/-! ### Registers of the package and page migration -/

theorem test_root_clauses : (∃ l, l ∈ (aState.port 0).launches ∧ l.state.holdsRoot = true) ∧
    (¬ ∃ l, l ∈ ((launched (checked .waiting)).port 3).launches ∧ l.state.holdsRoot = true) ∧
    (let s : State := { aState with ports := [(0, { rootPending := some 5 })] }
     (s.port 0).rootPending = some 5 ∧ ¬ ∃ l, l ∈ (s.port 0).launches ∧ l.state.holdsRoot = true) :=
  ⟨⟨aLaunch, by decide +kernel, by decide +kernel⟩, fun ⟨_, h, _⟩ => List.not_mem_nil h, by decide +kernel,
    fun ⟨_, h, _⟩ => List.not_mem_nil h⟩
theorem test_register_clauses : (∀ x, x ∈ [0x7000000030000, 0x7000040030198, 0x70000400301A8, 0x7000080000018, 0x7000040030110, 0x7000040030190, 0x70000400301A0,
      0x7000500000008, 0x7000400000010, 0x7000300000050] → isDevice x = true ∧ x % 8 = 0) ∧
    devReg 0x7000000030000 = .port 3 0 ∧ devReg 0x7000040030198 = .port 3 0x198 ∧ devReg 0x70000400301A8 = .port 3 0x1A8 ∧
    devReg 0x7000080000018 = .atRoot 3 ∧ devReg 0x7000040030110 = .port 3 (0x100 + 8 * 2) ∧ devReg 0x7000040030190 = .port 3 0x190 ∧
    devReg 0x70000400301A0 = .port 3 0x1A0 ∧ devReg 0x7000500000008 = .platform 0x08 ∧ devReg 0x7000400000010 = .migrate 0x10 ∧
    devReg 0x7000300000050 = .die 5 := by decide +kernel
theorem test_fabric_clauses : aState.mgmt.hkLock = false ∧ (∃ p l, p ∈ aState.ports ∧ l ∈ p.2.launches ∧ l.state.holdsRoot = true) ∧
    ¬ ∃ p l, p ∈ State.reset.ports ∧ l ∈ p.2.launches ∧ l.state.holdsRoot = true :=
  ⟨by decide +kernel, ⟨_, aLaunch, List.mem_singleton.mpr rfl, List.mem_singleton.mpr rfl, by decide⟩, fun ⟨_, _, h, _⟩ => List.not_mem_nil h⟩
/-- The machine about to move page 2 of address space 0 to a frame of die 1. -/
def moving : State := { mapped aGroup with mgVa := 0x20000, mgDst := 0x1000000000 }
theorem test_move_clauses : (0x400 : DWord).getLsbD 10 = true ∧ moving.mgStatus ≠ 1 ∧ moving.moveRefused 0 2 = false ∧ moving.mgFrame = 0x1000000000 ∧
    (match moving.walk 0 moving.mgVa with
     | .found e => e.size == 65536 && e.attr == 2 && e.tags.headD 0 == 0x202010
     | .invalid => false | .poisoned => false
     | .wait => false) = true ∧ moving.frameReachable moving.mgFrame = true ∧ moving.frameReachable 0x18000000000 = false ∧
    ({ moving with moves := [{ asid := 0, page := 2, moves := 4 }] } : State).moveRefused 0 2 = true ∧ moving.walk 0 0x900000000 = .invalid ∧
    (match moving.walk 0 0x30000 with
     | .found e => e.size == 65536 && e.attr != 2
     | .invalid => false | .poisoned => false
     | .wait => false) = true := by decide +kernel
theorem test_move_ends : let j : MoveJob := { leaf := 0x202010, src := 0x20000, dst := 0x1000000000 }
    let s := { moving with mgStatus := 1, mgJob := some j, transition := [(0x20000, 65536, none)] }
    s.mgJob = some j ∧ s.mem.wf = true ∧ j.src + 65536 ≤ j.dst ∧ s.pageQuiet j.src 65536 = true ∧ s.pageQuiet j.dst 65536 = true ∧
    s.wordQuiet (j.leaf / 4) = true ∧ s.wordQuiet (j.leaf / 4 + 1) = true ∧ regionOf j.src = 0 ∧ regionOf j.dst = 0 ∧ j.leaf % 8 = 0 ∧
    j.leaf + 8 ≤ j.dst ∧ regionOf j.leaf = 0 ∧ s.isDead (homeOf j.leaf) = false ∧
    s.dirtyIn j.src = [] ∧ (s.view none (j.leaf / 4)).isSome = true ∧ (s.view none (j.leaf / 4 + 1)).isSome = true ∧
    (let c : Core := { l1 := [(1025, { ws := [(1, { st := .m, val := 7 })] })] }
     ({ s with cores := [(0, c)] } : State).dirtyIn j.src = [1025]) ∧
    (({ s with moves := [{ asid := 0, page := 2, moves := 1 }] } : State).movesOf 0 2).isSome = true := by decide +kernel

/-- R265: D of a Press command may begin where A does exactly when their elements have one size: FP32 over FP32, not FP32 over BF16. -/
theorem test_press_in_place :
    overlapOk [0x10002000] [⟨false, 1, 64, 72, false⟩, ⟨false, 1, 64, 72, true⟩] = true ∧
    overlapOk [0x10006000] [⟨false, 1, 64, 68, false⟩, ⟨false, 1, 64, 68, true⟩] = false := by decide

/-! ### Groups, windows, soft errors, pre-emption and vintages -/

/-- The machine with a team that holds these groups. -/
def withGroups (gs : List Group) : State := { aState with teams := [{ aTeam with groups := gs }], actor := .idle }
theorem test_entry_clauses :
    (let g := { aGroup with pending := .own }
     (withGroups [g]).team? 0 = some { aTeam with groups := [g] } ∧ ({ aTeam with groups := [g] } : Team).group? 0 = some g ∧ g.drained = true) ∧
    (let t := { aTeam with cooper := some { cpc := 0x10000, trapped := true } }
     t.handlerDue = true ∧ t.handlerGroup = some 0 ∧ aGroup.drained = true) ∧
    (let o : OutRes := { dst := [8], look := 2, kind := .ready [1] }
     let t := { aTeam with groups := [asking o], cooper := some { cpc := 0x10000, trapped := true } }
     t.handlerDue = true ∧ t.handlerGroup = some 0 ∧ (asking o).drained = false) ∧
    (let t := { aTeam with groups := [], cooper := some { cpc := 0x10000, trapped := true } }
     t.handlerDue = true ∧ t.handlerGroup = none) ∧
    (let g := { parted with quantum := 1, n := 1 }
     g.divided = true ∧ g.quantum.toNat ≠ 0 ∧ g.quantum.toNat ≤ g.n ∧ (g.thread 0).live = true) := by decide +kernel
theorem test_entry_team : { aGroup with pending := .team }.drained = true := by decide +kernel
/-- Seats of the groups `n` on: waiting ones in the active set. -/
def seatGroup (i : Nat) (waits active : Bool) : Group :=
  { (if waits = true then asking { dst := [8], look := 0, kind := .ready [1] } else aGroup) with
    idx := i, slot := i, active := active, threads := if waits = true then [(asking { dst := [8], look := 0, kind := .ready [1] }).thread 0] else aGroup.threads }
theorem test_swap_clauses :
    (let s := withGroups [seatGroup 0 false false]
     ((s.seats 0 0).find? (fun x => !x.active && x.ready)).map (·.group) = some 0 ∧ ((s.seats 0 0).filter (·.active)).length < 8) ∧
    (let s := withGroups ((List.range 8).map (fun i => seatGroup i true true) ++ [seatGroup 8 false false])
     ((s.seats 0 0).find? (fun x => !x.active && x.ready)).map (·.group) = some 8 ∧ 8 ≤ ((s.seats 0 0).filter (·.active)).length ∧
     (((s.seats 0 0).filter (·.active)).find? (·.waiting)).map (·.group) = some 0) ∧
    (let s := withGroups ((List.range 8).map (fun i => seatGroup i false true) ++ [seatGroup 8 false false])
     ((s.seats 0 0).find? (fun x => !x.active && x.ready)).map (·.group) = some 8 ∧ ((s.seats 0 0).filter (·.active)).find? (·.waiting) = none) := by
  decide +kernel
/-- The machine at a later cycle of die 0. -/
def later (n : Nat) (k : Core) : State := { aState with dies := List.replicate 24 { state := 2, counter := n }, cores := [(0, k)], actor := .idle }
theorem test_window_clauses : ((later 5000 {}).core 0).window < (later 5000 {}).now 0 / Config.tokenWindow ∧
    ((later 5000 {}).core 0).halved < (later 5000 {}).now 0 / Config.tokenWindow ∧ (later 5000 {}).team? 0 = some aTeam := by decide +kernel

/-- A settling buffer whose oldest entry brings two bytes to another member's scratchpad. -/
def settling : Core := { buffer := [{ no := 1, made := 3, team := 0, eff := .remoteScratch { asid := 0, seq := 1, cluster := 0, member := 1, core := 1 } [(0, 7), (1, 8)] 1 }] }
theorem test_settle_clauses : let s := { later 5000 settling with teams := (twoTeams aGroup).teams }
    (∃ e r, (s.core 0).buffer = e :: r ∧ s.bound 0 ≤ s.now 0 - e.made) ∧ (∃ e r, ((later 5 settling).core 0).buffer = e :: r ∧
      (later 5 settling).now 0 - e.made < (later 5 settling).bound 0) ∧
    (s.member? { asid := 0, seq := 1, cluster := 0, member := 1, core := 1 }).map (·.id) = some 1 ∧ (s.core 0).ops = [] ∧
    lastWrite [(0, 7), (1, 8)] 1 = some 8 :=
  ⟨⟨_, _, rfl, by decide +kernel⟩, ⟨_, _, rfl, by decide +kernel⟩, by decide +kernel⟩
theorem test_snapshot_clauses : let s := later 1536 {}
    s.alive (dieOf 0) = true ∧ (s.core 0).stop = none ∧ s.now 0 % s.bound 0 = 0 ∧ (s.core 0).snaps = [] := by decide +kernel
/-- A core that holds a snapshot. -/
def snapped (lost : Bool) : Core := { snaps := [{ at' := 1536, lost := lost, teams := [aTeam] }] }
theorem test_strike_clauses : (later 1600 (snapped false)).coreRuns 0 = true ∧ (later 1600 (snapped false)).recent 0 1590 = true ∧
    ((snapped false).rollbackTo 1590).map (fun x => (x.1.lost, x.2.at')) = some (false, 1536) ∧ ((snapped true).rollbackTo 1590).map (·.1.lost) = some true ∧
    (snapped false).rollbackTo 1500 = none ∧ (later 1600 (snapped false)).secondMismatch 0 (.instr 0x10000) 1590 = false ∧
    (later 1600 { snapped false with origin := .instr 0x10000, originAt := 1580, originSet := true }).secondMismatch 0 (.instr 0x10000) 1590 = true := by decide +kernel
theorem test_error_clauses : onPackage 0x100 = true ∧ cachedState.coreRuns 0 = true ∧ ((cachedState.core 0).l1.cell 2 1).st ≠ .i ∧
    aState.dies.length = Config.numDies ∧ aState.alive 0 = true ∧ 0x10 < aTeam.granules.length * Config.granuleBytes ∧
    (∃ x, x ∈ (snapped false).snaps ∧ x.at' = 1536) := by
  refine ⟨by decide +kernel, by decide +kernel, by decide +kernel, by decide +kernel, by decide +kernel, by decide +kernel, ?_⟩
  exact ⟨_, List.mem_singleton.mpr rfl, rfl⟩
theorem test_register_error_clauses : 0x10 < 4096 * aTeam.mregs.length ∧ 0x10 < 4096 * aTeam.accs.length ∧ (aTeam.group? 0).isSome = true ∧
    ((aState.mapDie 0 fun d => { d with l2 := [2] }).die 0).l2.contains (0x100 / 128) = true := by decide +kernel

/-- A launch of team 0 in a state, and the machine in which its port can save it. -/
def saved (st : LState) : Launch := { aLaunch with state := st, record := [0x10001, 0, 0x10001, 0x110001] }
def saver (l : Launch) (p : Port) : State := { mapped aGroup with actor := .idle, ports := [(0, { p with root := 0x8000000000100000, launches := [l] })] }
theorem test_preempt_clauses : (0 : Nat) < Config.numAsids ∧ (saver (saved .running) {}).launch? 0 1 = some (saved .running) ∧
    (saver (saved .running) {}).launch? 0 2 = none ∧ (saver (saved .flushing) {}).launch? 0 1 = some (saved .flushing) ∧ (saved .running).laps = 0 ∧
    ((saver (saved .running) { stride := 16 }).residents (saved .running)).map (·.id) = [0] ∧
    (16 : Nat) * 4096 < imageBytes { aTeam with groups := (List.range 32).map fun _ => { aGroup with regs := 128 } } [] ∧
    (saver (saved .running) { stride := 16 }).imagesCheck (saved .running) = some 2 ∧
    (saver (saved .running) { stride := 16, saveBase := 0x900000000 }).imagesCheck (saved .running) = some 4 ∧
    ({ saved .running with record := [0, 0, 0, 0x110001, 0, 0, 0, 0x10000] } : Launch).laps = 1 := by decide +kernel
theorem test_save_clauses :
    (let l := saved .preempting
     let s := saver l { stride := 16, pstate := 1 }
     ((s.port 0).launches.find? fun l => l.state == .preempting) = some l ∧ s.launch? 0 1 = some l ∧ s.teams.all s.quiet = true ∧ l.flushUpto = [] ∧
     s.launchCores l = [0] ∧ (s.port 0).preemptCheck = false ∧ l.imaging = none) ∧
    (let l := { saved .preempting with flushUpto := [(0, 0)] }
     let s := saver l { stride := 0, pstate := 1 }
     s.launch? 0 1 = some l ∧ (s.core 0).paths = [] ∧ s.saveFlushed l = true ∧ s.imagesCheck l = some 3) ∧
    (let l := saved .preempting
     let s := { saver l { stride := 16, pstate := 1 } with teams := [] }
     s.launchCores l = [] ∧ s.saveFlushed l = true ∧ s.imagesCheck l = some 2 ∧ s.residents { l with imaging := some 3 } = []) := by decide +kernel
/-- A launch whose images are being written, and the machine whose team has written `n` lines of its image. -/
def imagingLaunch : Launch := { saved .preempting with imaging := some 3 }
def imager (n : Option Nat) : State := { saver imagingLaunch { stride := 16, pstate := 1 } with teams := [{ aTeam with imageAt := n }] }
theorem test_image_clauses : (imager none).launch? 0 1 = some imagingLaunch ∧
    ((imager none).imageStep { aTeam with imageAt := none } [] 0 []).isSome = true ∧ ((imager (some 0)).imageStep { aTeam with imageAt := some 0 } [] 0 []).isSome = true ∧
    ((imager (some 512)).imageStep { aTeam with imageAt := some 512 } [] 0 []) = none ∧ (imager (some 512)).imageDone { aTeam with imageAt := some 512 } [] = true ∧
    (imager (some 512)).team? 0 = some { aTeam with imageAt := some 512 } := by decide +kernel
theorem test_resume_clauses : let l := { saved .preempted with toPlace := [0] }
    let s := saver l { preemptSeq := 1, pstate := 2 }
    s.launch? 0 1 = some l ∧ (s.port 0).preemptSeq.toNat = 1 ∧ l.toPlace ≠ [] ∧ s.launch? 0 2 = none := by decide +kernel
/-- A launch with one lap between vintages, at whose first lap its one-group team stands. -/
def lapLaunch : Launch := { saved .running with record := [0x10001, 0, 0x10001, 0x110001, 0, 0, 0, 0x10000] }
def lapTeam : Team := { aTeam with laps := [(1, 32)] }
theorem test_vintage_clauses : let s : State := { saver lapLaunch { vintOn := true, vintBase := 0x900000000 } with teams := [lapTeam] }
    s.launch? 0 1 = some lapLaunch ∧ (s.gang 0 1 0).length = lapLaunch.clusterSize ∧ s.teamAtLap lapTeam = true ∧ s.quiet lapTeam = true ∧
    SMap.get? lapLaunch.vintaging 0 = none ∧ s.childless [lapTeam] = true ∧ s.vintagePages 0 0 [lapTeam] = some false ∧
    (({ s with ports := [(0, { vintOn := true, vintBase := 0x30000, root := 0x8000000000100000, launches := [lapLaunch] })] } : State).vintagePages 0 0 [lapTeam]) = some true ∧
    ({ s with teams := [lapTeam, { aTeam with id := 1, parent := some { team := 0, group := 0 } }] } : State).childless [lapTeam] = false := by decide +kernel
theorem test_vintage_going : let l : Launch := { lapLaunch with vintaging := [(0, (3, 1))] }
    let s : State := { saver l { vintOn := true, vintBase := 0x30000 } with teams := [{ lapTeam with imageAt := some 512 }] }
    (s.gang 0 1 0).length = l.clusterSize ∧ s.launch? 0 1 = some l ∧ SMap.get? l.vintaging 0 = some (3, 1) ∧
    s.imageStep { lapTeam with imageAt := some 512 } [] 0 [] = none ∧ s.imageDone { lapTeam with imageAt := some 512 } [] = true ∧
    ((s.imageStep { lapTeam with imageAt := none } [] 0 []).isSome = true) := by decide +kernel

/-! ### Messages -/

/-- The machine with one message in flight, a core 0 and a die 0. -/
def wired (k : MsgKind) (m : Msg) (c : Core) (h : Hub) : State :=
  { aState with actor := .idle, wires := [Wire.mk k m], cores := [(0, c)], dies := { state := 2, counter := 1, home := h } :: List.replicate 23 { state := 2, counter := 1 } }
/-- A message from the L1 of core 0 to the home on die 0 about word 3 of line 2, and one back. -/
def toHome : Msg := { src := .l1 0, dst := .home 0, line := 2, mask := 8, dirty := 8, data := [(3, 7)] }
def toL1 : Msg := { src := .home 0, dst := .l1 0, line := 2, mask := 8, excl := 8, data := [(3, 7)] }
theorem alone_wired (k : MsgKind) (m : Msg) (c : Core) (h : Hub) (hr : ((wired k m c h).routeOf m).isSome = true := by decide +kernel)
    (ho : h.outq = [] := by rfl) : Alone (wired k m c h) k m 0 :=
  ⟨rfl, by intro x hx; simp only [wired, List.mem_cons, List.mem_replicate] at hx; rcases hx with rfl | ⟨_, rfl⟩ <;> exact (by decide : (2 : Nat) ≠ 3), rfl, by decide,
    hr, by intro x hx; simp only [wired, List.mem_cons, List.mem_replicate] at hx; rcases hx with rfl | ⟨_, rfl⟩ <;> first | exact ⟨ho, rfl⟩ | exact ⟨rfl, rfl⟩⟩
theorem test_request_clauses : Alone (wired .rds toHome {} {}) .rds toHome 0 ∧ HomeFree (wired .rds toHome {} {}) 0 ∧ dieOf 0 = 0 ∧
    homeOf (toHome.line * 128) = .home 0 := ⟨alone_wired _ _ _ _, ⟨rfl, rfl, by decide⟩, by decide +kernel⟩
theorem test_atomic_request : let m : Msg := { toHome with src := .core 0, mask := bitOf 3, args := [5] }
    Alone (wired .atomReq m {} {}) .atomReq m 0 ∧ HomeFree (wired .atomReq m {} {}) 0 ∧ regionOf (4 * (m.line * 32 + 3)) = 0 ∧
    (wired .atomReq m {} {}).isDead (homeOf (4 * (m.line * 32 + 3))) = false ∧ (wired .atomReq m {} {}).isPoisoned (m.line * 32 + 3) = false :=
  ⟨alone_wired _ _ _ _, ⟨rfl, rfl, by decide⟩, by decide +kernel⟩
/-- A transaction of the home that waits for an answer from `n` about word 3, and its hub. -/
def waits (n : Node) : Txn := { req := .rdOwn, msg := { src := .l1 0, dst := .home 0, line := 2, mask := bitOf 3 }, waits := [(n, bitOf 3)] }
def waiting (n : Node) : Hub := { txns := [waits n] }
theorem test_answer_clauses : let m : Msg := { toHome with src := .l1 1, mask := bitOf 3, dirty := bitOf 3 }
    let q : Msg := { toHome with src := .rdc 1, dirty := 0, data := [] }
    Alone (wired .snpData m {} (waiting (.l1 1))) .snpData m 0 ∧ ((wired .snpData m {} (waiting (.l1 1))).die 0).home.txns = [waits (.l1 1)] ∧
    Alone (wired .snpAck q {} (waiting (.rdc 1))) .snpAck q 0 ∧ ((wired .snpAck q {} (waiting (.rdc 1))).die 0).home.txns = [waits (.rdc 1)] ∧
    (((wired .snpAck q {} (waiting (.rdc 1))).die 1).rdcHub.waitq = []) ∧ ((wired .snpAck q {} (waiting (.rdc 1))).homeWord (q.line * 32 + 3)).2 = false ∧
    homeOf (m.line * 128) = .home 0 :=
  ⟨alone_wired _ _ _ _, rfl, alone_wired _ _ _ _, rfl, rfl, by decide +kernel⟩
theorem test_clean_clauses : let h : Hub := { dir := [(2, { owner := [(3, .l1 0)], sharers := [(4, [.l1 0, .l1 1])] })] }
    Alone (wired .cleanEv toHome {} h) .cleanEv toHome 0 ∧ (((wired .cleanEv toHome {} h).die 0).home.entry 2).owner.sorted = true ∧
    (((wired .cleanEv toHome {} h).die 0).home.entry 2).sharers.sorted = true ∧ Alone (wired .wbReq toHome {} h) .wbReq toHome 0 ∧
    HomeFree (wired .wbReq toHome {} h) 0 ∧ Alone (wired .wbData toHome {} h) .wbData toHome 0 ∧ toHome.data = [(3, 7)] :=
  ⟨alone_wired _ _ _ _, rfl, rfl, alone_wired _ _ _ _, ⟨rfl, rfl, by decide⟩, alone_wired _ _ _ _, rfl⟩
/-- A core whose L1 holds line 2, word 3 as given. -/
def holds (x : WordCell) : Core := { l1 := [(2, { ws := [(3, x)] })] }
theorem holds_line (k : MsgKind) (m : Msg) (x : WordCell) (h : m.line = 2) : L1Holds (wired k m (holds x) {}) 0 m.line :=
  ⟨by rw [h]; rfl, by intro l hl; exact ⟨0, by have : l = (2, { ws := [(3, x)] }) := List.mem_singleton.mp hl; subst this; exact (by decide +kernel : homeOf (2 * 128) = .home 0)⟩, rfl, rfl,
    by intro l hl; have : l = (2, { ws := [(3, x)] }) := List.mem_singleton.mp hl; subst this; rfl⟩
theorem test_grant_clauses : Alone (wired .gnt toL1 (holds {}) {}) .gnt toL1 0 ∧ L1Holds (wired .gnt toL1 (holds {}) {}) 0 toL1.line ∧
    (toL1.data.find? fun y => y.1 == 3) = some (3, 7) ∧ (((wired .gnt toL1 (holds {}) {}).core 0).cell 2 3).st = .i ∧
    (((wired .gnt toL1 (holds {}) {}).core 0).cell 2 3).pendMask = 0 :=
  ⟨alone_wired _ _ _ _, holds_line _ _ _ rfl, by decide +kernel⟩
theorem test_snoop_clauses : let m : Msg := { toL1 with mask := bitOf 3, data := [] }
    let g := fun (x : WordCell) => ((wired .snpFwd m (holds x) {}).core 0).cell 2 3
    Alone (wired .snpFwd m (holds {}) {}) .snpFwd m 0 ∧ (g { st := .m, tracked := true }).suppliable = true ∧ (g { st := .m, tracked := true }).tracked = true ∧
    (g { st := .s, tracked := true }).st = .s ∧ (g { tracked := true }).st = .i ∧ (g { st := .m, tracked := true, unset := 1 }).suppliable = false ∧
    (((wired .snpFwd m (holds {}) {}).core 0).l1.line? 2).isSome = true :=
  ⟨alone_wired _ _ _ _, by decide +kernel⟩
theorem test_victim_clauses : let c : Core := { victim := [(2, { ws := [(3, { st := .m, val := 7, tracked := true })] })] }
    Alone (wired .wbGnt toL1 c {}) .wbGnt toL1 0 ∧ ((wired .wbGnt toL1 c {}).core 0).l1 = [] ∧ toL1.mask ≠ 0 := ⟨alone_wired _ _ _ _, rfl, by decide⟩
theorem test_completion_clauses : let m : Msg := { toL1 with dst := .core 0 }
    Alone (wired .cmp m {} {}) .cmp m 0 ∧ Alone (wired .markAck m {} {}) .markAck m 0 ∧ (wired .cmp m {} {}).team? 0 = some aTeam :=
  ⟨alone_wired _ _ _ _, alone_wired _ _ _ _, rfl⟩
theorem test_mirror_clauses : let m : Msg := { toHome with dst := .mirror 0 }
    let a : Msg := { toL1 with src := .mirror 0 }
    Alone (wired .mir m {} {}) .mir m 0 ∧ (wired .mir m {} {}).slices = [] ∧ ((wired .mir m {} {}).die 0).mirror.length < Config.mirrorEntries ∧
    Alone (wired .mirAck a (holds {}) {}) .mirAck a 0 ∧ L1Holds (wired .mirAck a (holds {}) {}) 0 a.line ∧ Alone (wired .mirClr m {} {}) .mirClr m 0 :=
  ⟨alone_wired _ _ _ _, rfl, by decide +kernel, alone_wired _ _ _ _, holds_line _ _ _ rfl, alone_wired _ _ _ _⟩
theorem test_mark_clauses : let m : Msg := { src := .core 0, dst := .ioHome 1, line := 0, mask := 0, tag := 4 }
    Alone (wired .mark m {} {}) .mark m 0 ∧ (wired .mark m {} {}).postedLeft 0 (.ioHome 1) = false ∧
    (wired .mark m { l1 := [(2 ^ 42, { ws := [(0, { st := .m, tracked := true })] })] } {}).postedLeft 0 (.ioHome 1) = true := ⟨alone_wired _ _ _ _, by decide +kernel⟩

/-! ### The messages of a die's death, data sent past the home, and messages without a route -/

theorem test_other_requesters : let a : Msg := { toHome with src := .app 0 }
    let r : Msg := { toHome with src := .rdc 1 }
    Alone (wired .rds a {} {}) .rds a 0 ∧ Alone (wired .rdOwn r {} {}) .rdOwn r 0 ∧ ((wired .rdOwn r {} {}).die 1).rdcHub.waitq = [] ∧
    (wired .rdOwn r {} {}).filterRoom (.home 0) r = true := ⟨alone_wired _ _ _ _, alone_wired _ _ _ _, rfl, by decide +kernel⟩
theorem test_owner_has_sent : let m : Msg := { toHome with src := .l1 1, mask := bitOf 3, dirty := 0, data := [], excl := bitOf 3, asked := bitOf 3 }
    Alone (wired .snpAck m {} (waiting (.l1 1))) .snpAck m 0 ∧ m.asked = bitOf 3 ∧ m.reader = none ∧ m.poison = 0 := ⟨alone_wired _ _ _ _, rfl, rfl, rfl⟩
/-- Data of word 3 that its owner, the L1 of core 1, sends to the L1 of core 0. -/
def sentData : Msg := { toL1 with src := .l1 1, reader := some (.l1 0), mask := bitOf 3, excl := 0, dirty := bitOf 3 }
theorem test_sent_data : Alone (wired .snpData sentData {} {}) .snpData sentData 0 ∧ ((wired .snpData sentData {} {}).hub (.l1 1)).waitq = [] ∧
    ((wired .snpData sentData {} {}).hub (.l1 1)).outq = [] ∧ (wired .snpData sentData {} {}).isDead (homeOf (2 * 128)) = false :=
  ⟨alone_wired _ _ _ _, by decide +kernel, by decide +kernel, by decide +kernel⟩
theorem test_grant_of_sent : let m : Msg := { toL1 with asked := bitOf 3, data := [] }
    let s : State := { wired .gnt m (holds {}) {} with early := [sentData] }
    Alone s .gnt m 0 ∧ L1Holds s 0 m.line ∧ sentData.dst = m.dst ∧ sentData.line = m.line ∧ sentData.data = [(3, 7)] ∧ m.asked.getLsbD 3 = true ∧
    ((s.core 0).cell 2 3).loose = false := by
  exact ⟨⟨rfl, by decide +kernel, by decide +kernel, by decide, by decide +kernel, by decide +kernel⟩,
    ⟨rfl, by intro l hl; exact ⟨0, by have : l = (2, { ws := [(3, {})] }) := List.mem_singleton.mp hl; subst this; exact (by decide +kernel : homeOf (2 * 128) = .home 0)⟩, rfl, rfl,
      by intro l hl; have : l = (2, { ws := [(3, {})] }) := List.mem_singleton.mp hl; subst this; rfl⟩, rfl, rfl, rfl, by decide, by decide +kernel⟩
theorem test_sent_to_reader : let m : Msg := { toL1 with mask := bitOf 3, data := [], reader := some (.l1 1) }
    Alone (wired .snpOwn m (holds { st := .e, tracked := true }) {}) .snpOwn m 0 ∧
    (((wired .snpOwn m (holds { st := .e, tracked := true }) {}).core 0).cell 2 3).suppliable = true := ⟨alone_wired _ _ _ _, by decide +kernel⟩
theorem test_mirror_told : let m : Msg := { toHome with dst := .mirror 0 }
    let s : State := { wired .mir m {} {} with dies := { state := 2, counter := 1, told := [0] } :: List.replicate 23 { state := 2, counter := 1 } }
    Alone s .mir m 0 ∧ dieOf 0 ∈ (s.die 0).told :=
  ⟨⟨rfl, by decide +kernel, by decide +kernel, by decide, by decide +kernel, by decide +kernel⟩, by decide +kernel⟩
/-- Die 4 is dead, die 5 holds its slice, and die 0's home has its RDC as the owner of word 3 of line 2, which is mirrored on die 5. -/
def orphaned (k : MsgKind) (m : Msg) : State :=
  { aState with
    dies := [{ state := 2, home := { dir := [(2, { owner := [(3, .rdc 4)] })] } }] ++ List.replicate 3 { state := 2 } ++
      [{ state := 3 }, { state := 2, mirror := [(4, 2, [(3, 7, false)])] }] ++ List.replicate 18 { state := 2 }
    slices := [(4, 5, [])], actor := .idle, wires := [Wire.mk k m] }
theorem test_death_messages :
    (let m : Msg := { src := .ioHome 0, dst := .home 7, line := 0, mask := 0, tag := 4 }
     Arrives (orphaned .dieDown m) .dieDown m ∧ 7 < Config.numDies ∧ ∃ x, x ∈ (orphaned .dieDown m).slices ∧ x.1 = 4 ∧ 7 ∉ x.2.2 ∧
       (orphaned .dieDown m).isDead (.home x.2.1) = false) ∧
    (let m : Msg := { src := .home 7, dst := .home 5, line := 0, mask := 0, tag := 4 }
     Arrives (orphaned .rbReport m) .rbReport { m with tag := 4 } ∧ ∃ x, x ∈ (orphaned .rbReport m).slices ∧ x.1 = 4 ∧ x.2.1 = 5) ∧
    (let m : Msg := { src := .rdc 5, dst := .home 0, line := 2, mask := bitOf 3, tag := 4 }
     let s := orphaned .takeReq m
     Arrives s .takeReq m ∧ 5 = buddyOf 4 ∧ homeOf (2 * 128) = .home 0 ∧
       (s.die 5).mirror.filter (fun e => e.1 == 4 && e.2.1 == 2) = [(4, 2, [(3, 7, false)])] ∧ ((s.die 0).home.entry 2).ownerOf 3 = some (.rdc 4)) :=
  ⟨⟨⟨by decide +kernel, .inr (by decide +kernel)⟩, by decide, _, List.mem_singleton.mpr rfl, rfl, by decide, by decide +kernel⟩,
    ⟨⟨by decide +kernel, .inr (by decide +kernel)⟩, _, List.mem_singleton.mpr rfl, rfl, rfl⟩,
    ⟨⟨by decide +kernel, .inr (by decide +kernel)⟩, by decide +kernel⟩⟩
theorem test_no_route : let m : Msg := { src := .l1 0, dst := .home 1, line := 2, mask := 8 }
    let s : State := { wired .rds m {} {} with links := (List.range 4).map fun e => (e, { rate := 3 }) }
    s.isDead m.src = false ∧ s.routeOf m = none := by decide +kernel

/-! ### Links, dies, outside parties and the platform -/

/-- The machine with another die 4. -/
def withDie (d : Die) : State := { aState with dies := aState.dies.set 4 d, actor := .idle }
theorem test_link_clauses : (aState.link 5).rate ≠ 3 ∧ (aState.link 5).rate < 2 ∧ (3 : Nat) < 24 ∧
    (let s := { aState with links := [(16, { rate := 2 }), (17, { rate := 3 }), (18, { rate := 3 }), (19, { rate := 3 })] }
     16 / 4 = 4 ∧ (s.link 16).rate = 2 ∧ (∀ e, e < 4 → 4 * 4 + e ≠ 16 → (s.link (4 * 4 + e)).rate = 3) ∧ (s.die 4).state ≠ 3) ∧
    (let s := { aState with links := [(16, { rate := 2 })] }
     (s.link 16).rate < 3 ∧ ∃ e, e < 4 ∧ 16 / 4 * 4 + e ≠ 16 ∧ (s.link (16 / 4 * 4 + e)).rate ≠ 3) := by
  refine ⟨by decide +kernel, by decide +kernel, by decide, by decide +kernel, by decide +kernel, 1, by decide, by decide, by decide +kernel⟩
/-- The machine in which the home on die 0 waits for a snoop of a unit. -/
def unanswered (n : Node) : State := wired .mark { src := .core 0, dst := .core 1, line := 0, mask := 0 } {} (waiting n)
theorem test_timeout_clauses : (unanswered (.rdc 4)).alive 4 = true ∧ (unanswered (.rdc 4)).dies.length = Config.numDies ∧ (unanswered (.rdc 4)).lostPkgs = [] ∧
    (∃ x t w, x ∈ (unanswered (.rdc 4)).dies ∧ t ∈ x.home.txns ∧ t.req ≠ .wb ∧ w ∈ t.waits ∧ onDie 4 w.1 = true) ∧
    ∃ x t w, x ∈ (unanswered (.pkg 9)).dies ∧ t ∈ x.home.txns ∧ t.req ≠ .wb ∧ w ∈ t.waits ∧ w.1 = Node.pkg 9 :=
  ⟨by decide +kernel, by decide +kernel, rfl, ⟨_, waits (.rdc 4), (.rdc 4, bitOf 3), List.mem_cons_self, List.mem_singleton.mpr rfl, by decide, List.mem_singleton.mpr rfl, rfl⟩,
    ⟨_, waits (.pkg 9), (.pkg 9, bitOf 3), List.mem_cons_self, List.mem_singleton.mpr rfl, by decide, List.mem_singleton.mpr rfl, rfl⟩⟩
theorem test_hot_clauses : (withDie { state := 2, tempC := 126 }).alive 4 = true ∧ 125 < ((withDie { state := 2, tempC := 126 }).die 4).tempC := by decide +kernel
/-- Die 4 is dead, as its slice's report says, and the home on die 0 has its RDC as the owner of word 3 of line 2. -/
def lost (reported : List Nat) (m : List (Nat × Nat × SMap (Word × Bool))) : State :=
  { aState with dies := [{ state := 2, home := { dir := [(2, { owner := [(3, .rdc 4)] })] } }] ++ List.replicate 3 { state := 2 } ++ [{ state := 3 }, { state := 2, mirror := m }]
      ++ List.replicate 18 { state := 2 }, slices := [(4, 5, reported)], actor := .idle }
theorem test_dead_clauses : ((lost [] []).die 4).state = 3 ∧ (lost [] []).dies.length = Config.numDies ∧ (lost [] []).alive 7 = true ∧
    (lost [] []).alive (buddyOf 4) = true ∧ (∃ x, x ∈ (lost [] []).slices ∧ x.1 = 4 ∧ 7 ∉ x.2.2) ∧
    (∀ x, x ∈ ({ lost [] [] with slices := [] } : State).slices → x.1 ≠ 4) :=
  ⟨by decide +kernel, by decide +kernel, by decide +kernel, by decide +kernel, ⟨_, List.mem_singleton.mpr rfl, by decide, by decide⟩,
    fun x h => absurd h (List.not_mem_nil)⟩
/-- Every living die has reported. -/
theorem all_reported (m : List (Nat × Nat × SMap (Word × Bool))) : ∀ r, (lost (List.range 24) m).alive r = true → r ∈ List.range 24 := by
  intro r h
  by_cases hr : r < 24
  · exact List.mem_range.mpr hr
  · exfalso
    have e : (lost (List.range 24) m).die r = {} := by
      rw [State.die, List.getD_eq_getElem?_getD, List.getElem?_eq_none (by show 24 ≤ r; omega)]; rfl
    rw [State.alive, e] at h
    exact absurd h (by decide)
theorem test_takeover_clauses : let m : List (Nat × Nat × SMap (Word × Bool)) := [(4, 2, [(3, 7, false)])]
    let s := lost (List.range 24) m
    (∃ x, x ∈ s.slices ∧ x.1 = 4 ∧ ∀ r, s.alive r = true → r ∈ x.2.2) ∧ s.alive 5 = true ∧ ((s.die 5).mirror.find? fun e => e.1 == 4) = some (4, 2, [(3, 7, false)]) ∧
    homeOf (2 * 128) = .home 0 ∧ s.alive 0 = true ∧ ((s.die 0).home.entry 2).ownerOf 3 = some (.rdc 4) ∧ (s.die 0).home.txns = [] :=
  ⟨⟨_, List.mem_singleton.mpr rfl, rfl, all_reported _⟩, by decide +kernel⟩
theorem test_rebuild_clauses : let s := lost (List.range 24) []
    (∃ x, x ∈ s.slices ∧ x.1 = 4 ∧ ∀ r, s.alive r = true → r ∈ x.2.2) ∧ (s.die 4).rebuilt = false ∧ (s.die 5).mirror = [] ∧ s.wires = [] ∧
    (∀ x, x ∈ s.dies → x.home.txns = [] ∧ x.home.waitq = [] ∧ x.rdcHub.txns = [] ∧ x.rdcHub.waitq = []) ∧
    (∀ x, x ∈ s.ios → x.hub.txns = [] ∧ x.hub.waitq = []) ∧ (∀ x, x ∈ s.cores → x.2.unowned = [] ∧ x.2.heldSnoops = []) :=
  ⟨⟨_, List.mem_singleton.mpr rfl, rfl, all_reported _⟩, by decide +kernel⟩

/-- The machine whose I/O dies serve outside parties. -/
def serving : State := { cachedState with actor := .idle, mgmt := { released := true, verified := true, running := [(0, 0), (1, 0), (2, 0)] } }
theorem test_application_clauses : serving.serves = true ∧ serving.waiting = [] ∧ serving.reserved 0x2000 4 = false ∧ serving.reserved (5 * 2 ^ 48) 4 = true ∧
    serving.latest none (0x2000 / 4) = some (0, false) ∧ serving.inTransition 0x2000 = false ∧ serving.wordQuiet (0x2000 / 4) = true ∧ regionOf 0x2000 = 0 ∧
    serving.isDead (homeOf 0x2000) = false ∧ serving.mem.wf = true ∧ isDevice (7 * 2 ^ 48) = true ∧ serving.reserved (7 * 2 ^ 48) 4 = false := by decide +kernel
/-- The same where the home of line 64 has registered a party as a holder of its word 0. -/
def registers (n : Node) : State :=
  { serving with dies := { state := 2, counter := 1, home := { dir := [(64, { sharers := [(0, [n])] })] } } :: List.replicate 23 { state := 2, counter := 1 } }
theorem test_registered_clauses : (registers (.app 0)).registered (.app 0) 2048 = true ∧ (registers (.app 0)).latest none 2048 = some (0, false) ∧
    serving.registered (.app 0) 2048 = false ∧ serving.asked (.app 0) 64 0 false = false ∧ serving.stalledAt (.app 0) = false ∧
    (registers (.ioHome 1)).registered (.ioHome 1) 2048 = true ∧ (registers (.ioHome 1)).latest none 2048 = some (0, false) ∧
    serving.registered (.ioHome 1) 2048 = false ∧ serving.asked (.ioHome 1) 64 0 false = false ∧ serving.wordQuiet 2048 (some (.ioHome 1)) = true ∧
    ({ serving with ports := [(0, { stalled := [(0x200, .app 0)] })] } : State).stalledAt (.app 0) = true ∧
    SMap.get? ({ serving with appLr := [(0, (0x2000, 4))] } : State).appLr 0 = some (0x2000, 4) ∧ SMap.get? serving.appLr 0 = none ∧
    ({ serving with poison := [2048] } : State).latest none 2048 = some (0, true) := by decide +kernel
theorem test_lines_sorted : serving.linesSorted := by
  intro x hx
  have : x = (0, serving.core 0) := by simpa [serving, cachedState, State.core, SMap.getD, SMap.get?] using hx
  subst this
  decide +kernel
theorem test_host_clauses : serving.hdm.1 ≤ 0x2000 ∧ 0x2000 + 4 ≤ serving.hdm.1 + serving.hdm.2 ∧ homeOf 0x2000 = .home 0 ∧ serving.dies.length = Config.numDies ∧
    serving.lineSettled (0x2000 / 4 / 32) = true ∧ ({ serving with waiting := [.snpCur 0 1] } : State).waiting ≠ [] := by decide +kernel
theorem test_back_clauses : let s := unanswered (.ioHome 1)
    (∀ x, x ∈ s.dies → x.state ≠ 3) ∧ ((s.die 0).home.entry 2).sharers.sorted = true ∧ (s.die 0).home.txns = [waits (.ioHome 1)] ∧ s.mem.wf = true ∧
    (s.homeWord (2 * 32 + 3)).2 = false ∧ (∀ x, x ∈ s.wires → x.msg.line ≠ 2) :=
  ⟨by decide +kernel, rfl, rfl, rfl, by decide +kernel, by decide +kernel⟩
/-- The machine in which I/O die 1 holds the host line at the bottom of region 2, or has asked for it. -/
def hostHeld (st : WState) : State :=
  { serving with ios := [{}, { lines := [(2 ^ 42, { st := st })], d2h := [(2 ^ 42, .rdOwn), (2 ^ 42, .dirtyEvict)] }, {}, {}] }
theorem test_host_line_clauses : hostLine 1 (2 ^ 42) = true ∧ (hostHeld .e).ios.length = 4 ∧ ((hostHeld .i).ioLine 1 (2 ^ 42)).st = .i ∧
    ((hostHeld .e).ioLine 1 (2 ^ 42)).st ≠ .i ∧ (∀ w, w < 32 → ((hostHeld .e).latest none (2 ^ 42 * 32 + w)).isSome = true) ∧
    (hostHeld .e).lineSettled (2 ^ 42) = true ∧ ((hostHeld .e).ios.getD 1 {}).lines.sorted = true ∧
    (2 ^ 42, D2H.rdOwn) ∈ ((hostHeld .i).ios.getD 1 {}).d2h ∧ (2 ^ 42, D2H.dirtyEvict) ∈ ((hostHeld .e).ios.getD 1 {}).d2h ∧
    grantedState .dirtyEvict = none ∧ grantedState .rdOwn = some .e ∧ ((hostHeld .i).ios.getD 1 {}).hub.txns = [] := by decide +kernel

theorem test_platform_clauses : State.reset.mgmt.released = false ∧ ({ released := true } : Mgmt).verified = false ∧ State.reset.dies.length = Config.numDies ∧
    (let s := { serving with dies := State.reset.dies }
     (s.die 4).state = 0 ∧ s.serves = true ∧ (SMap.get? s.mgmt.running 1).isSome = true) ∧
    (let s := withDie { state := 1 }
     (s.die 4).state = 1 ∧ (s.die 4).transition = none) ∧ 0 ∈ aState.dieCores 0 ∧ aState.atBoundary 0 = true ∧ (aState.core 0).stop = none ∧
    ({ aState with teams := [{ aTeam with groups := [{ aGroup with conv := some { ms := [0] } }] }] } : State).atBoundary 0 = false ∧
    (let s := withDie { state := 1, counter := 1600, transition := some 10 }
     (s.die 4).transition = some 10) ∧
    (withDie { selfFailed := true }).dies.length = Config.numDies ∧ ((withDie { selfFailed := true }).die 4).selfFailed = true := by decide +kernel
/-- The machine with a core of die 4 that has stopped. -/
def stopped : State := { withDie { state := 1, counter := 1600, transition := some 10 } with cores := [(192, { stop := some 20 })] }
theorem test_stopped_clauses : 192 ∈ stopped.dieCores 4 ∧ ∀ c, c ∈ stopped.dieCores 4 → (stopped.core c).buffer = [] ∧ ∃ t, (stopped.core c).stop = some t ∧ t + 1536 ≤ (stopped.die 4).counter := by
  refine ⟨by decide +kernel, fun c h => ?_⟩
  have : c = 192 := by revert h; revert c; decide +kernel
  subst this
  exact ⟨by decide +kernel, 20, by decide +kernel, by decide +kernel⟩
theorem test_alarm_clauses : (State.reset.mgmt.released && State.reset.mgmt.ttEnable.getLsbD (sensorBit .clock)) = false ∧
    (serving.mgmt.released && serving.mgmt.ttEnable.getLsbD (sensorBit .clock)) = true ∧ serving.mgmt.ttPolicy = 0 ∧
    ({ serving.mgmt with ttPolicy := 1 } : Mgmt).ttPolicy = 1 ∧ serving.mgmt.ttLock = false ∧
    (serving.launch? 0 1).map (fun l => (serving.residents l).length) = some 1 := by decide +kernel
/-- A message of the party that has opened the session. -/
def aMessage (code : BitVec 16) (body : List Byte) : Mlad := { ip := 1, port := 2, code := code, length := BitVec.ofNat 16 (8 + body.length), seq := 3, body := body }
def inSession : Mgmt := { released := true, verified := true, session := some (1, 2), challenge := some 7 }
theorem test_message_clauses : inSession.released = true ∧ inSession.verified = true ∧
    (let m := aMessage 2 (leBytes 8 (7 * 2 ^ 48))
     m.code.toNat = 2 ∧ m.length.toNat = 8 + m.body.length ∧ inSession.session = some (m.ip, m.port) ∧
     ({ inSession with session := none } : Mgmt).session ≠ some (m.ip, m.port) ∧ ¬ ({ m with length := 7 } : Mlad).length.toNat = 8 + m.body.length) ∧
    (let m := aMessage 7 (List.replicate 48 0); m.length.toNat = 8 + m.body.length ∧ m.body.length = 48) ∧
    (aMessage 6 [1]).length.toNat = 9 ∧ inSession.erased = false ∧ isDevice (7 * 2 ^ 48) = true ∧ 7 * 2 ^ 48 % 8 = 0 ∧ 7 * 2 ^ 48 < 2 ^ 64 ∧
    inSession.challenge.isSome = true ∧ proves [] 7 = false := by decide +kernel
/-- SHA-384 of three bytes, as FIPS 180-4's example gives it. -/
theorem test_sha384 : sha384 [0x61, 0x62, 0x63] =
    beBytes 48 0xCB00753F45A35E8BB5A03D699AC65007272C32AB0EDED1631A8B605A43FF5BED8086072BA1E7CC2358BAECA134C825A7 := by decide +kernel
/-- R55, R107, R267: a BF16 NaN enters the Press as the FP32 default NaN. -/
theorem test_press_nan : streamElem 1 [0x81, 0x7F] = 0x7FC00000 ∧ streamElem 1 [0x80, 0x3F] = 0x3F800000 := by decide +kernel

/-! ### Words written out from the formats of R31, R37 and R38, by the maps of R39 to R41 -/

/-- LR: vd, va, vb, minor. -/
def lr (m d a b : BitVec 7) (n : BitVec 4) : Word := m ++ d ++ a ++ b ++ n
/-- LI: vd, va, imm11. -/
def li (m d a : BitVec 7) (i : BitVec 11) : Word := m ++ d ++ a ++ i
/-- LM and LP: vt, va, look, scope or width, order, minor. -/
def lm (m t a : BitVec 7) (l : BitVec 4) (s : BitVec 3) (o n : BitVec 2) : Word := m ++ t ++ a ++ l ++ s ++ o ++ n
/-- LS: vd, va, look, minor. -/
def ls (m d a : BitVec 7) (l : BitVec 4) (n : BitVec 7) : Word := m ++ d ++ a ++ l ++ n
/-- LB and LBC. -/
def lb (m : BitVec 7) (o : BitVec 25) : Word := m ++ o
def lbc (m : BitVec 7) (p : BitVec 3) (v : BitVec 1) (o : BitVec 21) : Word := m ++ p ++ v ++ o
/-- KR, KI, KM and KB: bit 31 is 1, the major in six bits. -/
def kr (m d a b : BitVec 6) (n : BitVec 7) : Word := 1#1 ++ m ++ d ++ a ++ b ++ n
def ki (m d a : BitVec 6) (i : BitVec 13) : Word := 1#1 ++ m ++ d ++ a ++ i
def km (m t a : BitVec 6) (l : BitVec 4) (s : BitVec 3) (o : BitVec 2) (n : BitVec 4) : Word := 1#1 ++ m ++ t ++ a ++ l ++ s ++ o ++ n
def kb (m a b : BitVec 6) (c : BitVec 3) (o : BitVec 10) : Word := 1#1 ++ m ++ a ++ b ++ c ++ o
/-- TT: acc, m, reuse, slot, barrier or operand, minor. -/
def tt (m : BitVec 6) (a : BitVec 4) (r : BitVec 3) (u : BitVec 1) (s : BitVec 8) (b : BitVec 4) (n : BitVec 5) : Word := 1#1 ++ m ++ a ++ r ++ u ++ s ++ b ++ n

theorem test_words_of_registers :
    decodeWords [lr 0x00 9 0 0x10 5] = .ok (.smovSr 9 0x10, []) ∧ decodeWords [lr 0x01 7 2 3 3] = .ok (.iaddSatN32 7 2 3, []) ∧
    decodeWords [lr 0x02 8 2 4 2] = .ok (.imulWideI32 8 2 4, []) ∧ decodeWords [lr 0x03 8 2 3 4] = .ok (.isad4N8 8 2 3, []) ∧
    decodeWords [lr 0x04 8 2 3 7] = .ok (.xorB32 8 2 3, []) ∧ decodeWords [lr 0x05 8 2 3 0] = .ok (.bfeN32 8 2 3, []) ∧
    decodeWords [lr 0x06 3 1 2 2] = .ok (.icmpLtI32 3 1 2, []) ∧ decodeWords [lr 0x07 8 2 3 5] = .ok (.selB32 8 2 3 5, []) ∧
    decodeWords [lr 0x11 5 3 4 0] = .ok (.faddF32 .rz 5 3 4, []) ∧ decodeWords [lr 0x14 10 2 3 12] = .ok (.fmaF32 10 2 3 .ru, []) ∧
    decodeWords [lr 0x15 6 7 8 3] = .ok (.fmaxnumF32 6 7 8, []) ∧ decodeWords [lr 0x16 2 1 9 7] = .ok (.fcmpUnoF32 2 1 9, []) ∧
    decodeWords [lr 0x17 7 8 9 2] = .ok (.fmaBf16x2Rn 7 8 9, []) ∧ decodeWords [lr 0x18 4 12 0 4] = .ok (.cvtI32F32Rd 4 12, []) ∧
    decodeWords [lr 0x19 3 1 2 1] = .ok (.cvtE4m3x2F32RnSat 3 1 2, []) ∧ decodeWords [lr 0x1B 6 4 5 2] = .ok (.shflWrap 6 4 5, []) :=
  ⟨rfl, rfl, rfl, rfl, rfl, rfl, rfl, rfl, rfl, rfl, rfl, rfl, rfl, rfl, rfl, rfl⟩
theorem test_words_of_immediates :
    decodeWords [li 0x08 4 5 0x7FF] = .ok (.iaddi 4 5 0x7FF, []) ∧ decodeWords [li 0x09 4 5 6] = .ok (.andi 4 5 6, []) ∧
    decodeWords [li 0x0A 4 5 6] = .ok (.ori 4 5 6, []) ∧ decodeWords [li 0x0B 4 5 6] = .ok (.xori 4 5 6, []) ∧
    decodeWords [li 0x0C 4 4 0x47] = .ok (.shriI32 4 4 7, []) ∧ decodeWords [li 0x0D 4 0 6] = .ok (.movi 4 6, []) ∧
    decodeWords [li 0x0E 4 5 6] = .ok (.shlori 4 5 6, []) ∧ decodeWords [li 0x0F 1 5 0x4FF] = .ok (.icmpi 1 5 .geN 0x7F, []) :=
  ⟨rfl, rfl, rfl, rfl, rfl, rfl, rfl, rfl⟩
theorem test_words_of_memory :
    decodeWords [lm 0x20 8 2 3 6 1 1] = .ok (.ldI8 8 2 3 .sys .acq, []) ∧ decodeWords [lm 0x21 8 2 0 5 1 2] = .ok (.stB16 8 2 .dev .rel, []) ∧
    decodeWords [lm 0x22 8 2 15 0 0 2] = .ok (.ldB64 8 2 15 .grp .rlx, []) ∧ decodeWords [lm 0x23 8 2 1 4 3 0] = .ok (.ldB128 8 2 1 .qtr .sc, []) ∧
    decodeWords [lm 0x24 9 7 2 5 1 3] = .ok (.atomMaxN32 9 3 2 .dev .acq, []) ∧ decodeWords [lm 0x25 8 6 0 3 2 1] = .ok (.atomCasB32 8 3 0 .die .ar, []) ∧
    decodeWords [lm 0x26 8 2 3 6 1 0] = .ok (.lds 8 2 3 .b128 .acq, []) ∧ decodeWords [lm 0x26 8 2 0 4 1 1] = .ok (.sts 8 2 .b32 .rel, []) ∧
    decodeWords [lm 0x27 8 2 3 1 0 3] = .ok (.chkB64 8 2 3 .core, []) ∧ decodeWords [lm 0x28 0 0 0 5 3 0] = .ok (.fence .dev .sc, []) ∧
    decodeWords [lm 0x28 2 4 0 5 0 2] = .ok (.cwbinv 4 .dev, []) ∧ decodeWords [lm 0x28 3 4 0 0 0 3] = .ok (.rgnConv 3 4, []) ∧
    decodeWords [ls 0x1A 8 6 2 5] = .ok (.sinF32 8 6 2, []) ∧ decodeWords [ls 0x2C 0 20 0 0] = .ok (.qpushB32 0 20, []) :=
  ⟨rfl, rfl, rfl, rfl, rfl, rfl, rfl, rfl, rfl, rfl, rfl, rfl, rfl, rfl⟩
theorem test_words_of_transfers :
    decodeWords [lb 0x30 0x1FFFFFF] = .ok (.bra 0x1FFFFFF, []) ∧ decodeWords [lbc 0x31 3 0 5] = .ok (.braT 3 5, []) ∧
    decodeWords [lbc 0x31 3 1 5] = .ok (.braF 3 5, []) ∧ decodeWords [lb 0x32 4] = .ok (.call 4, []) ∧
    decodeWords [lr 0x33 0 6 0 1] = .ok (.calli 6, []) ∧ decodeWords [lr 0x34 0 0 1 3] = .ok (.barNbWait 1, []) :=
  ⟨rfl, rfl, rfl, rfl, rfl, rfl⟩
theorem test_words_of_uniform :
    decodeWords [kr 0x00 4 0x11 0 1] = .ok (.ksr 4 0x11, []) ∧ decodeWords [kr 0x01 5 6 7 4] = .ok (.kmulHiN32 5 6 7, []) ∧
    decodeWords [kr 0x02 4 6 8 1] = .ok (.ksubB64 4 6 8, []) ∧ decodeWords [kr 0x03 4 6 8 3] = .ok (.kandnB32 4 6 8, []) ∧
    decodeWords [kr 0x04 4 6 8 2] = .ok (.kshrI32 4 6 8, []) ∧ decodeWords [kr 0x05 4 6 8 2] = .ok (.kbfeN32 4 6 8, []) ∧
    decodeWords [kb 0x06 4 5 3 0x3FE] = .ok (.kbrLtI32 4 5 0x3FE, []) ∧ decodeWords [ki 0x08 4 5 0x1FFF] = .ok (.kaddi 4 5 0x1FFF, []) ∧
    decodeWords [ki 0x0C 4 0 7] = .ok (.kmovi 4 7, []) ∧ decodeWords [ki 0x0D 4 5 7] = .ok (.kshlori 4 5 7, []) ∧
    decodeWords [ki 0x0E 9 9 0x43] = .ok (.kshriI32 9 9 3, []) ∧ decodeWords [km 0x10 8 6 2 5 1 2] = .ok (.kldB64 8 6 2 .dev .acq, []) ∧
    decodeWords [km 0x11 8 6 0 5 2 9] = .ok (.katomCasB32 8 6 0 .dev .ar, []) ∧ decodeWords [kr 0x12 6 8 0 0] = .ok (.klaunch 6 8, []) :=
  ⟨rfl, rfl, rfl, rfl, rfl, rfl, rfl, rfl, rfl, rfl, rfl, rfl, rfl, rfl⟩
theorem test_words_of_tiles :
    decodeWords [tt 0x30 0 1 0 6 0 0] = .ok (.tld 1 6, []) ∧ decodeWords [tt 0x30 2 0 0 10 1 1] = .ok (.tstBf16Rn 2 10 true, []) ∧
    decodeWords [tt 0x31 3 1 1 5 0 0] = .ok (.tmmaW 3 1 true 5, []) ∧ decodeWords [tt 0x32 2 0 0 12 3 1] = .ok (.tewAddrow 2 12, []) ∧
    decodeWords [tt 0x33 0 0 0 0 2 2] = .ok (.tbar 2, []) ∧ decodeWords [tt 0x34 0 0 0 0 2 0, 5, 6] = .ok (.dtask 2 [5, 6], []) ∧
    decodeWords [tt 0x35 0 0 0 0 0 0, 1, 2, 3, 4] = .ok (.recBeg 1 2 3 4, []) ∧ decodeWords [tt 0x35 0 0 0 0 0 1] = .ok (.recEnd, []) :=
  ⟨rfl, rfl, rfl, rfl, rfl, rfl, rfl, rfl⟩
theorem test_words_reserved :
    decodeWords [lr 0x1C 0 0 0 0] = .error .illegal ∧ decodeWords [lr 0x02 0 0 0 10] = .error .illegal ∧ decodeWords [lm 0x20 8 2 0 5 2 0] = .error .illegal ∧
    decodeWords [lm 0x25 8 7 0 5 0 0] = .error .illegal ∧ decodeWords [lm 0x26 8 2 0 1 0 1] = .error .illegal ∧ decodeWords [kb 0x06 0 0 7 0] = .error .illegal ∧
    decodeWords [tt 0x31 1 0 0 4 1 1] = .error .illegal ∧ decodeWords [tt 0x34 0 0 0 0 0 0] = .error .illegal :=
  ⟨rfl, rfl, rfl, rfl, rfl, rfl, rfl, rfl⟩

/-! ### Terms no encoding carries -/

theorem test_wf_orders : (Instr.ldB32 8 2 0 .dev .rel).wf = false ∧ (Instr.stB32 8 2 .dev .acq).wf = false ∧ (Instr.atomAddI32 8 2 0 .dev .rel).wf = false ∧
    (Instr.fence .dev .rlx).wf = false ∧ (Instr.cwb 2 .grp).wf = false ∧ (Instr.sts 8 2 .i8 .rlx).wf = false ∧ (Instr.faddF32 .rna 1 2 3).wf = false := by decide
theorem test_wf_words : (Instr.rkCopy []).wf = false ∧ (Instr.rkCopy (0x04000000 :: List.replicate 8 0)).wf = false ∧
    (Instr.rkCopy (0x03800000 :: List.replicate 8 0)).wf = false ∧ (Instr.rkCopy (0x03800000 :: List.replicate 10 0)).wf = true ∧
    (Instr.dtask 3 [0, 0]).wf = false ∧ (Instr.dtask 0 []).wf = false := by decide

/-! ### Single steps -/

/-- Register `r` of the thread at a position after an outcome. -/
def reads (o : Host.Outcome State Fault Refusal) (pos r : Nat) : Option Word :=
  match o with
  | .next s => (s.team? 0).bind fun t => (t.group? 0).map fun g => (g.thread pos).readV r
  | .fault _ => none
  | .refused _ => none
/-- Predicate `i` of the thread at position 0, and uniform register `r`, after an outcome. -/
def tests (o : Host.Outcome State Fault Refusal) (i : Nat) : Option Bool :=
  match o with
  | .next s => (s.team? 0).bind fun t => (t.group? 0).map fun g => (g.thread 0).readP false i
  | .fault _ => none
  | .refused _ => none
def uniform (o : Host.Outcome State Fault Refusal) (r : Nat) : Option Word :=
  match o with
  | .next s => (s.team? 0).bind fun t => (t.group? 0).map fun g => g.readK r
  | .fault _ => none
  | .refused _ => none
/-- One thread with `v2` and `v3`, and a group with `k6` and `k7`. -/
def operands (x y : Word) : State := { stateOf { aGroup with threads := [aThread [0, 0, x, y, 0, 0, 0, 0, 0, 0, 0, 0]] } with actor := .path 0 0 0 }
def uniforms (x y : Word) : State := stateOf { aGroup with k := [0, 1, 0, 0, 0, 0, x, y] ++ List.replicate 56 0 }

/-- R52, R53: unsigned saturation, and the sign of a high product. -/
theorem test_add_saturates : reads (exec (.iaddSatN32 8 2 3) (operands 0xFFFFFFF0 0x20)) 0 8 = some 0xFFFFFFFF := by decide +kernel
theorem test_high_product : reads (exec (.imulHiI32 8 2 3) (operands 0x80000000 2)) 0 8 = some 0xFFFFFFFF ∧
    reads (exec (.imulHiN32 8 2 3) (operands 0x80000000 2)) 0 8 = some 1 := by decide +kernel
/-- A destination that is also a source. -/
theorem test_same_register : reads (exec (.isubI32 2 2 3) (operands 3 5)) 0 2 = some 0xFFFFFFFE := by decide +kernel
theorem test_signed_compare : tests (exec (.icmpLtI32 1 2 3) (operands 0xFFFFFFFF 1)) 1 = some true ∧
    tests (exec (.icmpLtN32 1 2 3) (operands 0xFFFFFFFF 1)) 1 = some false := by decide +kernel
/-- The sum of 1 and 2^-24 lies halfway between two numbers: to even, and up. -/
theorem test_rounding : reads (exec (.faddF32 .rn 8 2 3) (operands 0x3F800000 0x33800000)) 0 8 = some 0x3F800000 ∧
    reads (exec (.faddF32 .ru 8 2 3) (operands 0x3F800000 0x33800000)) 0 8 = some 0x3F800001 := by decide +kernel
theorem test_zero_minus_zero : reads (exec (.fsubF32 .rd 8 2 3) (operands 0x3F800000 0x3F800000)) 0 8 = some 0x80000000 := by decide +kernel
theorem test_constant_register : uniform (exec (.kaddB32 0 6 7) (uniforms 4 5)) 0 = some 0 ∧ uniform (exec (.kaddB32 8 6 7) (uniforms 4 5)) 8 = some 9 := by
  decide +kernel
theorem test_signed_shift : uniform (exec (.kshrI32 8 6 7) (uniforms 0x80000000 4)) 8 = some 0xF8000000 := by decide +kernel
/-- The members of a group exchange: the sum of `v2` over both threads. -/
theorem test_sum_of_members : reads (exec (.reduxAddI32 6 2) aState) 0 6 = some 14 ∧ reads (exec (.reduxAddI32 6 2) aState) 1 6 = some 14 := by decide +kernel
/-- A step runs the loaded word. -/
theorem test_step_runs : (match step (loaded 0x1A100001) with
    | .next s => (s.teams.map fun t => t.groups.map fun g => ((g.thread 0).readV 4, (g.thread 0).pc)) == [[((1 : Word), BitVec.ofNat 56 (loadAt + 4))]]
    | .fault _ => false
    | .refused _ => false) = true := by decide +kernel
theorem test_encode : (Instr.iaddSatN32 7 2 3).wf = true ∧ encode (.iaddSatN32 7 2 3) = some [0x021C1033] ∧
    (Instr.dtask 2 [5, 6]).wf = true ∧ encode (.dtask 2 [5, 6]) = some [0xE8000040, 5, 6] := ⟨rfl, rfl, rfl, rfl⟩

end Sys2Proof.Tests
end

section
/-! What a finite map and the core a state holds read after one of their entries is put, and what the team of a path reads after
its group is replaced. -/
namespace Sys2Proof
namespace SMap

/-- The entry that was put. -/
theorem get?_put_self {α : Type} (m : SMap α) (k : Nat) (v : α) : SMap.get? (SMap.put m k v) k = some v := by
  induction m with
  | nil => simp [SMap.put, SMap.get?]
  | cons x r ih =>
    obtain ⟨j, w⟩ := x
    rcases Nat.lt_trichotomy j k with h | rfl | h
    · simp [SMap.put, SMap.get?, Nat.ne_of_lt h, Nat.not_lt_of_gt h, ih]
    · simp [SMap.put, SMap.get?]
    · simp [SMap.put, SMap.get?, Nat.ne_of_gt h, h]

/-- Every other entry is as before. -/
theorem get?_put_ne {α : Type} (m : SMap α) {k i : Nat} (hi : i ≠ k) (v : α) : SMap.get? (SMap.put m k v) i = SMap.get? m i := by
  induction m with
  | nil => simp [SMap.put, SMap.get?, hi.symm]
  | cons x r ih =>
    obtain ⟨j, w⟩ := x
    rcases Nat.lt_trichotomy j k with h | rfl | h
    · simp [SMap.put, SMap.get?, Nat.ne_of_lt h, Nat.not_lt_of_gt h, ih]
    · simp [SMap.put, SMap.get?, hi.symm]
    · simp only [SMap.put, Nat.ne_of_gt h, h, if_true, if_false, SMap.get?, hi.symm]
      by_cases hk : i < k
      · simp [hk, show ¬ j = i by omega, show i < j by omega]
      · simp [hk]

end SMap
end Sys2Proof

namespace Sys2Proof.Machine
open Sys2Proof

/-- The cores after one is changed. -/
theorem State.core_mapCore (s : State) (i j : Nat) (f : Core → Core) : (s.mapCore i f).core j = if j = i then f (s.core i) else s.core j := by
  unfold State.mapCore State.setCore State.core SMap.getD
  by_cases e : j = i
  · subst e; simp [SMap.get?_put_self]
  · simp [SMap.get?_put_ne _ e, e]

@[simp] theorem State.core_mapCore_self (s : State) (i : Nat) (f : Core → Core) : (s.mapCore i f).core i = f (s.core i) := by
  simp [State.core_mapCore]
@[simp] theorem State.mapCore_now (s : State) (i j : Nat) (f : Core → Core) : (s.mapCore i f).now j = s.now j := rfl
@[simp] theorem State.mapGroup_port (s : State) (i j a : Nat) (f : Group → Group) : (s.mapGroup i j f).port a = s.port a := rfl
@[simp] theorem State.mapGroup_core (s : State) (i j k : Nat) (f : Group → Group) : (s.mapGroup i j f).core k = s.core k := rfl

/-- The threads of a group after one is replaced. -/
theorem Group.thread_setThread {g : Group} {i : Nat} (hi : i < g.threads.length) (t : Thread) (j : Nat) :
    (g.setThread i t).thread j = if j = i then t else g.thread j := by
  unfold Group.setThread Group.thread
  rw [List.getD_eq_getElem?_getD, List.getD_eq_getElem?_getD]
  by_cases e : j = i
  · subst e; simp [hi]
  · simp [e, List.getElem?_set_ne (Ne.symm e)]

/-- A thread of a path after its group's threads are changed by `f` and the issue is counted. -/
theorem Group.thread_step {s : State} {c : Ctx} (h : s.path? = some c) {g : Group} (hg : g.threads.length = c.group.threads.length)
    (f : Nat → Thread → Thread) {i : Nat} (hi : i ∈ c.ms) : ((g.mapAt c.ms f).issued c.lead).thread i = f i (g.thread i) := by
  rw [Group.issued_thread, Group.thread_mapAt_mem hi (hg ▸ State.path?_mem h hi)]

end Sys2Proof.Machine
end

section
/-! O12: reads of special, control and `k` registers (R16, R17, R18, R130, R133). -/
namespace Sys2Proof.Machine
open Sys2Proof

/-! ### A lane-set instruction none of whose threads traps -/

/-- A ready path all of whose threads complete goes on with them changed. -/
theorem laneTry_ready {s : State} {c : Ctx} {r : Regs} (h : LaneReady s c r) {f : Ctx → Nat → View → Except ThreadTrap Thread}
    {F : Nat → Thread} (hf : ∀ i, i ∈ c.ms → f c i (c.view i) = .ok (F i)) :
    laneTry r f s = .next (s.putGroup c ((c.group.mapAt c.ms fun i _ => (F i).tick).issued c.lead)) := by
  unfold laneTry
  rw [h.path]
  simp only [h.named, h.sound, h.free, if_true, Bool.false_eq_true, if_false]
  exact congrArg Host.Outcome.next (congr
    (congrArg (fun g fs => (s.putGroup c (Group.issued g c.lead)).takeTraps c.team.id c.group.idx fs)
      (Group.mapAt_congr fun i hi t => by rw [hf i hi]))
    (List.filterMap_eq_nil_iff.mpr fun i hi => by rw [hf i hi]))

/-- The group of such a path, read back. -/
theorem laneTry_threads {s : State} {c : Ctx} {r : Regs} (h : LaneReady s c r) {f : Ctx → Nat → View → Except ThreadTrap Thread}
    {F : Nat → Thread} (hf : ∀ i, i ∈ c.ms → f c i (c.view i) = .ok (F i)) :
    ∃ t T g, laneTry r f s = .next t ∧ t.team? c.team.id = some T ∧ T.group? c.group.idx = some g ∧ ∀ i, i ∈ c.ms → g.thread i = (F i).tick := by
  obtain ⟨T, hT, hG⟩ := State.putGroup_alters h.path (g := (c.group.mapAt c.ms fun i _ => (F i).tick).issued c.lead) (by simp)
  exact ⟨_, T, _, laneTry_ready h hf, hT.self, hG.self, fun i hi => Group.thread_step h.path rfl _ hi⟩

/-- One that writes `v i` to register `d` of its thread `i` and goes on does that alone. -/
theorem laneTry_setV {s : State} {c : Ctx} {r : Regs} (h : LaneReady s c r) {f : Ctx → Nat → View → Except ThreadTrap Thread} {d : Nat}
    {v : Nat → Word} (hf : ∀ i, i ∈ c.ms → f c i (c.view i) = .ok ((c.view i).setV d (v i)).next) :
    ∃ t g, laneTry r f s = .next t ∧ Alters s t c g ∧ GroupDone c g fun i u =>
      ThreadDone c.group.handler (c.group.thread i) u ((c.group.thread i).pc + 4) [(d, v i)] [] := by
  refine ⟨_, _, laneTry_ready h hf, State.putGroup_alters h.path (by simp), State.groupDone h.path _ _ _ fun i _ => ?_⟩
  have hnext : ((c.view i).setV d (v i)).next = ((c.view i).setV d (v i)).goTo ((c.group.thread i).pc + 4) := by
    simp [Thread.next, Thread.goTo, View.setV, Ctx.view]
  rw [hnext]
  exact threadDone_setV (c.view i) d (v i) _

/-! ### Special and control registers -/

/-- Indices from 0x18 on name no special register (R16). -/
theorem State.special_reserved (s : State) (c : Ctx) (i : Nat) {x : Nat} (h : 0x18 ≤ x) : s.special c i x = none := by
  obtain ⟨k, rfl⟩ := Nat.exists_eq_add_of_le' h
  have hk : ¬ (0x10 ≤ k + 0x18 ∧ k + 0x18 ≤ 0x17) := by omega
  exact if_neg (t := some (lowWord (c.team.writePointer (k + 0x18 - 0x10)))) hk

/-- `sr.wpN` reads the low word of a write pointer (R16). -/
theorem State.special_writePointer (s : State) (c : Ctx) (i : Nat) {x : Nat} (h : 0x10 ≤ x) (h' : x < 0x18) :
    s.special c i x = some ((c.team.writePointer (x - 0x10)).setWidth 32) := by
  obtain ⟨k, rfl⟩ := Nat.exists_eq_add_of_le' h
  have hk : 0x10 ≤ k + 0x10 ∧ k + 0x10 ≤ 0x17 := ⟨h, by omega⟩
  exact if_pos hk

/-- Reading any special register but `sr.clock` and the write pointers leaves nothing behind. -/
theorem State.latch_plain (s : State) (c : Ctx) {x : Nat} (h : x ≠ 0x0C) (h' : x < 0x10) (t : Thread) : s.latch c x t = t := by
  unfold State.latch; rw [if_neg h, if_neg (by omega)]

/-- Reading `sr.clock` latches its upper word (R17). -/
theorem State.latch_clock (s : State) (c : Ctx) (t : Thread) :
    s.latch c 0x0C t = { t with clockHi := BitVec.ofNat 32 (s.now c.team.core / 2 ^ 32) } := rfl

/-- Reading `sr.wpN` takes the speculation entries (R125). -/
theorem State.latch_writePointer (s : State) (c : Ctx) {x : Nat} (h : 0x10 ≤ x) (t : Thread) : s.latch c x t = { t with spec := [] } := by
  unfold State.latch; rw [if_neg (by omega), if_pos h]

/-- Outside handler mode only `cr.quantum` may be read (R18). -/
theorem controlReg_outside (team : Team) {g : Group} (t : Thread) {x : Nat} (hx : x ≠ 0x00) (hg : g.handler = false) :
    controlReg team g t x = none := by
  unfold controlReg; simp [hx, hg]

/-! ### `smov` -/

/-- `smov` of an index that names a special register, but `sr.clock`, does what each thread's read and write come to. -/
theorem execSmovSr_of_special {d x : BitVec 7} {s : State} {c : Ctx} {v : Word} (hp : s.path? = some c) (hx : x.toNat ≠ 0x0C)
    (hv : s.special c c.lead x.toNat = some v) : exec (.smovSr d x) s = laneTry { writes := [(d.toNat, 1)] } (fun c i w =>
      .ok (s.latch c x.toNat ((w.setV d.toNat ((s.special c i x.toNat).getD 0)).next))) s := by
  show execSmovSr d x s = _
  unfold execSmovSr
  rw [hp]
  simp only [hv, Option.isNone_some, Bool.false_eq_true, if_false, hx, decide_false, Bool.false_and]
  split <;> rename_i e <;> rw [e]

/-- `smov` of an index that names no special register is an illegal instruction. -/
theorem execSmovSr_illegal {d x : BitVec 7} {s : State} {c : Ctx} (hp : s.path? = some c) (hx : s.special c c.lead x.toNat = none) :
    exec (.smovSr d x) s = .next (s.trapPath c { code := 0x01 }) := by
  show execSmovSr d x s = _
  unfold execSmovSr; rw [hp]; simp [hx]

/-- A `smov` of a special register whose read leaves nothing behind. -/
theorem smovSr_plain {d x : BitVec 7} {s : State} {c : Ctx} {v : Nat → Word} (h : LaneReady s c { writes := [(d.toNat, 1)] })
    (hx : x.toNat ≠ 0x0C) (hx' : x.toNat < 0x10) (hv : ∀ i, s.special c i x.toNat = some (v i)) :
    ∃ t g, exec (.smovSr d x) s = .next t ∧ Alters s t c g ∧ GroupDone c g fun i u =>
      ThreadDone c.group.handler (c.group.thread i) u ((c.group.thread i).pc + 4) [(d.toNat, v i)] [] := by
  rw [execSmovSr_of_special h.path hx (hv c.lead)]
  exact laneTry_setV h fun i _ => by rw [State.latch_plain s c hx hx', hv i]; rfl

/-- `smov` of `sr.clock` reads the counter, latches its upper word and enters the journal (R17, R350). -/
theorem smovSr_clock {d : BitVec 7} {s : State} {c : Ctx} (h : LaneReady s c { writes := [(d.toNat, 1)] })
    (hj : s.journalRoom c.team.core c.ms.length = true) :
    ∃ t T g, exec (.smovSr d 0x0C) s = .next t ∧ t.team? c.team.id = some T ∧ T.group? c.group.idx = some g ∧ ∀ i, i ∈ c.ms →
      (g.thread i).readV (vIndex c.group.handler d.toNat) = BitVec.ofNat 32 (s.now c.team.core) ∧
      (g.thread i).clockHi = BitVec.ofNat 32 (s.now c.team.core / 2 ^ 32) ∧ (g.thread i).pc = (c.group.thread i).pc + 4 := by
  obtain ⟨u, T, g, hrun, hT, hg, hth⟩ := laneTry_threads h
    (f := fun c i w => .ok (s.latch c 0x0C ((w.setV d.toNat ((s.special c i 0x0C).getD 0)).next))) fun _ _ => rfl
  refine ⟨u.mapCore c.team.core fun k =>
    { k with journal := (c.ms.map fun _ => (s.now c.team.core, BitVec.ofNat 32 (s.now c.team.core))) ++ k.journal }, T, g, ?_, hT, hg,
    fun i hi => ?_⟩
  · have hs : s.special c c.lead 0x0C = some (BitVec.ofNat 32 (s.now c.team.core)) := rfl
    show execSmovSr d 0x0C s = _
    unfold execSmovSr
    rw [h.path]
    simp only [show (0x0C : BitVec 7).toNat = 0x0C from rfl, hs, hj, hrun, Option.isNone_some, Bool.not_true, Bool.and_false, Bool.false_eq_true,
      if_false, if_true]
  · rw [hth i hi]
    refine ⟨(Thread.readV_writeV _ _ _ _).trans (if_pos rfl), rfl, ?_⟩
    simp [State.latch_clock, View.setV, Ctx.view]

/-- `smov` of `sr.wpN` reads the write pointer and takes the speculation entries (R125). -/
theorem smovSr_writePointer {d x : BitVec 7} {s : State} {c : Ctx} (h : LaneReady s c { writes := [(d.toNat, 1)] })
    (hx : 0x10 ≤ x.toNat) (hx' : x.toNat < 0x18) :
    ∃ t T g, exec (.smovSr d x) s = .next t ∧ t.team? c.team.id = some T ∧ T.group? c.group.idx = some g ∧ ∀ i, i ∈ c.ms →
      (g.thread i).readV (vIndex c.group.handler d.toNat) = (c.team.writePointer (x.toNat - 0x10)).setWidth 32 ∧
      (g.thread i).spec = [] ∧ (g.thread i).pc = (c.group.thread i).pc + 4 := by
  have hs := fun i => State.special_writePointer s c i hx hx'
  obtain ⟨u, T, g, hrun, hT, hg, hth⟩ := laneTry_threads h
    (f := fun c i w => .ok (s.latch c x.toNat ((w.setV d.toNat ((s.special c i x.toNat).getD 0)).next))) fun _ _ => rfl
  refine ⟨u, T, g, (execSmovSr_of_special h.path (by omega) (hs c.lead)).trans hrun, hT, hg, fun i hi => ?_⟩
  rw [hth i hi, State.latch_writePointer s c hx, hs i]
  refine ⟨(Thread.readV_writeV _ _ _ _).trans (if_pos rfl), rfl, ?_⟩
  simp [View.setV, Ctx.view]

/-- `smov` of a control register that each thread may read. -/
theorem smovCr_reads {d x : BitVec 7} {s : State} {c : Ctx} {v : Nat → Word} (h : LaneReady s c { writes := [(d.toNat, 1)] })
    (hv : ∀ i, controlReg c.team c.group (c.group.thread i) x.toNat = some (v i)) :
    ∃ t g, exec (.smovCr d x) s = .next t ∧ Alters s t c g ∧ GroupDone c g fun i u =>
      ThreadDone c.group.handler (c.group.thread i) u ((c.group.thread i).pc + 4) [(d.toNat, v i)] [] := by
  have hrun : exec (.smovCr d x) s = laneTry { writes := [(d.toNat, 1)] } (fun c _ w =>
      .ok (w.setV d.toNat ((controlReg c.team c.group w.t x.toNat).getD 0)).next) s := by
    show execSmovCr d x s = _
    unfold execSmovCr; rw [h.path]; simp [hv c.lead]
  rw [hrun]
  exact laneTry_setV h fun i _ => by simp [Ctx.view, hv i]

/-- `smov` of a control register that may not be read is an illegal instruction. -/
theorem smovCr_illegal {d x : BitVec 7} {s : State} {c : Ctx} (hp : s.path? = some c)
    (hx : controlReg c.team c.group (c.group.thread c.lead) x.toNat = none) :
    exec (.smovCr d x) s = .next (s.trapPath c { code := 0x01 }) := by
  show execSmovCr d x s = _
  unfold execSmovCr; rw [hp]; simp [hx]

/-- `smov` of a `k` register gives every thread its value (R130). -/
theorem smovK_reads {d : BitVec 7} {x : BitVec 6} {s : State} {c : Ctx} (h : LaneReady s c { writes := [(d.toNat, 1)], kReads := [x.toNat] }) :
    ∃ t g, exec (.smovK d x) s = .next t ∧ Alters s t c g ∧ GroupDone c g fun i u =>
      ThreadDone c.group.handler (c.group.thread i) u ((c.group.thread i).pc + 4) [(d.toNat, c.group.kv x.toNat)] [] :=
  laneTry_setV (f := fun c _ w => .ok (w.setV d.toNat (c.group.kv x.toNat)).next) h fun _ _ => rfl

/-! ### `ksr` -/

/-- A uniform instruction of a ready path. -/
theorem uniStep_ready {s : State} {c : Ctx} {r : KRegs} (h : KReady s c r) (F : Group → Group) (pc : Group → VAddr → VAddr) :
    uniStep r F pc s = .next (s.putGroup c (((F c.group).mapAt c.ms fun _ t => (Thread.tick t).goTo (pc c.group t.pc)).issued c.lead)) := by
  unfold uniStep
  rw [h.path]
  simp only [h.named, h.sound, h.free, if_true, Bool.false_eq_true, if_false]

@[simp] theorem Group.setK_thread (g : Group) (d : Nat) (v : Word) (i : Nat) : (g.setK d v).thread i = g.thread i := by
  unfold Group.setK; rw [Group.writeK_rest]; rfl
@[simp] theorem Group.setK_idx (g : Group) (d : Nat) (v : Word) : (g.setK d v).idx = g.idx := by
  unfold Group.setK; rw [Group.writeK_rest]
theorem Group.setK_threads (g : Group) (d : Nat) (v : Word) : (g.setK d v).threads = g.threads := by
  unfold Group.setK; rw [Group.writeK_rest]
@[simp] theorem Group.issued_kpoison (g : Group) (i : Nat) : (g.issued i).kpoison = g.kpoison := by
  have h := congrArg Group.kpoison (Group.issued_rest g i); exact h
@[simp] theorem Group.issued_readK (g : Group) (i j : Nat) : (g.issued i).readK j = g.readK j := by simp [Group.readK]
@[simp] theorem Group.mapAt_readK (g : Group) (ms : List Nat) (f : Nat → Thread → Thread) (j : Nat) : (g.mapAt ms f).readK j = g.readK j := rfl

/-- What the group reads after a `k` register is written. -/
theorem Group.readK_setK (g : Group) (d : Nat) (v : Word) (j : Nat) : (g.setK d v).readK j = newK g.handler [(d, v)] g j := by
  rw [newK_cons, newK_nil]; exact Group.readK_writeK _ _ _ _

/-- The path's group with a `k` register written and its threads gone on is done (R93). -/
theorem kDone_setK {s : State} {c : Ctx} (h : s.path? = some c) (d : Nat) (v : Word) :
    KDone s (s.putGroup c (((c.group.setK d v).mapAt c.ms fun _ t => (Thread.tick t).goTo (t.pc + 4)).issued c.lead)) c nextK
      fun _ => [(d, v)] := by
  refine ⟨_, State.putGroup_alters h (by simp), ?_, ?_, fun j => ?_, fun i hi => ?_, fun i hi => ?_⟩
  · refine (congrArg (fun X : Group => { X with threads := c.group.threads, n := c.group.n, favour := c.group.favour, k := c.group.k,
                                                hk := c.group.hk, kpoison := c.group.kpoison }) (Group.issued_rest _ c.lead)).trans ?_
    unfold Group.setK; rw [Group.writeK_rest]; rfl
  · simp [Group.setK]
  · rw [Group.issued_readK, Group.mapAt_readK, Group.readK_setK]
  · rw [Group.issued_thread, Group.thread_mapAt_not hi, Group.setK_thread]
  · rw [Group.thread_step h (by rw [Group.setK_threads]) _ hi, Group.setK_thread]
    exact threadDone_goTo ⟨c.group.thread i, c.group.handler⟩ _

/-- The indices a uniform read may not name (R133). -/
theorem ksrLegal_eq_false_iff (x : Nat) : ksrLegal x = false ↔ x ∈ [0x00, 0x01, 0x04, 0x0D] ∨ 0x18 ≤ x := by
  simp only [ksrLegal, Bool.not_eq_false', Bool.or_eq_true, beq_iff_eq, decide_eq_true_eq, List.mem_cons, List.not_mem_nil, or_false]
  omega

/-- `ksr` of an index that may be read, but `sr.clock`. -/
theorem execKsr_of_legal {d x : BitVec 6} {s : State} {c : Ctx} (hp : s.path? = some c) (hl : ksrLegal x.toNat = true) (hx : x.toNat ≠ 0x0C) :
    exec (.ksr d x) s = uniStep { writes := [(d.toNat, 1)] }
      (fun g => (g.setK d.toNat ((s.special c c.lead x.toNat).getD 0)).latchK c.lead x.toNat) (fun _ pc => pc + 4) s := by
  show execKsr d x s = _
  unfold execKsr
  rw [hp]
  simp only [hl, Bool.not_true, Bool.false_eq_true, if_false, hx, decide_false, Bool.false_and]
  split <;> rename_i e <;> rw [e]

/-- `ksr` of a register with one value for the group. -/
theorem ksr_plain {d x : BitVec 6} {s : State} {c : Ctx} {v : Word} (h : KReady s c { writes := [(d.toNat, 1)] })
    (hx : x.toNat ∉ [0x00, 0x01, 0x04, 0x0C, 0x0D]) (hx' : x.toNat < 0x10) (hv : s.special c c.lead x.toNat = some v) :
    ∃ t, exec (.ksr d x) s = .next t ∧ KDone s t c nextK fun _ => [(d.toNat, v)] := by
  have hne : x.toNat ≠ 0x0C := fun e => hx (by simp [e])
  have hl : ksrLegal x.toNat = true := by
    simp only [List.mem_cons, List.not_mem_nil, or_false, not_or] at hx
    simp [ksrLegal]; omega
  refine ⟨_, ?_, kDone_setK h.path d.toNat v⟩
  rw [execKsr_of_legal h.path hl hne, uniStep_ready h, hv, Option.getD_some, Group.latchK, if_neg (by omega)]

/-- `ksr` of `sr.wpN` takes the speculation entries of the path's lowest thread (R125). -/
theorem ksr_writePointer {d x : BitVec 6} {s : State} {c : Ctx} (h : KReady s c { writes := [(d.toNat, 1)] }) (hh : c.ms.head? = some c.lead)
    (hlen : c.lead < c.group.threads.length) (hx : 0x10 ≤ x.toNat) (hx' : x.toNat < 0x18) :
    ∃ t g, exec (.ksr d x) s = .next t ∧ Alters s t c g ∧ (g.thread c.lead).spec = [] ∧
      (∀ j, g.readK j = newK c.group.handler [(d.toNat, (c.team.writePointer (x.toNat - 0x10)).setWidth 32)] c.group j) ∧
      (∀ i, i ∉ c.ms → g.thread i = c.group.thread i) ∧ ∀ i, i ∈ c.ms → (g.thread i).pc = (c.group.thread i).pc + 4 ∧
        (i ≠ c.lead → ThreadDone c.group.handler (c.group.thread i) (g.thread i) ((c.group.thread i).pc + 4) [] []) := by
  have hlead : c.lead ∈ c.ms := List.mem_of_mem_head? hh
  have hl : ksrLegal x.toNat = true := by simp [ksrLegal]; omega
  let v : Word := (c.team.writePointer (x.toNat - 0x10)).setWidth 32
  let G : Group := (c.group.setK d.toNat v).setThread c.lead { c.group.thread c.lead with spec := [] }
  have hG : (c.group.setK d.toNat v).latchK c.lead x.toNat = G := by rw [Group.latchK, if_pos hx, Group.setK_thread]
  have hGl : G.threads.length = c.group.threads.length := by simp [G, Group.setThread, Group.setK_threads]
  have hGi : ∀ i, G.thread i = if i = c.lead then { c.group.thread c.lead with spec := [] } else c.group.thread i := fun i => by
    rw [Group.thread_setThread (by rwa [Group.setK_threads]), Group.setK_thread]
  refine ⟨_, (G.mapAt c.ms fun _ t => (Thread.tick t).goTo (t.pc + 4)).issued c.lead, ?_, State.putGroup_alters h.path (by simp [G]), ?_, fun j => ?_,
    fun i hi => ?_, fun i hi => ?_⟩
  · rw [execKsr_of_legal h.path hl (by omega), uniStep_ready h, State.special_writePointer s c c.lead hx hx', Option.getD_some, hG]
  · rw [Group.thread_step h.path hGl _ hlead, hGi, if_pos rfl]; rfl
  · rw [Group.issued_readK, Group.mapAt_readK]; exact Group.readK_setK c.group d.toNat v j
  · rw [Group.issued_thread, Group.thread_mapAt_not hi, hGi, if_neg (show ¬ i = c.lead from fun e => hi (e ▸ hlead))]
  · rw [Group.thread_step h.path hGl _ hi, hGi]
    refine ⟨?_, fun e => ?_⟩
    · split <;> rename_i e
      · subst e; rfl
      · rfl
    · rw [if_neg e]; exact threadDone_goTo ⟨c.group.thread i, c.group.handler⟩ _

/-- `ksr` of `sr.clock` enters the journal and latches nothing (R133, R350). -/
theorem ksr_clock {d : BitVec 6} {s : State} {c : Ctx} (h : KReady s c { writes := [(d.toNat, 1)] }) (hj : s.journalRoom c.team.core 1 = true) :
    let clock := BitVec.ofNat 32 (s.now c.team.core)
    ∃ t, exec (.ksr d 0x0C) s = .next t ∧ KDone { s with cores := t.cores } t c nextK (fun _ => [(d.toNat, clock)]) ∧
      ∀ k, t.core k = if k = c.team.core then { s.core k with journal := (s.now k, clock) :: (s.core k).journal } else s.core k := by
  intro clock
  let u := s.putGroup c (((c.group.setK d.toNat clock).mapAt c.ms fun _ t => (Thread.tick t).goTo (t.pc + 4)).issued c.lead)
  have hrun := uniStep_ready h (fun g => (g.setK d.toNat ((s.special c c.lead 0x0C).getD 0)).latchK c.lead 0x0C) (fun _ pc => pc + 4)
  refine ⟨u.journal c.team.core clock, ?_, ?_, fun k => ?_⟩
  · show execKsr d 0x0C s = _
    unfold execKsr
    rw [h.path]
    simp only [show (0x0C : BitVec 6).toNat = 0x0C from rfl, show ksrLegal 0x0C = true from rfl, hj, hrun, Bool.not_true, Bool.and_false,
      Bool.false_eq_true, if_false, if_true]
    rfl
  · exact kDone_setK (s := { s with cores := (u.journal c.team.core clock).cores }) h.path d.toNat clock
  · rw [State.journal, State.core_mapCore]
    by_cases e : k = c.team.core
    · subst e; rfl
    · simp only [e, if_false]; rfl

/-- `ksr` of an index that may not be read is an illegal instruction (R133). -/
theorem ksr_illegal {d x : BitVec 6} {s : State} {c : Ctx} (hp : s.path? = some c) (hx : ksrLegal x.toNat = false) :
    exec (.ksr d x) s = .next (s.trapPath c { code := 0x01 }) := by
  show execKsr d x s = _
  unfold execKsr; rw [hp]; simp [hx]

/-- Settles O12, an instruction and an index range at a time. -/
theorem registerReads : Obligations.RegisterReads := by
  refine ⟨fun d x s c v h hx hx' hv => smovSr_plain h hx hx' hv, fun d s c h hj => smovSr_clock h hj,
    fun d x s c h hx hx' => smovSr_writePointer h hx hx', fun d x s c hp hx => execSmovSr_illegal hp (State.special_reserved s c _ hx),
    fun d x s c v h hv => smovCr_reads h hv, fun d x s c hp hx hg => smovCr_illegal hp (controlReg_outside _ _ hx hg),
    fun d x s c h => smovK_reads h, fun d x s c v h hx hx' hv => ksr_plain h hx hx' hv,
    fun d x s c h hh hlen hx hx' => ksr_writePointer h hh hlen hx hx', fun d s c h hj => ksr_clock h hj,
    fun d x s c hp hx => ksr_illegal hp ((ksrLegal_eq_false_iff _).mpr hx)⟩

end Sys2Proof.Machine
end

section
/-! O22: the instructions of the SFU ask for their results (R25, R109, R188). -/
namespace Sys2Proof.Machine
open Sys2Proof

/-- Changing the team of a path after its group: what is left alone but for the team's own fields that `f` changes. -/
theorem State.mapTeam_putGroup {s : State} {c : Ctx} (h : s.path? = some c) {g : Group} (hg : g.idx = c.group.idx) (f : Team → Team)
    (hid : ∀ t, (f t).id = t.id) (hgroups : ∀ t, (f t).groups = t.groups)
    (hcomm : ∀ t gs, f { t with groups := gs } = { f t with groups := gs }) :
    ∃ T, OnlyTeam s ((s.putGroup c g).mapTeam c.team.id f) c.team.id T ∧ OnlyGroup (f c.team) T c.group.idx g := by
  obtain ⟨T, hT, hG⟩ := State.putGroup_alters h hg
  have hread : ∀ j, ((s.putGroup c g).mapTeam c.team.id f).team? j = ((s.putGroup c g).team? j).map fun t => if t.id == c.team.id then f t else t :=
    State.team?_map (s.putGroup c g) _ fun t => by split <;> simp [hid]
  have hTid : T.id = c.team.id := State.team?_id hT.self
  have hgroup? : ∀ t i, (f t).group? i = t.group? i := fun t i => by unfold Team.group?; rw [hgroups]
  refine ⟨f T, ⟨rfl, ?_, fun j hj => ?_⟩, ⟨?_, ?_, fun j hj => ?_⟩⟩
  · rw [hread, hT.self]; simp [hTid]
  · rw [hread, hT.others j hj]
    cases hs : s.team? j with
    | none => rfl
    | some u => simp [State.team?_id hs, hj]
  · rw [hgroups, ← hcomm, hG.rest]
  · rw [hgroup?]; exact hG.self
  · rw [hgroup?, hgroup?]; exact hG.others j hj

/-- An SFU instruction of a ready path. -/
theorem laneSfu_ready {d a : BitVec 7} {l : BitVec 4} {f : Nat → Nat} {s : State} {c : Ctx}
    (h : LaneReady s c { reads := [(a.toNat, 1)], writes := [(d.toNat, 1)] }) :
    laneSfu d a l f s = if c.roomForOut = true ∧ c.team.sfuMay = true then
        .next ((s.putGroup c ((c.group.mapAt c.ms fun i t => t.ask
          { dst := [vIndex c.group.handler d.toNat], look := l.toNat, kind := .ready [BitVec.ofNat 32 (f ((c.view i).v a.toNat).toNat)] }).issued
            c.lead)).mapTeam c.team.id fun t => { t with sfuSpent := t.sfuSpent + 4, sfuIssued := true })
      else .next s := by
  unfold laneSfu
  rw [h.path]
  simp only [h.named, h.sound, h.free, Bool.not_true, Bool.false_eq_true, if_false]
  by_cases hr : c.roomForOut = true <;> by_cases hm : c.team.sfuMay = true <;> simp [hr, hm]

/-- What an SFU instruction does where its path is ready (R25, R188). -/
theorem laneSfu_asks {d a : BitVec 7} {l : BitVec 4} {f : Nat → Nat} {s : State} {c : Ctx}
    (h : LaneReady s c { reads := [(a.toNat, 1)], writes := [(d.toNat, 1)] }) :
    (c.roomForOut = true → c.team.sfuMay = true → ∃ t g, laneSfu d a l f s = .next t ∧ Pays s t c 4 g ∧ GroupDone c g fun i u =>
      AsksFor (c.group.thread i) u
        { dst := [vIndex c.group.handler d.toNat], look := l.toNat, kind := .ready [BitVec.ofNat 32 (f ((c.view i).v a.toNat).toNat)] }) ∧
    ((c.roomForOut = false ∨ c.team.sfuMay = false) → laneSfu d a l f s = .next s) := by
  rw [laneSfu_ready h]
  constructor
  · intro hr hm
    rw [if_pos ⟨hr, hm⟩]
    exact ⟨_, _, rfl, State.mapTeam_putGroup h.path (by simp) _ (fun _ => rfl) (fun _ => rfl) (fun _ _ => rfl),
      State.groupDone h.path _ _ _ fun _ _ => rfl⟩
  · rintro (hr | hm)
    · rw [if_neg (by simp [hr])]
    · rw [if_neg (by simp [hm])]

/-- Every SFU instruction has the one shape, with its own function. -/
theorem exec_sfu {mk : BitVec 7 → BitVec 7 → BitVec 4 → Instr} {f : Nat → Nat}
    (h : (mk, f) ∈ [(Instr.rcpF32, sfuRcp), (.rsqrtF32, sfuRsqrt), (.sqrtF32, sfuSqrt), (.exp2F32, sfuExp2), (.log2F32, sfuLog2), (.sinF32, sfuSin),
      (.cosF32, sfuCos), (.sinpiF32, sfuSinpi), (.cospiF32, sfuCospi), (.tanhF32, sfuTanh)]) (d a : BitVec 7) (l : BitVec 4) (s : State) :
    exec (mk d a l) s = laneSfu d a l f s := by
  simp only [List.mem_cons, List.not_mem_nil, or_false, Prod.mk.injEq] at h
  rcases h with ⟨rfl, rfl⟩ | ⟨rfl, rfl⟩ | ⟨rfl, rfl⟩ | ⟨rfl, rfl⟩ | ⟨rfl, rfl⟩ | ⟨rfl, rfl⟩ | ⟨rfl, rfl⟩ | ⟨rfl, rfl⟩ | ⟨rfl, rfl⟩ | ⟨rfl, rfl⟩ <;> rfl

/-- Settles O22: the ten instructions share the shape `laneSfu`. -/
theorem sfuInstructionsAskForResults : Obligations.SfuInstructionsAskForResults := by
  intro mk f hf d a l s c h
  rw [exec_sfu hf]
  exact laneSfu_asks h

end Sys2Proof.Machine
end

section
/-! What several changes in a row come to: of one team's group, of a core's journal (R350), and of registers written one after another. -/
namespace Sys2Proof.Machine
open Sys2Proof

/-! ### Changes that follow one another -/

theorem OnlyTeam.trans {s u v : State} {i : Nat} {T T' : Team} (h : OnlyTeam s u i T) (h' : OnlyTeam u v i T') : OnlyTeam s v i T' where
  rest := (congrArg (fun x : State => { x with teams := s.teams }) h'.rest).trans h.rest
  self := h'.self
  others j hj := (h'.others j hj).trans (h.others j hj)

theorem OnlyGroup.trans {S T U : Team} {i : Nat} {g g' : Group} (h : OnlyGroup S T i g) (h' : OnlyGroup T U i g') : OnlyGroup S U i g' where
  rest := (congrArg (fun x : Team => { x with groups := S.groups }) h'.rest).trans h.rest
  self := h'.self
  others j hj := (h'.others j hj).trans (h.others j hj)

/-- A change of one group that keeps its number. -/
theorem State.mapGroup_only {s : State} {t : Team} {g : Group} (ht : s.team? t.id = some t) (hg : t.group? g.idx = some g) (f : Group → Group)
    (hf : ∀ h, (f h).idx = h.idx) :
    ∃ T, OnlyTeam s (s.mapGroup t.id g.idx f) t.id T ∧ OnlyGroup t T g.idx (f g) := by
  let f' : Group → Group := fun h => if h.idx == g.idx then f h else g
  have hsame : s.mapGroup t.id g.idx f = s.mapGroup t.id g.idx f' := by
    have : (fun h : Group => if h.idx == g.idx then f h else h) = fun h => if h.idx == g.idx then f' h else h := by
      funext h; by_cases e : h.idx = g.idx <;> simp [f', e]
    unfold State.mapGroup; rw [this]
  have hf' : ∀ h, (f' h).idx = g.idx := fun h => by
    by_cases e : h.idx = g.idx <;> simp [f', e, hf]
  obtain ⟨h1, h2⟩ := State.mapGroup_alters (i := t.id) ht hg f' hf' rfl
  rw [hsame]
  exact ⟨_, h1, by simpa [f'] using h2⟩

/-- The threads of a group after a function that leaves an absent one as it is. -/
theorem Group.thread_map (g : Group) (f : Thread → Thread) (hf : f { status := .absent } = { status := .absent }) (i : Nat) :
    ({ g with threads := g.threads.map f } : Group).thread i = f (g.thread i) := by
  unfold Group.thread
  rw [List.getD_eq_getElem?_getD, List.getD_eq_getElem?_getD, List.getElem?_map]
  cases g.threads[i]? with
  | none => exact hf.symm
  | some t => rfl

/-! ### The journal -/

/-- Values that enter the journal one after another change their core's journal alone, the latest first (R350). -/
theorem State.foldl_journal (core : Nat) (ws : List Word) : ∀ s : State,
    { ws.foldl (fun s w => s.journal core w) s with cores := s.cores } = s ∧
    ∀ k, (ws.foldl (fun s w => s.journal core w) s).core k = if k = core then
      { s.core k with journal := (ws.map fun w => (s.now k, w)).reverse ++ (s.core k).journal } else s.core k := by
  induction ws with
  | nil => intro s; exact ⟨rfl, fun k => by by_cases e : k = core <;> simp [e]⟩
  | cons w ws ih =>
    intro s
    obtain ⟨hrest, hcore⟩ := ih (s.journal core w)
    refine ⟨congrArg (fun x : State => { x with cores := s.cores }) hrest, fun k => ?_⟩
    rw [List.foldl_cons, hcore]
    unfold State.journal
    by_cases e : k = core
    · subst e; simp
    · simp [State.core_mapCore, e]

/-- What recording a result leaves: the values of one from outside in the core's journal. -/
theorem State.journalOut_spec (s : State) (core : Nat) (o : OutRes) :
    { s.journalOut core o with cores := s.cores } = s ∧
    ∀ k, (s.journalOut core o).core k = if o.ext = true ∧ k = core then
      { s.core k with journal := (o.vals.map fun w => (s.now k, w)).reverse ++ (s.core k).journal } else s.core k := by
  unfold State.journalOut
  by_cases he : o.ext = true
  · simpa [he] using State.foldl_journal core o.vals s
  · simp [he]

theorem State.journalOut_teams (s : State) (core : Nat) (o : OutRes) : (s.journalOut core o).teams = s.teams := by
  have h := congrArg State.teams (State.journalOut_spec s core o).1; exact h
theorem State.journalOut_ports (s : State) (core : Nat) (o : OutRes) : (s.journalOut core o).ports = s.ports := by
  have h := congrArg State.ports (State.journalOut_spec s core o).1; exact h
@[simp] theorem State.journalOut_team? (s : State) (core : Nat) (o : OutRes) (i : Nat) : (s.journalOut core o).team? i = s.team? i := by
  unfold State.team?; rw [State.journalOut_teams]
@[simp] theorem State.journalOut_port (s : State) (core : Nat) (o : OutRes) (a : Nat) : (s.journalOut core o).port a = s.port a := by
  unfold State.port; rw [State.journalOut_ports]

/-! ### Registers written one after another -/

section Writes
variable {σ : Type} {write : σ → Nat → Word → σ} {read : σ → Nat → Word} {may : Nat → Prop} [DecidablePred may]
  (law : ∀ s i j x, read (write s i x) j = if j = i ∧ may j then x else read s j)
include law

/-- A register that is not among those written. -/
theorem read_foldl_of_not_mem (ws : List (Nat × Word)) : ∀ s j, j ∉ ws.map (·.1) → read (ws.foldl (fun s w => write s w.1 w.2) s) j = read s j := by
  induction ws with
  | nil => intro s j _; rfl
  | cons w ws ih =>
    intro s j hj
    simp only [List.map_cons, List.mem_cons, not_or] at hj
    rw [List.foldl_cons, ih _ _ hj.2, law, if_neg fun h => hj.1 h.1]

/-- A register that is written once. -/
theorem read_foldl_of_mem (ws : List (Nat × Word)) : ∀ s j x, (ws.map (·.1)).Nodup → (j, x) ∈ ws → may j →
    read (ws.foldl (fun s w => write s w.1 w.2) s) j = x := by
  induction ws with
  | nil => intro s j x _ h; cases h
  | cons w ws ih =>
    intro s j x hn hm hj
    obtain ⟨hw, hn⟩ := List.nodup_cons.mp hn
    rw [List.foldl_cons]
    rcases List.mem_cons.mp hm with rfl | hm
    · rw [read_foldl_of_not_mem law ws _ _ hw, law, if_pos ⟨rfl, hj⟩]
    · exact ih _ _ _ hn hm hj

/-- Registers `js` written with `xs`, read elsewhere. -/
theorem read_foldl_zip_of_not_mem (js : List Nat) (xs : List Word) (s : σ) {j : Nat} (hj : j ∉ js) :
    read ((js.zip xs).foldl (fun s w => write s w.1 w.2) s) j = read s j :=
  read_foldl_of_not_mem law _ s j fun h => by
    obtain ⟨⟨i, x⟩, hx, rfl⟩ := List.mem_map.mp h
    exact hj (List.of_mem_zip hx).1

/-- Different registers `js` written with `xs`, read back. -/
theorem read_foldl_zip_of_getElem? {js : List Nat} {xs : List Word} (s : σ) (hn : js.Nodup) (hl : js.length = xs.length) {k j : Nat} {x : Word}
    (hk : js[k]? = some j) (hx : xs[k]? = some x) (hj : may j) : read ((js.zip xs).foldl (fun s w => write s w.1 w.2) s) j = x := by
  refine read_foldl_of_mem law _ s j x ?_ (List.mem_of_getElem? (List.getElem?_zip_eq_some.mpr ⟨hk, hx⟩)) hj
  exact (List.map_fst_zip (Nat.le_of_eq hl)).symm ▸ hn

end Writes

theorem Thread.writeVs_eq_foldl (js : List Nat) : ∀ (xs : List Word) (t : Thread),
    t.writeVs js xs = (js.zip xs).foldl (fun t w => t.writeV w.1 w.2) t := by
  induction js with
  | nil => intro xs t; rfl
  | cons j js ih =>
    intro xs t
    cases xs with
    | nil => rfl
    | cons x xs => exact ih xs _

theorem Group.writeKs_eq_foldl (js : List Nat) : ∀ (xs : List Word) (g : Group),
    g.writeKs js xs = (js.zip xs).foldl (fun g w => g.writeK w.1 w.2) g := by
  induction js with
  | nil => intro xs g; rfl
  | cons j js ih =>
    intro xs g
    cases xs with
    | nil => rfl
    | cons x xs => exact ih xs _

/-- Writing registers leaves the rest of a thread. -/
theorem Thread.writeVs_rest (js : List Nat) : ∀ (xs : List Word) (t : Thread),
    ∃ v hv sp po, t.writeVs js xs = { t with v := v, hv := hv, spec := sp, poison := po } := by
  induction js with
  | nil => intro xs t; exact ⟨_, _, _, _, rfl⟩
  | cons j js ih =>
    intro xs t
    cases xs with
    | nil => exact ⟨_, _, _, _, rfl⟩
    | cons x xs =>
      obtain ⟨v, hv, sp, po, h⟩ := ih xs (t.writeV j x)
      exact ⟨v, hv, sp, po, h.trans (by rw [Thread.writeV_rest t j x])⟩

/-- Writing `k` registers leaves the rest of a group. -/
theorem Group.writeKs_rest (js : List Nat) : ∀ (xs : List Word) (g : Group),
    ∃ k hk kp, g.writeKs js xs = { g with k := k, hk := hk, kpoison := kp } := by
  induction js with
  | nil => intro xs g; exact ⟨_, _, _, rfl⟩
  | cons j js ih =>
    intro xs g
    cases xs with
    | nil => exact ⟨_, _, _, rfl⟩
    | cons x xs =>
      obtain ⟨k, hk, kp, h⟩ := ih xs (g.writeK j x)
      exact ⟨k, hk, kp, h.trans (by rw [Group.writeK_rest g j x])⟩

end Sys2Proof.Machine
end

section
/-! O24: a long-latency result that is available is written (R25, R26, R122, R125, R332, R350, R356). -/
namespace Sys2Proof.Machine
open Sys2Proof

/-! ### A result delivered -/

/-- The values of a ready result. -/
theorem OutRes.vals_of_ready {o : OutRes} {vs : List Word} (h : o.kind = .ready vs) : o.vals = vs := by unfold OutRes.vals; rw [h]

/-- Delivery writes a thread's registers and takes the result off the outstanding ones. -/
theorem Thread.deliver_rest (t : Thread) (o : OutRes) :
    ∃ v hv po, t.deliver o = { t with v := v, hv := hv, poison := po, out := t.out.erase o } := by
  obtain ⟨v, hv, sp, po, h⟩ := Thread.writeVs_rest o.dst o.vals t
  exact ⟨v, hv, po, by unfold Thread.deliver; rw [h]⟩

@[simp] theorem Thread.deliver_out (t : Thread) (o : OutRes) : (t.deliver o).out = t.out.erase o := by
  obtain ⟨v, hv, po, h⟩ := Thread.deliver_rest t o; rw [h]
@[simp] theorem Thread.deliver_status (t : Thread) (o : OutRes) : (t.deliver o).status = t.status := by
  obtain ⟨v, hv, po, h⟩ := Thread.deliver_rest t o; rw [h]
@[simp] theorem Thread.deliver_pc (t : Thread) (o : OutRes) : (t.deliver o).pc = t.pc := by
  obtain ⟨v, hv, po, h⟩ := Thread.deliver_rest t o; rw [h]

theorem Thread.deliver_readV (t : Thread) (o : OutRes) (j : Nat) :
    (t.deliver o).readV j = ((o.dst.zip o.vals).foldl (fun t w => t.writeV w.1 w.2) t).readV j := by
  rw [← Thread.writeVs_eq_foldl]; rfl

/-- A write of a `v` register as the general lemmas on registers have it. -/
theorem Thread.readV_writeV_law (t : Thread) (i j : Nat) (x : Word) : (t.writeV i x).readV j = if j = i ∧ True then x else t.readV j := by
  simp [Thread.readV_writeV]

/-- Registers that are no destination are as before. -/
theorem Thread.deliver_readV_of_not_mem (t : Thread) (o : OutRes) {j : Nat} (hj : j ∉ o.dst) : (t.deliver o).readV j = t.readV j := by
  rw [Thread.deliver_readV]; exact read_foldl_zip_of_not_mem Thread.readV_writeV_law _ _ _ hj

/-- Different destinations hold the values. -/
theorem Thread.deliver_readV_of_getElem? (t : Thread) (o : OutRes) (hn : o.dst.Nodup) (hl : o.dst.length = o.vals.length) {k j : Nat} {x : Word}
    (hk : o.dst[k]? = some j) (hx : o.vals[k]? = some x) : (t.deliver o).readV j = x := by
  rw [Thread.deliver_readV]; exact read_foldl_zip_of_getElem? Thread.readV_writeV_law _ hn hl hk hx trivial

/-- Delivery of a uniform result writes a group's registers, takes the result off the outstanding ones and closes its windows. -/
theorem Group.deliverK_rest (g : Group) (o : OutRes) : ∃ k hk kp, g.deliverK o = { g with
    k := k, hk := hk, kpoison := kp, kout := g.kout.erase o
    threads := g.threads.map fun t => { t with out := t.out.filter fun x => x.kind != .uniform o.tag } } := by
  obtain ⟨k, hk, kp, h⟩ := Group.writeKs_rest o.dst o.vals g
  exact ⟨k, hk, kp, by unfold Group.deliverK; rw [h]⟩

@[simp] theorem Group.deliverK_kout (g : Group) (o : OutRes) : (g.deliverK o).kout = g.kout.erase o := by
  obtain ⟨k, hk, kp, h⟩ := Group.deliverK_rest g o; rw [h]
@[simp] theorem Group.deliverK_thread (g : Group) (o : OutRes) (i : Nat) :
    (g.deliverK o).thread i = { g.thread i with out := (g.thread i).out.filter fun x => x.kind != .uniform o.tag } := by
  obtain ⟨k, hk, kp, h⟩ := Group.deliverK_rest g o
  rw [h]; exact Group.thread_map g _ rfl i

theorem Group.deliverK_readK (g : Group) (o : OutRes) (j : Nat) :
    (g.deliverK o).readK j = ((o.dst.zip o.vals).foldl (fun g w => g.writeK w.1 w.2) g).readK j := by
  rw [← Group.writeKs_eq_foldl]; rfl

/-- Registers that are no destination are as before. -/
theorem Group.deliverK_readK_of_not_mem (g : Group) (o : OutRes) {j : Nat} (hj : j ∉ o.dst) : (g.deliverK o).readK j = g.readK j := by
  rw [Group.deliverK_readK]; exact read_foldl_zip_of_not_mem Group.readK_writeK _ _ _ hj

/-- Different destinations but `k0` hold the values. -/
theorem Group.deliverK_readK_of_getElem? (g : Group) (o : OutRes) (hn : o.dst.Nodup) (hl : o.dst.length = o.vals.length) {k j : Nat} {x : Word}
    (hk : o.dst[k]? = some j) (hj : j ≠ 0) (hx : o.vals[k]? = some x) : (g.deliverK o).readK j = x := by
  rw [Group.deliverK_readK]; exact read_foldl_zip_of_getElem? Group.readK_writeK _ hn hl hk hx hj

/-! ### Entering a handler -/

/-- A group is drained when neither it nor a thread of it has a result outstanding (R332). -/
theorem Group.drained_iff (g : Group) : g.drained = true ↔ g.kout = [] ∧ ∀ i, (g.thread i).out = [] := by
  simp only [Group.drained, Bool.and_eq_true, List.isEmpty_iff, List.all_eq_true]
  refine and_congr_right fun _ => ⟨fun h i => ?_, fun h t ht => ?_⟩
  · unfold Group.thread
    rw [List.getD_eq_getElem?_getD]
    cases e : g.threads[i]? with
    | none => rfl
    | some t => exact h t (List.mem_of_getElem? e)
  · obtain ⟨i, hi, rfl⟩ := List.getElem_of_mem ht
    have := h i
    rwa [Group.thread, List.getD_eq_getElem?_getD, List.getElem?_eq_getElem hi, Option.getD_some] at this

/-- A group as `State.enterIfDrained` leaves it. -/
def Group.entered (g : Group) (vec : VAddr) : Group :=
  if g.drained = true ∧ g.pending ≠ .none then g.enter vec (decide (g.pending = .team)) else g

/-- The handler of a group that waits for nothing more is entered, and nothing else changes (R332). -/
theorem State.enterIfDrained_only {s : State} {t : Team} {g : Group} (ht : s.team? t.id = some t) (hg : t.group? g.idx = some g) :
    ∃ T, OnlyTeam s (s.enterIfDrained t.id g.idx) t.id T ∧ OnlyGroup t T g.idx (g.entered (s.port t.asid).trapVec) := by
  have hstay : OnlyTeam s s t.id t ∧ OnlyGroup t t g.idx g := ⟨⟨rfl, ht, fun _ _ => rfl⟩, ⟨rfl, hg, fun _ _ => rfl⟩⟩
  have henter := fun b => State.mapGroup_only ht hg (fun g => g.enter (s.port t.asid).trapVec b) fun _ => rfl
  unfold State.enterIfDrained Group.entered
  rw [ht]; dsimp only; rw [hg]; dsimp only
  by_cases hd : g.drained = true
  · cases hp : g.pending with
    | none => simpa [hd, hp] using ⟨t, hstay⟩
    | own => simpa [hd, hp] using henter false
    | team => simpa [hd, hp] using henter true
  · simpa [hd] using ⟨t, hstay⟩

@[simp] theorem Thread.toHandler_out (vec : VAddr) (t : Thread) : (t.toHandler vec).out = t.out := by unfold Thread.toHandler; dsimp only; split <;> rfl
@[simp] theorem Thread.toHandler_spec (vec : VAddr) (t : Thread) : (t.toHandler vec).spec = t.spec := by unfold Thread.toHandler; dsimp only; split <;> rfl
@[simp] theorem Thread.toHandler_readV (vec : VAddr) (t : Thread) (j : Nat) : (t.toHandler vec).readV j = t.readV j := by
  unfold Thread.toHandler; dsimp only; split <;> rfl

/-- A running or parked thread runs from the handler's address and will go back to where it stands (R332). -/
theorem Thread.toHandler_of_awake (vec : VAddr) {t : Thread} (h : t.status = .running ∨ t.status = .parked) :
    (t.toHandler vec).status = .running ∧ (t.toHandler vec).pc = vec ∧ (t.toHandler vec).resume = some t.pc := by
  unfold Thread.toHandler
  rcases h with h | h <;> simp [h]

@[simp] theorem Group.enter_thread (g : Group) (vec : VAddr) (b : Bool) (i : Nat) : (g.enter vec b).thread i = (g.thread i).toHandler vec :=
  Group.thread_map g _ rfl i

/-- What entering a handler leaves of a group. -/
theorem Group.entered_keeps (g : Group) (vec : VAddr) :
    (g.entered vec).kout = g.kout ∧ (g.entered vec).k = g.k ∧ (g.entered vec).hk = g.hk ∧ (g.entered vec).kpoison = g.kpoison := by
  unfold Group.entered; split <;> exact ⟨rfl, rfl, rfl, rfl⟩
theorem Group.entered_readK (g : Group) (vec : VAddr) (j : Nat) : (g.entered vec).readK j = g.readK j := by
  unfold Group.entered; split <;> rfl
/-- What entering a handler leaves of a thread. -/
theorem Group.entered_thread (g : Group) (vec : VAddr) (i : Nat) :
    ((g.entered vec).thread i).out = (g.thread i).out ∧ ((g.entered vec).thread i).spec = (g.thread i).spec ∧
      ∀ j, ((g.entered vec).thread i).readV j = (g.thread i).readV j := by
  unfold Group.entered; split
  · simp
  · exact ⟨rfl, rfl, fun _ => rfl⟩

/-! ### LONG_LATENCY_RESULT -/

/-- The group with the result `o` of position `pos` delivered. -/
def Group.received (g : Group) (pos : Nat) (o : OutRes) : Group :=
  if pos < 32 then g.setThread pos ((g.thread pos).deliver o) else g.deliverK o

@[simp] theorem Group.received_idx (g : Group) (pos : Nat) (o : OutRes) : (g.received pos o).idx = g.idx := by
  unfold Group.received; split
  · rfl
  · obtain ⟨k, hk, kp, h⟩ := Group.deliverK_rest g o; rw [h]
@[simp] theorem Group.received_pending (g : Group) (pos : Nat) (o : OutRes) : (g.received pos o).pending = g.pending := by
  unfold Group.received; split
  · rfl
  · obtain ⟨k, hk, kp, h⟩ := Group.deliverK_rest g o; rw [h]

/-- Of its own fields, delivery changes the `k` registers and the outstanding uniform results of a group alone. -/
theorem Group.received_rest (g : Group) (pos : Nat) (o : OutRes) :
    { g.received pos o with threads := g.threads, k := g.k, hk := g.hk, kout := g.kout, kpoison := g.kpoison } = g := by
  unfold Group.received; split
  · rfl
  · obtain ⟨k, hk, kp, h⟩ := Group.deliverK_rest g o; rw [h]

/-- The threads after a thread's result is delivered. -/
theorem Group.received_thread {g : Group} {pos : Nat} {o : OutRes} (hpos : pos < 32) (hl : pos < g.threads.length) (i : Nat) :
    (g.received pos o).thread i = if i = pos then (g.thread pos).deliver o else g.thread i := by
  unfold Group.received; rw [if_pos hpos, Group.thread_setThread hl]

/-- A poisoned result kills the gang (R356). -/
theorem longLatencyResult_poisoned {s : State} {t : Team} {g : Group} {pos : Nat} {o : OutRes} (ht : s.team? t.id = some t)
    (hg : t.group? g.idx = some g) (ho : (if pos < 32 then (g.thread pos).out else g.kout).find? (fun o => o.due && s.outRoom t.core o) = some o)
    {va : VAddr} (hk : o.kind = .poisoned va) : exec (.longLatencyResult t.id g.idx pos) s = .next (s.killGangOf t.id 0x11 va) := by
  show execLongLatencyResult t.id g.idx pos s = _
  unfold execLongLatencyResult
  simp only [ht, hg, ho, hk]

/-- A ready one is journalled and delivered, and its group's handler entered where nothing else is waited for. -/
theorem longLatencyResult_ready {s : State} {t : Team} {g : Group} {pos : Nat} {o : OutRes} (ht : s.team? t.id = some t)
    (hg : t.group? g.idx = some g) (ho : (if pos < 32 then (g.thread pos).out else g.kout).find? (fun o => o.due && s.outRoom t.core o) = some o)
    {vs : List Word} (hk : o.kind = .ready vs) : exec (.longLatencyResult t.id g.idx pos) s =
      .next (((s.journalOut t.core o).mapGroup t.id g.idx fun g => g.received pos o).enterIfDrained t.id g.idx) := by
  show execLongLatencyResult t.id g.idx pos s = _
  unfold execLongLatencyResult
  simp only [ht, hg, ho, hk]; rfl

/-- The one team and group such a result alters, from the state with its values in the journal. -/
theorem longLatencyResult_only {s : State} {t : Team} {g : Group} (pos : Nat) (o : OutRes) (ht : s.team? t.id = some t) (hg : t.group? g.idx = some g) :
    ∃ T, OnlyTeam (s.journalOut t.core o) (((s.journalOut t.core o).mapGroup t.id g.idx fun g => g.received pos o).enterIfDrained t.id g.idx) t.id T ∧
      OnlyGroup t T g.idx ((g.received pos o).entered (s.port t.asid).trapVec) := by
  have ht' : (s.journalOut t.core o).team? t.id = some t := by rw [State.journalOut_team?, ht]
  obtain ⟨T, hT, hG⟩ := State.mapGroup_only ht' hg (fun g => g.received pos o) fun h => h.received_idx pos o
  have hid : T.id = t.id := State.team?_id hT.self
  have hidx : (g.received pos o).idx = g.idx := g.received_idx pos o
  have hasid : T.asid = t.asid := by have := congrArg Team.asid hG.rest; exact this
  obtain ⟨U, hU, hH⟩ := State.enterIfDrained_only (hid ▸ hT.self) (hidx ▸ hG.self)
  rw [hid, hidx] at hU
  rw [hidx, hasid, State.mapGroup_port, State.journalOut_port] at hH
  exact ⟨U, hT.trans hU, hG.trans hH⟩

/-- After the delivery a group waits for nothing more where it waited for this result alone. -/
theorem Group.received_drained_iff {g : Group} {pos : Nat} {o : OutRes} (hmem : o ∈ if pos < 32 then (g.thread pos).out else g.kout)
    (hl : pos < 32 → pos < g.threads.length) : (g.received pos o).drained = true ↔
      (pos < 32 → g.kout = [] ∧ (g.thread pos).out = [o] ∧ ∀ i, i ≠ pos → (g.thread i).out = []) ∧
      (32 ≤ pos → g.kout = [o] ∧ ∀ i x, x ∈ (g.thread i).out → x.kind = .uniform o.tag) := by
  rw [Group.drained_iff]
  by_cases hpos : pos < 32
  · rw [if_pos hpos] at hmem
    have herase : (g.thread pos).out.erase o = [] ↔ (g.thread pos).out = [o] := by
      rw [List.erase_eq_nil_iff]; exact or_iff_right (List.ne_nil_of_mem hmem)
    have hkout : (g.received pos o).kout = g.kout := by unfold Group.received; rw [if_pos hpos]; rfl
    simp only [hkout, Group.received_thread hpos (hl hpos), hpos, true_implies, Nat.not_le.mpr hpos, false_implies, and_true]
    refine and_congr_right fun _ => ⟨fun h => ⟨?_, fun i hi => ?_⟩, fun ⟨h, h'⟩ i => ?_⟩
    · simpa [herase] using h pos
    · simpa [hi] using h i
    · by_cases hi : i = pos
      · simp [hi, h]
      · simp [hi, h' i hi]
  · rw [if_neg hpos] at hmem
    have herase : g.kout.erase o = [] ↔ g.kout = [o] := by
      rw [List.erase_eq_nil_iff]; exact or_iff_right (List.ne_nil_of_mem hmem)
    have hrec : g.received pos o = g.deliverK o := if_neg hpos
    simp [hrec, hpos, Nat.le_of_not_lt hpos, herase]

section Delivered
variable {s : State} {t : Team} {g : Group} {pos : Nat} {o : OutRes} (vec : VAddr)

/-- A thread's result, once delivered, is in its registers and outstanding no more; the others of the group read as before (R25). -/
theorem Group.received_entered_of_thread (hpos : pos < 32) (hl : pos < g.threads.length) {vs : List Word} (hk : o.kind = .ready vs) :
    let h := (g.received pos o).entered vec
    h.kout = g.kout ∧ h.k = g.k ∧ h.hk = g.hk ∧ h.kpoison = g.kpoison ∧
    (∀ i j, i ≠ pos → (h.thread i).readV j = (g.thread i).readV j) ∧
    (pos < g.threads.length → (h.thread pos).out = (g.thread pos).out.erase o ∧ (h.thread pos).spec = (g.thread pos).spec ∧
      (∀ j, j ∉ o.dst → (h.thread pos).readV j = (g.thread pos).readV j) ∧
      (o.dst.Nodup → o.dst.length = vs.length → ∀ (k j : Nat) (x : Word), o.dst[k]? = some j → vs[k]? = some x → (h.thread pos).readV j = x)) := by
  intro h
  have hvals := OutRes.vals_of_ready hk
  have hrec : g.received pos o = g.setThread pos ((g.thread pos).deliver o) := if_pos hpos
  obtain ⟨hkout, hk, hhk, hkp⟩ := Group.entered_keeps (g.received pos o) vec
  have hth := fun i => Group.entered_thread (g.received pos o) vec i
  have hself : (g.received pos o).thread pos = (g.thread pos).deliver o := by rw [Group.received_thread hpos hl, if_pos rfl]
  refine ⟨hkout.trans (by rw [hrec]; rfl), hk.trans (by rw [hrec]; rfl), hhk.trans (by rw [hrec]; rfl), hkp.trans (by rw [hrec]; rfl),
    fun i j hi => ?_, fun _ => ?_⟩
  · rw [(hth i).2.2, Group.received_thread hpos hl, if_neg hi]
  · obtain ⟨hout, hspec, hread⟩ := hth pos
    rw [hself] at hout hspec
    refine ⟨hout.trans (Thread.deliver_out _ _), hspec, fun j hj => ?_, fun hn hlen k j x hk hx => ?_⟩
    · rw [hread, hself, Thread.deliver_readV_of_not_mem _ _ hj]
    · rw [hread, hself, Thread.deliver_readV_of_getElem? _ _ hn (hvals.symm ▸ hlen) hk (hvals.symm ▸ hx)]

/-- A uniform result, once delivered, is in its registers and outstanding no more, and its windows are closed (R122). -/
theorem Group.received_entered_of_uniform (hpos : 32 ≤ pos) {vs : List Word} (hk : o.kind = .ready vs) :
    let h := (g.received pos o).entered vec
    h.kout = g.kout.erase o ∧ (∀ j, j ∉ o.dst → h.readK j = g.readK j) ∧
    (o.dst.Nodup → o.dst.length = vs.length → ∀ (k j : Nat) (x : Word), o.dst[k]? = some j → j ≠ 0 → vs[k]? = some x → h.readK j = x) ∧
    ∀ i, (h.thread i).out = (g.thread i).out.filter fun x => x.kind != .uniform o.tag := by
  intro h
  have hvals := OutRes.vals_of_ready hk
  have hrec : g.received pos o = g.deliverK o := if_neg (Nat.not_lt.mpr hpos)
  have hread : ∀ j, h.readK j = (g.deliverK o).readK j := fun j => by rw [Group.entered_readK, hrec]
  refine ⟨(Group.entered_keeps _ vec).1.trans (by rw [hrec, Group.deliverK_kout]), fun j hj => ?_, fun hn hl k j x hk hj hx => ?_, fun i => ?_⟩
  · rw [hread, Group.deliverK_readK_of_not_mem g o hj]
  · rw [hread, Group.deliverK_readK_of_getElem? g o hn (hvals.symm ▸ hl) hk hj (hvals.symm ▸ hx)]
  · rw [(Group.entered_thread _ vec i).1, hrec, Group.deliverK_thread]

/-- Where no handler is entered the rest of the group and of its threads stands as it was. -/
theorem Group.received_entered_of_stays (hl : pos < 32 → pos < g.threads.length)
    (hstay : ¬ ((g.received pos o).drained = true ∧ g.pending ≠ .none)) :
    let h := (g.received pos o).entered vec
    { h with threads := g.threads, k := g.k, hk := g.hk, kout := g.kout, kpoison := g.kpoison } = g ∧
    (pos < 32 → (h.thread pos).pc = (g.thread pos).pc ∧ ∀ i, i ≠ pos → h.thread i = g.thread i) ∧
    (32 ≤ pos → ∀ i, h.thread i = { g.thread i with out := (h.thread i).out }) := by
  intro h
  have hh : h = g.received pos o := if_neg (by rwa [Group.received_pending])
  rw [hh]
  refine ⟨Group.received_rest g pos o, fun hpos => ⟨?_, fun i hi => ?_⟩, fun hpos i => ?_⟩
  · rw [Group.received_thread hpos (hl hpos), if_pos rfl, Thread.deliver_pc]
  · rw [Group.received_thread hpos (hl hpos), if_neg hi]
  · rw [show g.received pos o = g.deliverK o from if_neg (Nat.not_lt.mpr hpos), Group.deliverK_thread]

/-- Delivery leaves a thread's status and where it stands. -/
theorem Group.received_thread_place (hl : pos < 32 → pos < g.threads.length) (i : Nat) :
    ((g.received pos o).thread i).status = (g.thread i).status ∧ ((g.received pos o).thread i).pc = (g.thread i).pc := by
  by_cases hpos : pos < 32
  · rw [Group.received_thread hpos (hl hpos)]
    by_cases hi : i = pos
    · subst hi; simp
    · simp [hi]
  · rw [show g.received pos o = g.deliverK o from if_neg hpos, Group.deliverK_thread]; exact ⟨rfl, rfl⟩

/-- Where the handler is entered the awake threads run from its address (R332). -/
theorem Group.received_entered_of_enters (hl : pos < 32 → pos < g.threads.length)
    (henter : (g.received pos o).drained = true ∧ g.pending ≠ .none) :
    let h := (g.received pos o).entered vec
    h.handler = true ∧ h.pending = .none ∧ h.teamHandler = decide (g.pending = .team) ∧
    ∀ i, (g.thread i).status = .running ∨ (g.thread i).status = .parked →
      (h.thread i).status = .running ∧ (h.thread i).pc = vec ∧ (h.thread i).resume = some (g.thread i).pc := by
  intro h
  have hh : h = (g.received pos o).enter vec (decide (g.pending = .team)) := by
    refine (if_pos ?_).trans (by rw [Group.received_pending])
    rwa [Group.received_pending]
  rw [hh]
  refine ⟨rfl, rfl, rfl, fun i hi => ?_⟩
  obtain ⟨hstatus, hpc⟩ := Group.received_thread_place (o := o) hl i
  rw [Group.enter_thread, ← hpc]
  exact Thread.toHandler_of_awake vec (hstatus.symm ▸ hi)

end Delivered

/-- Settles O24: the event delivers the result to its group and enters the handler where the group waits for nothing more. -/
theorem resultsAreWritten : Obligations.ResultsAreWritten := by
  intro s t g pos o ht hg ho
  refine ⟨fun va hk => longLatencyResult_poisoned ht hg ho hk, fun vs hk => ?_⟩
  intro enters
  have hmem := List.mem_of_find?_eq_some ho
  have hl : pos < 32 → pos < g.threads.length := fun hpos => by
    rw [if_pos hpos] at hmem
    apply Nat.lt_of_not_le; intro hle
    rw [Group.thread, List.getD_eq_getElem?_getD, List.getElem?_eq_none hle, Option.getD_none] at hmem
    cases hmem
  have henters : enters ↔ (g.received pos o).drained = true ∧ g.pending ≠ .none := by
    rw [Group.received_drained_iff hmem hl]; exact and_comm
  have hvals := OutRes.vals_of_ready hk
  obtain ⟨hrest, hcore⟩ := State.journalOut_spec s t.core o
  obtain ⟨T, hT, hG⟩ := longLatencyResult_only pos o ht hg
  refine ⟨_, T, _, longLatencyResult_ready ht hg ho hk, ?_, fun k => ?_, hT.self, fun j hj => ?_, hG,
    fun hpos => Group.received_entered_of_thread _ hpos (hl hpos) hk, fun hpos => Group.received_entered_of_uniform _ hpos hk,
    fun h => Group.received_entered_of_stays _ hl fun h' => h (henters.mpr h'), fun h => Group.received_entered_of_enters _ hl (henters.mp h)⟩
  · have h1 := congrArg (fun x : State => { x with teams := s.teams, cores := s.cores }) hT.rest
    have h2 := congrArg (fun x : State => { x with teams := s.teams }) hrest
    exact h1.trans h2
  · have h1 := congrArg (fun x : State => x.core k) hT.rest
    exact h1.trans (hvals ▸ hcore k)
  · exact (hT.others j hj).trans (State.journalOut_team? s t.core o j)

end Sys2Proof.Machine
end

section
/-! O47: teams and spawned children start at their entry state (R28, R162, R178 to R183). -/
namespace Sys2Proof.Machine
open Sys2Proof

/-! ### Groups and threads at entry -/

/-- A doubleword is joined from its halves. -/
theorem joinWords_halves (x : DWord) : joinWords (x.setWidth 32) ((x >>> 32).setWidth 32) = x := by
  apply BitVec.eq_of_getLsbD_eq
  intro i hi
  simp only [joinWords, BitVec.getLsbD_append, BitVec.getLsbD_setWidth, BitVec.getLsbD_ushiftRight]
  by_cases h : i < 32
  · simp [h]
  · simp [h, show 32 + (i - 32) = i by omega, show i - 32 < 32 by omega]

/-- The first `k` registers of a group at entry (R28). -/
theorem Group.readK_entryK {g : Group} {role : Nat} {addr : DWord} {rest : List Word} (h : g.k = entryK role addr rest) :
    g.readK 1 = BitVec.ofNat 32 role ∧ joinWords (g.readK 2) (g.readK 3) = addr := by
  have h1 : g.readK 1 = BitVec.ofNat 32 role := by unfold Group.readK; rw [h]; rfl
  have h2 : g.readK 2 = addr.setWidth 32 := by unfold Group.readK; rw [h]; rfl
  have h3 : g.readK 3 = (addr >>> 32).setWidth 32 := by unfold Group.readK; rw [h]; rfl
  exact ⟨h1, by rw [h2, h3, joinWords_halves]⟩

/-- A thread at its entry state reads 0 in every register and 1 in `p0` alone (R28). -/
theorem entryThread_spec (pc : VAddr) (regs : Nat) : (entryThread pc regs).status = .running ∧ (entryThread pc regs).pc = pc ∧
    (∀ j, (entryThread pc regs).readV j = 0) ∧ ∀ b j, (entryThread pc regs).readP b j = decide (j = 0) := by
  have hzero : ∀ n i, (List.replicate n (0 : Word)).getD i 0 = 0 := fun n i => by
    rw [List.getD_eq_getElem?_getD, List.getElem?_replicate]; split <;> rfl
  refine ⟨rfl, rfl, fun j => ?_, fun b j => ?_⟩
  · unfold Thread.readV entryThread
    split
    · exact hzero _ _
    · exact hzero 8 _
  · have hp : (if b = true then (entryThread pc regs).hp else (entryThread pc regs).p) = 1#8 := by cases b <;> rfl
    rw [Thread.readP, hp, BitVec.getLsbD_one]; simp

/-! ### A cluster placed -/

/-- A team of a launch is at its entry state (R28, R138, R167, R276). -/
theorem State.freshTeam_entry (s : State) (l : Launch) (id age index core k m : Nat) (cores : List Nat) {g : Group}
    (hg : g ∈ (s.freshTeam l id age index core k m cores).groups) : ∃ r, l.groupRoles[g.idx]? = some r ∧ g.role = l.roleKind r ∧
      g.regs = l.roleRegs r ∧ g.handler = false ∧ g.readK 1 = BitVec.ofNat 32 (l.roleKind r) ∧
      joinWords (g.readK 2) (g.readK 3) = l.addr.signExtend 64 ∧ ∀ i, i < 32 → (g.thread i).status = .running ∧
        (g.thread i).pc = BitVec.ofNat 56 (l.roleEntry r) ∧ (∀ j, (g.thread i).readV j = 0) ∧ ∀ b j, (g.thread i).readP b j = decide (j = 0) := by
  obtain ⟨n, hn, rfl⟩ := List.mem_mapIdx.mp hg
  refine ⟨l.groupRoles[n], List.getElem?_eq_getElem hn, rfl, rfl, rfl, (Group.readK_entryK rfl).1, (Group.readK_entryK rfl).2, fun i hi => ?_⟩
  have : ∀ t : Thread, (List.replicate 32 t).getD i { status := .absent } = t := fun t => by
    rw [List.getD_eq_getElem?_getD, List.getElem?_replicate, if_pos hi]; rfl
  unfold Group.thread
  rw [this]
  exact entryThread_spec _ _

/-- A member without a saved image is placed at its entry state. -/
theorem State.placeMember_fresh (s : State) {l : Launch} (hs : l.saved = []) (k m age : Nat) (cores : List Nat) : ∃ (v : State) (id : Nat),
    (s.placeMember l k m age cores).teams = s.teams ++ [v.freshTeam l id age (k * l.clusterSize + m) (cores.getD m 0) k m cores] ∧
    (s.placeMember l k m age cores).mem = s.mem := by
  refine ⟨{ s with fresh := s.fresh + 1 }, s.fresh, ?_⟩
  unfold State.placeMember; rw [hs]; exact ⟨rfl, rfl⟩

/-- The members of a cluster that are to be placed, one after another. -/
theorem State.placeMembers_spec {l : Launch} (hs : l.saved = []) (k age : Nat) (spot : List Nat) (may : Nat → Bool) (ms : List Nat) : ∀ s : State,
    let u := ms.foldl (fun s m => if may m then s.placeMember l k m age spot else s) s
    ∃ new, u.teams = s.teams ++ new ∧ u.mem = s.mem ∧
      new.map (fun t => (t.index, t.member, t.core)) = (ms.filter may).map (fun m => (k * l.clusterSize + m, m, spot.getD m 0)) ∧
      ∀ t, t ∈ new → ∃ (v : State) (id m : Nat), t = v.freshTeam l id age (k * l.clusterSize + m) (spot.getD m 0) k m spot := by
  induction ms with
  | nil => intro s; exact ⟨[], (List.append_nil _).symm, rfl, rfl, fun t h => by cases h⟩
  | cons m ms ih =>
    intro s
    rw [List.foldl_cons]
    by_cases hm : may m = true
    · rw [if_pos hm, List.filter_cons_of_pos hm]
      obtain ⟨v, id, hteam, hmem⟩ := State.placeMember_fresh s hs k m age spot
      obtain ⟨new, hteams, hmem', hnew, hfresh⟩ := ih (s.placeMember l k m age spot)
      refine ⟨v.freshTeam l id age (k * l.clusterSize + m) (spot.getD m 0) k m spot :: new, ?_, hmem'.trans hmem, ?_, fun t ht => ?_⟩
      · rw [hteams, hteam, List.append_assoc]; rfl
      · rw [List.map_cons, hnew]; rfl
      · rcases List.mem_cons.mp ht with rfl | ht
        · exact ⟨v, id, m, rfl⟩
        · exact hfresh t ht
    · rw [if_neg hm, List.filter_cons_of_neg hm]
      exact ih s

/-- A cluster none of whose members is saved loads nothing. -/
theorem State.loadCluster_of_unsaved (s : State) {l : Launch} (hs : l.saved = []) (k : Nat) : s.loadCluster l k = some l := by
  unfold State.loadCluster
  induction l.clusterIndices k with
  | nil => rfl
  | cons i is ih =>
    rw [List.foldl_cons, Option.bind_some, hs]
    exact ih

/-- TEAM_PLACEMENT of a launch without saved teams places the members of its next cluster, and then changes its port alone. -/
theorem teamPlacement_places {s : State} {asid seq : Nat} {l : Launch} {spot : List Nat} {k : Nat} (hl : s.launch? asid seq = some l)
    (hspot : s.nextSpot l = some spot) (hk : l.nextCluster = some k) (hmay : s.mayPlace l spot = true) (hs : l.saved = []) :
    ∃ f, exec (.teamPlacement asid seq) s = .next ((((List.range l.clusterSize).foldl (fun (s' : State) m =>
      if l.toPlace.contains (k * l.clusterSize + m) then s'.placeMember l k m s.fresh spot else s') { s with fresh := s.fresh + 1 }).mapLaunch asid
        seq f).launchProgress asid seq) := by
  apply Exists.intro
  show execTeamPlacement asid seq s = _
  unfold execTeamPlacement
  simp only [hl, hspot, hk, hmay, if_true, State.loadCluster_of_unsaved s hs]
  rfl

/-- A launch's next cluster is placed at its entry state (R28, R180 to R183). -/
theorem teamPlacement_entry {s : State} {asid seq : Nat} {l : Launch} {spot : List Nat} {k : Nat} (hl : s.launch? asid seq = some l)
    (hspot : s.nextSpot l = some spot) (hk : l.nextCluster = some k) (hmay : s.mayPlace l spot = true) (hs : l.saved = []) :
    let place := (List.range l.clusterSize).filter fun m => l.toPlace.contains (k * l.clusterSize + m)
    ∃ v new, exec (.teamPlacement asid seq) s = .next v ∧ v.teams = s.teams ++ new ∧ v.mem = s.mem ∧
      new.map (fun t => (t.index, t.member, t.core)) = place.map (fun m => (k * l.clusterSize + m, m, spot.getD m 0)) ∧
      ∀ t, t ∈ new → ∃ (v : State) (id age m : Nat), t = v.freshTeam l id age (k * l.clusterSize + m) (spot.getD m 0) k m spot := by
  intro place
  obtain ⟨f, hrun⟩ := teamPlacement_places hl hspot hk hmay hs
  obtain ⟨new, hteams, hmem, hnew, hfresh⟩ := State.placeMembers_spec hs k s.fresh spot (fun m => l.toPlace.contains (k * l.clusterSize + m))
    (List.range l.clusterSize) { s with fresh := s.fresh + 1 }
  exact ⟨_, new, hrun, hteams, hmem, hnew, fun t ht => (hfresh t ht).imp fun v h => h.imp fun id h => ⟨s.fresh, h⟩⟩

/-! ### Spawns that enter their queue -/

/-- What every request that enters the queue keeps, letting them all in keeps (R160). -/
theorem State.spawnProgress_keeps {P : State → Prop} (s : State) (core : Nat) (h : P s)
    (hstep : ∀ t, t ∈ s.teams → ∀ g, g ∈ t.groups → ∀ q, q ∈ g.spawnReqs t.id → ∀ u : State, P u →
      P ((u.mapCore core fun k => { k with spawnQ := k.spawnQ ++ [q.2] }).mapGroup t.id g.idx fun g => g.spawned q.1)) :
    P (s.spawnProgress core) := by
  unfold State.spawnProgress
  refine List.foldlRecOn _ _ h fun u hu t ht => ?_
  refine List.foldlRecOn _ _ hu fun u hu g hg => ?_
  refine List.foldlRecOn _ _ hu fun u hu q hq => ?_
  split
  · exact hu
  · exact hstep t (List.mem_filter.mp ht).1 g hg q hq u hu

theorem State.spawnProgress_mem (s : State) (core : Nat) : (s.spawnProgress core).mem = s.mem :=
  State.spawnProgress_keeps (P := fun u => u.mem = s.mem) s core rfl fun _ _ _ _ _ _ _ hu => hu

theorem State.spawnProgress_buffer (s : State) (core : Nat) : ((s.spawnProgress core).core core).buffer = (s.core core).buffer :=
  State.spawnProgress_keeps (P := fun u => (u.core core).buffer = (s.core core).buffer) s core rfl fun _ _ _ _ _ _ u hu =>
    by rw [State.mapGroup_core, State.core_mapCore_self]; exact hu

/-- A change of another team's group. -/
theorem State.mapGroup_team?_ne (s : State) {i j k : Nat} (f : Group → Group) (hk : k ≠ i) : (s.mapGroup i j f).team? k = s.team? k := by
  have := State.team?_map s (fun t => if t.id == i then { t with groups := t.groups.map fun g => if g.idx == j then f g else g } else t)
    (fun t => by split <;> rfl) k
  refine this.trans ?_
  cases h : s.team? k with
  | none => rfl
  | some t => simp [State.team?_id h, hk]

/-- A team none of whose threads waits to spawn is as before (R160). -/
theorem State.spawnProgress_team? (s : State) (core id : Nat) (h : ∀ t, t ∈ s.teams → t.id = id → ∀ g, g ∈ t.groups → g.spawnReqs t.id = []) :
    (s.spawnProgress core).team? id = s.team? id := by
  refine State.spawnProgress_keeps (P := fun u => u.team? id = s.team? id) s core rfl fun t ht g hg q hq u hu => ?_
  have hne : id ≠ t.id := fun e => by rw [h t ht e.symm g hg] at hq; cases hq
  exact (State.mapGroup_team?_ne _ _ hne).trans hu

/-- A group none of whose threads is blocked has no spawn to make. -/
theorem Group.spawnReqs_eq_nil {g : Group} (h : ∀ t, t ∈ g.threads → t.isBlocked = false) (team : Nat) : g.spawnReqs team = [] := by
  refine List.filterMap_eq_nil_iff.mpr fun x hx => ?_
  have hb := h x.1 (List.fst_mem_of_mem_zipIdx hx)
  unfold Thread.isBlocked at hb
  cases hs : x.1.status <;> simp_all

/-! ### A child placed -/

/-- The threads of a list of `n` and of 32 - `n` others. -/
theorem getD_replicate_append {n i : Nat} (a b c : Thread) (hi : i < 32) :
    (List.replicate n a ++ List.replicate (32 - n) b).getD i c = if i < n then a else b := by
  have hlen : (List.replicate n a).length = n := List.length_replicate
  rw [List.getD_eq_getElem?_getD]
  by_cases h : i < n
  · rw [List.getElem?_append_left (by omega), List.getElem?_replicate, if_pos h, if_pos h, Option.getD_some]
  · rw [List.getElem?_append_right (by omega), List.getElem?_replicate, hlen, if_pos (by omega), if_neg h, Option.getD_some]

/-- The one group of a child at its entry state: as many threads as its descriptor says run from its entry, and the others are absent (R162). -/
theorem State.childTeam_entry (s : State) (q : SpawnReq) (p : Team) (role id age core side : Nat) :
    ∃ g, (s.childTeam q p role id age core side).groups = [g] ∧ (∀ t, t ∈ g.threads → t.isBlocked = false) ∧
      g.regs = descRegs q.desc ∧ g.depth = q.depth ∧
      joinWords (g.readK 2) (g.readK 3) = q.da ∧ joinWords (g.readK 4) (g.readK 5) = q.arg ∧ g.readK 6 = BitVec.ofNat 32 q.pos ∧
      (∀ i, descThreads q.desc ≤ i → i < 32 → (g.thread i).status = .absent) ∧
      ∀ i, i < descThreads q.desc → i < 32 → (g.thread i).status = .running ∧ (g.thread i).pc = BitVec.ofNat 56 (descEntry q.desc) ∧
        ∀ j, (g.thread i).readV j = 0 := by
  refine ⟨_, rfl, fun t ht => ?_, rfl, rfl, (Group.readK_entryK rfl).2, joinWords_halves q.arg, rfl, fun i hn hi => ?_, fun i hn hi => ?_⟩
  · rcases List.mem_append.mp ht with h | h <;> rw [(List.mem_replicate.mp h).2] <;> rfl
  · unfold Group.thread
    rw [getD_replicate_append _ _ _ hi, if_neg (Nat.not_lt.mpr hn)]
  · unfold Group.thread
    rw [getD_replicate_append _ _ _ hi, if_pos hn]
    obtain ⟨hs, hpc, hv, -⟩ := entryThread_spec (BitVec.ofNat 56 (descEntry q.desc)) (descRegs q.desc)
    exact ⟨hs, hpc, hv⟩

/-- A child of a team of this core, placed here (R162). -/
theorem State.placeChild_here {s : State} {q : SpawnReq} {p : Team} (core side : Nat) (hp : s.team? q.parent.team = some p) (hf : s.team? s.fresh = none) :
    ∃ (v : State) (role : Nat), let T := v.childTeam q p role s.fresh (s.fresh + 1) core side
      (s.placeChild q core side false).teams = s.teams ++ [T] ∧ (s.placeChild q core side false).team? s.fresh = some T := by
  refine ⟨{ s with fresh := s.fresh + 1 + 1 }, ((p.group? q.parent.group).map (·.role)).getD 0, ?_⟩
  have hteams : (s.placeChild q core side false).teams = s.teams ++ [({ s with fresh := s.fresh + 1 + 1 } : State).childTeam q p
      (((p.group? q.parent.group).map (·.role)).getD 0) s.fresh (s.fresh + 1) core side] := by
    unfold State.placeChild; rw [hp]; rfl
  refine ⟨hteams, ?_⟩
  unfold State.team? at hf ⊢
  rw [hteams, List.find?_append, hf, Option.none_or]
  exact List.find?_cons_of_pos (p := fun t : Team => t.id == s.fresh) (beq_self_eq_true s.fresh)

/-- The state once a request of a core's own team has left its spawn queue. -/
def State.takeSpawn (s : State) (core : Nat) (q : SpawnReq) : State := s.mapCore core fun k => { k with spawnQ := k.spawnQ.erase q }

/-- CHILD_PLACEMENT of a request of one of the core's own teams. -/
theorem childPlacement_own {s : State} {core rcv side : Nat} {q : SpawnReq} {p : Team} (h : s.placeable core = some (q, rcv, side))
    (hp : s.team? q.parent.team = some p) (hcore : p.core = core) : exec (.childPlacement core) s =
      if rcv = core then .next (((s.takeSpawn core q).placeChild q core side false).spawnProgress core)
      else if s.room core = 0 then .refused .notDue
      else .next (((s.takeSpawn core q).produce core q.parent.team (.spawn rcv q.parent q.desc q.da q.arg q.pos q.depth)).spawnProgress core) := by
  show execChildPlacement core s = _
  unfold execChildPlacement
  have hout : ((s.team? q.parent.team).map fun p => p.core != core).getD false = false := by rw [hp]; simp [hcore]
  rw [h]; dsimp only
  rw [hout]; rfl

/-- A child that finds room on its own core starts there at its entry state (R162). -/
theorem childPlacement_here {s : State} {core side : Nat} {q : SpawnReq} {p : Team} (h : s.placeable core = some (q, core, side))
    (hp : s.team? q.parent.team = some p) (hcore : p.core = core) (hf : s.team? s.fresh = none) :
    ∃ v w role, exec (.childPlacement core) s = .next v ∧ v.team? s.fresh = some (State.childTeam w q p role s.fresh (s.fresh + 1) core side) := by
  obtain ⟨w, role, hteams, hnew⟩ := State.placeChild_here (s := s.takeSpawn core q) core side hp hf
  refine ⟨_, w, role, (childPlacement_own h hp hcore).trans (if_pos rfl), ?_⟩
  rw [State.spawnProgress_team? _ _ _ fun t ht hid g hg => ?_]
  · exact hnew
  · rw [hteams] at ht
    rcases List.mem_append.mp ht with ht | ht
    · exact absurd hid (by simpa using List.find?_eq_none.mp hf t ht)
    · obtain ⟨g', hgroups, hfree, -⟩ := State.childTeam_entry w q p role s.fresh (s.fresh + 1) core side
      rw [List.mem_singleton.mp ht] at hg
      have hg' : g ∈ [g'] := hgroups ▸ hg
      rw [List.mem_singleton.mp hg']
      exact Group.spawnReqs_eq_nil hfree _

/-- A child that finds room on another core is handed over through the settling buffer (R160, R347). -/
theorem childPlacement_there {s : State} {core rcv side : Nat} {q : SpawnReq} {p : Team} (h : s.placeable core = some (q, rcv, side))
    (hp : s.team? q.parent.team = some p) (hcore : p.core = core) (hr : rcv ≠ core) (hroom : 0 < s.room core) :
    ∃ v, exec (.childPlacement core) s = .next v ∧ v.mem = s.mem ∧ (v.core core).buffer = (s.core core).buffer ++
      [Entry.mk ((s.core core).effNo + 1) (s.now core) q.parent.team (.spawn rcv q.parent q.desc q.da q.arg q.pos q.depth)] := by
  refine ⟨_, (childPlacement_own h hp hcore).trans ((if_neg hr).trans (if_neg (by omega))), State.spawnProgress_mem _ _, ?_⟩
  rw [State.spawnProgress_buffer, State.produce, State.core_mapCore_self, State.takeSpawn, State.core_mapCore_self]
  rfl

/-- Settles O47: a cluster placed, and a child placed on its own core or handed to another. -/
theorem teamsStartAtTheirEntryState : Obligations.TeamsStartAtTheirEntryState := by
  refine ⟨fun s asid seq l spot k hl hspot hk hmay hs => ?_, fun s core rcv side q p h hp hcore => ⟨fun hr hf => ?_, fun hr hroom => ?_⟩⟩
  · obtain ⟨v, new, hrun, hteams, hmem, hnew, hfresh⟩ := teamPlacement_entry hl hspot hk hmay hs
    refine ⟨v, new, hrun, hteams, hmem, hnew, fun t ht => ?_⟩
    obtain ⟨w, id, age, m, rfl⟩ := hfresh t ht
    refine ⟨rfl, rfl, rfl, rfl, rfl, rfl, ?_, fun c hc => ?_, List.length_mapIdx, fun g hg => State.freshTeam_entry w l id age _ _ k m spot hg⟩
    · unfold State.freshTeam; cases l.hasTile <;> rfl
    · unfold State.freshTeam at hc
      cases ht : l.hasTile <;> simp [ht] at hc
      subst hc; exact ⟨rfl, rfl⟩
  · subst hr
    obtain ⟨v, w, role, hrun, hT⟩ := childPlacement_here h hp hcore hf
    obtain ⟨g, hgroups, -, hg⟩ := State.childTeam_entry w q p role s.fresh (s.fresh + 1) rcv side
    exact ⟨v, _, g, hrun, hT, rfl, rfl, rfl, rfl, hgroups, hg⟩
  · exact childPlacement_there h hp hcore hr hroom

end Sys2Proof.Machine
end

section
/-! O18: what a step runs in the turn of the paths and in that of the Coopers (R22, R42, R142, R173, R186, R277, R289). -/
namespace Sys2Proof.Machine
open Sys2Proof

/-! ### Turns -/

/-- A list turned to one of its elements begins with it. -/
theorem turned_eq_cons {α : Type} {n : Nat} {l : List α} {x : α} (h : l[n % l.length]? = some x) : ∃ r, turned n l = x :: r := by
  obtain ⟨hlt, rfl⟩ := List.getElem?_eq_some_iff.mp h
  exact ⟨_, by unfold turned; rw [List.drop_eq_getElem_cons hlt, List.cons_append]⟩

/-- A list is turned as its image is. -/
theorem turned_map {α β : Type} (n : Nat) (l : List α) (f : α → β) : turned n (l.map f) = (turned n l).map f := by
  simp [turned, List.map_drop, List.map_take]

/-- The first action that happens is what happens. -/
theorem firstOf_cons {s : State} {f : State → Option Result} {x : Result} (h : f s = some x) (r : List (State → Option Result)) :
    firstOf s (f :: r) = some x := by
  unfold firstOf; rw [h]

/-- When nothing is timed and nothing comes from outside, the class whose turn it is acts, if it can. -/
theorem step_of_class {s : State} {f : State → Option Result} {x : Result} (htimed : firstOf s s.timedActions = none) (hreg : s.regWrites = [])
    (hin : s.inputs = []) (hf : (agentClasses runWords (s.turn / 10))[s.turn % 10]? = some f) (hx : f s = some x) : step s = finish s true x := by
  have hregister : s.tryRegister = none := by unfold State.tryRegister State.nextRegWrite; rw [hreg]; rfl
  have hinput : s.tryInput exec = none := by unfold State.tryInput; rw [hin]
  obtain ⟨r, hr⟩ := turned_eq_cons (n := s.turn) hf
  unfold step schedStep
  rw [htimed]; dsimp only
  rw [hregister]; dsimp only
  rw [hinput]; dsimp only
  rw [hr, firstOf_cons hx]

/-! ### Paths -/

/-- What a side offers it still offers (R141). -/
theorem State.stillOffered_of_mem {s : State} {core side : Nat} {o : Offer} (h : o ∈ s.sideOffers core side) : s.stillOffered o = true := by
  unfold State.sideOffers at h
  obtain ⟨x, -, hx⟩ := List.mem_flatMap.mp h
  split at hx
  · cases hx
  · rename_i t ht
    split at hx
    · cases hx
    · rename_i g hg
      split at hx
      · rename_i hmay
        obtain ⟨l, -, rfl⟩ := List.mem_map.mp hx
        unfold State.stillOffered
        dsimp only
        rw [ht]; dsimp only
        rw [hg]; dsimp only
        rw [hmay]; simp
      · cases hx

/-- A path that fills a slot is the last that issued. -/
theorem Slots.fill_issued (k : Slots) (w : Word) (o : Offer) : (k.fill w o).issued = k.issued ++ [(o.team, o.group)] := by
  unfold Slots.fill; split <;> rfl

/-- Empty slots take any path (R186). -/
theorem Slots.empty_takes (w : Word) (ms : List Nat) : Slots.takes {} w ms = true := by
  unfold Slots.takes; split <;> rfl

/-- The slots after a path tried hold what issued before, and the path if it issued. -/
theorem State.tryPath_issued {run : Runner} {k k' : Slots} {o : Offer} {s : State} {x : Result} (h : State.tryPath run k o s = some (x, some k')) :
    k'.issued = k.issued ++ [(o.team, o.group)] := by
  unfold State.tryPath at h
  split at h
  · cases h
  · split at h
    · cases h
    · split at h
      case h_4 w s' _ =>
        split at h
        · cases h
        · dsimp only at h
          generalize (if isTileWord w = true then _ else _ : Result) = y at h
          split at h
          · split at h <;> cases h
            exact Slots.fill_issued k w o
          all_goals cases h
      all_goals cases h
      rfl

/-- Filling the slots adds to those that issued. -/
theorem State.fillSlots_issued (run : Runner) (os : List Offer) : ∀ (k : Slots) (s : State),
    ∃ l, (State.fillSlots run os k s).2.issued = k.issued ++ l := by
  induction os with
  | nil => intro k s; exact ⟨[], (List.append_nil _).symm⟩
  | cons o os ih =>
    intro k s
    unfold State.fillSlots
    split
    · exact ih k s
    · split
      · exact ih k s
      · rename_i u k' h
        cases k' with
        | none => exact ih k u
        | some k' =>
          obtain ⟨l, hl⟩ := ih k' u
          exact ⟨_, by rw [Option.getD_some, hl, State.tryPath_issued h, List.append_assoc]⟩
      · exact ⟨[], (List.append_nil _).symm⟩

/-- What an offered path's try comes to when its word is fetched and its slot is free, by what running the word comes to. -/
theorem State.tryPath_first {run : Runner} {o : Offer} {s s' : State} {t : Team} {g : Group} {w : Word} {x : Result} (ht : s.team? o.team = some t)
    (hg : t.group? o.group = some g) (hw : s.fetchWord t (g.thread o.lead).pc = .ok w s')
    (hx : (if isTileWord w then execIllegalInstructionWord w { s' with actor := .path o.team o.group o.lead }
      else run w [] { s' with actor := .path o.team o.group o.lead }) = x) :
    (∀ u, x = .next u → hasIssued s u o.team o.group = true → State.tryPath run {} o s = some (.next u, some (Slots.fill {} w o))) ∧
    (∀ f, x = .fault f → State.tryPath run {} o s = some (.fault f, none)) ∧
    ∀ e, x = .refused e → e ≠ .noIssuer → State.tryPath run {} o s = some (.refused e, none) := by
  refine ⟨fun u hu hi => ?_, fun f hf => ?_, fun e he hne => ?_⟩ <;> unfold State.tryPath <;>
    simp only [ht, hg, hw, Slots.empty_takes, Bool.not_true, Bool.false_eq_true, if_false, hx]
  · simp only [hu, hi, if_true]
  · simp only [hf]
  · cases e
    case noIssuer => exact absurd rfl hne
    all_goals simp only [he]

/-- A side whose first offer issues gives its group the side (R186). -/
theorem State.trySides_issues {run : Runner} {core side : Nat} {r : List (Nat × Nat)} {s u v : State} {o : Offer} {more : List Offer} {k k' : Slots}
    (hc : s.coreStalled core = false) (ho : s.sideOffers core side = o :: more) (htry : State.tryPath run {} o s = some (.next u, some k))
    (hfill : State.fillSlots run more k u = (.next v, k')) : State.trySides run ((core, side) :: r) s =
      some (.next (v.mapCore core fun c => { c with current := SMap.put c.current side (o.team, o.group) })) := by
  have hstill : s.stillOffered o = true := State.stillOffered_of_mem (core := core) (side := side) (by rw [ho]; exact List.mem_cons_self)
  have hall : State.fillSlots run (o :: more) {} s = (.next v, k') := by
    unfold State.fillSlots; rw [hstill, htry]; exact hfill
  obtain ⟨l, hl⟩ : ∃ l, k'.issued = (o.team, o.group) :: l := by
    obtain ⟨l, hl⟩ := State.fillSlots_issued run more k u
    rw [hfill, State.tryPath_issued htry] at hl
    exact ⟨l, hl⟩
  unfold State.trySides
  simp only [hc, ho, hall, hl, State.setCurrent, List.isEmpty_cons, Bool.false_eq_true, if_false]

/-- A side whose first offer stops the machine stops it. -/
theorem State.trySides_stops {run : Runner} {core side : Nat} {r : List (Nat × Nat)} {s : State} {o : Offer} {more : List Offer} {x : Result}
    (hc : s.coreStalled core = false) (ho : s.sideOffers core side = o :: more) (htry : State.tryPath run {} o s = some (x, none))
    (hx : ∀ u, x ≠ .next u) : State.trySides run ((core, side) :: r) s = some x := by
  have hstill : s.stillOffered o = true := State.stillOffered_of_mem (core := core) (side := side) (by rw [ho]; exact List.mem_cons_self)
  have hall : State.fillSlots run (o :: more) {} s = (x, {}) := by
    unfold State.fillSlots; rw [hstill, htry]
    cases x with
    | next u => exact absurd rfl (hx u)
    | fault f => rfl
    | refused e => rfl
  unfold State.trySides
  simp only [hc, ho, hall, List.isEmpty_cons, Bool.false_eq_true, if_false]

/-- A word outside the tile stream runs what it decodes to, and any other is an illegal instruction (R42). -/
theorem run_path_word {w : Word} {i : Instr} (s : State) (h : isTileWord w = false ∧ decodeWords [w] = .ok (i, []) ∨
      (isTileWord w = true ∨ ∃ e, decodeWords [w] = .error e) ∧ i = .illegalInstructionWord w) :
    (if isTileWord w then execIllegalInstructionWord w s else runWords w [] s) = exec i s := by
  rcases h with ⟨ht, hd⟩ | ⟨ht, rfl⟩
  · rw [if_neg (by simp [ht])]; unfold runWords; rw [hd]
  · by_cases hw : isTileWord w = true
    · exact if_pos hw
    · obtain ⟨e, he⟩ := ht.resolve_left hw
      rw [if_neg hw]; unfold runWords; rw [he]

/-! ### Coopers -/

/-- A Cooper that may go on runs what its words decode to (R277, R42). -/
theorem State.tryCooper_runs {s s' s'' : State} {t : Team} {k : Cooper} {w : Word} {ext rest : List Word} {i : Instr}
    (ht : s.team? t.id = some t) (hk : t.cooper = some k) (htrap : k.trapped = false) (hstop : k.wait ≠ .stopped) (hheld : s.cooperHeld t = false)
    (hc : s.coreStalled t.core = false) (hw : s.fetchWord t k.cpc = .ok w s') (htile : isTileWord w = true)
    (hext : s'.fetchWords' t (extWords w) (k.cpc + 4) [] = .ok (ext, s''))
    (hd : decodeWords (w :: ext) = .ok (i, rest) ∨ (∃ e, decodeWords (w :: ext) = .error e) ∧ i = .illegalInstructionWord w) :
    State.tryCooper runWords t.id s = acted (exec i { s'' with actor := .cooper t.id }) := by
  have hrun : runWords w ext { s'' with actor := .cooper t.id } = exec i { s'' with actor := .cooper t.id } := by
    unfold runWords
    rcases hd with hd | ⟨⟨e, he⟩, rfl⟩
    · rw [hd]
    · rw [he]
  have hwait : (k.wait == .stopped) = false := by simpa using hstop
  unfold State.tryCooper
  simp only [ht, hk, htrap, hwait, hheld, hc, hw, htile, hext, hrun, Bool.or_self, Bool.false_eq_true, if_false, if_true]

/-- A Cooper is served where it used the tensor core in its turn, or did not use it (R289). -/
theorem State.serveCooper_runs {run : Runner} {s u : State} {t : Team} (ht : s.team? t.id = some t) (h : State.tryCooper run t.id s = some (.next u))
    (hturn : (u.team? t.id).map (·.tensorSpent) = some t.tensorSpent ∨ (s.tensorOrder t.core).head? = some t.id) :
    State.serveCooper run t.id s = some (.next u) := by
  unfold State.serveCooper
  rw [h]; dsimp only
  by_cases hu : usedTensor s u t.id = true
  · have hhead : (s.tensorOrder t.core).head? = some t.id := hturn.resolve_left fun hsame => by
      unfold usedTensor at hu; rw [ht, hsame] at hu; simp at hu
    obtain ⟨l, hl⟩ : ∃ l, s.tensorOrder t.core = t.id :: l := by
      cases e : s.tensorOrder t.core with
      | nil => rw [e] at hhead; cases hhead
      | cons x l => rw [e] at hhead; cases hhead; exact ⟨l, rfl⟩
    simp [hu, ht, hl, h]
  · simp [hu]

/-- Settles O18, the turn of the paths and that of the Coopers apart. -/
theorem stepRunsDecodedInstruction : Obligations.StepRunsDecodedInstruction := by
  constructor
  · intro s s' u v core side r t g o more w i k htimed hreg hin hturn hsides hc ho ht hg hw hi run
    have hstep : ∀ x, State.trySides runWords ((core, side) :: r) s = some x → step s = finish s true x := fun x hx => by
      refine step_of_class htimed hreg hin (f := fun s' => State.trySides runWords (turned (s.turn / 10) s'.sides) s') (by rw [hturn]; rfl) ?_
      rw [hsides]; exact hx
    obtain ⟨hnext, hfault, hrefused⟩ := State.tryPath_first ht hg hw (run_path_word _ hi)
    refine ⟨fun hrun hissued hfill => ?_, fun hrun hissued hmore => ?_, fun f hrun => ?_, fun x hrun hx => ?_⟩
    · exact hstep _ (State.trySides_issues hc ho (hnext u hrun hissued) hfill)
    · subst hmore
      exact hstep _ (State.trySides_issues hc ho (hnext u hrun hissued) rfl)
    · exact hstep _ (State.trySides_stops hc ho (hfault f hrun) fun _ h => by cases h)
    · exact hstep _ (State.trySides_stops hc ho (hrefused x hrun hx) fun _ h => by cases h)
  · intro s s' s'' u t r k w ext rest i htimed hreg hin hturn hteams ht hk htrap hstop hheld hc hw htile hext hd hrun htensor
    have htry := State.tryCooper_runs ht hk htrap hstop hheld hc hw htile hext hd
    rw [hrun] at htry
    refine step_of_class (x := .next u) htimed hreg hin
      (f := fun s' => firstOf s' (turned (s.turn / 10) (s'.teams.map fun t => State.serveCooper runWords t.id))) (by rw [hturn]; rfl) ?_
    rw [turned_map, hteams]
    exact firstOf_cons (State.serveCooper_runs ht htry htensor) _

end Sys2Proof.Machine
end

section
/-! O5: a value that a format holds rounds to itself (R53, R60, R62, R63). -/
namespace Sys2Proof.Machine
open Sys2Proof

/-- A magnitude that is a whole number of units does not go up in any mode (R60). -/
theorem roundUp_exact (md : Rnd) (neg : Bool) (n : Nat) : roundUp md neg n .lt false = false := by
  cases md <;> simp [roundUp]

/-- In units of its own exponent a magnitude is a whole number. -/
theorem quantise_self (m : Nat) (e : Int) : quantise m e false e = (m, .lt, false) := by
  simp [quantise]

/-- A magnitude whose exponent is that of the format's grid where it lies, and whose code is no greater than the largest, is encoded as it is. -/
theorem roundMag_exact {f : Fmt} {m : Nat} {e : Int} (md : Rnd) (sat neg : Bool)
    (hq : max ((Nat.log2 m : Int) + e - f.man) f.qmin = e) (hc : (e - f.qmin).toNat * 2 ^ f.man + m ≤ f.top) :
    roundMag f md sat neg m e false = f.withSign neg ((e - f.qmin).toNat * 2 ^ f.man + m) := by
  simp [roundMag, hq, quantise_self, roundUp_exact, Nat.not_lt_of_le hc]

/-- The codes up to the largest finite magnitude hold no infinity and no NaN (R54). -/
def Fmt.TopFinite (f : Fmt) : Prop :=
  (f.inf = true → f.top < (2 ^ f.exp - 1) * 2 ^ f.man) ∧ (f.inf = false → ∀ n, f.nan = some n → f.top < n)

/-- A code whose magnitude is finite stands for a signed subnormal, or for a signed normal value with its leading bit (R53). -/
theorem Fmt.decode_finite {f : Fmt} (hf : f.TopFinite) {x : Nat} (hx : x % f.signBit ≤ f.top) :
    f.decode x = if x % f.signBit / 2 ^ f.man = 0 then .fin (decide (x / f.signBit % 2 = 1)) (x % f.signBit) f.qmin
      else .fin (decide (x / f.signBit % 2 = 1)) (x % f.signBit % 2 ^ f.man + 2 ^ f.man) (f.qmin + ((x % f.signBit / 2 ^ f.man : Nat) : Int) - 1) := by
  obtain ⟨hinf, hnan⟩ := hf
  have he : ¬ (f.inf && x % f.signBit / 2 ^ f.man == 2 ^ f.exp - 1) = true := by
    simp only [Bool.and_eq_true, beq_iff_eq, not_and]
    intro hi
    exact Nat.ne_of_lt ((Nat.div_lt_iff_lt_mul (Nat.two_pow_pos _)).mpr (Nat.lt_of_le_of_lt hx (hinf hi)))
  have hn : ¬ (!f.inf && f.nan == some (x % f.signBit)) = true := by
    simp only [Bool.and_eq_true, Bool.not_eq_true', beq_iff_eq, not_and]
    intro hi hs
    exact Nat.not_lt_of_le hx (hnan hi _ hs)
  unfold Fmt.decode
  simp only [if_neg he, if_neg hn]
  split
  · next h0 => rw [Nat.mod_eq_of_lt ((Nat.div_eq_zero_iff_lt (Nat.two_pow_pos _)).mp h0)]
  · rfl

/-- The sign and the magnitude of a code give it back. -/
theorem Fmt.withSign_code (f : Fmt) {x : Nat} (hx : x < 2 * f.signBit) :
    f.withSign (decide (x / f.signBit % 2 = 1)) (x % f.signBit) = x := by
  have hpos : 0 < f.signBit := Nat.two_pow_pos _
  have hlt : x / f.signBit < 2 := (Nat.div_lt_iff_lt_mul hpos).mpr hx
  have hsplit := Nat.div_add_mod x f.signBit
  unfold Fmt.withSign
  rcases Nat.le_one_iff_eq_zero_or_eq_one.mp (Nat.lt_succ_iff.mp hlt) with h | h
  · rw [h] at hsplit ⊢; simpa using hsplit
  · rw [h] at hsplit ⊢; simpa using hsplit

/-- A zero keeps its sign, a subnormal its significand (R60, R61). -/
theorem roundTo_subnormal {f : Fmt} {m : Nat} (md : Rnd) (sat neg : Bool) (hm : m < 2 ^ f.man) (hc : m ≤ f.top) :
    roundTo f md sat (.fin neg m f.qmin) = f.withSign neg m := by
  unfold roundTo
  by_cases h0 : m = 0
  · simp [h0]
  · have hlog : Nat.log2 m < f.man := (Nat.log2_lt h0).mpr hm
    have hq : max ((Nat.log2 m : Int) + f.qmin - f.man) f.qmin = f.qmin := by omega
    simpa [h0] using roundMag_exact md sat neg hq (by simpa using hc)

/-- A normal value keeps its exponent and its mantissa (R60). -/
theorem roundTo_normal {f : Fmt} {m e : Nat} (md : Rnd) (sat neg : Bool) (hm : m < 2 ^ f.man) (he : e ≠ 0) (hc : e * 2 ^ f.man + m ≤ f.top) :
    roundTo f md sat (.fin neg (m + 2 ^ f.man) (f.qmin + (e : Int) - 1)) = f.withSign neg (e * 2 ^ f.man + m) := by
  have hpos : 0 < 2 ^ f.man := Nat.two_pow_pos _
  have hlog : Nat.log2 (m + 2 ^ f.man) = f.man := (Nat.log2_eq_iff (by omega)).mpr ⟨by omega, by rw [Nat.pow_succ]; omega⟩
  have hq : max ((Nat.log2 (m + 2 ^ f.man) : Int) + (f.qmin + (e : Int) - 1) - f.man) f.qmin = f.qmin + (e : Int) - 1 := by
    rw [hlog]; omega
  have hcode : (f.qmin + (e : Int) - 1 - f.qmin).toNat * 2 ^ f.man + (m + 2 ^ f.man) = e * 2 ^ f.man + m := by
    rw [show (f.qmin + (e : Int) - 1 - f.qmin).toNat = e - 1 by omega]
    calc (e - 1) * 2 ^ f.man + (m + 2 ^ f.man) = (e - 1 + 1) * 2 ^ f.man + m := by rw [Nat.succ_mul, Nat.add_comm m, Nat.add_assoc]
      _ = e * 2 ^ f.man + m := by rw [Nat.sub_add_cancel (Nat.pos_of_ne_zero he)]
  have h := roundMag_exact md sat neg hq (by rw [hcode]; exact hc)
  rw [hcode] at h
  simpa [roundTo, Nat.ne_of_gt (Nat.add_pos_right m hpos)] using h

/-- In a format whose codes up to the largest are finite, each of them rounds to itself. -/
theorem roundTo_decode {f : Fmt} (hf : f.TopFinite) (md : Rnd) (sat : Bool) {x : Nat} (hx : x < 2 * f.signBit) (htop : x % f.signBit ≤ f.top) :
    roundTo f md sat (f.decode x) = x := by
  rw [Fmt.decode_finite hf htop]
  split
  · next h0 =>
    rw [roundTo_subnormal md sat _ ((Nat.div_eq_zero_iff_lt (Nat.two_pow_pos _)).mp h0) htop, Fmt.withSign_code f hx]
  · next h0 =>
    have hsplit : x % f.signBit / 2 ^ f.man * 2 ^ f.man + x % f.signBit % 2 ^ f.man = x % f.signBit := Nat.div_add_mod' _ _
    rw [roundTo_normal md sat _ (Nat.mod_lt _ (Nat.two_pow_pos _)) h0 (by rw [hsplit]; exact htop), hsplit, Fmt.withSign_code f hx]

/-- The eight formats' largest magnitudes lie below their infinities and NaNs (R53, R54). -/
theorem Fmt.topFinite_of_mem {f : Fmt} (h : f ∈ [Fmt.f32, .bf16, .f16, .e5m2, .e4m3, .e3m2, .e2m3, .e2m1]) : f.TopFinite := by
  simp only [List.mem_cons, List.not_mem_nil, or_false] at h
  rcases h with rfl | rfl | rfl | rfl | rfl | rfl | rfl | rfl <;>
    simp [Fmt.TopFinite, Fmt.f32, Fmt.bf16, Fmt.f16, Fmt.e5m2, Fmt.e4m3, Fmt.e3m2, Fmt.e2m3, Fmt.e2m1]

/-- Settles O5: a subnormal or a normal value is a whole number of units of its own grid, so that no mode changes it. -/
theorem representableValuesRoundToThemselves : Obligations.RepresentableValuesRoundToThemselves := by
  intro f hf md sat c hc htop
  exact roundTo_decode (Fmt.topFinite_of_mem hf) md sat hc htop

end Sys2Proof.Machine
end

section
/-! What a word reads after another is stored, and the elements of an accumulator after additions (R279, R286). -/
namespace Sys2Proof

/-- A word apart from the one that is stored reads as before. -/
theorem Memory.word_setWord_ne {m : Memory} (h : m.wf = true) {a b : Nat} (w : Word) (hd : b + 4 ≤ a ∨ a + 4 ≤ b) :
    Memory.word (Memory.setWord m a w) b = Memory.word m b := by
  unfold Memory.word Memory.nat Memory.setWord Memory.setNat
  rw [Memory.bytes_setBytes_ne h a _ b 4 (by rw [leBytes_length]; exact hd)]

end Sys2Proof

namespace Sys2Proof.Machine
open Sys2Proof

/-- What one addition makes of a word: the sum modulo 2^32, or the FP32 sum rounded to nearest even (R286). -/
def addWord (int : Bool) (x w : Word) : Word := if int then x + w else addRn x w

/-- An addition to an element of an accumulator, in its bytes. -/
def accStep (acc : Nat) (int : Bool) (m : Memory) (a : Nat × Word) : Memory :=
  m.setWord (4096 * acc + 4 * a.1) (addWord int (m.word (4096 * acc + 4 * a.1)) a.2)

theorem Team.addAcc_acc (t : Team) (acc : Nat) (int : Bool) (adds : List (Nat × Word)) :
    (t.addAcc acc int adds).acc = adds.foldl (accStep acc int) t.acc := rfl

/-- Additions change an accumulator's bytes and its provenance alone. -/
theorem Team.addAcc_rest (t : Team) (acc : Nat) (int : Bool) (adds : List (Nat × Word)) :
    ∃ m l, t.addAcc acc int adds = { t with acc := m, log := l } := ⟨_, _, rfl⟩

theorem accStep_wf {m : Memory} (h : m.wf = true) (acc : Nat) (int : Bool) (a : Nat × Word) : (accStep acc int m a).wf = true :=
  Memory.setWord_wf h _ _

/-- The word at element `e` of accumulator `b` after one addition. -/
theorem word_accStep {m : Memory} (h : m.wf = true) {acc b e : Nat} (int : Bool) {a : Nat × Word} (ha : a.1 < 1024) (he : e < 1024) :
    (accStep acc int m a).word (4096 * b + 4 * e) =
      if b = acc ∧ a.1 = e then addWord int (m.word (4096 * b + 4 * e)) a.2 else m.word (4096 * b + 4 * e) := by
  unfold accStep
  split
  · next hb => obtain ⟨rfl, rfl⟩ := hb; exact Memory.word_setWord h _ _
  · next hb => exact Memory.word_setWord_ne h _ (by omega)

/-- An element of accumulator `b` after additions to accumulator `acc`: those to that element are made, in order. -/
theorem word_foldl_accStep (acc : Nat) (int : Bool) {b e : Nat} (he : e < 1024) (adds : List (Nat × Word)) : ∀ {m : Memory}, m.wf = true →
    (∀ a, a ∈ adds → a.1 < 1024) → (adds.foldl (accStep acc int) m).wf = true ∧ (adds.foldl (accStep acc int) m).word (4096 * b + 4 * e) =
      if b = acc then ((adds.filter fun a => a.1 == e).map (·.2)).foldl (addWord int) (m.word (4096 * b + 4 * e)) else m.word (4096 * b + 4 * e) := by
  induction adds with
  | nil => intro m h _; exact ⟨h, by simp⟩
  | cons a r ih =>
    intro m h hlt
    obtain ⟨hwf, hword⟩ := ih (accStep_wf h acc int a) fun x hx => hlt x (List.mem_cons_of_mem _ hx)
    refine ⟨hwf, ?_⟩
    rw [List.foldl_cons, hword, word_accStep h int (hlt a List.mem_cons_self) he]
    by_cases hb : b = acc <;> by_cases ha : a.1 = e <;> simp [hb, ha]

/-- The elements of a team's accumulators after additions to one of them. -/
theorem Team.accElem_addAcc {t : Team} (h : t.acc.wf = true) {acc : Nat} (int : Bool) {adds : List (Nat × Word)}
    (hlt : ∀ a, a ∈ adds → a.1 < 1024) (b : Nat) {i n : Nat} (hi : i < 32) (hn : n < 32) : (t.addAcc acc int adds).accElem b i n =
      if b = acc then ((adds.filter fun a => a.1 == 32 * i + n).map (·.2)).foldl (addWord int) (t.accElem b i n) else t.accElem b i n := by
  unfold Team.accElem
  rw [Team.addAcc_acc]
  exact (word_foldl_accStep acc int (by omega) adds h hlt).2

theorem Team.addAcc_wf {t : Team} (h : t.acc.wf = true) (acc : Nat) (int : Bool) {adds : List (Nat × Word)}
    (hlt : ∀ a, a ∈ adds → a.1 < 1024) : (t.addAcc acc int adds).acc.wf = true := by
  rw [Team.addAcc_acc]
  exact (word_foldl_accStep acc int (b := 0) (e := 0) (by omega) adds h hlt).1

/-! ### The additions of a product -/

/-- Where only the element at one place gives anything, that is all. -/
theorem flatMap_zipIdx_of_unique {α β : Type} {F : α × Nat → List β} : ∀ {l : List α} {k i : Nat} {x : α}, l[i]? = some x →
    (∀ p, p.2 ≠ k + i → F p = []) → (l.zipIdx k).flatMap F = F (x, k + i)
  | [], _, _, _, h, _ => by simp at h
  | y :: r, k, 0, x, h, hF => by
    obtain rfl : y = x := by simpa using h
    have hr : (r.zipIdx (k + 1)).flatMap F = [] := List.flatMap_eq_nil_iff.mpr fun p hp =>
      hF p (Nat.ne_of_gt (List.le_snd_of_mem_zipIdx hp))
    simp [hr]
  | y :: r, k, i + 1, x, h, hF => by
    have ih := flatMap_zipIdx_of_unique (F := F) (l := r) (k := k + 1) (i := i) (x := x) (by simpa using h)
      fun p hp => hF p (by omega)
    rw [List.zipIdx_cons, List.flatMap_cons, hF (y, k) (by simp), ih, List.nil_append, Nat.add_assoc, Nat.add_comm 1 i]

section Products
variable {α β : Type} {A : List (List α)} {B : List (List β)} {dot : List α → List β → List Word}

/-- A product of 32 rows by 32 columns adds to elements of the accumulator. -/
theorem products_lt (hA : A.length ≤ 32) (hB : B.length ≤ 32) {a : Nat × Word} (h : a ∈ products A B dot) : a.1 < 1024 := by
  simp only [products, List.mem_flatMap, List.mem_map] at h
  obtain ⟨r, hr, c, hc, w, -, rfl⟩ := h
  have h1 := List.snd_lt_of_mem_zipIdx hr
  have h2 := List.snd_lt_of_mem_zipIdx hc
  dsimp only
  omega

/-- The additions of a product to one element are those of its row and its column. -/
theorem products_at (hB : B.length ≤ 32) {i n : Nat} {x : List α} {y : List β} (hx : A[i]? = some x) (hy : B[n]? = some y) :
    ((products A B dot).filter fun a => a.1 == 32 * i + n).map (·.2) = dot x y := by
  have hn : n < 32 := by obtain ⟨h, -⟩ := List.getElem?_eq_some_iff.mp hy; omega
  unfold products
  simp only [List.filter_flatMap, List.map_flatMap, List.filter_map, List.map_map]
  rw [flatMap_zipIdx_of_unique hx fun r hr => ?other, flatMap_zipIdx_of_unique hy fun c hc => ?_]
  · simp [Function.comp_def]
  · simp only [Function.comp_def, List.map_eq_nil_iff, List.filter_eq_nil_iff, beq_iff_eq]
    omega
  case other =>
    refine List.flatMap_eq_nil_iff.mpr fun c hc => ?_
    have h2 := List.snd_lt_of_mem_zipIdx hc
    simp only [Function.comp_def, List.map_eq_nil_iff, List.filter_eq_nil_iff, beq_iff_eq]
    omega

end Products
end Sys2Proof.Machine
end

section
/-! Chunk sums in closed form, and the rows and columns of the matrix products (R70, R74, R286). -/
namespace Sys2Proof.Machine
open Sys2Proof

/-- The chunk sums of whole chunks of 8 products (R74). -/
theorem chunkSums_eq : ∀ (n : Nat) {ps : List FVal}, ps.length = 8 * n →
    chunkSums n ps = (List.range n).map fun j => toF32 .rn false (exactTree 3 ((ps.drop (8 * j)).take 8))
  | 0, _, _ => rfl
  | n + 1, ps, h => by
    have hne : ps.isEmpty = false := by
      cases ps with
      | nil => simp at h
      | cons => rfl
    have ih := chunkSums_eq n (ps := ps.drop 8) (by rw [List.length_drop]; omega)
    simp only [chunkSums, hne, Bool.false_eq_true, if_false, ih, List.range_succ_eq_map, List.map_cons, List.map_map, List.drop_drop,
      Function.comp_def, Nat.succ_eq_add_one, Nat.mul_add, Nat.mul_one, Nat.mul_zero, List.drop_zero, Nat.add_comm]

/-- Chunk sums of integers added to a word give the exact sum, modulo 2^32 (R74, R286). -/
theorem foldl_intChunks : ∀ (n : Nat) {ps : List Int} (x : Word), ps.length ≤ 8 * n →
    (intChunks n ps).foldl (addWord true) x = x + BitVec.ofInt 32 ps.sum
  | 0, ps, x, h => by
    obtain rfl : ps = [] := List.length_eq_zero_iff.mp (by omega)
    simp [intChunks]
  | n + 1, [], x, _ => by simp [intChunks]
  | n + 1, p :: r, x, h => by
    have ih := foldl_intChunks n (ps := (p :: r).drop 8) (x + BitVec.ofInt 32 ((p :: r).take 8).sum) (by rw [List.length_drop]; omega)
    have hsum : (p :: r).sum = ((p :: r).take 8).sum + ((p :: r).drop 8).sum := by rw [← List.sum_append, List.take_append_drop]
    rw [intChunks, List.isEmpty_cons, if_neg Bool.false_ne_true, List.foldl_cons, ← List.sum_eq_foldl, addWord, if_pos rfl, ih, hsum,
      BitVec.ofInt_add, BitVec.add_assoc]

@[simp] theorem tileRow_length (bs : List Byte) (row : Nat) : (tileRow bs row).length = 128 := by simp [tileRow]

theorem bf16Pairs_length : ∀ l : List Nat, (bf16Pairs l).length = l.length / 2
  | [] => rfl
  | [_] => by simp [bf16Pairs]
  | a :: b :: r => by simp only [bf16Pairs, List.length_cons, bf16Pairs_length r]; omega

/-- A row of a BF16 tile has 64 elements. -/
@[simp] theorem bf16Pairs_tileRow_length (bs : List Byte) (row : Nat) : (bf16Pairs (tileRow bs row)).length = 64 := by
  rw [bf16Pairs_length, tileRow_length]

/-- An SP2 tile has 128 columns of 64 elements. -/
theorem sp2Columns_getElem? (b : List Byte) {j : Nat} (hj : j < 128) : ∃ y, (sp2Columns b)[j]? = some y ∧ y.length = 64 := by
  simp [sp2Columns, columns, hj]

theorem getElem?_range_map {α : Type} {f : Nat → α} {n i : Nat} (h : i < n) : ((List.range n).map f)[i]? = some (f i) := by
  simp [h]

/-- Eight chunk sums of 64 products added to a word, each rounded, in order (R74, R286). -/
def addChunks (ps : List FVal) (old : Word) : Word :=
  (List.range 8).foldl (fun x j => addRn x (toF32 .rn false (exactTree 3 ((ps.drop (8 * j)).take 8)))) old

theorem foldl_chunkSums {ps : List FVal} (h : ps.length = 64) (x : Word) : (chunkSums 8 ps).foldl (addWord false) x = addChunks ps x := by
  rw [chunkSums_eq 8 h, List.foldl_map]
  rfl

/-- What `tmma.s` makes of element [i][n] of the q-th of its accumulators: a row of A by column 32q + n of B, each product the sum of those
with an SP2 element's two terms (R67, R74, R286). -/
def addSp2Chunks (a b : List Byte) (i n q : Nat) (old : Word) : Word :=
  addChunks (((bf16Pairs (tileRow a i)).zip ((sp2Columns b).getD (32 * q + n) [])).map fun y =>
    FVal.add .rn (FVal.mul y.1 y.2.1) (FVal.mul y.1 y.2.2)) old

/-- The additions of `tmma.s` are to elements of an accumulator. -/
theorem mmaS_lt {a b : List Byte} {q : Nat} {x : Nat × Word} (h : x ∈ mmaS a b q) : x.1 < 1024 :=
  products_lt (by simp) (List.length_take_le 32 _) h

/-! ### What each product adds to the accumulators' elements -/

variable {t : Team} (ht : t.acc.wf = true) (a b : List Byte) (v w : Nat) {i n : Nat} (hi : i < 32) (hn : n < 32)
include ht hi hn

/-- `tmma.w` adds the chunk sums of the products of a row of A and a row of B (R74, R286). -/
theorem accElem_mmaW : (t.addAcc v false (mmaW a b)).accElem w i n = if w = v then
    addChunks (((bf16Pairs (tileRow a i)).zip (bf16Pairs (tileRow b n))).map fun q => FVal.mul q.1 q.2) (t.accElem w i n) else t.accElem w i n := by
  unfold mmaW
  rw [Team.accElem_addAcc ht false (fun _ => products_lt (by simp) (by simp)) w hi hn,
    products_at (by simp) (getElem?_range_map hi) (getElem?_range_map hn), foldl_chunkSums (by simp)]

/-- `tmma.i8` adds the exact sum of the products of a row of A and a row of B (R74, R286). -/
theorem accElem_mmaI8 : (t.addAcc v true (mmaI8 a b)).accElem w i n = if w = v then
    BitVec.ofInt 32 ((t.accElem w i n).toInt + ((List.range 128).map fun j => sByte ((tileRow a i).getD j 0) * sByte ((tileRow b n).getD j 0)).sum)
    else t.accElem w i n := by
  have hps : ((((tileRow a i).map sByte).zip ((tileRow b n).map sByte)).map fun p => p.1 * p.2) =
      (List.range 128).map fun j => sByte ((tileRow a i).getD j 0) * sByte ((tileRow b n).getD j 0) :=
    List.ext_getElem (by simp) fun j hj _ => by
      have hj' : j < 128 := by simpa using hj
      simp [List.getD_eq_getElem?_getD, hj']
  unfold mmaI8
  rw [Team.accElem_addAcc ht true (fun _ => products_lt (by simp) (by simp)) w hi hn,
    products_at (by simp) (getElem?_range_map hi) (getElem?_range_map hn), foldl_intChunks 16 _ (by simp), hps, BitVec.ofInt_add, BitVec.ofInt_toInt]

/-- `tmma.s` adds to the q-th of its accumulators the chunk sums of a row of A and column 32q + n of B (R67, R74, R286). -/
theorem accElem_mmaS {q : Nat} (hq : q < 4) : (t.addAcc v false (mmaS a b q)).accElem w i n =
    if w = v then addSp2Chunks a b i n q (t.accElem w i n) else t.accElem w i n := by
  obtain ⟨y, hy, hlen⟩ := sp2Columns_getElem? b (j := 32 * q + n) (by omega)
  have hcol : (((sp2Columns b).drop (32 * q)).take 32)[n]? = some y := by rw [List.getElem?_take_of_lt hn, List.getElem?_drop, hy]
  rw [Team.accElem_addAcc ht false (fun _ => mmaS_lt) w hi hn, mmaS, products_at (List.length_take_le 32 _) (getElem?_range_map hi) hcol,
    foldl_chunkSums (by simp [hlen]), addSp2Chunks, List.getD_eq_getElem?_getD, hy, Option.getD_some]

end Sys2Proof.Machine
end

section
/-! What a tile-stream instruction that may act does: its own effect, a record of it where its team records, and its Cooper goes on
(R277, R281, R302, R303). -/
namespace Sys2Proof.Machine
open Sys2Proof

/-! ### Changes of one team and of cores -/

/-- `v` is `s` but for its cores and the team `id`, which is `T` there. -/
structure OnlyTeamAndCores (s v : State) (id : Nat) (T : Team) : Prop where
  rest : { v with teams := s.teams, cores := s.cores } = s
  self : v.team? id = some T
  others : ∀ j, j ≠ id → v.team? j = s.team? j

theorem OnlyTeamAndCores.mem {s v : State} {i : Nat} {T : Team} (h : OnlyTeamAndCores s v i T) : v.mem = s.mem := by
  have e := congrArg State.mem h.rest; exact e
theorem OnlyTeamAndCores.ports {s v : State} {i : Nat} {T : Team} (h : OnlyTeamAndCores s v i T) : v.ports = s.ports := by
  have e := congrArg State.ports h.rest; exact e

/-- The teams after one is changed and keeps its number. -/
theorem State.team?_mapTeam (s : State) (i : Nat) {f : Team → Team} (hf : ∀ t, (f t).id = t.id) (j : Nat) :
    (s.mapTeam i f).team? j = if j = i then (s.team? j).map f else s.team? j := by
  have hid : ∀ t : Team, (if t.id == i then f t else t).id = t.id := fun t => by
    split
    · exact hf t
    · rfl
  have h : (s.mapTeam i f).team? j = _ := State.team?_map s (fun t => if t.id == i then f t else t) hid j
  rw [h]
  cases ht : s.team? j with
  | none => simp
  | some t => by_cases e : j = i <;> simp [State.team?_id ht, e]

theorem OnlyTeamAndCores.mapTeam {s v : State} {i : Nat} {T : Team} (h : OnlyTeamAndCores s v i T) {f : Team → Team}
    (hf : ∀ t, (f t).id = t.id) : OnlyTeamAndCores s (v.mapTeam i f) i (f T) where
  rest := h.rest
  self := by rw [State.team?_mapTeam v i hf, if_pos rfl, h.self]; rfl
  others j hj := by rw [State.team?_mapTeam v i hf, if_neg hj, h.others j hj]

theorem OnlyTeamAndCores.mapCore {s v : State} {i : Nat} {T : Team} (h : OnlyTeamAndCores s v i T) (c : Nat) (f : Core → Core) :
    OnlyTeamAndCores s (v.mapCore c f) i T := ⟨h.rest, h.self, h.others⟩

/-- Words that enter the journal change nothing but a core. -/
theorem OnlyTeamAndCores.journalAll {s v : State} {i : Nat} {T : Team} (h : OnlyTeamAndCores s v i T) (c : Nat) (ws : List Word) :
    OnlyTeamAndCores s (v.journalAll c ws) i T := by
  unfold State.journalAll
  split
  · exact h
  · exact h.mapCore c _

@[simp] theorem State.mapTeam_core (s : State) (i c : Nat) (f : Team → Team) : (s.mapTeam i f).core c = s.core c := rfl

/-- A core's journal alone holds words that enter it. -/
theorem State.core_journalAll (s : State) (c : Nat) (ws : List Word) (j : Nat) :
    ∃ x, (s.journalAll c ws).core j = { s.core j with journal := x } := by
  unfold State.journalAll
  split
  · exact ⟨_, rfl⟩
  · rw [State.core_mapCore]
    split
    · next e => subst e; exact ⟨_, rfl⟩
    · exact ⟨_, rfl⟩

/-- Effects that enter a core's settling buffer change nothing but that core. -/
theorem OnlyTeamAndCores.foldl_produce {α : Type} {s : State} {i : Nat} {T : Team} (core team : Nat) (e : α → Effect) (l : List α) :
    ∀ {v : State}, OnlyTeamAndCores s v i T → OnlyTeamAndCores s (l.foldl (fun s x => s.produce core team (e x)) v) i T := by
  induction l with
  | nil => intro v h; exact h
  | cons x r ih => intro v h; exact ih (h.mapCore core _)

/-- Each takes an entry, and the core's latch stays. -/
theorem State.core_foldl_produce {α : Type} (core team : Nat) (e : α → Effect) (l : List α) : ∀ v : State,
    ((l.foldl (fun s x => s.produce core team (e x)) v).core core).buffer.length = (v.core core).buffer.length + l.length ∧
    ((l.foldl (fun s x => s.produce core team (e x)) v).core core).latch = (v.core core).latch := by
  induction l with
  | nil => intro v; exact ⟨rfl, rfl⟩
  | cons x r ih =>
    intro v
    obtain ⟨hlen, hlatch⟩ := ih (v.produce core team (e x))
    refine ⟨hlen.trans ?_, hlatch.trans ?_⟩
    · simp only [State.produce, State.core_mapCore_self, List.length_append, List.length_cons, List.length_nil]; omega
    · simp only [State.produce, State.core_mapCore_self]

/-! ### The common shape -/

/-- A Cooper that issues is that of its team. -/
theorem State.coop?_spec {s : State} {t : Team} {k : Cooper} (h : s.coop? = some (t, k)) : s.team? t.id = some t ∧ t.cooper = some k := by
  unfold State.coop? at h
  split at h <;> try contradiction
  split at h <;> try contradiction
  next ht =>
  split at h <;> try contradiction
  next hk =>
  split at h <;> try contradiction
  cases h
  exact ⟨by rw [State.team?_id ht]; exact ht, hk⟩

/-- The operands an instruction that names `u` acts on. -/
def State.tileCtx (s : State) (t : Team) (u : TileUse) (places : List (Nat × Nat)) : TileCtx :=
  { team := t, accs := places, spot := (s.slotSpot t u.slots u.writes).getD (t, []) }

/-- A team that records an operation: its space is reserved and its record written (R303, R304). -/
def Team.recordOp (word : Word) (os : Team → List Opnd) (size : Nat) (place : VAddr) (t : Team) : Team :=
  (t.reserve size).appendRecord place word [] (os t)

/-- A record changes its team's log alone. -/
theorem Team.recordOp_rest (word : Word) (os : Team → List Opnd) (size : Nat) (place : VAddr) (t : Team) :
    ∃ l, t.recordOp word os size place = { t with log := l } := ⟨_, rfl⟩

@[simp] theorem State.mapTeam_id (s : State) (i : Nat) : s.mapTeam i id = s := by simp [State.mapTeam]

section Ready
variable {s : State} {t : Team} {k : Cooper} {u : TileUse} {places : List (Nat × Nat)} {spot : Team × List Nat} {recorded : Bool}
  (h : TileReady s t k u places spot recorded)
include h

theorem TileReady.tileCtx_spot (hs : u.slots ≠ []) : (s.tileCtx t u places).spot = spot := by
  simp [State.tileCtx, h.slot hs]

/-- The names of a word that is recorded are its team's own (R303). -/
theorem TileReady.own_names : ((t.log.recording && recorded) &&
    (places.any (fun p => p.1 != t.member) || u.slots.any fun x => decide (64 ≤ x))) = false := by
  simp only [Bool.and_eq_false_imp, Bool.and_eq_true, Bool.or_eq_false_iff, List.any_eq_false]
  rintro ⟨hr, hrec⟩
  obtain ⟨haccs, hslots, -⟩ := h.fits hr hrec
  exact ⟨fun p hp => by simp [haccs p hp], fun x hx => by simpa using hslots x hx⟩

/-- No slot that is read holds poison (R356). -/
theorem TileReady.no_badSlot : (if u.writes then none else (s.tileCtx t u places).badSlot) = none := by
  split
  · rfl
  · next hw =>
    refine List.find?_eq_none.mpr fun off hoff => ?_
    by_cases hs : u.slots = []
    · simp [State.tileCtx, hs, State.slotSpot] at hoff
    · rw [h.tileCtx_spot hs] at hoff ⊢
      simpa using h.sound (by simpa using hw) hs off hoff

/-- A word that may act has its effect, is recorded where its team records, and its Cooper goes on. -/
theorem tileOp_ready (word : Word) (ops : TileCtx → Team → List Opnd) (f : TileCtx → VAddr → State → State)
    (hsize : recordSize [] (ops (s.tileCtx t u places) t) ≤ 0x8000) :
    ∃ L : Team → Team, (∀ T, ∃ l, L T = { T with log := l }) ∧ tileOp u word recorded ops f s = .next
      (((f (s.tileCtx t u places) t.log.ptr (s.journalAll t.core (t.slotReads u (s.slotSpot t u.slots u.writes)))).mapTeam t.id L).coopNext t.id 1) := by
  have hm : ((u.m.map fun m => decide (t.mregs.length ≤ m)).getD false) = false := by
    cases hm : u.m with
    | none => rfl
    | some m => simpa using h.tile m hm
  have hslot : (!u.slots.isEmpty && (s.slotSpot t u.slots u.writes).isNone) = false := by
    by_cases hs : u.slots = []
    · simp [hs]
    · simp [h.slot hs]
  have hroom : ((t.log.recording && recorded) && !t.logRoom (recordSize [] (ops (s.tileCtx t u places) t))) = false := by
    simp only [Bool.and_eq_false_imp, Bool.and_eq_true, Bool.not_eq_false']
    rintro ⟨hr, hrec⟩
    obtain ⟨-, -, hlog⟩ := h.fits hr hrec
    simp only [Team.logRoom, decide_eq_true_eq] at hlog ⊢
    omega
  have hnames := h.own_names
  have hbad := h.no_badSlot
  unfold State.tileCtx at hroom hbad ⊢
  unfold tileOp
  simp only [h.coop, hm, h.accs, h.still, hnames, hslot, hbad, h.clean, hroom, Bool.false_eq_true, if_false]
  by_cases hrec : (t.log.recording && recorded) = true
  · rw [if_pos hrec]
    exact ⟨_, Team.recordOp_rest word _ _ t.log.ptr, rfl⟩
  · rw [if_neg hrec]
    exact ⟨id, fun T => ⟨T.log, rfl⟩, by rw [State.mapTeam_id]⟩

/-- A word that may act is done when its own effect changes its team, whose Cooper and groups it leaves, and cores alone: `W` is the team
that effect leaves. -/
theorem tileOp_done (word : Word) (ops : TileCtx → Team → List Opnd) (f : TileCtx → VAddr → State → State)
    (hsize : recordSize [] (ops (s.tileCtx t u places) t) ≤ 0x8000) {W : Team} (hcooper : W.cooper = t.cooper) (hgroups : W.groups = t.groups)
    (hf : ∀ v place, OnlyTeamAndCores s v t.id t → OnlyTeamAndCores s (f (s.tileCtx t u places) place v) t.id W) :
    ∃ v T place ws, tileOp u word recorded ops f s = .next v ∧ TileDone s v t T k 1 ∧ (∃ l c, T = { W with log := l, cooper := c }) ∧
      ∀ j, v.core j = (f (s.tileCtx t u places) place (s.journalAll t.core ws)).core j := by
  obtain ⟨hteam, hk⟩ := State.coop?_spec h.coop
  obtain ⟨L, hL, hrun⟩ := tileOp_ready h word ops f hsize
  have hstart : OnlyTeamAndCores s s t.id t := ⟨rfl, hteam, fun _ _ => rfl⟩
  have hend := ((hf _ t.log.ptr (hstart.journalAll t.core (t.slotReads u (s.slotSpot t u.slots u.writes)))).mapTeam
    (f := L) fun T => by obtain ⟨l, e⟩ := hL T; rw [e]).mapTeam
    (f := (Team.mapCoop · fun k => { k with cpc := k.cpc + BitVec.ofNat 56 (4 * 1), wait := .running })) fun _ => rfl
  obtain ⟨l, e⟩ := hL W
  rw [e] at hend
  refine ⟨_, _, _, _, hrun, ⟨hend.self, ?_, hgroups, hend.mem, hend.ports, hend.others⟩, ⟨l, _, rfl⟩, fun _ => rfl⟩
  simp [Team.mapCoop, hcooper, hk]

end Ready
end Sys2Proof.Machine
end

section
/-! O41: the matrix products (R74, R286, R288, R296). -/
namespace Sys2Proof.Machine
open Sys2Proof

/-! ### Additions into places -/

/-- A team after additions to the accumulator at a place, which reach the own member's at once (R286). -/
def Team.accumulated (T : Team) (member : Nat) (p : Nat × Nat) (int : Bool) (adds : List (Nat × Word)) : Team :=
  if p.1 = member then T.addAcc p.2 int adds else T

theorem Team.accumulated_rest (T : Team) (member : Nat) (p : Nat × Nat) (int : Bool) (adds : List (Nat × Word)) :
    ∃ m l, T.accumulated member p int adds = { T with acc := m, log := l } := by
  unfold Team.accumulated
  split
  · exact T.addAcc_rest p.2 int adds
  · exact ⟨T.acc, T.log, rfl⟩

theorem OnlyTeamAndCores.accumulate {s v : State} {t T : Team} (h : OnlyTeamAndCores s v t.id T) (p : Nat × Nat) (int first : Bool)
    (adds : List (Nat × Word)) : OnlyTeamAndCores s (v.accumulate t p int first adds) t.id (T.accumulated t.member p int adds) := by
  unfold State.accumulate Team.accumulated
  split
  · exact h.mapTeam fun _ => rfl
  · exact h.foldl_produce t.core t.id _ _

/-- Additions to another member's accumulator take 32 entries of the settling buffer, and the latch stays. -/
theorem State.core_accumulate (v : State) (t : Team) (p : Nat × Nat) (int first : Bool) (adds : List (Nat × Word)) :
    ((v.accumulate t p int first adds).core t.core).buffer.length = (v.core t.core).buffer.length + (if p.1 = t.member then 0 else 32) ∧
    ((v.accumulate t p int first adds).core t.core).latch = (v.core t.core).latch := by
  unfold State.accumulate
  split
  · exact ⟨rfl, rfl⟩
  · simpa using State.core_foldl_produce t.core t.id _ (List.range 32) v

section Places
variable (t : Team) (int : Bool) (prod : Nat → List (Nat × Word))

/-- The additions of a matrix form into the accumulators at its places, one after another. -/
def State.accumulateAll (v : State) (ps : List ((Nat × Nat) × Nat)) : State :=
  ps.foldl (fun s p => s.accumulate t p.1 int (p.2 == 0) (prod p.2)) v

/-- What they leave of a team's own. -/
def Team.accumulatedAll (T : Team) (member : Nat) (ps : List ((Nat × Nat) × Nat)) : Team :=
  ps.foldl (fun T p => T.accumulated member p.1 int (prod p.2)) T

theorem OnlyTeamAndCores.accumulateAll {s : State} (ps : List ((Nat × Nat) × Nat)) : ∀ {v : State} {T : Team}, OnlyTeamAndCores s v t.id T →
    OnlyTeamAndCores s (v.accumulateAll t int prod ps) t.id (T.accumulatedAll int prod t.member ps) := by
  induction ps with
  | nil => intro v T h; exact h
  | cons p r ih => intro v T h; exact ih (h.accumulate p.1 int (p.2 == 0) (prod p.2))

theorem State.core_accumulateAll (ps : List ((Nat × Nat) × Nat)) : ∀ v : State,
    ((v.accumulateAll t int prod ps).core t.core).buffer.length =
      (v.core t.core).buffer.length + (ps.map fun p => if p.1.1 = t.member then 0 else 32).sum ∧
    ((v.accumulateAll t int prod ps).core t.core).latch = (v.core t.core).latch := by
  induction ps with
  | nil => intro v; exact ⟨rfl, rfl⟩
  | cons p r ih =>
    intro v
    obtain ⟨hlen, hlatch⟩ := ih (v.accumulate t p.1 int (p.2 == 0) (prod p.2))
    obtain ⟨hlen', hlatch'⟩ := State.core_accumulate v t p.1 int (p.2 == 0) (prod p.2)
    refine ⟨hlen.trans ?_, hlatch.trans hlatch'⟩
    rw [hlen', List.map_cons, List.sum_cons, Nat.add_assoc]

/-- They change the accumulators and the log alone. -/
theorem Team.accumulatedAll_rest (member : Nat) (ps : List ((Nat × Nat) × Nat)) : ∀ T : Team,
    ∃ m l, T.accumulatedAll int prod member ps = { T with acc := m, log := l } := by
  induction ps with
  | nil => intro T; exact ⟨T.acc, T.log, rfl⟩
  | cons p r ih =>
    intro T
    obtain ⟨m, l, e⟩ := ih (T.accumulated member p.1 int (prod p.2))
    obtain ⟨m', l', e'⟩ := T.accumulated_rest member p.1 int (prod p.2)
    exact ⟨m, l, e.trans (by rw [e'])⟩

/-- Places of another member leave the team as it is. -/
theorem Team.accumulatedAll_far {member : Nat} {ps : List ((Nat × Nat) × Nat)} (h : ∀ p, p ∈ ps → p.1.1 ≠ member) (T : Team) :
    T.accumulatedAll int prod member ps = T := by
  induction ps with
  | nil => rfl
  | cons p r ih =>
    obtain ⟨hp, hr⟩ := List.forall_mem_cons.mp h
    show (T.accumulated member p.1 int (prod p.2)).accumulatedAll int prod member r = T
    rw [Team.accumulated, if_neg hp, ih hr]

variable {int prod} in
/-- An element of accumulator `b` after them, where the additions of place number q make `F q x` of its value `x`. -/
theorem Team.accElem_accumulatedAll {member b i n : Nat} {F : Nat → Word → Word} {ps : List ((Nat × Nat) × Nat)}
    (hlt : ∀ p, p ∈ ps → ∀ a, a ∈ prod p.2 → a.1 < 1024)
    (hF : ∀ p, p ∈ ps → ∀ {T : Team}, T.acc.wf = true →
      (T.addAcc p.1.2 int (prod p.2)).accElem b i n = if b = p.1.2 then F p.2 (T.accElem b i n) else T.accElem b i n) :
    ∀ {T : Team}, T.acc.wf = true → (T.accumulatedAll int prod member ps).accElem b i n =
      ps.foldl (fun x p => if p.1 = (member, b) then F p.2 x else x) (T.accElem b i n) := by
  induction ps with
  | nil => intro T _; rfl
  | cons p r ih =>
    intro T hT
    obtain ⟨hltp, hltr⟩ := List.forall_mem_cons.mp hlt
    obtain ⟨hFp, hFr⟩ := List.forall_mem_cons.mp hF
    show ((T.accumulated member p.1 int (prod p.2)).accumulatedAll int prod member r).accElem b i n = _
    rw [List.foldl_cons]
    obtain ⟨⟨j, w⟩, q⟩ := p
    by_cases hj : j = member
    · subst hj
      simp only [Team.accumulated, if_true] at hFp ⊢
      rw [ih hltr hFr (Team.addAcc_wf hT _ int hltp), hFp hT]
      simp [eq_comm]
    · rw [Team.accumulated, if_neg hj, ih hltr hFr hT, if_neg (by simp [hj])]
end Places

/-! ### The common part of the matrix forms -/

/-- A team that has paid for a matrix instruction (R188, R296). -/
def Team.paidTensor (t : Team) : Team := { t with tensorSpent := t.tensorSpent + 8, tensorIssued := true }

/-- A matrix instruction with register `m` is done and paid for, and the latch holds the register exactly for `.reuse` (R288, R296). -/
def TensorDone (s v : State) (t T : Team) (k : Cooper) (m : Nat) (r : Bool) : Prop :=
  TileDone s v t T k 1 ∧ T.m = t.m ∧ T.scratch = t.scratch ∧
    T.tensorSpent = t.tensorSpent + 8 ∧ T.tensorIssued = true ∧ (v.core t.core).latch = if r = true then some (t.id, m) else none

theorem OnlyTeamAndCores.payTensor {s v : State} {t : Team} (h : OnlyTeamAndCores s v t.id t) :
    OnlyTeamAndCores s (v.payTensor t) t.id t.paidTensor :=
  (h.mapTeam (f := Team.paidTensor) fun _ => rfl).mapCore t.core _

/-- Paying leaves the settling buffer. -/
theorem State.payTensor_buffer (v : State) (t : Team) : ((v.payTensor t).core t.core).buffer = (v.core t.core).buffer := by
  simp only [State.payTensor, State.core_mapCore_self, State.mapTeam_core]

/-- The bytes of a tile take no padding in a record. -/
theorem padded_length_tile {bs : List Byte} (h : bs.length = 4096) : (padded bs).length = 4096 := by simp [padded, h, pad16]

theorem opndCopies_cons (o : Opnd) (os : List Opnd) : opndCopies (o :: os) = opndCopies [o] ++ opndCopies os := by simp [opndCopies]

/-- An `m` operand takes at most a tile in a record. -/
theorem Team.mOpnd_copies (t : Team) (m : Nat) : (opndCopies [t.mOpnd m]).length ≤ 4096 := by
  have hlen : (t.mBytes m).length = 4096 := Memory.bytes_length _ _ _
  unfold Team.mOpnd
  split
  · simp [opndCopies]
  · simp [opndCopies, padded_length_tile hlen]

/-- Copied tiles take their bytes in a record. -/
theorem opndCopies_tiles {α : Type} {f : α → List Byte} (hf : ∀ x, (f x).length = 4096) (l : List α) :
    (opndCopies (l.map fun x => .copy (f x))).length = 4096 * l.length := by
  induction l with
  | nil => rfl
  | cons x r ih =>
    have hx : (opndCopies [.copy (f x)]).length = 4096 := by simp [opndCopies, padded_length_tile (hf x)]
    rw [List.map_cons, opndCopies_cons, List.length_append, ih, List.length_cons, hx]
    omega

/-- A record of a matrix form holds its `m` register and its slots, at most four tiles. -/
theorem recordSize_mma (t : Team) (m : Nat) {n : Nat} {f : Nat → List Byte} (hf : ∀ q, (f q).length = 4096) (hn : n ≤ 3) :
    recordSize [] (t.mOpnd m :: (List.range n).map fun q => .copy (f q)) ≤ 0x8000 := by
  have hm := t.mOpnd_copies m
  have hx := opndCopies_tiles hf (List.range n)
  rw [List.length_range] at hx
  rw [recordSize, opndCopies_cons, List.length_append, hx]
  simp only [List.length_nil, pad16]
  omega

/-- What a matrix form that may act does: the additions of each of its accumulators, and its tokens and the latch (R286, R288, R296). -/
theorem tmma_done {s : State} {t : Team} {k : Cooper} {m : Nat} {as xs : List Nat} {places : List (Nat × Nat)} {spot : Team × List Nat}
    {recorded : Bool} (h : TileReady s t k { m := some m, mRead := true, accs := as, mma := true, slots := xs, tensor := true, room := 32 * as.length }
      places spot recorded) (hs : xs ≠ []) (hl : xs.length ≤ 3) (word : Word) (int r : Bool)
    (prod : List Byte → List Byte → Nat → List (Nat × Word)) :
    ∃ v T, tmma word recorded int as m r xs prod s = .next v ∧ TensorDone s v t T k m r ∧
      T.acc = (t.paidTensor.accumulatedAll int
        (prod (t.mBytes m) ((List.range xs.length).flatMap fun q => spot.1.scratch.bytes (spot.2.getD q 0) 4096)) t.member places.zipIdx).acc ∧
      (v.core t.core).buffer.length = (s.core t.core).buffer.length + (places.map fun p => if p.1 = t.member then 0 else 32).sum := by
  let u : TileUse := { m := some m, mRead := true, accs := as, mma := true, slots := xs, tensor := true, room := 32 * as.length }
  have hslots : (s.tileCtx t u places).slotBytes = fun q => spot.1.scratch.bytes (spot.2.getD q 0) 4096 :=
    funext fun q => by rw [TileCtx.slotBytes, h.tileCtx_spot hs]
  let W := t.paidTensor.accumulatedAll int (prod (t.mBytes m) ((List.range xs.length).flatMap (s.tileCtx t u places).slotBytes)) t.member places.zipIdx
  obtain ⟨acc, log, hW⟩ : ∃ acc log, W = { t.paidTensor with acc := acc, log := log } := Team.accumulatedAll_rest _ _ _ _ _
  obtain ⟨v, T, place, ws, hrun, hdone, ⟨l, c, rfl⟩, hcore⟩ := tileOp_done (W := W) h word
    (fun c _ => c.team.mOpnd m :: (List.range xs.length).map fun q => .copy (c.slotBytes q))
    (fun c _ v => ((v.payTensor c.team).mapCore c.team.core fun k => { k with latch := if r then some (c.team.id, m) else none }).accumulateAll c.team int
      (prod (c.team.mBytes m) ((List.range xs.length).flatMap c.slotBytes)) c.accs.zipIdx)
    (recordSize_mma t m (fun _ => Memory.bytes_length _ _ _) hl) (by rw [hW]; rfl) (by rw [hW]; rfl)
    fun v _ hv => (hv.payTensor.mapCore t.core _).accumulateAll t int _ places.zipIdx
  obtain ⟨hlen, hlatch⟩ := State.core_accumulateAll t int (prod (t.mBytes m) ((List.range xs.length).flatMap (s.tileCtx t u places).slotBytes))
    places.zipIdx (((s.journalAll t.core ws).payTensor t).mapCore t.core fun k => { k with latch := if r then some (t.id, m) else none })
  obtain ⟨x, hjournal⟩ := s.core_journalAll t.core ws t.core
  refine ⟨v, _, hrun, ⟨hdone, ?_, ?_, ?_, ?_, ?_⟩, ?_, ?_⟩
  · rw [hW]; rfl
  · rw [hW]; rfl
  · rw [hW]; rfl
  · rw [hW]; rfl
  · rw [hcore]
    exact hlatch.trans (by rw [State.core_mapCore_self])
  · rw [← hslots]
  · rw [hcore]
    refine hlen.trans ?_
    have hplaces : (places.zipIdx.map fun p => if p.1.1 = t.member then 0 else 32) = places.map fun p => if p.1 = t.member then 0 else 32 := by
      have hmap := congrArg (List.map fun p : Nat × Nat => if p.1 = t.member then 0 else 32) (List.zipIdx_map_fst 0 places)
      rw [List.map_map] at hmap
      exact hmap
    rw [hplaces, State.core_mapCore_self, State.payTensor_buffer, hjournal]

/-- A matrix form of one accumulator and one slot: the accumulator's elements are those after its additions, or, for another member's, the
additions take 32 entries of the settling buffer. -/
theorem tmma_one {s : State} {t : Team} {k : Cooper} {m a x : Nat} {p : Nat × Nat} {spot : Team × List Nat} {recorded : Bool}
    (h : TileReady s t k { m := some m, mRead := true, accs := [a], mma := true, slots := [x], tensor := true, room := 32 } [p] spot recorded)
    (word : Word) (int r : Bool) (prod : List Byte → List Byte → List (Nat × Word)) :
    ∃ v T, tmma word recorded int [a] m r [x] (fun a b _ => prod a b) s = .next v ∧ TensorDone s v t T k m r ∧
      (p.1 = t.member → ∀ b i n, T.accElem b i n =
        (t.addAcc p.2 int (prod (t.mBytes m) (spot.1.scratch.bytes (spot.2.getD 0 0) 4096))).accElem b i n) ∧
      (p.1 ≠ t.member → T.acc = t.acc ∧ (v.core t.core).buffer.length = (s.core t.core).buffer.length + 32) := by
  obtain ⟨v, T, hrun, hdone, hacc, hlen⟩ := tmma_done h (by simp) (by simp) word int r fun a b _ => prod a b
  have hslot : ((List.range [x].length).flatMap fun q => spot.1.scratch.bytes (spot.2.getD q 0) 4096) =
      spot.1.scratch.bytes (spot.2.getD 0 0) 4096 := by simp
  rw [hslot] at hacc
  refine ⟨v, T, hrun, hdone, fun hp b i n => ?_, fun hp => ⟨?_, ?_⟩⟩
  · have hone : T.acc = (t.addAcc p.2 int (prod (t.mBytes m) (spot.1.scratch.bytes (spot.2.getD 0 0) 4096))).acc := by
      rw [hacc]
      show (t.paidTensor.accumulated t.member p int _).acc = _
      rw [Team.accumulated, if_pos hp]
      rfl
    unfold Team.accElem
    rw [hone]
  · rw [hacc, Team.accumulatedAll_far int _ (by simpa using hp)]
    rfl
  · simpa [hp] using hlen

/-- Places in order are those found by their numbers. -/
theorem foldl_zipIdx_four {l : List (Nat × Nat)} (h : l.length = 4) (y : Nat × Nat) (F : Nat → Word → Word) (x : Word) :
    l.zipIdx.foldl (fun x p => if p.1 = y then F p.2 x else x) x = (List.range 4).foldl (fun x q => if l[q]? = some y then F q x else x) x := by
  match l, h with
  | [a, b, c, d], _ => simp [List.range_succ]

/-- The places of an instruction's accumulators are as many as their names (R280). -/
theorem State.accPlaces_length {s : State} {t : Team} {u : TileUse} {ps : List (Nat × Nat)} (h : s.accPlaces t u = some ps) :
    ps.length = u.accs.length := by
  unfold State.accPlaces at h
  dsimp only at h
  split at h
  · contradiction
  next hlen =>
  split at h
  · contradiction
  split at h
  · cases h; exact Decidable.not_not.mp hlen
  · contradiction

/-- `tmma.s` of a name that is a multiple of 4 (R67, R74, R286). -/
theorem tmmaS_done {a : BitVec 4} (m : BitVec 3) (r : Bool) (x : BitVec 8) {s : State} {t : Team} {k : Cooper} {accs : List (Nat × Nat)}
    {spot : Team × List Nat} (ha : a.toNat % 4 = 0)
    (h : TileReady s t k { m := some m.toNat, mRead := true, accs := (List.range 4).map fun q => a.toNat + q, mma := true,
                           slots := (List.range 3).map fun q => x.toNat + q, tensor := true, room := 128 } accs spot true) :
    ∃ v T, exec (.tmmaS a m r x) s = .next v ∧ TensorDone s v t T k m.toNat r ∧
      ((∀ p, p ∈ accs → p.1 = t.member) → t.acc.wf = true → ∀ b i n, i < 32 → n < 32 → T.accElem b i n =
        (List.range 4).foldl (fun x q => if accs[q]? = some (t.member, b) then addSp2Chunks (t.mBytes m.toNat)
          ((List.range 3).flatMap fun q => spot.1.scratch.bytes (spot.2.getD q 0) 4096) i n q x else x) (t.accElem b i n)) ∧
      ((∀ p, p ∈ accs → p.1 ≠ t.member) → T.acc = t.acc ∧ (v.core t.core).buffer.length = (s.core t.core).buffer.length + 128) := by
  have hfour : accs.length = 4 := State.accPlaces_length h.accs
  obtain ⟨v, T, hrun, hdone, hacc, hlen⟩ := tmma_done h (by simp) (by simp) (tileWord 0x71 a.toNat m.toNat r x.toNat 0 1) false r mmaS
  rw [List.length_map, List.length_range] at hacc
  have hexec : exec (.tmmaS a m r x) s = .next v := by
    show execTmmaS a m r x s = _
    unfold execTmmaS
    simp only [h.coop, ha, ne_eq, not_true_eq_false, if_false]
    exact hrun
  refine ⟨v, T, hexec, hdone, fun _ hwf b i n hi hn => ?_, fun hp => ⟨?_, ?_⟩⟩
  · have hq : ∀ p, p ∈ accs.zipIdx → p.2 < 4 := fun p hp => by simpa [hfour] using List.snd_lt_of_mem_zipIdx hp
    have hall := Team.accElem_accumulatedAll (member := t.member) (fun _ _ _ => mmaS_lt)
      (fun p hp _ hT => accElem_mmaS hT (t.mBytes m.toNat)
        ((List.range 3).flatMap fun q => spot.1.scratch.bytes (spot.2.getD q 0) 4096) p.1.2 b hi hn (hq p hp)) (T := t.paidTensor) hwf
    rw [foldl_zipIdx_four hfour] at hall
    unfold Team.accElem at hall ⊢
    rw [hacc]
    exact hall
  · rw [hacc, Team.accumulatedAll_far false _ fun p hpi => hp p.1 (List.fst_mem_of_mem_zipIdx hpi)]
    rfl
  · rw [List.map_congr_left fun p hpi => if_neg (hp p hpi), List.map_const', hfour] at hlen
    exact hlen

/-- Settles O41: the three forms share `tmma`, whose additions to an element are those of its row and its column. -/
theorem matrixProducts : Obligations.MatrixProducts := by
  refine ⟨fun a m r x s t k p spot h => ?_, fun a m r x s t k accs spot ha h => tmmaS_done m r x ha h, fun a m r x s t k hc ha => ?_,
    fun a m r x s t k p spot h => ?_⟩
  · obtain ⟨v, T, hrun, hdone, hown, hfar⟩ := tmma_one h (tileWord 0x71 a.toNat m.toNat r x.toNat 0 0) false r mmaW
    exact ⟨v, T, hrun, hdone, fun hp hwf b i n hi hn => (hown hp b i n).trans (accElem_mmaW hwf _ _ p.2 b hi hn), hfar⟩
  · show execTmmaS a m r x s = _
    simp only [execTmmaS, hc, ha, ne_eq, not_false_eq_true, if_true]
  · obtain ⟨v, T, hrun, hdone, hown, hfar⟩ := tmma_one h (tileWord 0x71 a.toNat m.toNat r x.toNat 0 2) true r mmaI8
    exact ⟨v, T, hrun, hdone, fun hp hwf b i n hi hn => (hown hp b i n).trans (accElem_mmaI8 hwf _ _ p.2 b hi hn), hfar⟩

end Sys2Proof.Machine
end

section
/-! What the bit-field, saturation, shift, rotate and counting functions give, in the arithmetic of naturals and integers and bit by bit
(R58, R80 to R91). -/
namespace Sys2Proof.Machine
open Sys2Proof

/-! ### Sums, products and saturation -/

theorem add_eq_ofNat {n : Nat} (a b : BitVec n) : a + b = BitVec.ofNat n (a.toNat + b.toNat) := by
  simp [BitVec.ofNat_add]

theorem mul_eq_ofNat {n : Nat} (a b : BitVec n) : a * b = BitVec.ofNat n (a.toNat * b.toNat) := by
  simp [BitVec.ofNat_mul]

theorem mul_add_eq_ofNat {n : Nat} (d a b : BitVec n) : a * b + d = BitVec.ofNat n (a.toNat * b.toNat + d.toNat) := by
  simp [BitVec.ofNat_add, BitVec.ofNat_mul]

theorem add_eq_ofInt {n : Nat} (a b : BitVec n) : a + b = BitVec.ofInt n (a.toInt + b.toInt) := by
  simp [BitVec.ofInt_add]

theorem sub_eq_ofInt {n : Nat} (a b : BitVec n) : a - b = BitVec.ofInt n (a.toInt - b.toInt) := by
  simp [Int.sub_eq_add_neg, BitVec.ofInt_add, BitVec.ofInt_neg, BitVec.sub_eq_add_neg]

theorem sub_eq_ofInt_toNat {n : Nat} (a b : BitVec n) : a - b = BitVec.ofInt n ((a.toNat : Int) - b.toNat) := by
  simp [Int.sub_eq_add_neg, BitVec.ofInt_add, BitVec.ofInt_neg, BitVec.sub_eq_add_neg]

theorem neg_eq_ofInt {n : Nat} (a : BitVec n) : -a = BitVec.ofInt n (-a.toInt) := by
  simp [BitVec.ofInt_neg]

theorem mulWideS_add (d : DWord) (a b : Word) : mulWideS a b + d = BitVec.ofInt 64 (a.toInt * b.toInt + d.toNat) := by
  simp [mulWideS, BitVec.ofInt_add]

theorem mulWideU_add (d : DWord) (a b : Word) : mulWideU a b + d = BitVec.ofNat 64 (a.toNat * b.toNat + d.toNat) := by
  simp [mulWideU, BitVec.ofNat_add]

theorem satS32_eq_clamp (x : Int) : satS32 x = BitVec.ofInt 32 (max (-2 ^ 31) (min (2 ^ 31 - 1) x)) := by
  unfold satS32
  congr 1
  omega

theorem satU32_sum (m n : Nat) : satU32 (m + n) = BitVec.ofNat 32 (min (2 ^ 32 - 1) (m + n)) := by
  rw [satU32, ← BitVec.ofInt_natCast]
  congr 1
  omega

/-- A difference of naturals saturates at 0, as their own subtraction does. -/
theorem satU32_difference (a b : Word) : satU32 ((a.toNat : Int) - b.toNat) = BitVec.ofNat 32 (a.toNat - b.toNat) := by
  rw [satU32, ← BitVec.ofInt_natCast]
  congr 1
  omega

/-! ### Dot products and packed halfwords -/

theorem sum_range_two {α : Type} [Add α] [Zero α] [Std.LawfulIdentity (α := α) (· + ·) 0] (f : Nat → α) :
    ((List.range 2).map f).sum = f 0 + f 1 := by
  show f 0 + (f 1 + 0) = _
  rw [Std.LawfulRightIdentity.right_id (op := fun x y : α => x + y) (f 1)]

theorem sum_range_four {α : Type} [Add α] [Zero α] [Std.LawfulIdentity (α := α) (· + ·) 0] [Std.Associative (α := α) (· + ·)] (f : Nat → α) :
    ((List.range 4).map f).sum = f 0 + f 1 + f 2 + f 3 := by
  have assoc := Std.Associative.assoc (op := fun x y : α => x + y)
  show f 0 + (f 1 + (f 2 + (f 3 + 0))) = _
  rw [Std.LawfulRightIdentity.right_id (op := fun x y : α => x + y) (f 3), assoc, assoc]

theorem dot4S_eq (d a b : Word) : dot4S d a b = BitVec.ofInt 32 (d.toNat + ((byteOf a 0).toInt * (byteOf b 0).toInt
    + (byteOf a 1).toInt * (byteOf b 1).toInt + (byteOf a 2).toInt * (byteOf b 2).toInt + (byteOf a 3).toInt * (byteOf b 3).toInt)) := by
  rw [dot4S, sum_range_four]

theorem dot4U_eq (d a b : Word) : dot4U d a b = BitVec.ofNat 32 (d.toNat + ((byteOf a 0).toNat * (byteOf b 0).toNat
    + (byteOf a 1).toNat * (byteOf b 1).toNat + (byteOf a 2).toNat * (byteOf b 2).toNat + (byteOf a 3).toNat * (byteOf b 3).toNat)) := by
  rw [dot4U, sum_range_four]

theorem dot2S_eq (d a b : Word) : dot2S d a b = BitVec.ofInt 32 (d.toNat + ((halfOf a 0).toInt * (halfOf b 0).toInt
    + (halfOf a 1).toInt * (halfOf b 1).toInt)) := by
  rw [dot2S, sum_range_two]

theorem dot2U_eq (d a b : Word) : dot2U d a b = BitVec.ofNat 32 (d.toNat + ((halfOf a 0).toNat * (halfOf b 0).toNat
    + (halfOf a 1).toNat * (halfOf b 1).toNat)) := by
  rw [dot2U, sum_range_two]

theorem sad4_eq (d a b : Word) : sad4 d a b = BitVec.ofNat 32 (d.toNat + ((((byteOf a 0).toNat : Int) - (byteOf b 0).toNat).natAbs
    + (((byteOf a 1).toNat : Int) - (byteOf b 1).toNat).natAbs + (((byteOf a 2).toNat : Int) - (byteOf b 2).toNat).natAbs
    + (((byteOf a 3).toNat : Int) - (byteOf b 3).toNat).natAbs)) := by
  rw [sad4, sum_range_four]

theorem ofHalves_getLsbD (lo hi : BitVec 16) (i : Nat) : (ofHalves lo hi).getLsbD i = if i < 16 then lo.getLsbD i else hi.getLsbD (i - 16) :=
  BitVec.getLsbD_append

theorem halfOf_ofHalves (lo hi : BitVec 16) {h : Nat} (hh : h < 2) : halfOf (ofHalves lo hi) h = if h = 0 then lo else hi := by
  have hcase : h = 0 ∨ h = 1 := by omega
  refine BitVec.eq_of_getLsbD_eq fun i h16 => ?_
  rcases hcase with rfl | rfl <;> simp [halfOf, ofHalves_getLsbD, h16]

theorem halfOf_ofHalves_map (f : BitVec 16 → BitVec 16 → BitVec 16) (a b : Word) {h : Nat} (hh : h < 2) :
    halfOf (ofHalves (f (halfOf a 0) (halfOf b 0)) (f (halfOf a 1) (halfOf b 1))) h = f (halfOf a h) (halfOf b h) := by
  rw [halfOf_ofHalves _ _ hh]
  have hcase : h = 0 ∨ h = 1 := by omega
  rcases hcase with rfl | rfl <;> rfl

/-! ### Shifts and rotates -/

theorem shiftLeft_eq_ofNat {n : Nat} (a : BitVec n) (k : Nat) : a <<< k = BitVec.ofNat n (a.toNat * 2 ^ k) := by
  rw [← Nat.shiftLeft_eq]
  rfl

theorem shl_of_lt {n k : Nat} (a : BitVec n) (hk : k < n) : shl a k = BitVec.ofNat n (a.toNat * 2 ^ k) := by
  rw [shl, if_neg (by omega), shiftLeft_eq_ofNat]

theorem shrU_of_lt {n k : Nat} (a : BitVec n) (hk : k < n) : shrU a k = BitVec.ofNat n (a.toNat / 2 ^ k) := by
  rw [shrU, if_neg (by omega), ← Nat.shiftRight_eq_div_pow, ← BitVec.toNat_ushiftRight, BitVec.ofNat_toNat, BitVec.setWidth_eq]

theorem shl_eq {n : Nat} (a : BitVec n) (k : Nat) : shl a k = if k ≥ n then 0 else BitVec.ofNat n (a.toNat * 2 ^ k) := by
  split
  case isTrue h => exact if_pos h
  case isFalse h => exact shl_of_lt a (by omega)

theorem shrU_eq {n : Nat} (a : BitVec n) (k : Nat) : shrU a k = if k ≥ n then 0 else BitVec.ofNat n (a.toNat / 2 ^ k) := by
  split
  case isTrue h => exact if_pos h
  case isFalse h => exact shrU_of_lt a (by omega)

theorem shrS_eq {n : Nat} (a : BitVec n) (k : Nat) : shrS a k = BitVec.ofInt n (a.toInt / 2 ^ min k (n - 1)) := by
  simp [shrS, BitVec.sshiftRight, Int.shiftRight_eq_div_pow]

theorem shrS_of_lt {n k : Nat} (a : BitVec n) (hk : k < n) : shrS a k = BitVec.ofInt n (a.toInt / 2 ^ k) := by
  rw [shrS_eq, Nat.min_eq_left (by omega)]

theorem rol32_getLsbD (a : Word) (k : Nat) {i : Nat} (hi : i < 32) : (rol32 a k).getLsbD i = a.getLsbD ((i + 32 - k % 32) % 32) := by
  rw [rol32, BitVec.getLsbD_rotateLeft, Nat.mod_mod]
  by_cases h : i < k % 32
  · rw [decide_eq_true h, cond_true]
    congr 1; omega
  · rw [decide_eq_false h, cond_false, decide_eq_true hi, Bool.true_and]
    congr 1; omega

theorem ror32_getLsbD (a : Word) (k : Nat) {i : Nat} (hi : i < 32) : (ror32 a k).getLsbD i = a.getLsbD ((i + k % 32) % 32) := by
  rw [ror32, BitVec.getLsbD_rotateRight, Nat.mod_mod]
  by_cases h : i < 32 - k % 32
  · rw [decide_eq_true h, cond_true]
    congr 1; omega
  · rw [decide_eq_false h, cond_false, decide_eq_true hi, Bool.true_and]
    congr 1; omega

/-! ### Bit fields and the byte permutation -/

theorem fieldMask_getLsbD (pos len : Nat) {i : Nat} (hi : i < 32) :
    (fieldMask pos len).getLsbD i = decide (pos ≤ i ∧ i < pos + len) := by
  rw [fieldMask, BitVec.getLsbD_ofNat, Nat.testBit_mul_two_pow, Nat.testBit_two_pow_sub_one, decide_eq_true hi, Bool.true_and,
    ← Bool.decide_and, decide_eq_decide]
  omega

theorem bfi_getLsbD (d a b : Word) {i : Nat} (hi : i < 32) : (bfi d a b).getLsbD i =
    if fieldPos b ≤ i ∧ i < fieldPos b + fieldLen b then a.getLsbD (i - fieldPos b) else d.getLsbD i := by
  simp only [bfi, BitVec.getLsbD_or, BitVec.getLsbD_and, BitVec.getLsbD_not, fieldMask_getLsbD _ _ hi, BitVec.getLsbD_ofNat,
    Nat.testBit_mul_two_pow, BitVec.testBit_toNat, hi, decide_true, Bool.true_and]
  split
  case isTrue h => simp [h]
  case isFalse h => simp [h]

theorem permByte_eq (a : DWord) (b : Word) (j : Nat) :
    permByte a b j = BitVec.ofNat 8 (a.toNat / 2 ^ (8 * (b.toNat / 2 ^ (4 * j) % 8))) := by
  rw [permByte, ← BitVec.ofNat_toNat, BitVec.toNat_ushiftRight, Nat.shiftRight_eq_div_pow]

/-- R86: a byte after the fill, where the lowest enabled fill is known to start after byte `top`. -/
theorem permFilled_eq (a : DWord) {b : Word} {top : Nat} (h : permTop b = top) (j : Nat) : permFilled a b j =
    if j ≤ top then permByte a b j else if b.getLsbD (17 + 2 * top) = true ∧ (permByte a b top).getLsbD 7 = true then 0xFF else 0 := by
  simp only [permFilled, h, Bool.and_eq_true]

/-- The lowest enabled fill starts after byte `top`. -/
theorem permTop_eq {b : Word} {top : Nat} (htop : top ≤ 3) (hoff : ∀ j, j < top → b.getLsbD (16 + 2 * j) = false)
    (hon : top < 3 → b.getLsbD (16 + 2 * top) = true) : permTop b = top := by
  unfold permTop
  rcases Nat.lt_or_eq_of_le htop with h | rfl
  · rw [List.find?_range_eq_some (i := top) |>.mpr ⟨hon h, List.mem_range.mpr h, fun j hj => by rw [hoff j hj]; rfl⟩, Option.getD_some]
  · rw [List.find?_range_eq_none.mpr fun j hj => by rw [hoff j hj]; rfl, Option.getD_none]

theorem bperm_getLsbD (a : DWord) (b : Word) (i : Nat) : (bperm a b).getLsbD i =
    if i < 8 then (permFilled a b 0).getLsbD i else if i - 8 < 8 then (permFilled a b 1).getLsbD (i - 8)
    else if i - 8 - 8 < 8 then (permFilled a b 2).getLsbD (i - 8 - 8) else (permFilled a b 3).getLsbD (i - 8 - 8 - 8) :=
  (BitVec.getLsbD_append (x := (permFilled a b 3 ++ permFilled a b 2) ++ permFilled a b 1)).trans
    (by rw [BitVec.getLsbD_append, BitVec.getLsbD_append])

theorem byteOf_bperm (a : DWord) (b : Word) {j : Nat} (hj : j < 4) : byteOf (bperm a b) j = permFilled a b j := by
  have hcase : j = 0 ∨ j = 1 ∨ j = 2 ∨ j = 3 := by omega
  refine BitVec.eq_of_getLsbD_eq fun i hi => ?_
  simp only [byteOf, BitVec.getLsbD_setWidth, BitVec.getLsbD_ushiftRight, hi, decide_true, Bool.true_and, bperm_getLsbD]
  rcases hcase with rfl | rfl | rfl | rfl
  · rw [if_pos (by omega), Nat.mul_zero, Nat.zero_add]
  · rw [if_neg (by omega), if_pos (by omega)]
    congr 1; omega
  · rw [if_neg (by omega), if_neg (by omega), if_pos (by omega)]
    congr 1; omega
  · rw [if_neg (by omega), if_neg (by omega), if_neg (by omega)]
    congr 1; omega

/-! ### Counts and reversal -/

/-- A count of a word's bits fits a word. -/
theorem toNat_ofNat_count {k : Nat} (hk : k ≤ 32) : (BitVec.ofNat 32 k).toNat = k := by
  rw [BitVec.toNat_ofNat, Nat.mod_eq_of_lt (by omega)]

theorem popc_toNat (a : Word) : (popc a).toNat = ((List.range 32).filter fun i => a.getLsbD i).length :=
  toNat_ofNat_count (Nat.le_trans (List.length_filter_le _ _) (Nat.le_of_eq List.length_range))

/-- The number of places before the first at which `p` holds, `n` of them where it holds at none. -/
theorem findFirst_range {n k : Nat} {p : Nat → Bool} (hk : ((List.range n).find? p).getD n = k) :
    k ≤ n ∧ (∀ i, i < k → p i = false) ∧ (k < n → p k = true) := by
  rcases h : (List.range n).find? p with _ | j
  · obtain rfl : n = k := by rwa [h] at hk
    exact ⟨Nat.le_refl n, fun i hi => by simpa using List.find?_range_eq_none.mp h i hi, fun hlt => absurd hlt (Nat.lt_irrefl n)⟩
  · obtain rfl : j = k := by rwa [h] at hk
    obtain ⟨hp, hmem, hbefore⟩ := List.find?_range_eq_some.mp h
    exact ⟨Nat.le_of_lt (List.mem_range.mp hmem), fun i hi => by simpa using hbefore i hi, fun _ => hp⟩

theorem clz_spec (a : Word) : (clz a).toNat ≤ 32 ∧ (∀ i, i < (clz a).toNat → a.getLsbD (31 - i) = false) ∧
    ((clz a).toNat < 32 → a.getLsbD (31 - (clz a).toNat) = true) := by
  have h := findFirst_range (n := 32) (p := fun i => a.getLsbD (31 - i)) rfl
  rw [clz, toNat_ofNat_count h.1]
  exact h

theorem ctz_spec (a : Word) : (ctz a).toNat ≤ 32 ∧ (∀ i, i < (ctz a).toNat → a.getLsbD i = false) ∧
    ((ctz a).toNat < 32 → a.getLsbD (ctz a).toNat = true) := by
  have h := findFirst_range (n := 32) (p := fun i => a.getLsbD i) rfl
  rw [ctz, toNat_ofNat_count h.1]
  exact h

/-- A sum of distinct powers of two has the bits that it names. -/
theorem testBit_sum_two_pow (p : Nat → Bool) (n : Nat) :
    ((List.range n).map fun i => if p i then 2 ^ i else 0).sum < 2 ^ n ∧
    ∀ i, i < n → ((List.range n).map fun i => if p i then 2 ^ i else 0).sum.testBit i = p i := by
  induction n with
  | zero => simp
  | succ n ih =>
    obtain ⟨hlt, hbit⟩ := ih
    rw [List.range_succ, List.map_append, List.sum_append, List.map_singleton, List.sum_singleton]
    generalize ((List.range n).map fun i => if p i then 2 ^ i else 0).sum = x at hlt hbit
    rw [Nat.pow_succ, Nat.add_comm]
    refine ⟨by split <;> omega, fun i hi => ?_⟩
    rcases Nat.lt_or_eq_of_le (Nat.le_of_lt_succ hi) with h | rfl
    · split
      · rw [Nat.testBit_two_pow_add_gt h, hbit i h]
      · rw [Nat.zero_add, hbit i h]
    · cases hp : p i
      · simpa using Nat.testBit_lt_two_pow hlt
      · simp [Nat.testBit_two_pow_add_eq, Nat.testBit_lt_two_pow hlt]

theorem brev_getLsbD (a : Word) {i : Nat} (hi : i < 32) : (brev a).getLsbD i = a.getLsbD (31 - i) := by
  rw [brev, BitVec.getLsbD_ofNat, decide_eq_true hi, Bool.true_and, (testBit_sum_two_pow (fun i => a.getLsbD (31 - i)) 32).2 i hi]

end Sys2Proof.Machine
end

section
/-! What the shared forms of integer instructions compute. A statement may write a result in another way than the model does: each lemma takes
the law that makes the two operations equal, and the model's form of the instruction then follows by unfolding `exec`. -/
namespace Sys2Proof.Machine
open Sys2Proof

/-! ### Lane-set forms -/

theorem lane2_computes {mk : BitVec 7 → BitVec 7 → Instr} {f g : Word → Word}
    (hf : ∀ a, f a = g a) (he : ∀ d a s, exec (mk d a) s = lane2 d a f s := by intros; rfl) : Lane2 mk g := by
  obtain rfl : f = g := funext hf
  exact fun d a => computes_setV (he d a)

theorem lane3_computes {mk : BitVec 7 → BitVec 7 → BitVec 7 → Instr} {f g : Word → Word → Word}
    (hf : ∀ a b, f a b = g a b) (he : ∀ d a b s, exec (mk d a b) s = lane3 d a b f s := by intros; rfl) : Lane3 mk g := by
  obtain rfl : f = g := funext fun a => funext (hf a)
  exact fun d a b => computes_setV (he d a b)

theorem lane3d_computes {mk : BitVec 7 → BitVec 7 → BitVec 7 → Instr} {f g : Word → Word → Word → Word}
    (hf : ∀ d a b, f d a b = g d a b) (he : ∀ d a b s, exec (mk d a b) s = lane3d d a b f s := by intros; rfl) : Lane3d mk g := by
  obtain rfl : f = g := funext fun d => funext fun a => funext (hf d a)
  exact fun d a b => computes_setV (he d a b)

theorem lanePair3_computes {mk : BitVec 7 → BitVec 7 → BitVec 7 → Instr} {f g : DWord → DWord → DWord}
    (hf : ∀ a b, f a b = g a b) (he : ∀ d a b s, exec (mk d a b) s = lanePair3 d a b f s := by intros; rfl) : LanePair3 mk g := by
  obtain rfl : f = g := funext fun a => funext (hf a)
  exact fun d a b => computes_setPair (by simp) (he d a b)

theorem laneWide_computes {mk : BitVec 7 → BitVec 7 → BitVec 7 → Instr} {f g : Word → Word → DWord}
    (hf : ∀ a b, f a b = g a b) (he : ∀ d a b s, exec (mk d a b) s = laneWide d a b f s := by intros; rfl) : LaneWide3 mk g := by
  obtain rfl : f = g := funext fun a => funext (hf a)
  exact fun d a b => computes_setPair (by simp) (he d a b)

theorem laneWideD_computes {mk : BitVec 7 → BitVec 7 → BitVec 7 → Instr} {f g : DWord → Word → Word → DWord}
    (hf : ∀ d a b, f d a b = g d a b) (he : ∀ d a b s, exec (mk d a b) s = laneWideD d a b f s := by intros; rfl) : LaneWide3d mk g := by
  obtain rfl : f = g := funext fun d => funext fun a => funext (hf d a)
  exact fun d a b => computes_setPair (by simp) (he d a b)

theorem laneShift64_computes {mk : BitVec 7 → BitVec 7 → BitVec 7 → Instr} {f : DWord → Nat → DWord} {g : DWord → Word → DWord}
    (hf : ∀ a b, f a b.toNat = g a b) (he : ∀ d a b s, exec (mk d a b) s = laneShift64 d a b f s := by intros; rfl) : LaneShift64 mk g := by
  obtain rfl : (fun a b => f a b.toNat) = g := funext fun a => funext (hf a)
  exact fun d a b => computes_setPair (by simp) (he d a b)

theorem laneCmp_computes {mk : BitVec 3 → BitVec 7 → BitVec 7 → Instr} {f g : Word → Word → Bool}
    (hf : ∀ a b, f a b = g a b) (he : ∀ p a b s, exec (mk p a b) s = laneCmp p a b f s := by intros; rfl) : LaneCmp mk g := by
  obtain rfl : f = g := funext fun a => funext (hf a)
  exact fun p a b => computes_setP (he p a b)

theorem laneCmp64_computes {mk : BitVec 3 → BitVec 7 → BitVec 7 → Instr} {f g : DWord → DWord → Bool}
    (hf : ∀ a b, f a b = g a b) (he : ∀ p a b s, exec (mk p a b) s = laneCmp64 p a b f s := by intros; rfl) : LaneCmp64 mk g := by
  obtain rfl : f = g := funext fun a => funext (hf a)
  exact fun p a b => computes_setP (he p a b)

/-! ### Uniform forms -/

theorem uni2_computes {mk : BitVec 6 → BitVec 6 → Instr} {f g : Word → Word}
    (hf : ∀ a, f a = g a) (he : ∀ d a s, exec (mk d a) s = uni2 d a f s := by intros; rfl) : Uni2 mk g := by
  obtain rfl : f = g := funext hf
  exact fun d a => kcomputes_setK (he d a)

theorem uni3_computes {mk : BitVec 6 → BitVec 6 → BitVec 6 → Instr} {f g : Word → Word → Word}
    (hf : ∀ a b, f a b = g a b) (he : ∀ d a b s, exec (mk d a b) s = uni3 d a b f s := by intros; rfl) : Uni3 mk g := by
  obtain rfl : f = g := funext fun a => funext (hf a)
  exact fun d a b => kcomputes_setK (he d a b)

theorem uniPair3_computes {mk : BitVec 6 → BitVec 6 → BitVec 6 → Instr} {f g : DWord → DWord → DWord}
    (hf : ∀ a b, f a b = g a b) (he : ∀ d a b s, exec (mk d a b) s = uniPair3 d a b f s := by intros; rfl) : UniPair3 mk g := by
  obtain rfl : f = g := funext fun a => funext (hf a)
  exact fun d a b => kcomputes_setKpair (by simp) (he d a b)

end Sys2Proof.Machine
end

section
/-! O1: integer arithmetic, wide and packed forms of the lane set (R80, R81, R82). -/
namespace Sys2Proof.Machine
open Sys2Proof

/-- Settles O1, a clause an instruction: the shape of its form, and where the statement words its result in another way than the model, the
law of the values that makes the two equal. -/
theorem integerResults : Obligations.IntegerResults := by
  refine ⟨⟨lane3_computes add_eq_ofInt, lane3_computes sub_eq_ofInt,
    lane3_computes fun a b => satS32_eq_clamp (a.toInt + b.toInt), lane3_computes fun a b => satU32_sum a.toNat b.toNat,
    lane3_computes fun a b => satS32_eq_clamp (a.toInt - b.toInt), lane3_computes satU32_difference,
    lane3_computes mul_eq_ofNat, lane3_computes fun _ _ => rfl, lane3_computes fun _ _ => rfl, lane3d_computes mul_add_eq_ofNat,
    lane2_computes neg_eq_ofInt, lane2_computes fun _ => rfl, lane3_computes fun _ _ => rfl, lane3_computes fun _ _ => rfl,
    lane3_computes fun _ _ => rfl, lane3_computes fun _ _ => rfl⟩,
    ⟨lanePair3_computes add_eq_ofNat, lanePair3_computes sub_eq_ofInt_toNat,
    laneWide_computes fun _ _ => rfl, laneWide_computes fun _ _ => rfl, laneWideD_computes mulWideS_add, laneWideD_computes mulWideU_add,
    lanePair3_computes fun _ _ => rfl, lanePair3_computes fun _ _ => rfl, lanePair3_computes fun _ _ => rfl,
    lanePair3_computes fun _ _ => rfl⟩,
    lane3d_computes dot4S_eq, lane3d_computes dot4U_eq, lane3d_computes dot2S_eq, lane3d_computes dot2U_eq, lane3d_computes sad4_eq,
    ⟨fun a b => ofHalves (halfOf a 0 + halfOf b 0) (halfOf a 1 + halfOf b 1), lane3_computes fun _ _ => rfl, fun a b h hh => ?_⟩,
    ⟨fun a b => ofHalves (halfOf a 0 - halfOf b 0) (halfOf a 1 - halfOf b 1), lane3_computes fun _ _ => rfl, fun a b h hh => ?_⟩⟩
  · rw [halfOf_ofHalves_map (· + ·) a b hh, BitVec.toNat_add]
  · rw [halfOf_ofHalves_map (· - ·) a b hh, BitVec.toNat_sub]
    omega

end Sys2Proof.Machine
end

section
/-! O2: shifts, logic, bit fields, the byte permutation, counts and reversal (R83 to R87). -/
namespace Sys2Proof.Machine
open Sys2Proof

/-- Settles O2, a clause an instruction. -/
theorem shiftLogicAndBitFieldResults : Obligations.ShiftLogicAndBitFieldResults := by
  refine ⟨⟨lane3_computes fun a b => shl_eq a b.toNat, lane3_computes fun a b => shrU_eq a b.toNat, lane3_computes fun a b => shrS_eq a b.toNat,
    ⟨fun a b => rol32 a b.toNat, lane3_computes fun _ _ => rfl, fun a b _ => rol32_getLsbD a b.toNat⟩,
    ⟨fun a b => ror32 a b.toNat, lane3_computes fun _ _ => rfl, fun a b _ => ror32_getLsbD a b.toNat⟩,
    lane3_computes fun _ _ => rfl, lane3_computes fun _ _ => rfl, lane3_computes fun _ _ => rfl,
    lane3_computes fun _ _ => rfl, lane3_computes fun _ _ => rfl, lane3_computes fun _ _ => rfl, lane2_computes fun _ => rfl,
    laneShift64_computes fun a b => shl_eq a b.toNat, laneShift64_computes fun a b => shrU_eq a b.toNat,
    laneShift64_computes fun a b => shrS_eq a b.toNat⟩,
    lane3_computes fun _ _ => rfl, lane3_computes fun _ _ => rfl,
    ⟨bfi, lane3d_computes fun _ _ _ => rfl, fun d a b _ => bfi_getLsbD d a b⟩,
    ⟨bperm, fun d a b => computes_setV fun _ => rfl, fun a b top htop hoff hon j hj => ?_⟩,
    ⟨popc, lane2_computes fun _ => rfl, popc_toNat⟩, ⟨clz, lane2_computes fun _ => rfl, clz_spec⟩, ⟨ctz, lane2_computes fun _ => rfl, ctz_spec⟩,
    ⟨brev, lane2_computes fun _ => rfl, fun a _ => brev_getLsbD a⟩⟩
  rw [byteOf_bperm a b hj, permFilled_eq a (permTop_eq htop hoff hon), permByte_eq, permByte_eq]

end Sys2Proof.Machine
end

section
/-! O3: compares, selects, moves, predicate logic and immediate forms (R88 to R92). -/
namespace Sys2Proof.Machine
open Sys2Proof

@[simp] theorem lowWord_joinWords (lo hi : Word) : lowWord (joinWords lo hi) = lo := BitVec.setWidth_append_eq_right

@[simp] theorem highWord_joinWords (lo hi : Word) : highWord (joinWords lo hi) = hi := by
  refine BitVec.eq_of_getLsbD_eq fun i h => ?_
  simp only [highWord, joinWords, BitVec.getLsbD_setWidth, BitVec.getLsbD_ushiftRight, BitVec.getLsbD_append, h, decide_true, Bool.true_and]
  rw [if_neg (by omega), Nat.add_sub_cancel_left]

/-- A pair moved is its two registers moved, the lower first. -/
theorem pairAt_pair (w : View) (d a : Nat) : pairAt d (w.pair a) = [(d, w.v a), (d + 1, w.v (a + 1))] := by
  rw [pairAt, View.pair, lowWord_joinWords, highWord_joinWords]

theorem ofNat_bool_toNat (x : Bool) : BitVec.ofNat 32 x.toNat = if x = true then 1 else 0 := by cases x <;> rfl

/-- Settles O3, a clause an instruction. -/
theorem compareMoveAndImmediateResults : Obligations.CompareMoveAndImmediateResults := by
  refine ⟨⟨laneCmp_computes fun _ _ => rfl, laneCmp_computes fun _ _ => rfl, laneCmp_computes fun _ _ => rfl, laneCmp_computes fun _ _ => rfl,
    laneCmp_computes fun _ _ => rfl, laneCmp_computes fun _ _ => rfl, laneCmp_computes fun _ _ => rfl, laneCmp_computes fun _ _ => rfl,
    laneCmp_computes fun _ _ => rfl, laneCmp_computes fun _ _ => rfl, laneCmp64_computes fun _ _ => rfl, laneCmp64_computes fun _ _ => rfl,
    laneCmp64_computes fun _ _ => rfl, laneCmp64_computes fun _ _ => rfl, laneCmp64_computes fun _ _ => rfl, laneCmp64_computes fun _ _ => rfl,
    fun p a c i => ?compareImmediate⟩,
    fun d a b p => computes_setV fun _ => rfl, lane2_computes fun _ => rfl, fun d a => ?movePair, fun d q => ?getPredicate,
    fun p a => ?setPredicate, fun p q r => computes_setP fun _ => rfl, fun p q r => computes_setP fun _ => rfl,
    fun p q r => computes_setP fun _ => rfl,
    fun i => ⟨lane2_computes fun _ => rfl, lane2_computes fun _ => rfl, lane2_computes fun _ => rfl, lane2_computes fun _ => rfl,
      lane2_computes fun a => congrArg (· ||| _) (shiftLeft_eq_ofNat a 11), fun d => computes_setV fun _ => rfl⟩,
    fun c => ⟨lane2_computes fun a => shl_of_lt a c.isLt, lane2_computes fun a => shrU_of_lt a c.isLt, lane2_computes fun a => shrS_of_lt a c.isLt,
      ⟨fun a => rol32 a c.toNat, lane2_computes fun _ => rfl, fun a i hi => ?rotateLeft⟩,
      ⟨fun a => ror32 a c.toNat, lane2_computes fun _ => rfl, fun a i hi => ?rotateRight⟩⟩⟩
  case compareImmediate => cases c <;> exact computes_setP fun _ => rfl
  case movePair =>
    simp only [← pairAt_pair]
    exact computes_setPair (by simp) fun _ => rfl
  case getPredicate =>
    simp only [ofNat_bool_toNat]
    exact computes_setV fun _ => rfl
  case setPredicate =>
    have hne (x : Word) : decide (x ≠ 0) = (x != 0) := decide_not
    simp only [hne]
    exact computes_setP fun _ => rfl
  case rotateLeft => rw [rol32_getLsbD a _ hi, Nat.mod_eq_of_lt c.isLt]
  case rotateRight => rw [ror32_getLsbD a _ hi, Nat.mod_eq_of_lt c.isLt]

end Sys2Proof.Machine
end

section
/-! O8: the uniform register and immediate forms (R93, R94, R95). -/
namespace Sys2Proof.Machine
open Sys2Proof

/-- Settles O8, a clause an instruction. -/
theorem uniformResults : Obligations.UniformResults :=
  ⟨⟨uni3_computes add_eq_ofNat, uni3_computes sub_eq_ofInt_toNat, uni3_computes mul_eq_ofNat, uni3_computes fun _ _ => rfl,
    uni3_computes fun _ _ => rfl, uni3_computes fun _ _ => rfl, uni3_computes fun _ _ => rfl, uni3_computes fun _ _ => rfl,
    uni3_computes fun _ _ => rfl, uniPair3_computes add_eq_ofNat, uniPair3_computes sub_eq_ofInt_toNat,
    uni3_computes fun _ _ => rfl, uni3_computes fun _ _ => rfl, uni3_computes fun _ _ => rfl, uni3_computes fun _ _ => rfl,
    uni2_computes fun _ => rfl, uni3_computes fun a b => shl_eq a b.toNat, uni3_computes fun a b => shrU_eq a b.toNat,
    uni3_computes fun a b => shrS_eq a b.toNat, ⟨popc, uni2_computes fun _ => rfl, popc_toNat⟩,
    ⟨clz, uni2_computes fun _ => rfl, clz_spec⟩, uni3_computes fun _ _ => rfl⟩,
    fun i => ⟨uni2_computes fun _ => rfl, uni2_computes fun _ => rfl, uni2_computes fun _ => rfl, uni2_computes fun _ => rfl,
      uni2_computes fun a => congrArg (· ||| _) (shiftLeft_eq_ofNat a 13), fun d => kcomputes_setK fun _ => rfl⟩,
    fun c => ⟨uni2_computes fun a => shl_of_lt a c.isLt, uni2_computes fun a => shrU_of_lt a c.isLt, uni2_computes fun a => shrS_of_lt a c.isLt⟩⟩

end Sys2Proof.Machine
end

section
/-! What rounding leaves: a code with the sign of what was rounded, where its magnitude lies, and overflow (R54, R60, R62). -/
namespace Sys2Proof.Machine
open Sys2Proof

/-! ### The grid a magnitude is rounded on -/

/-- The exponent of the unit that a format keeps of m · 2^e. -/
def Fmt.unitExp (f : Fmt) (m : Nat) (e : Int) : Int := max ((Nat.log2 m : Int) + e - f.man) f.qmin

/-- The rounded number of units of m · 2^e, a little more when `sticky`. -/
def Fmt.units (f : Fmt) (md : Rnd) (neg : Bool) (m : Nat) (e : Int) (sticky : Bool) : Nat :=
  let (n, c, inexact) := quantise m e sticky (f.unitExp m e)
  if roundUp md neg n c inexact then n + 1 else n

/-- The code of those units, which may lie past the greatest of the format. -/
def Fmt.unitsCode (f : Fmt) (md : Rnd) (neg : Bool) (m : Nat) (e : Int) (sticky : Bool) : Nat :=
  (f.unitExp m e - f.qmin).toNat * 2 ^ f.man + f.units md neg m e sticky

theorem roundMag_eq (f : Fmt) (md : Rnd) (sat neg : Bool) (m : Nat) (e : Int) (sticky : Bool) :
    roundMag f md sat neg m e sticky =
      if f.top < f.unitsCode md neg m e sticky then overflow f md sat neg else f.withSign neg (f.unitsCode md neg m e sticky) := rfl

/-- The floor in units of 2^q of a magnitude of at least 2^(q+i) is at least 2^i. -/
theorem le_quantise {m i : Nat} {e q : Int} (sticky : Bool) (hm : m ≠ 0) (h : q + i ≤ Nat.log2 m + e) :
    2 ^ i ≤ (quantise m e sticky q).1 := by
  have hlog := Nat.log2_self_le hm
  unfold quantise
  split
  · calc 2 ^ i ≤ 2 ^ (Nat.log2 m + (e - q).toNat) := Nat.pow_le_pow_right (by decide) (by omega)
      _ = 2 ^ Nat.log2 m * 2 ^ (e - q).toNat := Nat.pow_add ..
      _ ≤ m * 2 ^ (e - q).toNat := Nat.mul_le_mul_right _ hlog
  · refine (Nat.le_div_iff_mul_le (Nat.two_pow_pos _)).mpr ?_
    calc 2 ^ i * 2 ^ (q - e).toNat = 2 ^ (i + (q - e).toNat) := (Nat.pow_add ..).symm
      _ ≤ 2 ^ Nat.log2 m := Nat.pow_le_pow_right (by decide) (by omega)
      _ ≤ m := hlog

/-- The floor in units of 2^q of a magnitude below 2^(q+i) is below 2^i. -/
theorem quantise_lt {m i : Nat} {e q : Int} (sticky : Bool) (h : Nat.log2 m + e < q + i) :
    (quantise m e sticky q).1 < 2 ^ i := by
  have hlog : m < 2 ^ (Nat.log2 m + 1) := Nat.lt_log2_self
  unfold quantise
  split
  · calc m * 2 ^ (e - q).toNat < 2 ^ (Nat.log2 m + 1) * 2 ^ (e - q).toNat := Nat.mul_lt_mul_of_pos_right hlog (Nat.two_pow_pos _)
      _ = 2 ^ (Nat.log2 m + 1 + (e - q).toNat) := (Nat.pow_add ..).symm
      _ ≤ 2 ^ i := Nat.pow_le_pow_right (by decide) (by omega)
  · refine (Nat.div_lt_iff_lt_mul (Nat.two_pow_pos _)).mpr ?_
    calc m < 2 ^ (Nat.log2 m + 1) := hlog
      _ ≤ 2 ^ (i + (q - e).toNat) := Nat.pow_le_pow_right (by decide) (by omega)
      _ = 2 ^ i * 2 ^ (q - e).toNat := Nat.pow_add ..

/-- Rounding moves a number of units up by one at most. -/
theorem Fmt.units_bounds (f : Fmt) (md : Rnd) (neg : Bool) (m : Nat) (e : Int) (sticky : Bool) :
    (quantise m e sticky (f.unitExp m e)).1 ≤ f.units md neg m e sticky ∧
      f.units md neg m e sticky ≤ (quantise m e sticky (f.unitExp m e)).1 + 1 := by
  unfold Fmt.units
  dsimp only
  split <;> omega

/-- A magnitude that is a whole number of its own grid's units is encoded as it is in every mode. -/
theorem roundMag_whole {f : Fmt} {m : Nat} {e : Int} (md : Rnd) (sat neg : Bool) (hq : f.unitExp m e ≤ e)
    (hc : (f.unitExp m e - f.qmin).toNat * 2 ^ f.man + m * 2 ^ (e - f.unitExp m e).toNat ≤ f.top) :
    roundMag f md sat neg m e false =
      f.withSign neg ((f.unitExp m e - f.qmin).toNat * 2 ^ f.man + m * 2 ^ (e - f.unitExp m e).toNat) := by
  have hunits : f.units md neg m e false = m * 2 ^ (e - f.unitExp m e).toNat := by
    simp [Fmt.units, quantise, hq, roundUp_exact]
  rw [roundMag_eq, Fmt.unitsCode, hunits, if_neg (Nat.not_lt_of_le hc)]

/-! ### Codes that fit a format's width -/

/-- The greatest finite code and the NaN of a format fit its width (R54). -/
def Fmt.CodesFit (f : Fmt) : Prop := f.top < f.signBit ∧ ∀ n, f.nan = some n → n < 2 * f.signBit

theorem Fmt.codesFit_of_mem {f : Fmt} (h : f ∈ [Fmt.f32, .bf16, .f16, .e5m2, .e4m3]) : f.CodesFit := by
  simp only [List.mem_cons, List.not_mem_nil, or_false] at h
  rcases h with rfl | rfl | rfl | rfl | rfl <;>
    simp [Fmt.CodesFit, Fmt.signBit, Fmt.f32, Fmt.bf16, Fmt.f16, Fmt.e5m2, Fmt.e4m3]

theorem Fmt.infCode_lt (f : Fmt) : (2 ^ f.exp - 1) * 2 ^ f.man < f.signBit := by
  rw [Fmt.signBit, Nat.pow_add]
  exact Nat.mul_lt_mul_of_pos_right (Nat.sub_lt (Nat.two_pow_pos _) Nat.one_pos) (Nat.two_pow_pos _)

theorem Fmt.withSign_lt {f : Fmt} (neg : Bool) {c : Nat} (hc : c < f.signBit) : f.withSign neg c < 2 * f.signBit := by
  cases neg <;> simp only [Fmt.withSign, if_true, Bool.false_eq_true, if_false] <;> omega

theorem overflow_lt {f : Fmt} (hf : f.CodesFit) (md : Rnd) (sat neg : Bool) : overflow f md sat neg < 2 * f.signBit := by
  unfold overflow
  extract_lets max infinite
  split
  · exact Fmt.withSign_lt neg hf.1
  · split
    · exact Fmt.withSign_lt neg f.infCode_lt
    · split
      · next n hn => exact hf.2 n hn
      · exact Fmt.withSign_lt neg hf.1

theorem roundMag_lt {f : Fmt} (hf : f.CodesFit) (md : Rnd) (sat neg : Bool) (m : Nat) (e : Int) (sticky : Bool) :
    roundMag f md sat neg m e sticky < 2 * f.signBit := by
  rw [roundMag_eq]
  split
  · exact overflow_lt hf md sat neg
  · next h => exact Fmt.withSign_lt neg (Nat.lt_of_le_of_lt (Nat.not_lt.mp h) hf.1)

/-- Every rounded value is a code of the format's width. -/
theorem roundTo_lt {f : Fmt} (hf : f.CodesFit) (md : Rnd) (sat : Bool) (x : FVal) : roundTo f md sat x < 2 * f.signBit := by
  cases x with
  | nan q =>
    cases hn : f.nan with
    | none =>
      simp only [roundTo, hn, Option.getD_none]
      exact Nat.mul_pos Nat.two_pos (Nat.two_pow_pos _)
    | some n =>
      simp only [roundTo, hn, Option.getD_some]
      exact hf.2 n hn
  | inf neg =>
    simp only [roundTo]
    split
    · exact Fmt.withSign_lt neg hf.1
    · split
      · exact Fmt.withSign_lt neg f.infCode_lt
      · split
        · next n hn => exact hf.2 n hn
        · exact Fmt.withSign_lt neg hf.1
  | fin neg m e =>
    simp only [roundTo]
    split
    · exact Fmt.withSign_lt neg (Nat.two_pow_pos _)
    · exact roundMag_lt hf md sat neg m e false

/-- The codes of BF16 and FP16 fill a half of a word (R59). -/
theorem Fmt.codesFit_half {f : Fmt} (h : f = .bf16 ∨ f = .f16) : f.CodesFit ∧ 2 * f.signBit = 2 ^ 16 := by
  rcases h with rfl | rfl <;> exact ⟨Fmt.codesFit_of_mem (by simp), rfl⟩

theorem roundTo_half_lt {f : Fmt} (h : f = .bf16 ∨ f = .f16) (md : Rnd) (sat : Bool) (x : FVal) : roundTo f md sat x < 2 ^ 16 := by
  obtain ⟨hfit, h16⟩ := Fmt.codesFit_half h
  exact h16 ▸ roundTo_lt hfit md sat x

end Sys2Proof.Machine
end

section
/-! O4: sums, differences, products and fused forms (R99, R100). -/
namespace Sys2Proof.Machine
open Sys2Proof

/-- Settles O4, a clause an instruction: each form is `FArith` or `FFma` on FP32 codes. -/
theorem floatArithmeticResults : Obligations.FloatArithmeticResults := by
  intro r
  exact ⟨lane3_computes fun _ _ => rfl, lane3_computes fun _ _ => rfl, lane3_computes fun _ _ => rfl, lane3_computes fun _ _ => rfl,
    lane3_computes fun _ _ => rfl, lane3_computes fun _ _ => rfl, lane3d_computes fun _ _ _ => rfl, lane3d_computes fun _ _ _ => rfl,
    lane3d_computes fun _ _ _ => rfl, lane3d_computes fun _ _ _ => rfl⟩

end Sys2Proof.Machine
end

section
/-! What the conversions give: the elements of a word (R59), and integers (R106, R107, R108). -/
namespace Sys2Proof.Machine
open Sys2Proof

/-- A number of two 16-bit digits is a word of those halves. -/
theorem ofNat_twoHalves {x : Nat} (y : Nat) (hx : x < 2 ^ 16) : BitVec.ofNat 32 (x + 2 ^ 16 * y) = ofHalves (BitVec.ofNat 16 x) (BitVec.ofNat 16 y) := by
  refine BitVec.eq_of_toNat_eq ?_
  rw [ofHalves, BitVec.toNat_append, ← Nat.shiftLeft_add_eq_or_of_lt (by simp; omega), Nat.shiftLeft_eq]
  simp only [BitVec.toNat_ofNat]
  omega

theorem toNat_halfOf_zero (a : Word) : (halfOf a 0).toNat = a.toNat % 2 ^ 16 := by simp [halfOf]

theorem toNat_halfOf_one (a : Word) : (halfOf a 1).toNat = a.toNat / 2 ^ 16 := by
  have := a.isLt
  simp [halfOf, Nat.shiftRight_eq_div_pow]
  omega

theorem toNat_byteOf_zero (a : Word) : (byteOf a 0).toNat = a.toNat % 256 := by simp [byteOf]

theorem toNat_byteOf_one (a : Word) : (byteOf a 1).toNat = a.toNat / 256 % 256 := by simp [byteOf, Nat.shiftRight_eq_div_pow]

/-- A word with one 16-bit element, the rest zero. -/
theorem ofNat_half {x : Nat} (hx : x < 2 ^ 16) : BitVec.ofNat 32 x = (BitVec.ofNat 16 x).setWidth 32 := by
  refine BitVec.eq_of_toNat_eq ?_
  simp only [BitVec.toNat_ofNat, BitVec.toNat_setWidth]
  omega

theorem packHalves_eq (f : Nat → Nat) (a b : Nat) :
    BitVec.ofNat 32 (packHalves f a b) = BitVec.ofNat 16 (f b) ++ BitVec.ofNat 16 (f a) := by
  have hmod (x : Nat) : BitVec.ofNat 16 (x % 2 ^ 16) = BitVec.ofNat 16 x := BitVec.eq_of_toNat_eq (by simp)
  rw [packHalves, ofNat_twoHalves _ (Nat.mod_lt _ (Nat.two_pow_pos 16)), ofHalves, hmod, hmod]

theorem packBytes_eq {f : Nat → Nat} (hf : ∀ x, f x < 256) (a b : Nat) : packBytes f a b = f a + 2 ^ 8 * f b := by
  rw [packBytes, Nat.mod_eq_of_lt (hf a), Nat.mod_eq_of_lt (hf b), show 2 ^ 8 = 256 from rfl]

/-- The codes of both 8-bit formats fit a byte. -/
theorem fConvert_byte {dst : Fmt} (h : dst = .e4m3 ∨ dst = .e5m2) (src : Fmt) (md : Rnd) (sat : Bool) (a : Nat) :
    fConvert src dst md sat a < 256 := by
  rcases h with rfl | rfl <;> exact roundTo_lt (Fmt.codesFit_of_mem (by simp)) md sat _

/-- A signed integer as an exact value; zero is positive (R61). -/
theorem FVal.ofInt_eq (x : Int) : FVal.ofInt x 0 false = .fin (decide (x < 0)) x.natAbs 0 := by
  unfold FVal.ofInt
  split
  · next h => subst h; rfl
  · rfl

theorem FVal.ofInt_nat (n : Nat) : FVal.ofInt (n : Int) 0 false = .fin false n 0 := by
  rw [FVal.ofInt_eq, Int.natAbs_natCast, decide_eq_false (Int.not_lt.mpr (Int.natCast_nonneg n))]

end Sys2Proof.Machine
end

section
/-! O7: the conversions (R106, R107, R108). -/
namespace Sys2Proof.Machine
open Sys2Proof

/-- The eight conversions of FP32 to an integer are `FToInt` (R106). -/
theorem floatToInteger_computes {mk : BitVec 7 → BitVec 7 → Instr} {signed : Bool} {md : Rnd}
    (h : (mk, signed, md) ∈ [(Instr.cvtI32F32Rn, true, Rnd.rn), (.cvtI32F32Rz, true, .rz), (.cvtI32F32Rd, true, .rd), (.cvtI32F32Ru, true, .ru),
      (.cvtN32F32Rn, false, .rn), (.cvtN32F32Rz, false, .rz), (.cvtN32F32Rd, false, .rd), (.cvtN32F32Ru, false, .ru)]) :
    Lane2 mk fun a => fToInt signed md a.toNat := by
  simp only [List.mem_cons, List.not_mem_nil, or_false, Prod.mk.injEq] at h
  rcases h with ⟨rfl, rfl, rfl⟩ | ⟨rfl, rfl, rfl⟩ | ⟨rfl, rfl, rfl⟩ | ⟨rfl, rfl, rfl⟩ | ⟨rfl, rfl, rfl⟩ | ⟨rfl, rfl, rfl⟩ | ⟨rfl, rfl, rfl⟩ | ⟨rfl, rfl, rfl⟩ <;>
    exact lane2_computes fun _ => rfl

/-- The four packed conversions of FP32 to 8-bit elements (R108). -/
theorem floatToBytes_computes {mk : BitVec 7 → BitVec 7 → BitVec 7 → Instr} {fmt : Fmt} {sat : Bool}
    (h : (mk, fmt, sat) ∈ [(Instr.cvtE4m3x2F32Rn, Fmt.e4m3, false), (.cvtE4m3x2F32RnSat, .e4m3, true), (.cvtE5m2x2F32Rn, .e5m2, false),
      (.cvtE5m2x2F32RnSat, .e5m2, true)]) :
    Lane3 mk fun a b => BitVec.ofNat 32 (roundTo fmt .rn sat (f32 a) + 2 ^ 8 * roundTo fmt .rn sat (f32 b)) := by
  have hpack (dst : Fmt) (hd : dst = .e4m3 ∨ dst = .e5m2) (sat : Bool) (a b : Word) :
      BitVec.ofNat 32 (packBytes (fConvert .f32 dst .rn sat) a.toNat b.toNat) =
        BitVec.ofNat 32 (roundTo dst .rn sat (f32 a) + 2 ^ 8 * roundTo dst .rn sat (f32 b)) :=
    congrArg _ (packBytes_eq (fConvert_byte hd .f32 .rn sat) a.toNat b.toNat)
  simp only [List.mem_cons, List.not_mem_nil, or_false, Prod.mk.injEq] at h
  rcases h with ⟨rfl, rfl, rfl⟩ | ⟨rfl, rfl, rfl⟩ | ⟨rfl, rfl, rfl⟩ | ⟨rfl, rfl, rfl⟩
  · exact lane3_computes (hpack _ (.inl rfl) _)
  · exact lane3_computes (hpack _ (.inl rfl) _)
  · exact lane3_computes (hpack _ (.inr rfl) _)
  · exact lane3_computes (hpack _ (.inr rfl) _)

/-- A packed conversion to 16-bit elements puts the second operand's in the higher half (R108). -/
theorem narrowedHalves_eq (dst : Fmt) (a b : Word) :
    BitVec.ofNat 32 (packHalves (fConvert .f32 dst .rn false) a.toNat b.toNat) =
      BitVec.ofNat 16 (roundTo dst .rn false (f32 b)) ++ BitVec.ofNat 16 (roundTo dst .rn false (f32 a)) :=
  packHalves_eq _ _ _

/-- A widening conversion reads the lower half of its source (R107). -/
theorem widened_eq (src : Fmt) (a : Word) :
    BitVec.ofNat 32 (fConvert src .f32 .rn false (a.toNat % 2 ^ 16)) = toF32 .rn false (src.decode (halfOf a 0).toNat) := by
  rw [toNat_halfOf_zero]; rfl

/-- A conversion of two 8-bit elements reads the two lower bytes of its source (R108). -/
theorem widenedBytes_eq (src : Fmt) (a : Word) :
    BitVec.ofNat 32 (packHalves (fConvert src .f16 .rn false) (a.toNat % 256) (a.toNat / 256 % 256)) =
      toF16 .rn (src.decode (byteOf a 1).toNat) ++ toF16 .rn (src.decode (byteOf a 0).toNat) := by
  rw [packHalves_eq, toNat_byteOf_zero, toNat_byteOf_one]; rfl

/-- Settles O7, a clause an instruction: each is its rounding, packed as its form says. -/
theorem conversionResults : Obligations.ConversionResults :=
  ⟨lane2_computes fun a => congrArg (toF32 .rn false) (FVal.ofInt_eq a.toInt),
    lane2_computes fun a => congrArg (toF32 .rn false) (FVal.ofInt_nat a.toNat),
    fun _ _ _ h => floatToInteger_computes h,
    lane2_computes (widened_eq .bf16), lane2_computes (widened_eq .f16),
    lane2_computes fun _ => ofNat_half (roundTo_half_lt (.inl rfl) .rn false _), lane2_computes fun _ => ofNat_half (roundTo_half_lt (.inl rfl) .rz false _),
    lane2_computes fun _ => ofNat_half (roundTo_half_lt (.inr rfl) .rn false _), lane2_computes fun _ => ofNat_half (roundTo_half_lt (.inr rfl) .rz false _),
    fun _ _ _ h => floatToBytes_computes h,
    lane3_computes (narrowedHalves_eq .bf16), lane3_computes (narrowedHalves_eq .f16),
    lane2_computes (widenedBytes_eq .e4m3), lane2_computes (widenedBytes_eq .e5m2)⟩

end Sys2Proof.Machine
end

section
/-! What comparing, choosing and packing give: `FMinMax` (R101), the compares (R104) and the packed forms (R105). -/
namespace Sys2Proof.Machine
open Sys2Proof

/-! ### The order of values -/

@[simp] theorem FVal.isNan_nan (q : Bool) : (FVal.nan q).isNan = true := rfl
@[simp] theorem FVal.isSnan_nan (q : Bool) : (FVal.nan q).isSnan = !q := rfl

theorem FVal.isNan_iff {x : FVal} : x.isNan = true ↔ ∃ q, x = .nan q := by
  cases x <;> simp [FVal.isNan]

theorem FVal.isSnan_iff {x : FVal} : x.isSnan = true ↔ x = .nan false := by
  cases x <;> simp [FVal.isSnan]

/-- A signalling NaN is a NaN. -/
theorem FVal.not_isSnan_of_not_isNan {x : FVal} (h : x.isNan = false) : x.isSnan = false := by
  cases x with
  | nan q => cases h
  | inf neg => rfl
  | fin neg m e => rfl

/-- Values compared the other way round. -/
theorem FVal.cmp_swap (x y : FVal) : FVal.cmp y x = (FVal.cmp x y).map Ordering.swap := by
  cases x <;> cases y
  case inf.inf a b => cases a <;> cases b <;> rfl
  case inf.fin a _ _ _ => cases a <;> rfl
  case fin.inf b => cases b <;> rfl
  case fin.fin a m e b n g =>
    simp only [FVal.cmp, Option.map_some, Int.min_comm g e]
    rw [← Std.OrientedCmp.eq_swap (cmp := (compare : Int → Int → Ordering))]
  all_goals rfl

/-- One value lies below another, −0 below +0 (R101). -/
theorem FVal.below_iff {x y : FVal} : x.below y = true ↔
    FVal.cmp x y = some .lt ∨ (FVal.cmp x y = some .eq ∧ x.sign = true ∧ y.sign = false) := by
  unfold FVal.below
  rcases FVal.cmp x y with _ | _ | _ | _ <;> simp

/-- Of two values at most one lies below the other. -/
theorem FVal.below_asymm {x y : FVal} (h : x.below y = true) : y.below x = false := by
  rw [Bool.eq_false_iff, ne_eq, FVal.below_iff, FVal.cmp_swap]
  rcases FVal.below_iff.mp h with hlt | ⟨heq, hx, hy⟩
  · simp [hlt]
  · simp [heq, hx, hy]

/-- A value lies on the side that the minimum takes, or the maximum. -/
def FVal.before (x : FVal) (isMax : Bool) (y : FVal) : Bool := if isMax then y.below x else x.below y

theorem FVal.before_asymm {x y : FVal} {isMax : Bool} (h : x.before isMax y = true) : y.before isMax x = false := by
  cases isMax <;> exact FVal.below_asymm h

/-- What a code can stand for: an infinity or a finite value with its sign, the exponent no less than that of a subnormal, or a NaN (R53, R54). -/
theorem Fmt.decode_cases {f : Fmt} {x : Nat} {v : FVal} (h : f.decode x = v) : v = .inf (decide (x / f.signBit % 2 = 1)) ∨ (∃ q, v = .nan q) ∨
    ∃ m e, v = .fin (decide (x / f.signBit % 2 = 1)) m e ∧ f.qmin ≤ e := by
  unfold Fmt.decode at h
  dsimp only at h
  split at h
  · split at h
    · exact .inl h.symm
    · exact .inr (.inl ⟨_, h.symm⟩)
  · split at h
    · exact .inr (.inl ⟨_, h.symm⟩)
    · split at h
      · exact .inr (.inr ⟨_, _, h.symm, Int.le_refl _⟩)
      · next h0 =>
        have hexp : (1 : Int) ≤ ((x % f.signBit / 2 ^ f.man : Nat) : Int) := Int.ofNat_le.mpr (Nat.pos_of_ne_zero h0)
        exact .inr (.inr ⟨_, _, h.symm, by omega⟩)

/-- The sign of a value is its code's highest bit, NaNs apart (R53). -/
theorem Fmt.sign_decode {f : Fmt} {x : Nat} (h : (f.decode x).isNan = false) :
    (f.decode x).sign = decide (x / f.signBit % 2 = 1) := by
  rcases Fmt.decode_cases rfl with hv | ⟨q, hv⟩ | ⟨m, e, hv, -⟩
  · rw [hv]; rfl
  · rw [hv] at h; cases h
  · rw [hv]; rfl

theorem f32_sign {a : Word} (h : (f32 a).isNan = false) : (f32 a).sign = a.getLsbD 31 := by
  rw [f32, Fmt.sign_decode h, ← BitVec.testBit_toNat, Nat.testBit_eq_decide_div_mod_eq]
  rfl

/-! ### Minimum and maximum -/

/-- `FMinMax` gives the format's default NaN or one of its operands. -/
theorem fMinMax_cases (f : Fmt) (isMax num : Bool) (a b : Nat) :
    fMinMax f isMax num a b = f.nan.getD 0 ∨ fMinMax f isMax num a b = a ∨ fMinMax f isMax num a b = b := by
  generalize h : fMinMax f isMax num a b = r
  unfold fMinMax at h
  dsimp only at h
  repeat' split at h
  all_goals
    subst h
    simp only [true_or, or_true]

theorem fMinMax_lt {f : Fmt} (hf : f.CodesFit) (isMax num : Bool) {a b : Nat} (ha : a < 2 * f.signBit) (hb : b < 2 * f.signBit) :
    fMinMax f isMax num a b < 2 * f.signBit := by
  have hnan : f.nan.getD 0 < 2 * f.signBit := roundTo_lt hf .rn false (.nan true)
  rcases fMinMax_cases f isMax num a b with h | h | h <;> rw [h] <;> assumption

section Cases
variable {f : Fmt} {isMax num : Bool} {a b : Nat}

/-- Without `num`, a NaN operand gives the default NaN. -/
theorem fMinMax_nan (h : (f.decode a).isNan = true ∨ (f.decode b).isNan = true) : fMinMax f isMax false a b = f.nan.getD 0 := by
  rcases h with h | h <;> simp [fMinMax, h]

/-- With `num`, a signalling NaN or two NaNs give the default NaN. -/
theorem fMinMax_num_nan (h : (f.decode a).isSnan = true ∨ (f.decode b).isSnan = true ∨ ((f.decode a).isNan = true ∧ (f.decode b).isNan = true)) :
    fMinMax f isMax true a b = f.nan.getD 0 := by
  rcases h with h | h | ⟨ha, hb⟩
  · simp [fMinMax, h]
  · simp [fMinMax, h]
  · simp [fMinMax, ha, hb]

/-- With `num`, one quiet NaN gives the other operand. -/
theorem fMinMax_num_left (ha : f.decode a = .nan true) (hb : (f.decode b).isNan = false) : fMinMax f isMax true a b = b := by
  simp [fMinMax, ha, hb, FVal.not_isSnan_of_not_isNan hb]

theorem fMinMax_num_right (ha : (f.decode a).isNan = false) (hb : f.decode b = .nan true) : fMinMax f isMax true a b = a := by
  simp [fMinMax, hb, ha, FVal.not_isSnan_of_not_isNan ha]

/-- Of two numbers, `FMinMax` gives the one that lies on its side, and the first where neither does. -/
theorem fMinMax_number (ha : (f.decode a).isNan = false) (hb : (f.decode b).isNan = false) :
    ((f.decode a).before isMax (f.decode b) = true → fMinMax f isMax num a b = a) ∧
    ((f.decode b).before isMax (f.decode a) = true → fMinMax f isMax num a b = b) ∧
    ((f.decode a).before isMax (f.decode b) = false → (f.decode b).before isMax (f.decode a) = false → fMinMax f isMax num a b = a) := by
  have hpick : fMinMax f isMax num a b = if (f.decode a).before isMax (f.decode b) = true then a
      else if (f.decode b).before isMax (f.decode a) = true then b else a := by
    cases isMax <;>
      simp [fMinMax, FVal.before, ha, hb, FVal.not_isSnan_of_not_isNan ha, FVal.not_isSnan_of_not_isNan hb]
  rw [hpick]
  refine ⟨fun h => if_pos h, fun h => ?_, fun h h' => ?_⟩
  · rw [if_neg (by simp [FVal.before_asymm h]), if_pos h]
  · rw [if_neg (by simp [h]), if_neg (by simp [h'])]

end Cases

/-! ### Compares -/

/-- What a compare's condition says of how its operands compare; two values of which one is a NaN do not compare (R104). -/
def FCond.holds : FCond → Option Ordering → Bool
  | .eq, o => o == some .eq
  | .ne, o => o != some .eq
  | .lt, o => o == some .lt
  | .le, o => o == some .lt || o == some .eq
  | .gt, o => o == some .gt
  | .ge, o => o == some .gt || o == some .eq
  | .ord, o => o.isSome
  | .uno, o => o.isNone

theorem fCompare_eq (c : FCond) (a b : Word) : fCompare c a.toNat b.toNat = c.holds (FVal.cmp (f32 a) (f32 b)) := by
  unfold fCompare
  rw [f32, f32]
  rcases FVal.cmp (Fmt.f32.decode a.toNat) (Fmt.f32.decode b.toNat) with _ | _ | _ | _ <;> cases c <;> rfl

/-! ### Packed forms -/

/-- Each half of a packed result is the function of the operands' halves. -/
theorem toNat_halfOf_halves {f : Nat → Nat → Nat} (hf : ∀ x y, x < 2 ^ 16 → y < 2 ^ 16 → f x y < 2 ^ 16) (a b : Word) {h : Nat} (hh : h < 2) :
    (halfOf (halves f a b) h).toNat = f (halfOf a h).toNat (halfOf b h).toNat := by
  have hlt (i : Nat) := hf _ _ (halfOf a i).isLt (halfOf b i).isLt
  have heq : halves f a b = ofHalves (BitVec.ofNat 16 (f (halfOf a 0).toNat (halfOf b 0).toNat)) (BitVec.ofNat 16 (f (halfOf a 1).toNat (halfOf b 1).toNat)) := by
    rw [halves, ← toNat_halfOf_zero, ← toNat_halfOf_zero, ← toNat_halfOf_one, ← toNat_halfOf_one, ofNat_twoHalves _ (hlt 0)]
  rw [heq, halfOf_ofHalves_map (fun x y => BitVec.ofNat 16 (f x.toNat y.toNat)) a b hh, BitVec.toNat_ofNat, Nat.mod_eq_of_lt (hlt h)]

/-- The same with the destination's halves read. -/
theorem toNat_halfOf_halves3 {f : Nat → Nat → Nat → Nat} (hf : ∀ x y z, f x y z < 2 ^ 16) (d a b : Word) {h : Nat} (hh : h < 2) :
    (halfOf (halves3 f d a b) h).toNat = f (halfOf a h).toNat (halfOf b h).toNat (halfOf d h).toNat := by
  have heq : halves3 f d a b = ofHalves (BitVec.ofNat 16 (f (halfOf a 0).toNat (halfOf b 0).toNat (halfOf d 0).toNat))
      (BitVec.ofNat 16 (f (halfOf a 1).toNat (halfOf b 1).toNat (halfOf d 1).toNat)) := by
    simp only [halves3, ← toNat_halfOf_zero, ← toNat_halfOf_one, ofNat_twoHalves _ (hf _ _ _)]
  rw [heq, halfOf_ofHalves _ _ hh]
  have hcase : h = 0 ∨ h = 1 := by omega
  rcases hcase with rfl | rfl <;> exact Nat.mod_eq_of_lt (hf _ _ _)

section Packed
variable {fmt : Fmt} (hfmt : fmt = .bf16 ∨ fmt = .f16)
include hfmt

/-- A packed form rounds the result of each pair of elements alone (R105). -/
theorem halfOf_halves_roundTo (g : FVal → FVal → FVal) (a b : Word) {h : Nat} (hh : h < 2) :
    (halfOf (halves (fun x y => roundTo fmt .rn false (g (fmt.decode x) (fmt.decode y))) a b) h).toNat =
      roundTo fmt .rn false (g (fmt.decode (halfOf a h).toNat) (fmt.decode (halfOf b h).toNat)) :=
  toNat_halfOf_halves (fun _ _ _ _ => roundTo_half_lt hfmt .rn false _) a b hh

theorem halfOf_halves3_fFma (d a b : Word) {h : Nat} (hh : h < 2) :
    (halfOf (halves3 (fFma fmt .rn false false false) d a b) h).toNat =
      roundTo fmt .rn false (FVal.add .rn (FVal.mul (fmt.decode (halfOf a h).toNat) (fmt.decode (halfOf b h).toNat)) (fmt.decode (halfOf d h).toNat)) :=
  toNat_halfOf_halves3 (fun _ _ _ => roundTo_half_lt hfmt .rn false _) d a b hh

theorem halfOf_halves_fMinMax {isMax num : Bool} (a b : Word) {h : Nat} (hh : h < 2) :
    (halfOf (halves (fMinMax fmt isMax num) a b) h).toNat = fMinMax fmt isMax num (halfOf a h).toNat (halfOf b h).toNat := by
  obtain ⟨hfit, h16⟩ := Fmt.codesFit_half hfmt
  exact toNat_halfOf_halves (fun x y hx hy => h16 ▸ fMinMax_lt hfit isMax num (h16 ▸ hx) (h16 ▸ hy)) a b hh

end Packed

end Sys2Proof.Machine
end

section
/-! O6: minimum and maximum, sign operations, round to integral, compares and packed forms (R101 to R105). -/
namespace Sys2Proof.Machine
open Sys2Proof

theorem ofNat_of_toNat {n : Nat} {x : Word} (h : n = x.toNat) : BitVec.ofNat 32 n = x := by
  rw [h, BitVec.ofNat_toNat, BitVec.setWidth_eq]

/-- The four FP32 forms of `FMinMax` (R101). -/
theorem minMax_computes {mk : BitVec 7 → BitVec 7 → BitVec 7 → Instr} {isMax num : Bool}
    (h : (mk, isMax, num) ∈ [(Instr.fminF32, false, false), (.fmaxF32, true, false), (.fminnumF32, false, true), (.fmaxnumF32, true, true)]) :
    Lane3 mk fun a b => BitVec.ofNat 32 (fMinMax .f32 isMax num a.toNat b.toNat) := by
  simp only [List.mem_cons, List.not_mem_nil, or_false, Prod.mk.injEq] at h
  rcases h with ⟨rfl, rfl, rfl⟩ | ⟨rfl, rfl, rfl⟩ | ⟨rfl, rfl, rfl⟩ | ⟨rfl, rfl, rfl⟩ <;> exact lane3_computes fun _ _ => rfl

/-- An FP32 word rounded to an integral value; zeros and infinities are as they were (R103). -/
def roundedToIntegral (md : Rnd) (a : Word) : Word :=
  match f32 a with
  | .nan _ => 0x7FC00000
  | .inf _ => a
  | .fin neg m e => if m = 0 then a else toF32 .rz false (.fin neg (roundInt md neg m e) 0)

theorem fRint_eq (md : Rnd) (a : Word) : BitVec.ofNat 32 (fRint md a.toNat) = roundedToIntegral md a := by
  unfold fRint roundedToIntegral
  rw [f32]
  cases Fmt.f32.decode a.toNat with
  | nan q => rfl
  | inf neg => exact ofNat_of_toNat rfl
  | fin neg m e =>
    dsimp only
    split
    · exact ofNat_of_toNat rfl
    · rfl

/-- The five roundings to an integral value (R103). -/
theorem roundToIntegral_computes {mk : BitVec 7 → BitVec 7 → Instr} {md : Rnd}
    (h : (mk, md) ∈ [(Instr.frintF32Rn, Rnd.rn), (.frintF32Rz, .rz), (.frintF32Rd, .rd), (.frintF32Ru, .ru), (.frintF32Rna, .rna)]) :
    Lane2 mk (roundedToIntegral md) := by
  simp only [List.mem_cons, List.not_mem_nil, or_false, Prod.mk.injEq] at h
  rcases h with ⟨rfl, rfl⟩ | ⟨rfl, rfl⟩ | ⟨rfl, rfl⟩ | ⟨rfl, rfl⟩ | ⟨rfl, rfl⟩ <;> exact lane2_computes (fRint_eq _)

/-- An FP32 compare writes whether its condition holds (R104). -/
theorem fcmp_computes {mk : BitVec 3 → BitVec 7 → BitVec 7 → Instr} {c : FCond}
    (he : ∀ p a b s, exec (mk p a b) s = laneFcmp p a b c s := by intros; rfl) : LaneCmp mk fun a b => c.holds (FVal.cmp (f32 a) (f32 b)) :=
  laneCmp_computes (fCompare_eq c) he

/-- Settles O6, a clause an instruction. -/
theorem floatSelectCompareAndPackedResults : Obligations.FloatSelectCompareAndPackedResults := by
  refine ⟨⟨fun mk isMax num h => ⟨_, minMax_computes h, fun a b => ?minMax⟩,
    lane2_computes fun _ => rfl, lane2_computes fun _ => rfl, lane3_computes fun a b => BitVec.or_comm _ _,
    fun mk md h => ?roundToIntegral,
    fcmp_computes (c := .eq), fcmp_computes (c := .ne), fcmp_computes (c := .lt), fcmp_computes (c := .le),
    fcmp_computes (c := .gt), fcmp_computes (c := .ge), fcmp_computes (c := .ord), fcmp_computes (c := .uno)⟩,
    ?packed⟩
  case minMax =>
    extract_lets nan below
    have hnan {x : Word} (h : nan x) : (f32 x).isNan = true := FVal.isNan_iff.mpr h
    have hnum {x : Word} (h : ¬ nan x) : (f32 x).isNan = false := Bool.eq_false_iff.mpr fun h' => h (FVal.isNan_iff.mp h')
    have hsnan {x : Word} (h : f32 x = .nan false) : (f32 x).isSnan = true := FVal.isSnan_iff.mpr h
    have hbelow {x y : Word} (hx : ¬ nan x) (hy : ¬ nan y) : below x y ↔ (f32 x).below (f32 y) = true := by
      rw [FVal.below_iff, f32_sign (hnum hx), f32_sign (hnum hy)]
    refine ⟨fun hn hx => ?_, fun hn hx => ?_, fun hn ha hb => ?_, fun hn ha hb => ?_, fun ha hb hm => ?_, fun ha hb hm => ?_⟩
    · subst hn; exact congrArg (BitVec.ofNat 32) (fMinMax_nan (hx.imp hnan hnan))
    · subst hn; exact congrArg (BitVec.ofNat 32) (fMinMax_num_nan (hx.imp hsnan (Or.imp hsnan (And.imp hnan hnan))))
    · subst hn; exact ofNat_of_toNat (fMinMax_num_left ha (hnum hb))
    · subst hn; exact ofNat_of_toNat (fMinMax_num_right (hnum ha) hb)
    all_goals
      subst hm
      obtain ⟨hfirst, hsecond, hequal⟩ := fMinMax_number (num := num) (hnum ha) (hnum hb)
      rw [hbelow ha hb, hbelow hb ha]
      simp only [Bool.not_eq_true]
    · exact ⟨fun h => ofNat_of_toNat (hfirst h), fun h => ofNat_of_toNat (hsecond h), fun h h' => ofNat_of_toNat (hequal h h')⟩
    · exact ⟨fun h => ofNat_of_toNat (hfirst h), fun h => ofNat_of_toNat (hsecond h), fun h h' => ofNat_of_toNat (hequal h' h)⟩
  case roundToIntegral =>
    exact roundToIntegral_computes h
  case packed =>
    intro each fused least
    exact ⟨⟨halves (fAdd .bf16 .rn false), lane3_computes fun _ _ => rfl, fun a b _ => halfOf_halves_roundTo (.inl rfl) (FVal.add .rn) a b⟩,
      ⟨halves (fMul .bf16 .rn false), lane3_computes fun _ _ => rfl, fun a b _ => halfOf_halves_roundTo (.inl rfl) FVal.mul a b⟩,
      ⟨halves3 (fFma .bf16 .rn false false false), lane3d_computes fun _ _ _ => rfl, fun d a b _ => halfOf_halves3_fFma (.inl rfl) d a b⟩,
      ⟨halves (fMinMax .bf16 false false), lane3_computes fun _ _ => rfl, fun a b _ => halfOf_halves_fMinMax (.inl rfl) a b⟩,
      ⟨halves (fMinMax .bf16 true false), lane3_computes fun _ _ => rfl, fun a b _ => halfOf_halves_fMinMax (.inl rfl) a b⟩,
      ⟨halves (fAdd .f16 .rn false), lane3_computes fun _ _ => rfl, fun a b _ => halfOf_halves_roundTo (.inr rfl) (FVal.add .rn) a b⟩,
      ⟨halves (fMul .f16 .rn false), lane3_computes fun _ _ => rfl, fun a b _ => halfOf_halves_roundTo (.inr rfl) FVal.mul a b⟩,
      ⟨halves3 (fFma .f16 .rn false false false), lane3d_computes fun _ _ _ => rfl, fun d a b _ => halfOf_halves3_fFma (.inr rfl) d a b⟩,
      ⟨halves (fMinMax .f16 false false), lane3_computes fun _ _ => rfl, fun a b _ => halfOf_halves_fMinMax (.inr rfl) a b⟩,
      ⟨halves (fMinMax .f16 true false), lane3_computes fun _ _ => rfl, fun a b _ => halfOf_halves_fMinMax (.inr rfl) a b⟩⟩

end Sys2Proof.Machine
end

section
/-! What rounding to FP32 and decoding it give at the ends of the range: signs, overflow, powers of two and values up to one (R53, R60, R62). -/
namespace Sys2Proof.Machine
open Sys2Proof

/-! ### Signs -/

/-- The code of a value with its sign bit set stands for that value negated (R53). -/
theorem Fmt.decode_signBit_add {f : Fmt} {x : Nat} (hx : x < f.signBit) : f.decode (f.signBit + x) = (f.decode x).neg := by
  have hmod : (f.signBit + x) % f.signBit = x := by rw [Nat.add_mod_left, Nat.mod_eq_of_lt hx]
  have hpos : 0 < f.signBit := Nat.two_pow_pos _
  have hdiv : (f.signBit + x) / f.signBit = 1 := by
    rw [Nat.add_div_left x hpos, Nat.div_eq_of_lt hx]
  unfold Fmt.decode
  rw [hmod, hdiv, Nat.mod_eq_of_lt hx, Nat.div_eq_of_lt hx]
  dsimp only
  simp only [apply_ite FVal.neg]
  rfl

/-- A code past that of infinity stands for a NaN (R54). -/
theorem Fmt.decode_nan {f : Fmt} (hinf : f.inf = true) {x : Nat} (hx : (2 ^ f.exp - 1) * 2 ^ f.man < x % f.signBit) : ∃ q, f.decode x = .nan q := by
  have hlt : x % f.signBit < 2 ^ f.exp * 2 ^ f.man := by rw [← Nat.pow_add]; exact Nat.mod_lt _ (Nat.two_pow_pos _)
  have hlow : (2 ^ f.exp - 1) ≤ x % f.signBit / 2 ^ f.man := (Nat.le_div_iff_mul_le (Nat.two_pow_pos _)).mpr (Nat.le_of_lt hx)
  have hhigh : x % f.signBit / 2 ^ f.man < 2 ^ f.exp := (Nat.div_lt_iff_lt_mul (Nat.two_pow_pos _)).mpr hlt
  have hexp : x % f.signBit / 2 ^ f.man = 2 ^ f.exp - 1 := by omega
  have hman : x % f.signBit % 2 ^ f.man ≠ 0 := by
    have := Nat.div_add_mod' (x % f.signBit) (2 ^ f.man)
    rw [hexp] at this
    omega
  refine ⟨decide (x % f.signBit % 2 ^ f.man / 2 ^ (f.man - 1) = 1), ?_⟩
  simp only [Fmt.decode, hinf, hexp, beq_self_eq_true, Bool.and_self, if_true, if_neg hman]

/-- To nearest, a magnitude rounds to one code, whichever sign it has. -/
theorem roundMag_rn_sign {f : Fmt} (hf : f.inf = true) (hfit : f.CodesFit) (sat : Bool) (m : Nat) (e : Int) (sticky : Bool) :
    ∃ c, c < f.signBit ∧ ∀ neg, roundMag f .rn sat neg m e sticky = f.withSign neg c := by
  have hcode (neg : Bool) : f.unitsCode .rn neg m e sticky = f.unitsCode .rn false m e sticky := rfl
  by_cases hover : f.top < f.unitsCode .rn false m e sticky
  · cases sat with
    | true => exact ⟨f.top, hfit.1, fun neg => by rw [roundMag_eq, hcode, if_pos hover]; rfl⟩
    | false => exact ⟨_, f.infCode_lt, fun neg => by rw [roundMag_eq, hcode, if_pos hover]; simp [overflow, hf]⟩
  · exact ⟨_, Nat.lt_of_le_of_lt (Nat.not_lt.mp hover) hfit.1, fun neg => by rw [roundMag_eq, hcode, if_neg hover]⟩

/-! ### The values of FP32 codes -/

/-- No finite value of a format has an exponent below that of its subnormals (R53). -/
theorem Fmt.qmin_le_of_decode {f : Fmt} {x : Nat} {neg : Bool} {m : Nat} {e : Int} (h : f.decode x = .fin neg m e) : f.qmin ≤ e := by
  rcases Fmt.decode_cases h with hv | ⟨q, hv⟩ | ⟨m', e', hv, he⟩
  · cases hv
  · cases hv
  · obtain ⟨-, -, rfl⟩ := FVal.fin.inj hv
    exact he

/-- A code below that of positive infinity stands for a finite value without a sign; only the first of them for zero, and those from 128's
code on for 128 or more. -/
theorem f32_decode_lt {x : Nat} (hx : x < 0x7F800000) : ∃ m e, Fmt.f32.decode x = .fin false m e ∧ (0 < x → m ≠ 0) ∧
    (0x43000000 ≤ x → 7 ≤ (Nat.log2 m : Int) + e) := by
  have hmod : x % Fmt.f32.signBit = x := Nat.mod_eq_of_lt (Nat.lt_trans hx (by decide))
  have hdiv : x / Fmt.f32.signBit = 0 := Nat.div_eq_of_lt (Nat.lt_trans hx (by decide))
  rw [Fmt.decode_finite (Fmt.topFinite_of_mem (by simp)) (by rw [hmod]; exact Nat.le_of_lt_succ hx), hmod, hdiv]
  split
  · next h0 =>
    refine ⟨_, _, rfl, Nat.ne_of_gt, fun h => ?_⟩
    have : 0x43000000 / 2 ^ 23 ≤ x / 2 ^ 23 := Nat.div_le_div_right h
    exact absurd h0 (by change x / 2 ^ 23 ≠ 0; omega)
  · refine ⟨_, _, rfl, fun _ => by simp [Fmt.f32], fun h => ?_⟩
    change 7 ≤ (Nat.log2 (x % 2 ^ 23 + 2 ^ 23) : Int) + (-149 + ((x / 2 ^ 23 : Nat) : Int) - 1)
    have hlog : Nat.log2 (x % 2 ^ 23 + 2 ^ 23) = 23 := (Nat.log2_eq_iff (by omega)).mpr (by omega)
    omega

/-- A subnormal code and that of its negative stand for as many of the smallest units (R53). -/
theorem f32_decode_subnormal {a : Nat} (h : a < 2 ^ 23) : Fmt.f32.decode a = .fin false a (-149) ∧ Fmt.f32.decode (2 ^ 31 + a) = .fin true a (-149) := by
  have hlt : a < Fmt.f32.signBit := Nat.lt_trans h (by decide)
  have hdec : Fmt.f32.decode a = .fin false a (-149) := by
    have hmod : a % Fmt.f32.signBit = a := Nat.mod_eq_of_lt hlt
    rw [Fmt.decode_finite (Fmt.topFinite_of_mem (by simp)) (by rw [hmod]; exact Nat.le_trans (Nat.le_of_lt h) (by decide)), hmod,
      if_pos (show a / 2 ^ Fmt.f32.man = 0 from Nat.div_eq_of_lt h), Nat.div_eq_of_lt hlt]
    rfl
  exact ⟨hdec, (Fmt.decode_signBit_add hlt).trans (congrArg FVal.neg hdec)⟩

/-- The code of a finite value and that of its negative. -/
theorem f32_decode_pair {a : Nat} (h : a < 0x7F800000) : ∃ m e, Fmt.f32.decode a = .fin false m e ∧ Fmt.f32.decode (2 ^ 31 + a) = .fin true m e := by
  obtain ⟨m, e, hdec, -⟩ := f32_decode_lt h
  exact ⟨m, e, hdec, (Fmt.decode_signBit_add (Nat.lt_trans h (by decide))).trans (congrArg FVal.neg hdec)⟩

/-! ### Overflow, powers of two, values up to one -/

/-- From 2^128 on a magnitude rounds to infinity (R62). -/
theorem roundMag_f32_overflow {m : Nat} {e : Int} (neg sticky : Bool) (hm : m ≠ 0) (h : 128 ≤ (Nat.log2 m : Int) + e) :
    roundMag .f32 .rn false neg m e sticky = inf32 neg := by
  have hunit : Fmt.f32.unitExp m e = Nat.log2 m + e - 23 := Int.max_eq_left (show (-149 : Int) ≤ Nat.log2 m + e - 23 by omega)
  have hfloor : 2 ^ 23 ≤ (quantise m e sticky (Fmt.f32.unitExp m e)).1 := le_quantise sticky hm (by rw [hunit]; omega)
  have hunits := (Fmt.f32.units_bounds .rn neg m e sticky).1
  have hcode : Fmt.f32.unitsCode .rn neg m e sticky = (Nat.log2 m + e - 23 + 149).toNat * 2 ^ 23 + Fmt.f32.units .rn neg m e sticky := by
    rw [Fmt.unitsCode, hunit]; rfl
  have htop : Fmt.f32.top = 0x7F7FFFFF := rfl
  rw [roundMag_eq, if_pos (by rw [hcode, htop]; omega)]
  rfl

/-- A magnitude below one rounds to one at most. -/
theorem roundMag_f32_le_one {m : Nat} {e : Int} (sticky : Bool) (h : (Nat.log2 m : Int) + e < 0) :
    roundMag .f32 .rn false false m e sticky ≤ one32 false := by
  have hunit : Fmt.f32.unitExp m e = max (Nat.log2 m + e - 23) (-149) := rfl
  have hfloor : (quantise m e sticky (Fmt.f32.unitExp m e)).1 < 2 ^ 24 := quantise_lt sticky (by rw [hunit]; omega)
  have hunits := (Fmt.f32.units_bounds .rn false m e sticky).2
  have hcode : Fmt.f32.unitsCode .rn false m e sticky = (Fmt.f32.unitExp m e + 149).toNat * 2 ^ 23 + Fmt.f32.units .rn false m e sticky := rfl
  have htop : Fmt.f32.top = 0x7F7FFFFF := rfl
  have hone : one32 false = 0x3F800000 := rfl
  have hle : Fmt.f32.unitsCode .rn false m e sticky ≤ 0x3F800000 := by rw [hcode]; omega
  rw [roundMag_eq, if_neg (by rw [htop]; omega), hone]
  exact hle

/-- 2^k in the range of normal values. -/
theorem roundMag_f32_pow_normal {k : Int} (hlow : -126 ≤ k) (hhigh : k ≤ 127) : roundMag .f32 .rn false false 1 k false = (k + 127).toNat * 2 ^ 23 := by
  have hunit : Fmt.f32.unitExp 1 k = k - 23 := by
    change max (0 + k - 23) (-149 : Int) = _
    omega
  have hcode : (Fmt.f32.unitExp 1 k - Fmt.f32.qmin).toNat * 2 ^ Fmt.f32.man + 1 * 2 ^ (k - Fmt.f32.unitExp 1 k).toNat = (k + 127).toNat * 2 ^ 23 := by
    rw [hunit, show (k - (k - 23)).toNat = 23 by omega]
    change (k - 23 + 149).toNat * 2 ^ 23 + 1 * 2 ^ 23 = _
    omega
  have htop : Fmt.f32.top = 0x7F7FFFFF := rfl
  rw [roundMag_whole .rn false false (by rw [hunit]; omega) (by rw [hcode, htop]; omega), hcode]
  rfl

/-- 2^k in the range of subnormal values. -/
theorem roundMag_f32_pow_subnormal {k : Int} (hlow : -149 ≤ k) (hhigh : k < -126) : roundMag .f32 .rn false false 1 k false = 2 ^ (k + 149).toNat := by
  have hunit : Fmt.f32.unitExp 1 k = -149 := by
    change max (0 + k - 23) (-149 : Int) = _
    omega
  have hcode : (Fmt.f32.unitExp 1 k - Fmt.f32.qmin).toNat * 2 ^ Fmt.f32.man + 1 * 2 ^ (k - Fmt.f32.unitExp 1 k).toNat = 2 ^ (k + 149).toNat := by
    rw [hunit, show k - -149 = k + 149 by omega]
    change 0 * 2 ^ 23 + 1 * _ = _
    omega
  have hle : 2 ^ (k + 149).toNat ≤ 2 ^ 23 := Nat.pow_le_pow_right (by decide) (by omega)
  have htop : Fmt.f32.top = 0x7F7FFFFF := rfl
  rw [roundMag_whole .rn false false (by rw [hunit]; omega) (by rw [hcode, htop]; omega), hcode]
  rfl

end Sys2Proof.Machine
end

section
/-! O23: special values and symmetries of the SFU functions (R110, R111). -/
namespace Sys2Proof.Machine
open Sys2Proof

/-! ### NaNs, infinities and negative arguments -/

/-- Every SFU function of a NaN is the default NaN. -/
theorem sfu_nan {f : Nat → Nat} (hf : f ∈ [sfuRcp, sfuRsqrt, sfuSqrt, sfuExp2, sfuLog2, sfuSin, sfuCos, sfuSinpi, sfuCospi, sfuTanh])
    {a : Nat} {q : Bool} (h : Fmt.f32.decode a = .nan q) : f a = nan32 := by
  simp only [List.mem_cons, List.not_mem_nil, or_false] at hf
  rcases hf with rfl | rfl | rfl | rfl | rfl | rfl | rfl | rfl | rfl | rfl <;>
    simp only [sfuRcp, sfuRsqrt, sfuSqrt, sfuExp2, sfuLog2, sfuSin, sfuCos, sfuSinpi, sfuCospi, sfuTanh, h]

/-- A negative argument that is not zero stands for −∞ or a negative value. -/
theorem f32_decode_negative {a : Nat} (hlow : 0x80000000 < a) (hhigh : a ≤ 0xFF800000) :
    Fmt.f32.decode a = .inf true ∨ ∃ m e, Fmt.f32.decode a = .fin true m e ∧ m ≠ 0 := by
  obtain ⟨x, rfl⟩ : ∃ x, a = Fmt.f32.signBit + x := ⟨a - 0x80000000, (Nat.add_sub_of_le (Nat.le_of_lt hlow)).symm⟩
  have hpos : 0 < x := Nat.lt_of_add_lt_add_left hlow
  have hle : x ≤ 0x7F800000 := Nat.le_of_add_le_add_left (a := 0x80000000) hhigh
  rw [Fmt.decode_signBit_add (Nat.lt_of_le_of_lt hle (by decide))]
  rcases Nat.eq_or_lt_of_le hle with rfl | hlt
  · exact .inl rfl
  · obtain ⟨m, e, hdec, hm, -⟩ := f32_decode_lt hlt
    exact .inr ⟨m, e, by rw [hdec]; rfl, hm hpos⟩

/-- Roots and the logarithm of a negative argument are the default NaN. -/
theorem sfu_negative {a : Nat} (hlow : 0x80000000 < a) (hhigh : a ≤ 0xFF800000) : sfuRsqrt a = nan32 ∧ sfuSqrt a = nan32 ∧ sfuLog2 a = nan32 := by
  rcases f32_decode_negative hlow hhigh with h | ⟨m, e, h, hm⟩
  · simp only [sfuRsqrt, sfuSqrt, sfuLog2, h, if_true, and_self]
  · simp only [sfuRsqrt, sfuSqrt, sfuLog2, h, if_neg hm, if_true, and_self]

/-! ### Reciprocals and powers of two -/

/-- A quotient of 2^n by no more than 2^b keeps n − b bits below its first. -/
theorem log2_two_pow_div {n b m : Nat} (hb : b ≤ n) (hpos : 0 < m) (hm : m ≤ 2 ^ b) : 2 ^ n / m ≠ 0 ∧ n - b ≤ Nat.log2 (2 ^ n / m) := by
  have hquot : 2 ^ (n - b) ≤ 2 ^ n / m := by
    refine (Nat.le_div_iff_mul_le hpos).mpr ?_
    calc 2 ^ (n - b) * m ≤ 2 ^ (n - b) * 2 ^ b := Nat.mul_le_mul_left _ hm
      _ = 2 ^ n := by rw [← Nat.pow_add, Nat.sub_add_cancel hb]
  have hne : 2 ^ n / m ≠ 0 := Nat.ne_of_gt (Nat.lt_of_lt_of_le (Nat.two_pow_pos _) hquot)
  exact ⟨hne, (Nat.le_log2 hne).mpr hquot⟩

/-- The reciprocal of a value below 2^-128 overflows. -/
theorem sfuRcp_overflow {a m : Nat} {neg : Bool} (h : Fmt.f32.decode a = .fin neg m (-149)) (hpos : m ≠ 0) (hm : m < 2 ^ 21) : sfuRcp a = inf32 neg := by
  obtain ⟨hne, hlog⟩ := log2_two_pow_div (n := 400) (b := 21) (by decide) (Nat.pos_of_ne_zero hpos) (Nat.le_of_lt hm)
  simp only [sfuRcp, h, if_neg hpos]
  exact roundMag_f32_overflow _ _ hne (by omega)

/-- One in fixed point, with its exponent kept from being evaluated. -/
theorem fxOne_eq : ∃ n, n = 400 ∧ fxOne = 2 ^ n := ⟨400, rfl, rfl⟩

theorem fxOne_pos : 0 < fxOne := by
  obtain ⟨n, -, hn⟩ := fxOne_eq
  exact hn ▸ Nat.two_pow_pos n

theorem le_log2_of_fxOne_le {y : Nat} (hy : fxOne ≤ y) : y ≠ 0 ∧ 400 ≤ Nat.log2 y := by
  obtain ⟨n, h400, hn⟩ := fxOne_eq
  have hne : y ≠ 0 := Nat.ne_of_gt (Nat.lt_of_lt_of_le fxOne_pos hy)
  exact ⟨hne, h400 ▸ (Nat.le_log2 hne).mpr (hn ▸ hy)⟩

theorem log2_lt_of_lt_fxOne {y : Nat} (hne : y ≠ 0) (hy : y < fxOne) : Nat.log2 y < 400 := by
  obtain ⟨n, h400, hn⟩ := fxOne_eq
  exact h400 ▸ (Nat.log2_lt hne).mpr (hn ▸ hy)

theorem two_pow_mul_fxOne (n : Nat) : 2 ^ n * fxOne = 2 ^ (n + 400) := by rw [fxOne, Nat.pow_add]

/-- The series of e^r is at least its first term. -/
theorem le_fxExp (r : Nat) : fxOne ≤ fxExp r := by
  unfold fxExp
  rw [fxExpSum]
  exact Nat.le_add_right _ _

theorem fxOf_eq {m : Nat} {e : Int} (he : -149 ≤ e) : fxOf m e = m * 2 ^ (e + 400).toNat := if_pos (by omega)

/-- The whole part of a value of at least 2^k. -/
theorem two_pow_le_fxOf {m k : Nat} {e : Int} (he : -149 ≤ e) (hm : m ≠ 0) (h : (k : Int) ≤ Nat.log2 m + e) : 2 ^ k ≤ fxOf m e / fxOne := by
  refine (Nat.le_div_iff_mul_le fxOne_pos).mpr ?_
  calc 2 ^ k * fxOne = 2 ^ (k + 400) := two_pow_mul_fxOne k
    _ ≤ 2 ^ (Nat.log2 m + (e + 400).toNat) := Nat.pow_le_pow_right (by decide) (by omega)
    _ = 2 ^ Nat.log2 m * 2 ^ (e + 400).toNat := Nat.pow_add ..
    _ ≤ m * 2 ^ (e + 400).toNat := Nat.mul_le_mul_right _ (Nat.log2_self_le hm)
    _ = fxOf m e := (fxOf_eq he).symm

/-- 2^x overflows from 128 on. -/
theorem sfuExp2_overflow {a m : Nat} {e : Int} (h : Fmt.f32.decode a = .fin false m e) (hm : m ≠ 0) (hbig : 7 ≤ (Nat.log2 m : Int) + e) :
    sfuExp2 a = inf32 false := by
  have hfloor : 2 ^ 7 ≤ fxOf m e / fxOne := two_pow_le_fxOf (Fmt.qmin_le_of_decode h) hm hbig
  simp only [sfuExp2, h, if_neg hm, floorParts, Bool.false_eq_true, if_false]
  split
  · rfl
  · split
    · exact roundMag_f32_overflow _ _ (by decide) (by change 128 ≤ (0 : Int) + _; omega)
    · obtain ⟨hne, hlog⟩ := le_log2_of_fxOne_le (le_fxExp (fxMul (fxOf m e % fxOne) fxLn2))
      exact roundMag_f32_overflow _ _ hne (by omega)

/-- 2^x of an integer x within the range of exponents is one at that exponent. -/
theorem sfuExp2_integer {a m n : Nat} {e : Int} {neg : Bool} (h : Fmt.f32.decode a = .fin neg m e) (hm : m ≠ 0)
    (hn : m * 2 ^ e.toNat = n * 2 ^ (-e).toNat) (hsmall : n < 2 ^ 8) :
    sfuExp2 a = roundMag .f32 .rn false false 1 (if neg then -(n : Int) else n) false := by
  have he : -149 ≤ e := Fmt.qmin_le_of_decode h
  have hfx : fxOf m e = n * fxOne := by
    have hsplit : (e + 400).toNat + (-e).toNat = e.toNat + 400 := by omega
    refine Nat.eq_of_mul_eq_mul_right (Nat.two_pow_pos (-e).toNat) ?_
    calc fxOf m e * 2 ^ (-e).toNat = m * 2 ^ ((e + 400).toNat + (-e).toNat) := by rw [fxOf_eq he, Nat.pow_add, Nat.mul_assoc]
      _ = m * 2 ^ e.toNat * fxOne := by rw [hsplit, ← two_pow_mul_fxOne, Nat.mul_assoc]
      _ = n * fxOne * 2 ^ (-e).toNat := by rw [hn, Nat.mul_right_comm]
  have hlog : (Nat.log2 m : Int) + e < 8 := by
    have hlt : 2 ^ (Nat.log2 m + e.toNat) < 2 ^ (8 + (-e).toNat) :=
      calc 2 ^ (Nat.log2 m + e.toNat) = 2 ^ Nat.log2 m * 2 ^ e.toNat := Nat.pow_add ..
        _ ≤ m * 2 ^ e.toNat := Nat.mul_le_mul_right _ (Nat.log2_self_le hm)
        _ = n * 2 ^ (-e).toNat := hn
        _ < 2 ^ 8 * 2 ^ (-e).toNat := Nat.mul_lt_mul_of_pos_right hsmall (Nat.two_pow_pos _)
        _ = 2 ^ (8 + (-e).toNat) := (Nat.pow_add ..).symm
    have := (Nat.pow_lt_pow_iff_right (by decide)).mp hlt
    omega
  have hquot : fxOf m e / fxOne = n := by rw [hfx]; exact Nat.mul_div_cancel _ fxOne_pos
  have hrest : fxOf m e % fxOne = 0 := by rw [hfx]; exact Nat.mul_mod_left _ _
  have hparts : floorParts neg (fxOf m e) = (if neg then -(n : Int) else n, 0) := by
    cases neg <;> simp [floorParts, hrest, hquot]
  simp only [sfuExp2, h, if_neg hm, if_neg (show ¬ 10 ≤ (Nat.log2 m : Int) + e by omega), hparts, if_true]

/-! ### Symmetries -/

/-- The code with its sign bit changed. -/
def flipSign (x : Nat) : Nat := if 2 ^ 31 ≤ x then x - 2 ^ 31 else x + 2 ^ 31

theorem flipSign_withSign {c : Nat} (hc : c < 2 ^ 31) (neg : Bool) : flipSign (Fmt.f32.withSign neg c) = Fmt.f32.withSign (!neg) c := by
  have hbit : Fmt.f32.signBit = 2 ^ 31 := rfl
  cases neg
  · change flipSign c = Fmt.f32.signBit + c
    rw [flipSign, if_neg (Nat.not_le.mpr hc), hbit, Nat.add_comm]
  · change flipSign (Fmt.f32.signBit + c) = c
    rw [flipSign, hbit, if_pos (Nat.le_add_right _ _), Nat.add_sub_cancel_left]

theorem flipSign_zero32 (neg : Bool) : flipSign (zero32 neg) = zero32 (!neg) := flipSign_withSign (by decide) neg
theorem flipSign_one32 (neg : Bool) : flipSign (one32 neg) = one32 (!neg) := flipSign_withSign (by decide) neg

/-- A magnitude with the other sign rounds to the same code with the other sign. -/
theorem flipSign_fxRound (neg : Bool) (y : Nat) : flipSign (fxRound neg y) = fxRound (!neg) y := by
  unfold fxRound
  split
  · exact flipSign_zero32 neg
  · obtain ⟨c, hc, hround⟩ := roundMag_rn_sign (f := .f32) rfl (Fmt.codesFit_of_mem (by simp)) false y (-400) true
    rw [hround, hround]
    exact flipSign_withSign hc neg

/-- sin, sinpi and tanh of +0 are +0 (R110). -/
theorem sfu_zero : ∀ {f : Nat → Nat}, f ∈ [sfuSin, sfuSinpi, sfuTanh] → f 0 = 0 := by decide +kernel

/-- sin, sinpi and tanh are odd (R110). -/
theorem sfu_odd {f : Nat → Nat} (hf : f ∈ [sfuSin, sfuSinpi, sfuTanh]) {a : Nat} (h : a < 0x7F800000) : f (2 ^ 31 + a) = flipSign (f a) := by
  have hbne (g : Bool) : (!(false != g)) = (true != g) := by cases g <;> rfl
  obtain ⟨m, e, hpos, hneg⟩ := f32_decode_pair h
  simp only [List.mem_cons, List.not_mem_nil, or_false] at hf
  rcases hf with rfl | rfl | rfl
  · simp only [sfuSin, hpos, hneg]
    by_cases h0 : m = 0
    · rw [if_pos h0, if_pos h0]
      exact (flipSign_zero32 false).symm
    · rw [if_neg h0, if_neg h0, flipSign_fxRound, hbne]
  · simp only [sfuSinpi, hpos, hneg]
    obtain ⟨q, r⟩ := quadrant (fxOf m e) (fxOne / 2)
    by_cases h0 : r = 0
    · rw [if_pos h0, if_pos h0]
      rcases q with _ | _ | _ | q
      · exact (flipSign_zero32 false).symm
      · exact (flipSign_one32 false).symm
      · exact (flipSign_zero32 false).symm
      · exact (flipSign_one32 true).symm
    · rw [if_neg h0, if_neg h0, flipSign_fxRound, hbne]
  · simp only [sfuTanh, hpos, hneg, apply_ite flipSign, flipSign_zero32, flipSign_one32, flipSign_fxRound, Bool.not_false]

/-- cos and cospi are even (R110). -/
theorem sfu_even {f : Nat → Nat} (hf : f ∈ [sfuCos, sfuCospi]) {a : Nat} (h : a < 0x7F800000) : f (2 ^ 31 + a) = f a := by
  obtain ⟨m, e, hpos, hneg⟩ := f32_decode_pair h
  simp only [List.mem_cons, List.not_mem_nil, or_false] at hf
  rcases hf with rfl | rfl
  · simp only [sfuCos, hpos, hneg]
  · simp only [sfuCospi, hpos, hneg]

theorem fxRound_le_one {y : Nat} (hy : y < fxOne) : fxRound false y ≤ one32 false := by
  unfold fxRound
  split
  · exact Nat.zero_le _
  · next h0 =>
    have hlog := log2_lt_of_lt_fxOne h0 hy
    exact roundMag_f32_le_one true (by omega)

theorem div_add_lt (x : Nat) : (x - fxOne) * fxOne / (x + fxOne) < fxOne := by
  have hpos := fxOne_pos
  exact Nat.div_lt_of_lt_mul (Nat.mul_lt_mul_of_pos_right (by omega) hpos)

/-- tanh of a value that is not negative is at most one (R110). -/
theorem sfuTanh_le_one {a : Nat} (h : a ≤ 0x7F800000) : sfuTanh a ≤ one32 false := by
  rcases Nat.eq_or_lt_of_le h with rfl | hlt
  · decide +kernel
  · obtain ⟨m, e, hdec, -⟩ := f32_decode_lt hlt
    simp only [sfuTanh, hdec]
    split
    · decide
    · split
      · exact Nat.le_refl _
      · exact fxRound_le_one (div_add_lt _)

/-! ### The statement -/

/-- Settles O23, a clause a function: closed values, then overflow, integer powers of two and symmetries by the lemmas above. -/
theorem sfuSpecialValues : Obligations.SfuSpecialValues := by
  unfold Obligations.SfuSpecialValues
  extract_lets nan pinf ninf nzero one
  refine ⟨fun f hf a _ hnan => ?nan, ⟨?_, ?_, ?_, ?_, fun a hpos hsmall => ?rcp⟩, ⟨?_, ?_, ?_, ?_, ?_, ?_, ?_, ?_, ?_, ?_, fun a => sfu_negative⟩,
    ⟨?_, ?_, ?_, ?_, fun a hlow hhigh => ?exp2Large, fun a neg m e n hdec hm hn => ?exp2Integer⟩, ?_, ?_, ?_, ?_,
    fun f hf => ⟨sfu_zero hf, fun a => sfu_odd hf⟩, fun f hf a => sfu_even hf, fun a => sfuTanh_le_one⟩
  case nan =>
    obtain ⟨q, hq⟩ := Fmt.decode_nan (f := .f32) rfl hnan
    exact sfu_nan hf hq
  case rcp =>
    obtain ⟨hdec, hdec'⟩ := f32_decode_subnormal (Nat.lt_trans hsmall (by decide))
    exact ⟨sfuRcp_overflow hdec (Nat.ne_of_gt hpos) hsmall, sfuRcp_overflow hdec' (Nat.ne_of_gt hpos) hsmall⟩
  case exp2Large =>
    rcases Nat.eq_or_lt_of_le hhigh with rfl | hlt
    · decide +kernel
    · obtain ⟨m, e, hdec, hm, hbig⟩ := f32_decode_lt hlt
      exact sfuExp2_overflow hdec (hm (Nat.lt_of_lt_of_le (by decide) hlow)) (hbig hlow)
  case exp2Integer =>
    have hexp := sfuExp2_integer hdec (Nat.ne_of_gt hm) hn
    refine ⟨fun hneg h => ?_, fun hneg h => ?_, fun hneg hlow h => ?_⟩ <;> subst hneg <;> rw [hexp (by omega)]
    · rw [if_neg Bool.false_ne_true, roundMag_f32_pow_normal (by omega) (by omega), show ((n : Int) + 127).toNat = n + 127 by omega]
    · rw [if_pos rfl, roundMag_f32_pow_normal (by omega) (by omega), show (-(n : Int) + 127).toNat = 127 - n by omega]
    · rw [if_pos rfl, roundMag_f32_pow_subnormal (by omega) (by omega), show (-(n : Int) + 149).toNat = 149 - n by omega]
  -- What is left are values of closed arguments: zeros, infinities and one.
  all_goals decide +kernel

end Sys2Proof.Machine
end

section
/-! O9: branches, calls and indirect transfers (R113 to R117). -/
namespace Sys2Proof.Machine
open Sys2Proof

/-! ### Targets -/

/-- The offset of a branch counts words from the branch itself (R33). -/
theorem branchTarget_eq {n : Nat} (pc : VAddr) (o : BitVec n) : branchTarget pc o = pc + BitVec.ofInt 56 (4 * o.toInt) := by
  have hsign : o.signExtend 56 = BitVec.ofInt 56 o.toInt := rfl
  have hfour : o.signExtend 56 <<< 2 = BitVec.ofInt 56 4 * o.signExtend 56 := by
    rw [BitVec.shiftLeft_eq_mul_twoPow, BitVec.mul_comm]; rfl
  rw [branchTarget, hfour, hsign, ← BitVec.ofInt_mul]

/-! ### Direct branches and calls -/

/-- A form whose threads only go on, each where `pc` says. -/
theorem computes_goTo {i : Instr} {r : Regs} {pc : View → VAddr} (he : ∀ s, exec i s = laneStep r (fun w => w.t.goTo (pc w)) s) :
    Computes i r pc (fun _ => []) fun _ => [] :=
  computes_of_laneStep he fun w _ _ => threadDone_goTo w (pc w)

/-- The conditional branches differ in the value of the predicate that leaves the next word. -/
theorem laneBranch_computes {i : Instr} {p : BitVec 3} {o : BitVec 21} (taken : Bool) (he : ∀ s, exec i s = laneBranch p o (!taken) s) :
    Computes i { predReads := [p.toNat] }
      (fun w => if w.p p.toNat = taken then w.t.pc + BitVec.ofInt 56 (4 * o.toInt) else w.t.pc + 4) (fun _ => []) fun _ => [] := by
  refine computes_goTo fun s => (he s).trans (congrArg (fun f => laneStep { predReads := [p.toNat] } f s) (funext fun w => ?_))
  rw [branchTarget_eq]
  cases w.p p.toNat <;> cases taken <;> rfl

/-- A uniform instruction that changes no register computes where its path goes on. -/
theorem kcomputes_target {i : Instr} {r : KRegs} {pc : Group → VAddr → VAddr} (he : ∀ s, exec i s = uniStep r (fun g => g) pc s) :
    KComputes i r pc fun _ => [] :=
  kcomputes_of_uniStep he (fun _ => rfl) (fun _ _ => (List.filter_eq_self.mpr fun _ _ => rfl).symm) fun g _ j => (newK_nil _ g j).symm

/-- The compare and branch of the uniform set, with its condition as the statement words it (R117). -/
theorem uniBranch_computes (cond : Cond) {mk : BitVec 6 → BitVec 6 → BitVec 10 → Instr} {holds : Word → Word → Bool}
    (hf : ∀ a b, condHolds cond a b = holds a b) (he : ∀ a b o s, exec (mk a b o) s = uniBranch a b o (condHolds cond) s)
    (a b : BitVec 6) (o : BitVec 10) : KComputes (mk a b o) { reads := [(a.toNat, 1), (b.toNat, 1)] }
      (fun g pc => if holds (g.kv a.toNat) (g.kv b.toNat) = true then pc + BitVec.ofInt 56 (4 * o.toInt) else pc + 4) fun _ => [] := by
  obtain rfl : condHolds cond = holds := funext fun a => funext (hf a)
  simp only [← branchTarget_eq]
  exact kcomputes_target (he a b o)

/-! ### Where an indirect transfer may go -/

/-- Without a landing pad the target only has to be canonical, aligned and leased (R115). -/
theorem State.landing_plain_iff (s : State) (t : Team) (x : DWord) : s.landing t x false = .ok ↔
    (canonical x = true ∧ x.toNat % 4 = 0 ∧ leaseCovers (s.leases t) (vaddr x).toNat 4 .fetch = true) := by
  unfold State.landing
  cases canonical x <;> cases leaseCovers (s.leases t) (vaddr x).toNat 4 .fetch <;> by_cases h : x.toNat % 4 = 0 <;> simp [h]

/-- Where one is asked for, `land` must stand at the target (R115, R116). -/
theorem State.landing_pad_iff (s : State) (t : Team) (x : DWord) : s.landing t x true = .ok ↔
    (s.landing t x false = .ok ∧ ∃ pa attr e p, s.checkFetch t (vaddr x) = .ok pa attr e ∧ s.codeWord t.core pa = some (2, p)) := by
  unfold State.landing
  by_cases hbad : (!canonical x || x.toNat % 4 != 0 || !leaseCovers (s.leases t) (vaddr x).toNat 4 .fetch) = true
  · simp [hbad]
  · simp only [hbad, Bool.not_false, Bool.not_true, Bool.false_eq_true, if_false, if_true, true_and]
    cases s.checkFetch t (vaddr x) with
    | ok pa attr e =>
      cases hw : s.codeWord t.core pa with
      | none => simp [hw]
      | some w =>
        obtain ⟨w, p⟩ := w
        by_cases h2 : w = 2
        · simp [hw, h2]
        · simp only [hw, h2, if_false, reduceCtorEq, false_iff]
          rintro ⟨pa', attr', e', p', heq, hw'⟩
          cases heq
          rw [hw] at hw'
          cases hw'
          exact h2 rfl
    | trap i => simp
    | violation sub va => simp
    | wait => simp

/-! ### A lane-set instruction some of whose threads trap -/

/-- The trap of a thread that does not complete. -/
def trapOf? (x : Except ThreadTrap Thread) : Option ThreadTrap :=
  match x with
  | .ok _ => none
  | .error e => some e

/-- What becomes of a thread: one that does not complete stays as it was. -/
def triedThread (x : Except ThreadTrap Thread) (t : Thread) : Thread :=
  match x with
  | .ok u => u.tick
  | .error _ => t

/-- A ready path goes on with the threads that complete, and the others trap (R146). -/
theorem laneTry_eq {s : State} {c : Ctx} {r : Regs} (h : LaneReady s c r) (f : Ctx → Nat → View → Except ThreadTrap Thread) :
    laneTry r f s = .next ((s.putGroup c ((c.group.mapAt c.ms fun i t => triedThread (f c i (c.view i)) t).issued c.lead)).takeTraps
      c.team.id c.group.idx (c.ms.filterMap fun i => trapOf? (f c i (c.view i)))) := by
  unfold laneTry
  rw [h.path]
  simp only [h.named, h.sound, h.free, if_true, Bool.false_eq_true, if_false]
  rfl

/-! ### Indirect transfers -/

/-- The registers an indirect transfer names. -/
def indirectRegs (a : BitVec 7) (link : Bool) : Regs := { reads := [(a.toNat, 2)], writes := if link then [(0, 2)] else [] }

/-- A thread that has gone where an indirect transfer leads it. -/
def View.landed (w : View) (a : BitVec 7) (link : Bool) : Thread :=
  (if link then w.setPair 0 (linkOf w.t.pc) else w.t).goTo (vaddr (w.pair a.toNat))

/-- The registers an indirect transfer writes. -/
def View.links (w : View) (link : Bool) : List (Nat × Word) := if link = true then pairAt 0 ((w.t.pc + 4).signExtend 64) else []

/-- What an indirect transfer does with one thread. -/
def State.transfer (s : State) (a : BitVec 7) (land link : Bool) (c : Ctx) (i : Nat) (w : View) : Except ThreadTrap Thread :=
  match s.landing c.team (w.pair a.toNat) land with
  | .ok => .ok (w.landed a link)
  | _ => .error { pos := i, info := { code := 0x04, tval := vaddr (w.pair a.toNat) }, epc := w.t.pc }

/-- The lease violation of a target. -/
def Landing.breach? (l : Landing) (va : VAddr) : Option (Nat × VAddr) :=
  match l with
  | .violation sub => some (sub, va)
  | _ => none

theorem Landing.breach?_eq_none {l : Landing} (h : ∀ sub, l ≠ .violation sub) (va : VAddr) : l.breach? va = none := by
  cases l with
  | violation sub => exact absurd rfl (h sub)
  | ok => rfl
  | bad => rfl
  | wait => rfl

theorem View.landed_done (w : View) (a : BitVec 7) (link : Bool) :
    ThreadDone w.handler w.t (w.landed a link).tick (vaddr (w.pair a.toNat)) (w.links link) [] := by
  cases link with
  | true => exact threadDone_setPair w 0 (linkOf w.t.pc) _ (by decide)
  | false => exact threadDone_goTo w _

/-- The traps of the threads whose targets fail (R115). -/
theorem filterMap_transfer {s : State} {c : Ctx} {a : BitVec 7} {land : Bool} (link : Bool) (hok : ∀ i, i ∈ c.ms →
      s.landing c.team ((c.view i).pair a.toNat) land = .ok ∨ s.landing c.team ((c.view i).pair a.toNat) land = .bad) :
    (c.ms.filterMap fun i => trapOf? (s.transfer a land link c i (c.view i))) =
    (c.ms.filter fun i => s.landing c.team ((c.view i).pair a.toNat) land == .bad).map fun i =>
      { pos := i, info := { code := 0x04, tval := vaddr ((c.view i).pair a.toNat) }, epc := (c.group.thread i).pc } := by
  rw [← List.filterMap_eq_map, List.filterMap_filter]
  refine List.filterMap_congr fun i hi => ?_
  unfold State.transfer
  rcases hok i hi with e | e <;> rw [e] <;> rfl

section Indirect
variable {s : State} {c : Ctx} {a : BitVec 7} {land link : Bool} (h : LaneReady s c (indirectRegs a link))
include h

/-- A ready indirect transfer waits for a target word in flight, ends the team at a fetch violation, and else moves or traps each thread. -/
theorem indirect_ready : indirect a land link s =
    if c.ms.any (fun i => s.landing c.team ((c.view i).pair a.toNat) land == .wait) then .next s
    else match c.ms.findSome? fun i => (s.landing c.team ((c.view i).pair a.toNat) land).breach? (vaddr ((c.view i).pair a.toNat)) with
      | some (sub, va) => .next (s.breach c.team.id sub va)
      | none => laneTry (indirectRegs a link) (s.transfer a land link) s := by
  have hn := h.named; have hs := h.sound; have hf := h.free
  unfold indirectRegs at hn hs hf
  unfold indirect
  rw [h.path]
  simp only [hn, hs, hf, Bool.not_false, Bool.and_true, Bool.true_and, if_true]
  rfl

theorem indirect_of_moves (hok : ∀ i, i ∈ c.ms →
      s.landing c.team ((c.view i).pair a.toNat) land = .ok ∨ s.landing c.team ((c.view i).pair a.toNat) land = .bad) :
    indirect a land link s = laneTry (indirectRegs a link) (s.transfer a land link) s := by
  have hwait : c.ms.any (fun i => s.landing c.team ((c.view i).pair a.toNat) land == .wait) = false := by
    refine List.any_eq_false.mpr fun i hi => ?_
    rcases hok i hi with e | e <;> simp [e]
  have hviol : (c.ms.findSome? fun i => (s.landing c.team ((c.view i).pair a.toNat) land).breach? (vaddr ((c.view i).pair a.toNat))) = none := by
    refine List.findSome?_eq_none_iff.mpr fun i hi => Landing.breach?_eq_none (fun sub e => ?_) _
    rcases hok i hi with e' | e' <;> rw [e'] at e <;> cases e
  rw [indirect_ready h, hwait, hviol]; rfl

theorem indirect_lands (hok : ∀ i, i ∈ c.ms → s.landing c.team ((c.view i).pair a.toNat) land = .ok) :
    ∃ t, indirect a land link s = .next t ∧ LaneDone s t c (fun w => vaddr (w.pair a.toNat)) (fun w => w.links link) fun _ => [] := by
  have hrun : laneTry (indirectRegs a link) (s.transfer a land link) s = _ :=
    laneTry_ready h (F := fun i => (c.view i).landed a link) fun i hi => by unfold State.transfer; rw [hok i hi]
  exact ⟨_, (indirect_of_moves h fun i hi => .inl (hok i hi)).trans hrun, _, State.putGroup_alters h.path (by simp),
    State.groupDone h.path _ _ _ fun i _ => View.landed_done (c.view i) a link⟩

theorem indirect_traps (hok : ∀ i, i ∈ c.ms →
      s.landing c.team ((c.view i).pair a.toNat) land = .ok ∨ s.landing c.team ((c.view i).pair a.toNat) land = .bad) :
    ∃ g, indirect a land link s = .next ((s.putGroup c g).takeTraps c.team.id c.group.idx
        ((c.ms.filter fun i => s.landing c.team ((c.view i).pair a.toNat) land == .bad).map fun i =>
          { pos := i, info := { code := 0x04, tval := vaddr ((c.view i).pair a.toNat) }, epc := (c.group.thread i).pc })) ∧
      GroupDone c g fun i u =>
        (s.landing c.team ((c.view i).pair a.toNat) land = .ok →
          ThreadDone c.group.handler (c.group.thread i) u (vaddr ((c.view i).pair a.toNat)) ((c.view i).links link) []) ∧
        (s.landing c.team ((c.view i).pair a.toNat) land = .bad → u = c.group.thread i) := by
  refine ⟨_, ?_, State.groupDone h.path (fun i t => triedThread (s.transfer a land link c i (c.view i)) t) c.lead _
    fun i _ => ⟨fun e => ?_, fun e => ?_⟩⟩
  · rw [indirect_of_moves h hok, laneTry_eq h, filterMap_transfer link hok]
  · unfold State.transfer; rw [e]; exact View.landed_done (c.view i) a link
  · unfold State.transfer; rw [e]; rfl

theorem indirect_waits (hw : ∃ i, i ∈ c.ms ∧ s.landing c.team ((c.view i).pair a.toNat) land = .wait) : indirect a land link s = .next s := by
  obtain ⟨i, hi, e⟩ := hw
  rw [indirect_ready h, if_pos (List.any_eq_true.mpr ⟨i, hi, by simp [e]⟩)]

/-- The one target without a permitted translation ends the team. -/
theorem indirect_breaches {i sub : Nat} (hi : i ∈ c.ms) (e : s.landing c.team ((c.view i).pair a.toNat) land = .violation sub)
    (hw : ∀ j, j ∈ c.ms → s.landing c.team ((c.view j).pair a.toNat) land ≠ .wait)
    (hone : ∀ j, j ∈ c.ms → (∃ x, s.landing c.team ((c.view j).pair a.toNat) land = .violation x) → j = i) :
    indirect a land link s = .next (s.breach c.team.id sub (vaddr ((c.view i).pair a.toNat))) := by
  have hwait : c.ms.any (fun i => s.landing c.team ((c.view i).pair a.toNat) land == .wait) = false :=
    List.any_eq_false.mpr fun j hj => by simpa using hw j hj
  obtain ⟨⟨sub', va'⟩, hfind⟩ : ∃ x, (c.ms.findSome? fun i =>
      (s.landing c.team ((c.view i).pair a.toNat) land).breach? (vaddr ((c.view i).pair a.toNat))) = some x :=
    Option.isSome_iff_exists.mp (List.findSome?_isSome_iff.mpr ⟨i, hi, by rw [e]; rfl⟩)
  obtain ⟨j, hj, hb⟩ := List.exists_of_findSome?_eq_some hfind
  have hji : j = i := by
    refine hone j hj ?_
    cases hl : s.landing c.team ((c.view j).pair a.toNat) land <;> rw [hl] at hb <;> cases hb
    exact ⟨_, rfl⟩
  subst hji
  rw [e] at hb
  cases hb
  rw [indirect_ready h, hwait, hfind]; rfl

end Indirect

/-- Settles O9: the direct branches a clause an instruction, then the checks of a target, then the outcomes of a transfer to it. -/
theorem directAndIndirectTransfers : Obligations.DirectAndIndirectTransfers := by
  refine ⟨⟨fun o => ?_, fun p o => laneBranch_computes true fun _ => rfl, fun p o => laneBranch_computes false fun _ => rfl, fun o => ?_, fun o => ?_, ?_⟩,
    State.landing_plain_iff, State.landing_pad_iff, ?_⟩
  · simp only [← branchTarget_eq]
    exact computes_goTo fun _ => rfl
  · simp only [← branchTarget_eq]
    refine computes_of_laneStep (F := fun w => (w.setPair 0 (linkOf w.t.pc)).goTo (branchTarget w.t.pc o)) (fun _ => rfl) fun w _ _ => ?_
    exact threadDone_setPair w 0 ((w.t.pc + 4).signExtend 64) (branchTarget w.t.pc o) (by decide)
  · simp only [← branchTarget_eq]
    exact kcomputes_target fun _ => rfl
  · intro mk holds hmk
    simp only [List.mem_cons, List.not_mem_nil, or_false, Prod.mk.injEq] at hmk
    rcases hmk with ⟨rfl, rfl⟩ | ⟨rfl, rfl⟩ | ⟨rfl, rfl⟩ | ⟨rfl, rfl⟩ | ⟨rfl, rfl⟩ | ⟨rfl, rfl⟩
    exacts [uniBranch_computes .eq (fun _ _ => rfl) fun _ _ _ _ => rfl, uniBranch_computes .ne (fun _ _ => rfl) fun _ _ _ _ => rfl,
      uniBranch_computes .ltI (fun _ _ => rfl) fun _ _ _ _ => rfl, uniBranch_computes .geI (fun _ _ => rfl) fun _ _ _ _ => rfl,
      uniBranch_computes .ltN (fun _ _ => rfl) fun _ _ _ _ => rfl, uniBranch_computes .geN (fun _ _ => rfl) fun _ _ _ _ => rfl]
  · intro mk land link hmk a s c h
    have he : exec (mk a) s = indirect a land link s := by
      simp only [List.mem_cons, List.not_mem_nil, or_false, Prod.mk.injEq] at hmk
      rcases hmk with ⟨rfl, rfl, rfl⟩ | ⟨rfl, rfl, rfl⟩ | ⟨rfl, rfl, rfl⟩ <;> rfl
    have h : LaneReady s c (indirectRegs a link) := h
    rw [he]
    intro at' ws
    refine ⟨fun hok => ?_, fun hok => ?_, fun hw => ?_, fun i sub hi e hw hone => ?_⟩
    · exact indirect_lands h hok
    · exact indirect_traps h hok
    · exact indirect_waits h hw
    · exact indirect_breaches h hi e hw hone

end Sys2Proof.Machine
end

section
/-! O10: instructions without effect and yields (R116, R130, R131, R133, R143). -/
namespace Sys2Proof.Machine
open Sys2Proof

/-- A rotation restarts the count (R143). -/
theorem Group.rotate_n (g : Group) (i : Nat) : (g.rotate i).n = 0 := by unfold Group.rotate; dsimp only; split <;> rfl

/-- Whether a group is divided is a matter of its threads alone (R143). -/
theorem Group.divided_congr {g h : Group} (e : g.threads = h.threads) : g.divided = h.divided := by unfold Group.divided; rw [e]

@[simp] theorem Group.rotate_threads (g : Group) (i : Nat) : (g.rotate i).threads = g.threads := by
  have h := congrArg Group.threads (Group.rotate_rest g i); exact h
@[simp] theorem Group.settleFavour_threads (g : Group) (i : Nat) : (g.settleFavour i).threads = g.threads := by
  have h := congrArg Group.threads (Group.settleFavour_rest g i); exact h
@[simp] theorem Group.rotate_idx (g : Group) (i : Nat) : (g.rotate i).idx = g.idx := by
  have h := congrArg Group.idx (Group.rotate_rest g i); exact h
@[simp] theorem Group.settleFavour_idx (g : Group) (i : Nat) : (g.settleFavour i).idx = g.idx := by
  have h := congrArg Group.idx (Group.settleFavour_rest g i); exact h

/-- A quantum is not full right after a rotation, so settling only ends the favour of a group that is whole (R143). -/
theorem Group.settleFavour_rotate (g : Group) (i l : Nat) :
    (g.rotate i).settleFavour l = if g.divided then g.rotate i else { g.rotate i with favour := none } := by
  have hfull : ¬ ((g.rotate i).quantum.toNat ≠ 0 ∧ (g.rotate i).quantum.toNat ≤ (g.rotate i).n) := by rw [Group.rotate_n]; omega
  rw [Group.settleFavour, Group.divided_congr (Group.rotate_threads g i), if_neg hfull]

/-- A yield takes its path to the next word and rotates its group (R131, R143). -/
theorem yieldPath_goes_on {s : State} {c : Ctx} (hp : s.path? = some c) (hr : c.ready {} = true) : ∃ t g, yieldPath s = .next t ∧ Alters s t c g ∧
    GroupDone c g (fun j u => ThreadDone c.group.handler (c.group.thread j) u ((c.group.thread j).pc + 4) [] []) ∧
    g.n = 0 ∧ (g.divided = false → g.favour = none) ∧
    (g.divided = true → g.favour = ({ c.group with threads := g.threads }.rotate c.lead).favour) := by
  let G := c.group.mapAt c.ms fun _ t => t.tick.next
  have hthreads : ((G.rotate c.lead).settleFavour c.lead).threads = G.threads := by simp
  have hthread : ∀ i, ((G.rotate c.lead).settleFavour c.lead).thread i = G.thread i := fun i => by unfold Group.thread; rw [hthreads]
  have hsettled := Group.settleFavour_rotate G c.lead c.lead
  refine ⟨_, (G.rotate c.lead).settleFavour c.lead, ?_, State.putGroup_alters hp (by simp [G]), ⟨?_, ?_, fun i hi => ?_, fun i hi => ?_⟩, ?_, ?_, ?_⟩
  · unfold yieldPath; rw [hp]; simp only [hr, if_true]; rfl
  · rw [hsettled]
    have hrest := congrArg (fun g : Group => { g with threads := c.group.threads }) (Group.rotate_rest G c.lead)
    split <;> exact hrest
  · rw [hthreads]; simp [G, Group.mapAt]
  · rw [hthread]; exact Group.thread_mapAt_not hi
  · rw [hthread, Group.thread_mapAt_mem hi (State.path?_mem hp hi)]
    exact threadDone_goTo (c.view i) _
  · rw [hsettled]; split <;> exact Group.rotate_n G c.lead
  · rw [Group.divided_congr hthreads, hsettled]
    intro hd
    rw [if_neg (by simp [hd])]
  · rw [Group.divided_congr hthreads, hthreads, hsettled]
    intro hd
    rw [if_pos hd]; rfl

/-- A path whose windows do not let it issue does not yield (R26). -/
theorem yieldPath_waits {s : State} {c : Ctx} (hp : s.path? = some c) (hr : c.ready {} = false) : yieldPath s = .next s := by
  unfold yieldPath; rw [hp]; simp [hr]

/-- Settles O10: `nop`, `land` and `knop` compute nothing and go on; the two yields are one rotation of the path's group. -/
theorem noEffectsAndYields : Obligations.NoEffectsAndYields := by
  refine ⟨⟨computes_goTo fun _ => rfl, computes_goTo fun _ => rfl, kcomputes_target fun _ => rfl⟩, fun i hi s c hp => ?_⟩
  have he : exec i s = yieldPath s := by rcases hi with rfl | rfl <;> rfl
  rw [he]
  exact ⟨yieldPath_goes_on hp, yieldPath_waits hp⟩

end Sys2Proof.Machine
end

section
/-! O13: writes of `k` registers and control registers (R135, R335). -/
namespace Sys2Proof.Machine
open Sys2Proof

/-! ### What a change leaves alone -/

/-- What does not depend on the teams is as before where only a team has changed. -/
theorem OnlyTeam.field {s t : State} {i : Nat} {T : Team} {α : Sort _} (h : OnlyTeam s t i T) (f : State → α)
    (hf : ∀ x ts, f { x with teams := ts } = f x := by intros; rfl) : f t = f s := by
  rw [← hf t s.teams, h.rest]

/-- What does not depend on a team's groups is as before where only a group has changed. -/
theorem OnlyGroup.field {S T : Team} {i : Nat} {g : Group} {α : Sort _} (h : OnlyGroup S T i g) (f : Team → α)
    (hf : ∀ t gs, f { t with groups := gs } = f t := by intros; rfl) : f T = f S := by
  rw [← hf T S.groups, h.rest]

/-! ### The halves of an address -/

/-- The low half of an address written. -/
theorem setAddrLo_toNat (a : VAddr) (x : Word) (low : Nat) :
    (setAddrLo a x low).toNat = a.toNat / 2 ^ 32 * 2 ^ 32 + x.toNat / 2 ^ low * 2 ^ low := by
  have ha := a.isLt
  have hx : x.toNat / 2 ^ low * 2 ^ low ≤ x.toNat := Nat.div_mul_le_self _ _
  have hx' := x.isLt
  rw [setAddrLo, BitVec.toNat_ofNat, Nat.mod_eq_of_lt (by omega)]

/-- Bits [55:32] of an address written. -/
theorem setAddrHi_toNat (a : VAddr) (x : Word) : (setAddrHi a x).toNat = x.toNat % 2 ^ 24 * 2 ^ 32 + a.toNat % 2 ^ 32 := by
  rw [setAddrHi, BitVec.toNat_ofNat, Nat.mod_eq_of_lt (by omega), Nat.add_comm]

/-! ### What a control register's write leaves -/

@[simp] theorem Group.setControl_threads (g : Group) (x : Nat) (w : Word) : (g.setControl x w).threads = g.threads := by
  unfold Group.setControl; split <;> rfl
@[simp] theorem Group.setControl_thread (g : Group) (x : Nat) (w : Word) (i : Nat) : (g.setControl x w).thread i = g.thread i := by
  unfold Group.thread; rw [Group.setControl_threads]
@[simp] theorem Group.setControl_idx (g : Group) (x : Nat) (w : Word) : (g.setControl x w).idx = g.idx := by
  unfold Group.setControl; split <;> rfl
@[simp] theorem Group.setControl_fmask (g : Group) (x : Nat) (w : Word) : (g.setControl x w).fmask = g.fmask := by
  unfold Group.setControl; split <;> rfl
theorem Group.setControl_quantum {x : Nat} (hx : x ≠ 0x00) (g : Group) (w : Word) : (g.setControl x w).quantum = g.quantum := by
  unfold Group.setControl
  split
  · exact absurd rfl hx
  all_goals rfl

/-- A thread's own control registers are its `cr.epc`, its predicates and its `v0` to `v7` (R334). -/
theorem Thread.setControl_rest (t : Thread) (x : Nat) (w : Word) : t.setControl x w = { t with
    epc := (t.setControl x w).epc, p := (t.setControl x w).p, v := (t.setControl x w).v, hv := (t.setControl x w).hv,
    spec := (t.setControl x w).spec, poison := (t.setControl x w).poison } := by
  unfold Thread.setControl
  split
  · rfl
  · rfl
  · rfl
  · split
    · unfold Thread.writeV; split <;> rfl
    · rfl

@[simp] theorem Thread.setControl_pc (t : Thread) (x : Nat) (w : Word) : (t.setControl x w).pc = t.pc := by rw [Thread.setControl_rest]
@[simp] theorem Thread.setControl_cause (t : Thread) (x : Nat) (w : Word) : (t.setControl x w).cause = t.cause := by rw [Thread.setControl_rest]
@[simp] theorem Thread.setControl_tval (t : Thread) (x : Nat) (w : Word) : (t.setControl x w).tval = t.tval := by rw [Thread.setControl_rest]

@[simp] theorem Team.setControl_id (t : Team) (x : Nat) (w : Word) : (t.setControl x w).id = t.id := by
  unfold Team.setControl; split <;> rfl
@[simp] theorem Team.setControl_groups (t : Team) (x : Nat) (w : Word) : (t.setControl x w).groups = t.groups := by
  unfold Team.setControl; split <;> rfl
theorem Team.setControl_withGroups (t : Team) (gs : List Group) (x : Nat) (w : Word) :
    Team.setControl { t with groups := gs } x w = { t.setControl x w with groups := gs } := by
  unfold Team.setControl; split <;> rfl

@[simp] theorem Group.issued_fmask (g : Group) (i : Nat) : (g.issued i).fmask = g.fmask := by
  have h := congrArg Group.fmask (Group.issued_rest g i); exact h
@[simp] theorem Group.issued_quantum (g : Group) (i : Nat) : (g.issued i).quantum = g.quantum := by
  have h := congrArg Group.quantum (Group.issued_rest g i); exact h
@[simp] theorem Group.issued_cfl (g : Group) (i : Nat) : (g.issued i).cfl = g.cfl := by
  have h := congrArg Group.cfl (Group.issued_rest g i); exact h

/-! ### `sset` -/

/-- `sset` of a `k` register of a ready path (R135). -/
theorem ssetK_writes {a : BitVec 7} {x : BitVec 6} {s : State} {c : Ctx} (h : LaneReady s c { reads := [(a.toNat, 1)], kWrites := [x.toNat] }) :
    ∃ t, exec (.ssetK a x) s = .next t ∧ KDone s t c nextK fun _ => [(x.toNat, (c.view c.highest).v a.toNat)] := by
  refine ⟨_, ?_, kDone_setK h.path x.toNat ((c.view c.highest).v a.toNat)⟩
  show execSsetK a x s = _
  unfold execSsetK
  rw [h.path]
  simp only [h.named, h.sound, h.free, Bool.not_true, Bool.false_eq_true, if_false]
  rfl

/-- The group of a path that has written control register `x` from register `a`. -/
def Ctx.controlled (c : Ctx) (a x : Nat) : Group :=
  ((c.group.mapAt c.ms fun i t => (t.setControl x ((c.view i).v a)).tick.next).issued c.lead).setControl x ((c.view c.highest).v a)

/-- Each thread of the path has written its own value (R335). -/
theorem Ctx.controlled_thread {s : State} {c : Ctx} (hp : s.path? = some c) (a x : Nat) {i : Nat} (hi : i ∈ c.ms) :
    (c.controlled a x).thread i = ((c.group.thread i).setControl x ((c.view i).v a)).tick.next := by
  rw [Ctx.controlled, Group.setControl_thread, Group.thread_step hp rfl _ hi]

/-- `sset` of a control register that may be reached (R135, R335). -/
theorem ssetCr_only {a x : BitVec 7} {s : State} {c : Ctx} (h : LaneReady s c { reads := [(a.toNat, 1)] })
    (hx : ∃ w, controlReg c.team c.group (c.group.thread c.lead) x.toNat = some w) :
    ∃ t T, exec (.ssetCr a x) s = .next t ∧ OnlyTeam s t c.team.id T ∧
      OnlyGroup (c.team.setControl x.toNat ((c.view c.highest).v a.toNat)) T c.group.idx (c.controlled a.toNat x.toNat) := by
  obtain ⟨w, hw⟩ := hx
  obtain ⟨T, hT, hG⟩ := State.mapTeam_putGroup h.path (g := c.controlled a.toNat x.toNat) (by simp [Ctx.controlled])
    (fun t => t.setControl x.toNat ((c.view c.highest).v a.toNat)) (fun t => t.setControl_id _ _) (fun t => t.setControl_groups _ _)
    (fun t gs => t.setControl_withGroups gs _ _)
  refine ⟨_, T, ?_, hT, hG⟩
  show execSsetCr a x s = _
  unfold execSsetCr
  rw [h.path]
  simp only [hw, h.named, h.sound, h.free, Option.isNone_some, Bool.not_true, Bool.false_eq_true, if_false]
  rfl

/-- `sset` of a control register that may not be reached is an illegal instruction. -/
theorem ssetCr_illegal {a x : BitVec 7} {s : State} {c : Ctx} (hp : s.path? = some c) (hx : x.toNat ≠ 0x00) (hg : c.group.handler = false) :
    exec (.ssetCr a x) s = .next (s.trapPath c { code := 0x01 }) := by
  show execSsetCr a x s = _
  unfold execSsetCr; rw [hp]; simp [controlReg_outside _ _ hx hg]

/-- A control register that is read-only, or `cr.quantum` and those of threads and groups, is no field of the team (R335). -/
theorem Team.setControl_readOnly {x : Nat} (hx : x ∈ [0x04, 0x05, 0x06, 0x07, 0x08, 0x2C]) (t : Team) (w : Word) : t.setControl x w = t := by
  simp only [List.mem_cons, List.not_mem_nil, or_false] at hx
  rcases hx with rfl | rfl | rfl | rfl | rfl | rfl <;> rfl

/-- Settles O13: the `k` registers, the registers that may not be reached, and those that may, a register at a time. -/
theorem registerWrites : Obligations.RegisterWrites := by
  refine ⟨fun a x s c h => ssetK_writes h, fun a x s c hp hx hg => ssetCr_illegal hp hx hg, fun a x s c h hw => ?_⟩
  intro high
  obtain ⟨t, T, hrun, hT, hG⟩ := ssetCr_only h hw
  have hthread := fun i (hi : i ∈ c.ms) => Ctx.controlled_thread h.path a.toNat x.toNat hi
  refine ⟨t, T, _, hrun, hT, hG.self, fun j hj => ?_, fun i hi => ?_, fun i hi => ?_, fun hx => ?_, fun hx => ?_, fun hx i hi => ?_,
    fun hx i hi => ?_, fun hx => ?_, fun hx => ?_, fun hx => ?_, fun hx => ?_, fun y hy hx => ⟨?_, fun i hi => ⟨?_, ?_, ?_⟩⟩⟩
  · rw [hG.others j hj, Team.group?, Team.group?, Team.setControl_groups]
  · rw [Ctx.controlled, Group.setControl_thread, Group.issued_thread, Group.thread_mapAt_not hi]
  · rw [hthread i hi]; simp
  · rw [Ctx.controlled, hx]; exact ⟨rfl, rfl⟩
  · rw [Ctx.controlled, Group.setControl_quantum hx, Group.issued_quantum, Group.mapAt_quantum]
  · rw [hthread i hi, hx]; exact setAddrLo_toNat _ _ 2
  · rw [hthread i hi, hx]; exact setAddrHi_toNat _ _
  · rw [Ctx.controlled, hx]
    refine (setAddrLo_toNat _ _ 4).trans ?_
    rw [Group.issued_cfl]; rfl
  · rw [hG.field (·.log.ptr), hx]; exact setAddrLo_toNat _ _ 4
  · rw [hG.field (·.log.lim), hx]; exact setAddrLo_toNat _ _ 4
  · rw [hG.field (·.tpc), hx]; exact setAddrLo_toNat _ _ 2
  · subst hx
    have hrest := hG.rest
    rwa [Team.setControl_readOnly hy] at hrest
  · rw [hthread i hi]; simp
  · rw [hthread i hi]; simp
  · simp [Ctx.controlled]

end Sys2Proof.Machine
end

section
/-! What taking the traps of a path's threads does: it ends their team, or parks them and enters their group's handler (R146, R331, R332, R337). -/
namespace Sys2Proof.Machine
open Sys2Proof

/-! ### Threads parked -/

/-- The traps of the threads `ms`, of one cause, each resuming at its own address. -/
def trapsAt (ms : List Nat) (info : TrapInfo) (epc : Nat → VAddr) : List ThreadTrap := ms.map fun i => { pos := i, info := info, epc := epc i }

/-- A group with one thread parked and named in the fault mask (R332 step 3). -/
def Group.parkOne (g : Group) (f : ThreadTrap) : Group :=
  { g.setThread f.pos ((g.thread f.pos).trap f.info f.epc) with fmask := g.fmask ||| BitVec.ofNat 32 (2 ^ f.pos) }

/-- Parking threads of one cause one after another: each of them is trapped and named, and the others are as before. -/
theorem Group.foldl_parkOne (info : TrapInfo) (epc : Nat → VAddr) (ms : List Nat) : ∀ g : Group, (∀ i, i ∈ ms → i < g.threads.length) →
    let h := (trapsAt ms info epc).foldl Group.parkOne g
    { h with threads := g.threads, fmask := g.fmask } = g ∧ h.threads.length = g.threads.length ∧
      (∀ j, h.thread j = if j ∈ ms then (g.thread j).trap info (epc j) else g.thread j) ∧
      ∀ j, j < 32 → h.fmask.getLsbD j = (decide (j ∈ ms) || g.fmask.getLsbD j) := by
  induction ms with
  | nil => intro g _; exact ⟨rfl, rfl, fun j => by simp [trapsAt], fun j _ => by simp [trapsAt]⟩
  | cons i ms ih =>
    intro g hlen
    have hlen' : ∀ j, j ∈ ms → j < (g.parkOne { pos := i, info := info, epc := epc i }).threads.length := fun j hj => by
      simpa [Group.parkOne, Group.setThread] using hlen j (List.mem_cons_of_mem _ hj)
    obtain ⟨hrest, hlength, hthread, hmask⟩ := ih (g.parkOne { pos := i, info := info, epc := epc i }) hlen'
    have hone : ∀ j, (g.parkOne { pos := i, info := info, epc := epc i }).thread j = if j = i then (g.thread i).trap info (epc i) else g.thread j :=
      fun j => Group.thread_setThread (hlen i List.mem_cons_self) _ j
    refine ⟨congrArg (fun x : Group => { x with threads := g.threads, fmask := g.fmask }) hrest,
      hlength.trans (by simp [Group.parkOne, Group.setThread]), fun j => (hthread j).trans ?_, fun j hj => (hmask j hj).trans ?_⟩
    · rw [hone]
      by_cases hji : j = i
      · subst hji; by_cases hj : j ∈ ms <;> simp [hj, Thread.trap]
      · simp [hji]
    · have hbit : (BitVec.ofNat 32 (2 ^ i)).getLsbD j = decide (j = i) := by
        rw [BitVec.getLsbD_ofNat, Nat.testBit_two_pow]; simp [hj, eq_comm]
      rw [show (g.parkOne { pos := i, info := info, epc := epc i }).fmask = g.fmask ||| BitVec.ofNat 32 (2 ^ i) from rfl, BitVec.getLsbD_or, hbit]
      by_cases hji : j = i <;> simp [hji, Bool.or_comm]

/-- The end of a favour changes the count and the favour alone (R143). -/
theorem Group.dropFavour_rest (g : Group) : { g.dropFavour with n := g.n, favour := g.favour } = g := by
  unfold Group.dropFavour
  split
  · rfl
  · split
    · rfl
    · rename_i f _ _
      calc { (g.rotate f).settleFavour f with n := g.n, favour := g.favour }
          = { ({ (g.rotate f).settleFavour f with n := (g.rotate f).n, favour := (g.rotate f).favour } : Group) with n := g.n, favour := g.favour } := rfl
        _ = { g.rotate f with n := g.n, favour := g.favour } := by rw [Group.settleFavour_rest]
        _ = g := Group.rotate_rest g f

@[simp] theorem Group.dropFavour_threads (g : Group) : g.dropFavour.threads = g.threads := by
  have h := congrArg Group.threads (Group.dropFavour_rest g); exact h
@[simp] theorem Group.dropFavour_thread (g : Group) (i : Nat) : g.dropFavour.thread i = g.thread i := by
  unfold Group.thread; rw [Group.dropFavour_threads]

@[simp] theorem Group.dropFavour_idx (g : Group) : g.dropFavour.idx = g.idx := by
  have h := congrArg Group.idx (Group.dropFavour_rest g); exact h
@[simp] theorem Group.park_idx (g : Group) (fs : List ThreadTrap) : (g.park fs).idx = g.idx := by
  refine (Group.dropFavour_idx _).trans ?_
  exact List.foldlRecOn (motive := fun h : Group => h.idx = g.idx) fs Group.parkOne rfl fun _ h _ _ => h

/-- A group whose threads `ms` are parked waits to enter its own handler. -/
theorem Group.park_spec {g : Group} {ms : List Nat} (hms : ∀ i, i ∈ ms → i < g.threads.length) (info : TrapInfo) (epc : Nat → VAddr) :
    let h := g.park (trapsAt ms info epc)
    h.pending = .own ∧ h.kout = g.kout ∧
      (∀ j, h.thread j = if j ∈ ms then (g.thread j).trap info (epc j) else g.thread j) ∧
      ∀ j, j < 32 → h.fmask.getLsbD j = (decide (j ∈ ms) || g.fmask.getLsbD j) := by
  obtain ⟨hrest, -, hthread, hmask⟩ := Group.foldl_parkOne info epc ms g hms
  have hpark := Group.dropFavour_rest { (trapsAt ms info epc).foldl Group.parkOne g with pending := .own }
  have hkout := congrArg Group.kout hrest
  have hpending := congrArg Group.pending hpark
  have hkout' := congrArg Group.kout hpark
  have hmask' := congrArg Group.fmask hpark
  exact ⟨hpending, hkout'.trans hkout, fun j => (Group.dropFavour_thread _ j).trans (hthread j),
    fun j hj => (congrArg (fun m : Mask => m.getLsbD j) hmask').trans (hmask j hj)⟩

/-- Parking a thread leaves its outstanding results, so a group that waits for nothing enters its handler at once. -/
theorem Group.park_entered {g : Group} {ms : List Nat} (hms : ∀ i, i ∈ ms → i < g.threads.length) (hd : g.drained = true) (info : TrapInfo)
    (epc : Nat → VAddr) (vec : VAddr) : (g.park (trapsAt ms info epc)).entered vec = (g.park (trapsAt ms info epc)).enter vec false := by
  obtain ⟨hpending, hkout, hthread, -⟩ := Group.park_spec hms info epc
  obtain ⟨hk, hout⟩ := g.drained_iff.mp hd
  have hdrained : (g.park (trapsAt ms info epc)).drained = true := by
    refine (Group.drained_iff _).mpr ⟨hkout.trans hk, fun i => ?_⟩
    rw [hthread i]
    split
    · exact hout i
    · exact hout i
  rw [Group.entered, if_pos ⟨hdrained, by rw [hpending]; decide⟩, hpending]; rfl

/-! ### Traps taken -/

/-- A core without a team's entries of the reuse latch (R288). -/
def Core.dropLatch (k : Core) (team : Nat) : Core := { k with latch := k.latch.filter fun l => l.1 != team }

section Taken
variable {s : State} {t : Team} {g : Group} (ht : s.team? t.id = some t) (hg : t.group? g.idx = some g)
include ht hg

/-- A trap in handler mode ends the team (R337). -/
theorem State.takeTraps_in_handler {fs : List ThreadTrap} (hfs : fs ≠ []) (hh : g.handler = true) :
    s.takeTraps t.id g.idx fs = s.endTeam t.id 0x12 0 0 := by
  obtain ⟨f, r, rfl⟩ := List.exists_cons_of_ne_nil hfs
  unfold State.takeTraps
  rw [ht]; dsimp only; rw [hg]; simp only [hh, if_true]

/-- A port without a handler ends it with the cause (R331). -/
theorem State.takeTraps_unhandled (f : ThreadTrap) (r : List ThreadTrap) (hh : g.handler = false) (hv : (s.port t.asid).trapVec = 0) :
    s.takeTraps t.id g.idx (f :: r) = s.endTeam t.id f.info.code 0 f.info.tval := by
  unfold State.takeTraps
  rw [ht]; dsimp only; rw [hg]; simp only [hh, hv, Bool.false_eq_true, if_true, if_false]

/-- Otherwise its threads are parked, the latch is emptied, and the handler is entered where nothing is waited for (R332, R288). -/
theorem State.takeTraps_parks {fs : List ThreadTrap} (hfs : fs ≠ []) (hh : g.handler = false) (hv : (s.port t.asid).trapVec ≠ 0) :
    ∃ T, OnlyTeam (s.mapCore t.core fun k => k.dropLatch t.id) (s.takeTraps t.id g.idx fs) t.id T ∧
      OnlyGroup t T g.idx ((g.park fs).entered (s.port t.asid).trapVec) := by
  obtain ⟨f, r, rfl⟩ := List.exists_cons_of_ne_nil hfs
  have hrun : s.takeTraps t.id g.idx (f :: r) =
      ((s.mapCore t.core fun k => k.dropLatch t.id).mapGroup t.id g.idx fun h => h.park (f :: r)).enterIfDrained t.id g.idx := by
    unfold State.takeTraps
    rw [ht]; dsimp only; rw [hg]; simp only [hh, hv, Bool.false_eq_true, if_false]; rfl
  obtain ⟨T, hT, hG⟩ := State.mapGroup_only (s := s.mapCore t.core fun k => k.dropLatch t.id) ht hg (fun h => h.park (f :: r)) fun h => h.park_idx _
  have hid : T.id = t.id := State.team?_id hT.self
  have hidx : (g.park (f :: r)).idx = g.idx := g.park_idx _
  have hasid : T.asid = t.asid := by have := congrArg Team.asid hG.rest; exact this
  obtain ⟨U, hU, hH⟩ := State.enterIfDrained_only (hid ▸ hT.self) (hidx ▸ hG.self)
  rw [hid, hidx] at hU
  rw [hidx, hasid] at hH
  exact ⟨U, hrun ▸ hT.trans hU, hG.trans hH⟩

end Taken

end Sys2Proof.Machine
end

section
/-! O14: `trap n` and words that are no instruction (R134, R146, R331, R332, R334, R337, R42). -/
namespace Sys2Proof.Machine
open Sys2Proof

/-- The state whose traps an instruction takes: `trap n` has issued, a word that is none has not (R22, R143). -/
def State.trapBase (s : State) (c : Ctx) (off : VAddr) : State := if off = 4 then s.putGroup c (c.group.issued c.lead) else s

/-- `U` and `g` are the team and the group of the path as the taking of its traps finds them. -/
structure TrapBase (s : State) (c : Ctx) (off : VAddr) (U : Team) (g : Group) : Prop where
  team : OnlyTeam s (s.trapBase c off) c.team.id U
  group : OnlyGroup c.team U c.group.idx g
  rest : { g with n := c.group.n, favour := c.group.favour } = c.group

/-- Counting the issue alters the group's count and favour alone. -/
theorem State.trapBase_spec {s : State} {c : Ctx} (h : s.path? = some c) (off : VAddr) : ∃ U g, TrapBase s c off U g := by
  by_cases e : off = 4
  · obtain ⟨U, hU, hg⟩ := State.putGroup_alters h (g := c.group.issued c.lead) (by simp)
    exact ⟨U, _, by rwa [State.trapBase, if_pos e], hg, Group.issued_rest _ _⟩
  · obtain ⟨-, ht, hg, -, -⟩ := State.path?_spec h
    exact ⟨c.team, c.group, by rw [State.trapBase, if_neg e]; exact ⟨rfl, ht, fun _ _ => rfl⟩, ⟨rfl, hg, fun _ _ => rfl⟩, rfl⟩

section TrapBase
variable {s : State} {c : Ctx} {off : VAddr} {U : Team} {g : Group} (h : TrapBase s c off U g)
include h

theorem TrapBase.id : U.id = c.team.id := State.team?_id h.team.self
theorem TrapBase.idx : g.idx = c.group.idx := Team.group?_idx h.group.self
theorem TrapBase.team? : (s.trapBase c off).team? U.id = some U := h.id ▸ h.team.self
theorem TrapBase.group? : U.group? g.idx = some g := h.idx ▸ h.group.self
theorem TrapBase.handler : g.handler = c.group.handler := by have := congrArg Group.handler h.rest; exact this
theorem TrapBase.fmask : g.fmask = c.group.fmask := by have := congrArg Group.fmask h.rest; exact this
theorem TrapBase.threads : g.threads = c.group.threads := by have := congrArg Group.threads h.rest; exact this
theorem TrapBase.thread (j : Nat) : g.thread j = c.group.thread j := by unfold Group.thread; rw [h.threads]

theorem TrapBase.trapVec : ((s.trapBase c off).port U.asid).trapVec = (s.port c.team.asid).trapVec := by
  have hasid : U.asid = c.team.asid := h.group.field (·.asid)
  rw [hasid]; exact h.team.field fun x => (x.port c.team.asid).trapVec

theorem TrapBase.drained (hd : c.group.drained = true) : g.drained = true := by
  have hkout : g.kout = c.group.kout := by have := congrArg Group.kout h.rest; exact this
  obtain ⟨hk, hthreads⟩ := c.group.drained_iff.mp hd
  exact g.drained_iff.mpr ⟨hkout.trans hk, fun i => (h.thread i).symm ▸ hthreads i⟩

/-- Traps that park threads change the team's group alone, and empty the team's reuse latch (R332). -/
theorem TrapBase.takeTraps_parks {fs : List ThreadTrap} (hfs : fs ≠ []) (hh : c.group.handler = false) (hv : (s.port c.team.asid).trapVec ≠ 0) :
    ∃ T, let t := (s.trapBase c off).takeTraps U.id g.idx fs
      { t with teams := s.teams, cores := s.cores } = s ∧
      t.core c.team.core = { s.core c.team.core with latch := (s.core c.team.core).latch.filter fun l => l.1 != c.team.id } ∧
      (∀ j, j ≠ c.team.core → t.core j = s.core j) ∧ t.team? c.team.id = some T ∧ (∀ j, j ≠ c.team.id → t.team? j = s.team? j) ∧
      OnlyGroup c.team T c.group.idx ((g.park fs).entered (s.port c.team.asid).trapVec) := by
  obtain ⟨T, hT, hH⟩ := State.takeTraps_parks h.team? h.group? hfs (h.handler.trans hh) (h.trapVec ▸ hv)
  rw [h.trapVec] at hH
  have hcore : U.core = c.team.core := h.group.field (·.core)
  have hbase : ∀ j, (s.trapBase c off).core j = s.core j := fun j => h.team.field fun x => x.core j
  have hafter : ∀ j, ((s.trapBase c off).takeTraps U.id g.idx fs).core j = _ := fun j => hT.field fun x => x.core j
  refine ⟨T, ?_, ?_, fun j hj => ?_, h.id ▸ hT.self, fun j hj => ?_, ?_⟩
  · have hlater := congrArg (fun x : State => { x with teams := s.teams, cores := s.cores }) hT.rest
    have hissue := congrArg (fun x : State => { x with cores := s.cores }) h.team.rest
    exact hlater.trans hissue
  · refine (hafter _).trans ?_
    rw [hcore, State.core_mapCore_self, hbase, h.id]; rfl
  · refine (hafter _).trans ?_
    rw [State.core_mapCore, hcore, if_neg hj, hbase]
  · rw [hT.others j (h.id ▸ hj)]; exact h.team.others j (h.id ▸ hj)
  · rw [h.idx] at hH; exact h.group.trans hH

end TrapBase

/-- Each of these instructions takes one trap of every active thread. -/
theorem preciseTrap_exec {i : Instr} {code detail : Nat} {off : VAddr}
    (hi : (∃ n : BitVec 7, i = .trap n ∧ code = 0x0D ∧ detail = n.toNat ∧ off = 4) ∨
      (∃ w : Word, i = .illegalInstructionWord w ∧ w.toNat / 2 ^ 25 < 0x70 ∧ code = 0x01 ∧ detail = 0 ∧ off = 0) ∨
      ∃ w : Word, i = .illegalInstructionWord w ∧ 0x70 ≤ w.toNat / 2 ^ 25 ∧ code = 0x09 ∧ detail = 0 ∧ off = 0)
    {s : State} {c : Ctx} (hp : s.path? = some c) (hr : c.ready {} = true) :
    exec i s = .next ((s.trapBase c off).takeTraps c.team.id c.group.idx
        (trapsAt c.ms { code := code, detail := detail } fun j => (c.group.thread j).pc + off)) ∧
      code < 64 ∧ detail < 2 ^ 16 := by
  have hactor := (State.path?_spec hp).1
  have hword : ∀ w : Word, exec (.illegalInstructionWord w) s =
      .next (s.trapWord c { code := if decide (0x70 ≤ w.toNat / 2 ^ 25) then 0x09 else 0x01 }) := fun w => by
    show execIllegalInstructionWord w s = _
    unfold execIllegalInstructionWord
    rw [hactor]; dsimp only; rw [hp]
  have hnone : ∀ code, s.trapWord c { code := code } = (s.trapBase c 0).takeTraps c.team.id c.group.idx
      (trapsAt c.ms { code := code } fun j => (c.group.thread j).pc + 0) := fun code => by
    have hzero : ∀ x : VAddr, x + 0 = x := BitVec.add_zero
    rw [State.trapBase, if_neg (by decide)]; simp only [hzero]; rfl
  rcases hi with ⟨n, rfl, rfl, rfl, rfl⟩ | ⟨w, rfl, hw, rfl, rfl, rfl⟩ | ⟨w, rfl, hw, rfl, rfl, rfl⟩
  · refine ⟨?_, by decide, by have := n.isLt; omega⟩
    show execTrap n s = _
    unfold execTrap
    rw [hp]; simp only [hr, if_true]; rfl
  · exact ⟨by rw [hword, ← hnone, decide_eq_false (by omega)]; rfl, by decide, by decide⟩
  · exact ⟨by rw [hword, ← hnone, decide_eq_true hw]; rfl, by decide, by decide⟩

/-- A thread that has trapped, as the handler starts (R332). -/
theorem Thread.trap_toHandler (t : Thread) {code detail : Nat} (hc : code < 64) (hd : detail < 2 ^ 16) (epc vec : VAddr) :
    (t.trap { code := code, detail := detail } epc).toHandler vec = { t with
      cause := BitVec.ofNat 32 (detail * 2 ^ 16 + code), tval := 0, epc := epc, stall := [], kstall := [],
      pc := vec, resume := some t.pc, held := .parked, status := .running } := by
  unfold Thread.trap Thread.toHandler
  rw [Nat.mod_eq_of_lt hd, Nat.mod_eq_of_lt hc]

/-- Settles O14: the trap an instruction takes, and what taking it does with and without a handler. -/
theorem preciseTrapsEnterHandler : Obligations.PreciseTrapsEnterHandler := by
  intro i code detail off hi s c hp hr vec u
  obtain ⟨hexec, hcode, hdetail⟩ := preciseTrap_exec hi hp hr
  obtain ⟨-, -, -, -, hne⟩ := State.path?_spec hp
  obtain ⟨U, g, hb⟩ := State.trapBase_spec hp off
  obtain ⟨m, ms, hms⟩ := List.exists_cons_of_ne_nil hne
  let fs := trapsAt c.ms { code := code, detail := detail } fun j => (c.group.thread j).pc + off
  have hfs : fs ≠ [] := by simp [fs, trapsAt, hms]
  rw [hexec, ← hb.id, ← hb.idx]
  refine ⟨fun hh => ?_, fun hh hv => ?_, fun hh hv hd => ?_⟩
  · rw [State.takeTraps_in_handler hb.team? hb.group? hfs (hb.handler.trans hh)]; rfl
  · rw [hms]
    exact congrArg _ (State.takeTraps_unhandled hb.team? hb.group? _ _ (hb.handler.trans hh) (hb.trapVec.trans hv))
  · obtain ⟨T, hrest, hcore, hcores, hteam, hteams, hgroup⟩ := hb.takeTraps_parks hfs hh hv
    have hlen : ∀ i, i ∈ c.ms → i < g.threads.length := fun i hi => by rw [hb.threads]; exact State.path?_mem hp hi
    rw [Group.park_entered hlen (hb.drained hd)] at hgroup
    obtain ⟨-, -, hparked, hmask⟩ := Group.park_spec hlen { code := code, detail := detail } fun j => (c.group.thread j).pc + off
    rw [← hb.id] at hcore hteam hteams
    rw [← hb.idx] at hgroup
    refine ⟨_, T, (g.park fs).enter vec false, rfl, hrest, hcore, hcores, hteam, hteams, hgroup, rfl, rfl, fun j hj => ?_, fun j hj => ?_, fun j w hj hw => ?_⟩
    · rw [← hb.fmask]; exact hmask j hj
    · rw [Group.enter_thread, hparked, if_pos hj, Thread.trap_toHandler _ hcode hdetail, hb.thread]
    · rw [Group.enter_thread, hparked, if_neg hj, hb.thread]
      subst hw
      unfold Thread.toHandler
      cases hst : (c.group.thread j).status <;> simp [hst]

end Sys2Proof.Machine
end

section
/-! O15: `eret` leaves handler mode, and `exit` ends threads (R29, R132, R136, R163, R332, R336). -/
namespace Sys2Proof.Machine
open Sys2Proof

/-- The threads of a group after each position is changed by a function that leaves an absent thread absent. -/
theorem Group.thread_mapIdx (g : Group) (f : Nat → Thread → Thread) (hf : ∀ i, f i { status := .absent } = { status := .absent }) (i : Nat) :
    ({ g with threads := g.threads.mapIdx f } : Group).thread i = f i (g.thread i) := by
  unfold Group.thread
  rw [List.getD_eq_getElem?_getD, List.getD_eq_getElem?_getD, List.getElem?_mapIdx]
  cases g.threads[i]? with
  | none => exact (hf i).symm
  | some t => rfl

/-! ### `eret` -/

/-- A group out of its handler: of its own fields, only those of handler mode, the count and the favour have changed (R136). -/
theorem Group.leave_spec (g : Group) (lead : Nat) : (g.leave lead).idx = g.idx ∧ (g.leave lead).handler = false ∧
    (g.leave lead).teamHandler = false ∧ (g.leave lead).fmask = 0 ∧
    ∀ i, (g.leave lead).thread i = Thread.fromHandler (g.fmask.getLsbD i) (g.thread i) := by
  have hrest := Group.settleFavour_rest { g with threads := g.threads.mapIdx fun i t => Thread.fromHandler (g.fmask.getLsbD i) t,
                                                 handler := false, teamHandler := false, fmask := 0 } lead
  have hidx := congrArg Group.idx hrest
  have hhandler := congrArg Group.handler hrest
  have hteam := congrArg Group.teamHandler hrest
  have hmask := congrArg Group.fmask hrest
  have hthreads := congrArg Group.threads hrest
  refine ⟨hidx, hhandler, hteam, hmask, fun i => ?_⟩
  refine Eq.trans ?_ (Group.thread_mapIdx g (fun i t => Thread.fromHandler (g.fmask.getLsbD i) t) (fun _ => rfl) i)
  exact congrArg (fun ts : List Thread => ts.getD i { status := .absent }) hthreads

/-- A thread that runs or is parked goes on at its `cr.epc`, where it trapped, or where it stopped (R136). -/
theorem Thread.fromHandler_spec {t : Thread} (h : t.running = true ∨ t.parked = true) (faulted : Bool) :
    let u := t.fromHandler faulted
    u.running = true ∧ u.cause = 0 ∧ u.v = t.v ∧ u.p = t.p ∧ (faulted = true → u.pc = t.epc) ∧ (faulted = false → u.pc = t.resume.getD t.pc) := by
  have hstatus : t.status = .running ∨ t.status = .parked := by
    unfold Thread.running Thread.parked at h
    cases hs : t.status <;> simp [hs] at h ⊢
  unfold Thread.fromHandler Thread.running
  rcases hstatus with hs | hs <;> cases faulted <;> simp [hs]

/-- The team of an `eret` once its group has left its handler: pops whose threads no longer wait are gone. -/
def Team.dropPops (t : Team) : Team := { t with pops := t.pops.filter t.popStands }

/-- A team whose handler has returned (R336). -/
def Team.returned (t : Team) : Team :=
  { t with
    cooper := t.cooper.map fun k => { k with trapped := false, cpc := t.tpc }
    tcause := 0
    groups := t.groups.map fun g => { g with stopped := false } }

theorem Team.returned_group? (t : Team) (i : Nat) : t.returned.group? i = (t.group? i).map fun g => { g with stopped := false } :=
  Team.group?_map t (fun g => { g with stopped := false }) (fun _ => rfl) i

/-- A change of the teams of one number, read back. -/
theorem State.mapTeam_only {s : State} {i : Nat} {t : Team} (h : s.team? i = some t) {f : Team → Team} (hf : ∀ t, (f t).id = t.id) :
    OnlyTeam s (s.mapTeam i f) i (f t) where
  rest := rfl
  self := by rw [State.team?_mapTeam s i hf, h]; simp
  others j hj := by rw [State.team?_mapTeam s i hf]; simp [hj]

/-- `eret` of a ready path in handler mode. -/
theorem eret_leaves {s : State} {c : Ctx} (hp : s.path? = some c) (hh : c.group.handler = true) (hr : c.ready {} = true) :
    let G := Group.leave { c.group with n := c.group.n + 1 } c.lead
    ∃ t T, exec .eret s = .next t ∧ OnlyTeam s t c.team.id T ∧
      ∃ U, OnlyGroup c.team U c.group.idx G ∧ T = if c.group.teamHandler = true then U.dropPops.returned else U.dropPops := by
  intro G
  obtain ⟨U, hU, hG⟩ := State.putGroup_alters hp (g := G) (Group.leave_spec _ _).1
  have hdrop := hU.trans (State.mapTeam_only hU.self (f := Team.dropPops) fun _ => rfl)
  have hrun : exec .eret s = .next (if c.group.teamHandler
      then ((s.putGroup c G).mapTeam c.team.id Team.dropPops).mapTeam c.team.id Team.returned
      else (s.putGroup c G).mapTeam c.team.id Team.dropPops) := by
    show execEret s = _
    unfold execEret
    rw [hp]; simp only [hh, hr, Bool.not_true, Bool.false_eq_true, if_false]; rfl
  by_cases hteam : c.group.teamHandler = true
  · exact ⟨_, _, by rw [hrun, if_pos hteam], hdrop.trans (State.mapTeam_only hdrop.self (f := Team.returned) fun _ => rfl), U, hG,
      (if_pos hteam).symm⟩
  · exact ⟨_, _, by rw [hrun, if_neg hteam], hdrop, U, hG, (if_neg hteam).symm⟩

/-! ### `exit` -/

/-- A group those of whose waits end that `may` names. -/
def Group.releasing (may : Group → Nat → Thread → Bool) (f : Thread → Thread) (g : Group) : Group :=
  { g with threads := g.threads.mapIdx fun i h => bif h.isBlocked && may g i h then Thread.release g.handler (f h) else h }

/-- A thread that is not blocked is as before. -/
theorem Group.releasing_thread {g : Group} {i : Nat} (h : (g.thread i).isBlocked = false) (may : Group → Nat → Thread → Bool) (f : Thread → Thread) :
    (g.releasing may f).thread i = g.thread i := by
  refine (Group.thread_mapIdx g (fun i h => bif h.isBlocked && may g i h then Thread.release g.handler (f h) else h) (fun _ => rfl) i).trans ?_
  rw [h]; rfl

theorem Team.releaseWhere_group? (t : Team) (may : Group → Nat → Thread → Bool) (f : Thread → Thread) (i : Nat) :
    (t.releaseWhere may f).group? i = (t.group? i).map (Group.releasing may f) :=
  Team.group?_map t (Group.releasing may f) (fun _ => rfl) i

/-- A team replaced, read back. -/
theorem State.team?_setTeam_self {s : State} {i : Nat} {t u : Team} (h : s.team? i = some t) (hu : u.id = i) : (s.setTeam u).team? i = some u := by
  subst hu
  refine (State.team?_map s (fun x => if x.id == u.id then u else x) (fun x => ?_) u.id).trans ?_
  · split
    · next e => exact (beq_iff_eq.mp e).symm
    · rfl
  · rw [h]; simp [State.team?_id h]

/-- Letting go on what no longer waits at a barrier changes waiting threads of the team alone. -/
theorem State.barrierProgress_spec {s : State} {i : Nat} {t : Team} (h : s.team? i = some t) :
    ∃ may f, s.barrierProgress i = s.setTeam (t.releaseWhere may f) := by
  unfold State.barrierProgress
  rw [h]
  exact ⟨_, _, rfl⟩

/-- The group of a path whose threads have exited (R29, R132). -/
def Ctx.exited (c : Ctx) : Group := ((c.group.mapAt c.ms fun _ t => t.tick.end).issued c.lead).dropFavour.retireIfDone

theorem Group.retireIfDone_threads (g : Group) : g.retireIfDone.threads = g.threads := by unfold Group.retireIfDone; split <;> rfl

theorem Ctx.exited_thread_mem {s : State} {c : Ctx} (hp : s.path? = some c) {i : Nat} (hi : i ∈ c.ms) : c.exited.thread i = (c.group.thread i).tick.end := by
  unfold Group.thread Ctx.exited
  rw [Group.retireIfDone_threads, Group.dropFavour_threads]
  exact Group.thread_step hp rfl _ hi

theorem Ctx.exited_thread_not {c : Ctx} {i : Nat} (hi : i ∉ c.ms) : c.exited.thread i = c.group.thread i := by
  unfold Group.thread Ctx.exited
  rw [Group.retireIfDone_threads, Group.dropFavour_threads, Group.issued_threads]
  exact Group.thread_mapAt_not hi

/-- A group whose last live threads exit, and that has no child, has retired (R163). -/
theorem Ctx.exited_retired {s : State} {c : Ctx} (hp : s.path? = some c) (hlive : ∀ i, (c.group.thread i).live = true → i ∈ c.ms)
    (hchildren : c.group.children = 0) : c.exited.retired = true := by
  have hdead : ∀ t, t ∈ c.exited.threads → t.live = false := fun t ht => by
    obtain ⟨i, hi, rfl⟩ := List.getElem_of_mem ht
    have hthread : c.exited.threads[i] = c.exited.thread i := by simp [Group.thread, hi]
    rw [hthread]
    by_cases hm : i ∈ c.ms
    · rw [Ctx.exited_thread_mem hp hm]; rfl
    · rw [Ctx.exited_thread_not hm]
      exact Bool.eq_false_iff.mpr fun h => hm (hlive i h)
  unfold Ctx.exited at hdead ⊢
  rw [Group.retireIfDone_threads] at hdead
  have hrest := Group.dropFavour_rest ((c.group.mapAt c.ms fun _ t => t.tick.end).issued c.lead)
  have hrest' := Group.issued_rest (c.group.mapAt c.ms fun _ t => t.tick.end) c.lead
  have hkeeps := congrArg Group.children hrest
  have hkeeps' := congrArg Group.children hrest'
  have hnone : ((c.group.mapAt c.ms fun _ t => t.tick.end).issued c.lead).dropFavour.children = 0 := (hkeeps.trans hkeeps').trans hchildren
  have hall : ((c.group.mapAt c.ms fun _ t => t.tick.end).issued c.lead).dropFavour.threads.all (fun t => !t.live) = true :=
    List.all_eq_true.mpr fun t ht => by rw [hdead t ht]; rfl
  rw [Group.retireIfDone, hnone, hall]; rfl

/-- A thread that waits in no exchange is as before. -/
theorem Group.exchangeProgress_thread {g : Group} {i : Nat} (h : (g.thread i).arrival? = none) : g.exchangeProgress.thread i = g.thread i := by
  unfold Group.exchangeProgress
  refine (Group.thread_mapIdx g _ (fun _ => rfl) i).trans ?_
  rw [h]

/-- `exit` of a path whose results are available and whose peers can be told. -/
theorem exit_ends {s : State} {c : Ctx} (hp : s.path? = some c) (hout : ∀ i, i ∈ c.ms → (c.group.thread i).out = [])
    (hroom : (s.peers c.team).length ≤ s.room c.team.core) : ∃ t T g, exec .exit s = .next t ∧ t.team? c.team.id = some T ∧
      T.group? c.group.idx = some g ∧ t.mem = s.mem ∧
      (∀ i, i ∈ c.ms → (g.thread i).status = .exited ∧ (g.thread i).spec = [] ∧ (g.thread i).v = (c.group.thread i).v) ∧
      ((∀ i, (c.group.thread i).live = true → i ∈ c.ms) → c.group.children = 0 → g.retired = true) ∧
      (t.core c.team.core).buffer.length = (s.core c.team.core).buffer.length + (s.peers c.team).length := by
  let report := fun m => Effect.exitReport (c.team.ref m) c.team.member (c.ms.map fun i => 32 * c.group.idx + i)
  obtain ⟨U, hU, hG⟩ := State.putGroup_alters hp (g := c.exited.exchangeProgress) (by
    unfold Ctx.exited Group.exchangeProgress Group.retireIfDone; dsimp only; split <;> simp)
  have hput : OnlyTeamAndCores s (s.putGroup c c.exited.exchangeProgress) c.team.id U := ⟨hU.rest, hU.self, hU.others⟩
  have hsent := hput.foldl_produce c.team.core c.team.id report (s.peers c.team)
  obtain ⟨hbuffer, -⟩ := State.core_foldl_produce c.team.core c.team.id report (s.peers c.team) (s.putGroup c c.exited.exchangeProgress)
  have hid : U.id = c.team.id := State.team?_id hsent.self
  obtain ⟨may, f, hprogress⟩ := State.barrierProgress_spec hsent.self
  have hteam := State.team?_setTeam_self hsent.self (u := U.releaseWhere may f) hid
  have hgroup := (Team.releaseWhere_group? U may f _).trans (congrArg (Option.map _) hG.self)
  have hended : ∀ i, i ∈ c.ms → (c.exited.exchangeProgress.releasing may f).thread i = (c.group.thread i).tick.end := fun i hi => by
    have hsame : c.exited.exchangeProgress.thread i = (c.group.thread i).tick.end :=
      (Group.exchangeProgress_thread (by rw [Ctx.exited_thread_mem hp hi]; rfl)).trans (Ctx.exited_thread_mem hp hi)
    rw [Group.releasing_thread (by rw [hsame]; rfl), hsame]
  refine ⟨_, _, _, ?_, hteam, hgroup, hsent.mem, fun i hi => ?_, fun hlive hch => Ctx.exited_retired hp hlive hch, hbuffer⟩
  · rw [← hprogress]
    show execExit s = _
    unfold execExit
    rw [hp]
    have hall : c.ms.all (fun i => (c.group.thread i).out.isEmpty) = true := List.all_eq_true.mpr fun i hi => by rw [hout i hi]; rfl
    simp only [hall, hroom, decide_true, Bool.and_true, if_true]
    rfl
  · rw [hended i hi]; exact ⟨rfl, rfl, rfl⟩

/-- While a result is outstanding `exit` waits. -/
theorem exit_waits {s : State} {c : Ctx} (hp : s.path? = some c) (hout : ∃ i, i ∈ c.ms ∧ (c.group.thread i).out ≠ []) : exec .exit s = .next s := by
  obtain ⟨i, hi, ho⟩ := hout
  have hall : c.ms.all (fun i => (c.group.thread i).out.isEmpty) = false :=
    List.all_eq_false.mpr ⟨i, hi, by simpa using ho⟩
  show execExit s = _
  unfold execExit
  rw [hp]; simp only [hall, Bool.false_and, Bool.false_eq_true, if_false]

/-- `eret` outside handler mode is an illegal instruction (R136). -/
theorem eret_illegal {s : State} {c : Ctx} (hp : s.path? = some c) (hh : c.group.handler = false) :
    exec .eret s = .next (s.trapPath c { code := 0x01 }) := by
  show execEret s = _
  unfold execEret
  rw [hp]; simp only [hh, Bool.not_false, if_true]

/-- Settles O15: `eret` in and outside handler mode, and `exit` with and without results outstanding. -/
theorem eretAndExit : Obligations.EretAndExit := by
  refine ⟨fun s c hp => ⟨eret_illegal hp, fun hh hr => ?_⟩, fun s c hp => ⟨exit_ends hp, exit_waits hp⟩⟩
  obtain ⟨t, T, hrun, hT, U, hG, hTU⟩ := eret_leaves hp hh hr
  obtain ⟨-, hhandler, hteam, hmask, hthread⟩ := Group.leave_spec { c.group with n := c.group.n + 1 } c.lead
  have hgroup : ∃ b, T.group? c.group.idx = some { Group.leave { c.group with n := c.group.n + 1 } c.lead with stopped := b } := by
    by_cases hb : c.group.teamHandler = true
    · rw [hTU, if_pos hb, Team.returned_group?]
      exact ⟨false, congrArg (Option.map _) hG.self⟩
    · rw [hTU, if_neg hb]
      exact ⟨_, hG.self⟩
  obtain ⟨b, hgroup⟩ := hgroup
  refine ⟨t, T, _, hrun, hT.rest, hT.others, hT.self, hgroup, hhandler, hteam, hmask, fun j u hu hlive => ?_, fun hb => ?_⟩
  · subst hu
    obtain ⟨hrunning, hcause, hv, hp', hfaulted, hother⟩ := Thread.fromHandler_spec hlive (c.group.fmask.getLsbD j)
    have hsame : ({ Group.leave { c.group with n := c.group.n + 1 } c.lead with stopped := b } : Group).thread j =
        Thread.fromHandler (c.group.fmask.getLsbD j) (c.group.thread j) := hthread j
    rw [hsame]
    exact ⟨hrunning, hcause, hv, hp', hfaulted, hother⟩
  · rw [hTU, if_pos hb]
    refine ⟨rfl, fun h hh => ?_, fun k hk => ?_⟩
    · obtain ⟨h', -, rfl⟩ := List.mem_map.mp hh
      rfl
    · have hcooper : U.cooper = some k := (hG.field (·.cooper)).trans hk
      have htpc : U.tpc = c.team.tpc := hG.field (·.tpc)
      show U.cooper.map (fun k => { k with trapped := false, cpc := U.tpc }) = _
      rw [hcooper, htpc]; rfl

end Sys2Proof.Machine
end

section
/-! What an access of a path comes to where it may be made but not performed yet, and where not all of its threads make it; and what keeping
its translations leaves alone. -/
namespace Sys2Proof.Machine
open Sys2Proof

/-! ### Translations kept -/

/-- A translation kept changes the TLB and the last-page registers of its core alone (R325, R326). -/
theorem State.keep_core (s : State) (core : Nat) (lane : Option Nat) (e : TlbEntry) (j : Nat) :
    ∃ tlb lp, (s.keep core lane e).core j = { s.core j with tlb := tlb, lastPage := lp } := by
  have hread := State.core_mapCore s core j fun k =>
    { k with tlb := if k.tlb.contains e then k.tlb else (e :: k.tlb).take Config.tlbEntries
             lastPage := match lane with
              | some l => SMap.put k.lastPage l e
              | none => k.lastPage }
  by_cases hj : j = core
  · subst hj; exact ⟨_, _, hread.trans (if_pos rfl)⟩
  · exact ⟨_, _, hread.trans (if_neg hj)⟩

@[simp] theorem State.keep_room (s : State) (core : Nat) (lane : Option Nat) (e : TlbEntry) (j : Nat) : (s.keep core lane e).room j = s.room j := by
  obtain ⟨tlb, lp, h⟩ := s.keep_core core lane e j
  unfold State.room
  rw [h]

@[simp] theorem State.kept_room (s : State) (c : Ctx) (at' : Leads) (j : Nat) : (s.kept c at').room j = s.room j :=
  List.foldlRecOn (motive := fun u : State => u.room j = s.room j) c.ms _ rfl fun u h _ _ => (u.keep_room _ _ _ j).trans h

/-! ### Accesses of a path -/

/-- What the checks say of an access that may be made. -/
theorem AccessReady.attempts_eq {s : State} {c : Ctx} {r : Regs} {a n : Nat} {store out : Bool} {o : MemOrder} {sc : Scope} {at' : Leads}
    (h : AccessReady s c r a n store out o sc at') : s.attempts c c.ms a n store =
      c.ms.map fun i => Attempt.mk i (vaddr ((c.view i).pair a)) (.ok (at' i).1 (at' i).2.1 (at' i).2.2) := by
  unfold State.attempts
  exact List.map_congr_left fun i hi => by rw [h.checked i hi]

/-- An access that may be made but not performed waits, and asks for its lines. -/
theorem laneAccess_asks {s : State} {c : Ctx} {r : Regs} {a n : Nat} {store out : Bool} {o : MemOrder} {sc : Scope} {at' : Leads}
    (h : AccessReady s c r a n store out o sc at') {f : State → Ctx → List Spot → Option (State × (Nat → Thread → Thread))}
    (hf : f (s.kept c at') c (spotsAt c a at') = none) :
    laneAccess r a n store out o sc (fun _ => true) f s = .next (s.askSpots (spotsAt c a at')) := by
  have hfilter : c.ms.filter (fun _ => true) = c.ms := List.filter_eq_self.mpr fun _ _ => rfl
  have hwait : s.someWait c n (s.attempts c c.ms a n store) = false := by
    rw [h.attempts_eq, State.someWait, List.any_map]
    exact List.any_eq_false.mpr fun i hi => by simp [h.still i hi]
  have hviolation : firstViolation (s.attempts c c.ms a n store) = none := by rw [h.attempts_eq]; simp [firstViolation]
  have hspots : spotsOf (s.attempts c c.ms a n store) = spotsAt c a at' := by
    rw [h.attempts_eq]; simp [spotsOf, spotsAt, Attempt.ok?, List.filterMap_map]
  have hkeep : s.keepAll c (s.attempts c c.ms a n store) = s.kept c at' := by
    rw [h.attempts_eq]; simp [State.keepAll, State.kept, Attempt.ok?, List.foldl_map]
  have hroom : (out && !c.roomForOut) = false := by
    cases out
    · rfl
    · simp [h.room rfl]
  unfold laneAccess
  rw [h.lane.path]; dsimp only
  simp only [h.lane.named, h.lane.sound, h.lane.free, hroom, h.free, h.order, hfilter, hwait, hviolation, hspots, hkeep, hf, Bool.not_true,
    Bool.false_eq_true, if_false]

/-- Where every thread of the path makes its access, the condition on who does is idle. -/
theorem laneAccess_all {s : State} {c : Ctx} (hp : s.path? = some c) {who : View → Bool} (hw : ∀ i, i ∈ c.ms → who (c.view i) = true)
    (r : Regs) (a n : Nat) (store out : Bool) (o : MemOrder) (sc : Scope) (f : State → Ctx → List Spot → Option (State × (Nat → Thread → Thread))) :
    laneAccess r a n store out o sc who f s = laneAccess r a n store out o sc (fun _ => true) f s := by
  have hdo : c.ms.filter (fun i => who (c.view i)) = c.ms.filter fun _ => true := List.filter_congr fun i hi => hw i hi
  have hskip : c.ms.filter (fun i => !who (c.view i)) = c.ms.filter fun _ => !true := List.filter_congr fun i hi => by rw [hw i hi]
  unfold laneAccess
  rw [hp]; simp only [hdo, hskip]

/-- Where none does, the path only goes on as its own part says. -/
theorem laneAccess_none {s : State} {c : Ctx} {r : Regs} (h : LaneReady s c r) {out : Bool} (hroom : out = true → c.roomForOut = true)
    (hfree : s.throttleHolds c = false) {o : MemOrder} {sc : Scope} {store : Bool} (horder : s.orderMay c o sc store = true) {who : View → Bool}
    (hw : ∀ i, i ∈ c.ms → who (c.view i) = false) {a n : Nat} {f : State → Ctx → List Spot → Option (State × (Nat → Thread → Thread))}
    {s' : State} {upd : Nat → Thread → Thread} (hf : f s c [] = some (s', upd)) :
    laneAccess r a n store out o sc who f s = .next (s'.afterIssue c upd) := by
  have hdo : c.ms.filter (fun i => who (c.view i)) = [] := List.filter_eq_nil_iff.mpr fun i hi => by simp [hw i hi]
  have hskip : c.ms.filter (fun i => !who (c.view i)) = c.ms := List.filter_eq_self.mpr fun i hi => by simp [hw i hi]
  have hout : (out && !c.roomForOut) = false := by
    cases out
    · rfl
    · simp [hroom rfl]
  have hattempts : s.attempts c [] a n store = [] := rfl
  have hspots : spotsOf [] = [] := rfl
  have hwait : s.someWait c n [] = false := rfl
  have hviolation : firstViolation [] = none := rfl
  have hkeep : s.keepAll c [] = s := rfl
  unfold laneAccess
  rw [h.path]; dsimp only
  simp only [h.named, h.sound, h.free, hout, hfree, horder, hdo, hskip, hattempts, hwait, hviolation, hspots, hkeep, hf, Bool.not_true,
    Bool.false_eq_true, if_false, List.map_nil, List.append_nil]
  rfl

/-- The address of an access that passed its checks. -/
theorem vaAt_spotsOf (s : State) (c : Ctx) (ms : List Nat) (a n : Nat) (store : Bool) {i : Nat}
    (h : ((spotsOf (s.attempts c ms a n store)).any fun x => x.pos == i) = true) :
    vaAt (spotsOf (s.attempts c ms a n store)) i = vaddr ((c.view i).pair a) := by
  obtain ⟨x, hx⟩ := Option.isSome_iff_exists.mp (List.find?_isSome.mpr (List.any_eq_true.mp h))
  have hpos : x.pos = i := by simpa using List.find?_some hx
  have hmem := List.mem_of_find?_eq_some hx
  unfold spotsOf State.attempts at hmem
  obtain ⟨y, hy, hyx⟩ := List.mem_filterMap.mp hmem
  obtain ⟨j, -, rfl⟩ := List.mem_map.mp hy
  obtain ⟨k, -, rfl⟩ := Option.map_eq_some_iff.mp hyx
  unfold vaAt
  rw [hx, ← hpos]; rfl

end Sys2Proof.Machine
end

section
/-! O25: loads leave their result outstanding, and stores enter the L1 and the settling buffer (R25, R118, R119, R346). -/
namespace Sys2Proof.Machine
open Sys2Proof

/-- A lane-set load that may be made. -/
theorem laneLoad_asks {n span : Nat} {signed : Bool} {t a : BitVec 7} {l : BitVec 4} {sc : Scope} {o : MemOrder} {s s' : State} {c : Ctx} {at' : Leads}
    {ks : List (Nat × OutKind)} (h : AccessReady s c { reads := [(a.toNat, 2)], writes := [(t.toNat, span)] } a.toNat n false true o sc at')
    (hk : (s.kept c at').startLoads c n signed (spotsAt c a.toNat at') = some (s', ks)) :
    ks.map (·.1) = c.ms ∧ laneLoad n span signed t a l sc o s = .next (s'.afterIssue c fun i u =>
      (u.dropSpec (MemOrder.acquires o) (vaddr ((c.view i).pair a.toNat)).toNat n).ask
        { dst := operandIdx c.group.handler (t.toNat, span), look := l.toNat, acquire := MemOrder.acquires o, ext := true, kind := kindAt ks i }) := by
  refine ⟨(State.startLoads_pos _ hk).trans (by simp [spotsAt, Function.comp_def]), ?_⟩
  refine (laneAccess_ready h (s' := s') (upd := fun i u => u.loading (operandIdx c.group.handler (t.toNat, span)) l.toNat (MemOrder.acquires o)
    (vaAt (spotsAt c a.toNat at') i) n (kindAt ks i)) (by rw [hk]; rfl)).trans ?_
  exact congrArg _ (State.afterIssue_congr fun i hi u => by rw [vaAt_spotsAt hi]; rfl)

/-- A lane-set store that may be made, with room in the settling buffer. -/
theorem laneStore_settles {n span : Nat} {t a : BitVec 7} {sc : Scope} {o : MemOrder} {s s' : State} {c : Ctx} {at' : Leads}
    (h : AccessReady s c { reads := [(a.toNat, 2), (t.toNat, span)] } a.toNat n true false o sc at')
    (hroom : linesOf (storeWrites n (fun i => (c.view i).words t.toNat span) (spotsAt c a.toNat at')) ≤ s.room c.team.core)
    (hs : (s.kept c at').storeLines c.team.core c.team.id c.group.slotKey
      (storeWrites n (fun i => (c.view i).words t.toNat span) (spotsAt c a.toNat at')) = some s') :
    laneStore n span t a sc o s = .next (s'.afterIssue c fun i u =>
      (u.dropSpec (o == .sc) (vaddr ((c.view i).pair a.toNat)).toNat n).tick.next) := by
  refine (laneAccess_ready h (s' := s') (upd := fun i u => (u.dropSpec (o == .sc) (vaAt (spotsAt c a.toNat at') i).toNat n).tick.next) ?_).trans ?_
  · rw [State.kept_room, if_neg (Nat.not_lt.mpr hroom), hs]; rfl
  · exact congrArg _ (State.afterIssue_congr fun i hi u => by rw [vaAt_spotsAt hi])

/-- Without room it waits (R349). -/
theorem laneStore_waits {n span : Nat} {t a : BitVec 7} {sc : Scope} {o : MemOrder} {s : State} {c : Ctx} {at' : Leads}
    (h : AccessReady s c { reads := [(a.toNat, 2), (t.toNat, span)] } a.toNat n true false o sc at')
    (hroom : s.room c.team.core < linesOf (storeWrites n (fun i => (c.view i).words t.toNat span) (spotsAt c a.toNat at'))) :
    laneStore n span t a sc o s = .next (s.askSpots (spotsAt c a.toNat at')) :=
  laneAccess_asks h (by rw [State.kept_room, if_pos hroom])

/-- Settles O25: the loads and the stores of the lane set, each of one shape. -/
theorem loadsAskAndStoresSettle : Obligations.LoadsAskAndStoresSettle := by
  refine ⟨fun mk n span signed hmk t a l sc o s s' c at' ks h hk => ?_, fun mk n span hmk t a sc o s s' c at' h => ?_⟩
  · have he : exec (mk t a l sc o) s = laneLoad n span signed t a l sc o s := by
      simp only [List.mem_cons, List.not_mem_nil, or_false, Prod.mk.injEq] at hmk
      rcases hmk with ⟨rfl, rfl, rfl, rfl⟩ | ⟨rfl, rfl, rfl, rfl⟩ | ⟨rfl, rfl, rfl, rfl⟩ | ⟨rfl, rfl, rfl, rfl⟩ | ⟨rfl, rfl, rfl, rfl⟩ |
        ⟨rfl, rfl, rfl, rfl⟩ | ⟨rfl, rfl, rfl, rfl⟩ <;> rfl
    rw [he]
    exact laneLoad_asks h hk
  · have he : exec (mk t a sc o) s = laneStore n span t a sc o s := by
      simp only [List.mem_cons, List.not_mem_nil, or_false, Prod.mk.injEq] at hmk
      rcases hmk with ⟨rfl, rfl, rfl⟩ | ⟨rfl, rfl, rfl⟩ | ⟨rfl, rfl, rfl⟩ | ⟨rfl, rfl, rfl⟩ | ⟨rfl, rfl, rfl⟩ <;> rfl
    rw [he]
    exact ⟨laneStore_settles h, laneStore_waits h⟩

end Sys2Proof.Machine
end

section
/-! O27: uniform loads and stores make one access for their path (R122). -/
namespace Sys2Proof.Machine
open Sys2Proof

/-- Settles O27: what the one access of a uniform load or store comes to. -/
theorem uniformAccessesActOnce : Obligations.UniformAccessesActOnce := by
  refine ⟨fun mk n span hmk t a l sc o s s' c pa attr e k h hk => ?_, fun mk n span hmk t a sc o s s' c pa attr e h => ?_⟩
  · have he : exec (mk t a l sc o) s = uniLoad n span t a l sc o s := by
      simp only [List.mem_cons, List.not_mem_nil, or_false, Prod.mk.injEq] at hmk
      rcases hmk with ⟨rfl, rfl, rfl⟩ | ⟨rfl, rfl, rfl⟩ <;> rfl
    rw [he]
    exact uniAccess_ready h (by rw [hk]; rfl)
  · have he : exec (mk t a sc o) s = uniStore n span t a sc o s := by
      simp only [List.mem_cons, List.not_mem_nil, or_false, Prod.mk.injEq] at hmk
      rcases hmk with ⟨rfl, rfl, rfl⟩ | ⟨rfl, rfl, rfl⟩ <;> rfl
    intro bs hroom hs
    rw [he]
    exact uniAccess_ready h (by rw [State.keep_room, if_neg (Nat.not_lt.mpr hroom), hs]; rfl)

end Sys2Proof.Machine
end

section
/-! O31: speculative loads and their checks (R124, R126). -/
namespace Sys2Proof.Machine
open Sys2Proof

/-- The address table holds 16 entries, and a seventeenth evicts the oldest (R124). -/
theorem Thread.addSpec_spec (t : Thread) (e : SpecEntry) : (t.addSpec e).spec.length ≤ max 16 t.spec.length ∧ e ∈ (t.addSpec e).spec ∧
    (t.spec.length < 16 → (t.addSpec e).spec = t.spec ++ [e]) ∧ (t.spec.length = 16 → (t.addSpec e).spec = t.spec.drop 1 ++ [e]) := by
  unfold Thread.addSpec
  dsimp only
  refine ⟨?_, ?_, fun h => ?_, fun h => ?_⟩
  · rw [List.length_drop, List.length_append, List.length_singleton]; omega
  · rw [List.drop_append_of_le_length (by omega)]; simp
  · rw [show t.spec.length + 1 - 16 = 0 by omega, List.drop_zero]
  · rw [show t.spec.length + 1 - 16 = 1 by omega, List.drop_append_of_le_length (by omega)]

/-- `ld.spec` of a path that may make its accesses. -/
theorem laneSpec_asks {n span : Nat} {t a : BitVec 7} {l : BitVec 4} {sc : Scope} {s s' : State} {c : Ctx} {ks : List (Nat × OutKind)}
    (h : LaneReady s c { reads := [(a.toNat, 2)], writes := [(t.toNat, span)] }) (hroom : c.roomForOut = true) (hfree : s.throttleHolds c = false)
    (horder : s.orderMay c .rlx sc false = true) (hwait : s.someWait c n (s.attempts c c.ms a.toNat n false) = false)
    (hk : (s.keepAll c (s.attempts c c.ms a.toNat n false)).startLoads c n false (spotsOf (s.attempts c c.ms a.toNat n false)) = some (s', ks)) :
    laneSpec n span t a l sc s = .next (s'.afterIssue c fun i u =>
      if ((spotsOf (s.attempts c c.ms a.toNat n false)).any fun x => x.pos == i) = true then
        ((u.dropSpec false (vaddr ((c.view i).pair a.toNat)).toNat n).ask
          { dst := operandIdx c.group.handler (t.toNat, span), look := l.toNat, ext := true, kind := kindAt ks i }).addSpec
            { addr := vaddr ((c.view i).pair a.toNat), bytes := n, reg := vIndex c.group.handler t.toNat }
      else u.ask { dst := operandIdx c.group.handler (t.toNat, span), look := l.toNat, kind := .ready (List.replicate span 0) }) := by
  unfold laneSpec
  rw [h.path]
  simp only [h.named, h.sound, h.free, hroom, hfree, horder, hwait, hk, Bool.not_true, Bool.false_eq_true, if_false]
  refine congrArg _ (State.afterIssue_congr fun i _ u => ?_)
  split
  · next hx => rw [vaAt_spotsOf s c c.ms a.toNat n false hx]; rfl
  · rfl

section Check
variable {n span : Nat} {t a : BitVec 7} {l : BitVec 4} {sc : Scope} {s s' : State} {c : Ctx}
  (h : LaneReady s c { reads := [(a.toNat, 2)], writes := [(t.toNat, span)] })
include h

/-- `chk` of a path all of whose threads are served by an entry frees the entries (R126). -/
theorem laneChk_hits (hroom : c.roomForOut = true) (hfree : s.throttleHolds c = false) (horder : s.orderMay c .rlx sc false = true)
    (hhit : ∀ i, i ∈ c.ms → (c.group.thread i).spec.any ((c.view i).specHit t.toNat a.toNat n) = true) :
    laneChk n span t a l sc s = .next (s.afterIssue c fun i u =>
      Thread.next (Thread.tick { u with spec := u.spec.filter fun e => !(c.view i).specHit t.toNat a.toNat n e })) :=
  laneAccess_none h (fun _ => hroom) hfree horder (fun i hi => by rw [show (c.view i).t = c.group.thread i from rfl, hhit i hi]; rfl) rfl

/-- `chk` of a path none of whose threads is, is a relaxed load (R126). -/
theorem laneChk_misses {at' : Leads} {ks : List (Nat × OutKind)}
    (hmiss : ∀ i, i ∈ c.ms → (c.group.thread i).spec.any ((c.view i).specHit t.toNat a.toNat n) = false)
    (hready : AccessReady s c { reads := [(a.toNat, 2)], writes := [(t.toNat, span)] } a.toNat n false true .rlx sc at')
    (hk : (s.kept c at').startLoads c n false (spotsAt c a.toNat at') = some (s', ks)) :
    laneChk n span t a l sc s = .next (s'.afterIssue c fun i u =>
      (u.dropSpec false (vaddr ((c.view i).pair a.toNat)).toNat n).ask
        { dst := operandIdx c.group.handler (t.toNat, span), look := l.toNat, ext := true, kind := kindAt ks i }) := by
  unfold laneChk
  rw [laneAccess_all h.path fun i hi => by rw [show (c.view i).t = c.group.thread i from rfl, hmiss i hi]; rfl]
  refine (laneAccess_ready hready (by rw [hk]; rfl)).trans (congrArg _ (State.afterIssue_congr fun i hi u => ?_))
  have hany : ((spotsAt c a.toNat at').any fun x => x.pos == i) = true := by
    unfold spotsAt
    rw [List.any_map]
    exact List.any_eq_true.mpr ⟨i, hi, by simp⟩
  simp only [hany, if_true]
  rw [vaAt_spotsAt hi]; rfl

end Check

/-- Settles O31: `ld.spec`, the address table, and `chk` of a path that hits and of one that misses. -/
theorem speculativeLoadsAndChecks : Obligations.SpeculativeLoadsAndChecks := by
  refine ⟨fun mk n span hmk t a l sc s s' c ks h hroom hfree horder => ?_, Thread.addSpec_spec, fun mk n span hmk t a l sc s s' c h hroom hfree horder => ?_⟩
  · have he : exec (mk t a l sc) s = laneSpec n span t a l sc s := by
      simp only [List.mem_cons, List.not_mem_nil, or_false, Prod.mk.injEq] at hmk
      rcases hmk with ⟨rfl, rfl, rfl⟩ | ⟨rfl, rfl, rfl⟩ <;> rfl
    rw [he]
    exact fun hwait hk => laneSpec_asks h hroom hfree horder hwait hk
  · have he : exec (mk t a l sc) s = laneChk n span t a l sc s := by
      simp only [List.mem_cons, List.not_mem_nil, or_false, Prod.mk.injEq] at hmk
      rcases hmk with ⟨rfl, rfl, rfl⟩ | ⟨rfl, rfl, rfl⟩ <;> rfl
    rw [he]
    exact ⟨fun hhit => laneChk_hits h hroom hfree horder hhit, fun at' ks hmiss hready hk => laneChk_misses h hmiss hready hk⟩

end Sys2Proof.Machine
end

section
/-! O28: the checks of an access, in their order (R119, R215). -/
namespace Sys2Proof.Machine
open Sys2Proof

/-- An aligned access of a leased address is judged by its page and the held ranges. -/
theorem State.checkAccess_leased {s : State} {t : Team} (lane : Option Nat) {ea : DWord} {n : Nat} {store : Bool} (halign : (vaddr ea).toNat % n = 0)
    (hcanon : canonical ea = true) (hlease : leaseCovers (s.leases t) (vaddr ea).toNat n (if store = true then .store else .load) = true) :
    s.checkAccess t lane ea n store = match s.translate t.core lane t.asid (vaddr ea) with
      | .wait => .wait
      | .invalid => .violation 2 (vaddr ea)
      | .poisoned => .violation tablePoison (vaddr ea)
      | .found e =>
        if !permits e.perm (if store = true then .store else .load) then .violation 3 (vaddr ea)
        else if store && e.attr == 1 then .trap { code := 0x05, tval := vaddr ea }
        else if s.rangeLocked t.core false t.asid (vaddr ea).toNat n store then .trap { code := 0x07, tval := vaddr ea }
        else .ok (e.phys (vaddr ea).toNat) e.attr e := by
  unfold State.checkAccess
  simp only [halign, hcanon, hlease, ne_eq, not_true_eq_false, Bool.not_true, Bool.false_eq_true, if_false] <;> rfl

/-- Settles O28, a check at a time. -/
theorem accessChecksInOrder : Obligations.AccessChecksInOrder := by
  intro s t lane ea n store need va
  refine ⟨fun h => ?_, fun h hc => ?_, fun h hc hl => ?_, fun h hc hl => ⟨fun hw => ?_, fun e hw => ?_⟩⟩
  · exact if_pos h
  · unfold State.checkAccess
    simp only [hc, Bool.not_false, if_true]
    exact if_neg (not_not_intro h)
  · unfold State.checkAccess
    simp only [hc, Bool.not_true, Bool.false_eq_true, if_false]
    exact (if_neg (not_not_intro h)).trans (if_pos (by rw [hl]; rfl))
  · rw [State.checkAccess_leased lane h hc hl, hw]
  · rw [State.checkAccess_leased lane h hc hl, hw]
    have hattr : ∀ {b : Bool}, b = false ∨ e.attr ≠ 1 → (b && e.attr == 1) = false := fun hb => by rcases hb with rfl | hb <;> simp [*]
    refine ⟨fun hp => ?_, fun hp hs ha => ?_, fun hp ha hr => ?_, fun hp ha hr => ?_⟩ <;> dsimp only
    · exact if_pos (by rw [hp]; rfl)
    · exact (if_neg (by rw [hp]; decide)).trans (if_pos (by rw [hs, ha]; rfl))
    · exact (if_neg (by rw [hp]; decide)).trans ((if_neg (by rw [hattr ha]; decide)).trans (if_pos hr))
    · exact (if_neg (by rw [hp]; decide)).trans ((if_neg (by rw [hattr ha]; decide)).trans ((if_neg (by rw [hr]; decide)).trans rfl))

end Sys2Proof.Machine
end

section
/-! O37: fences (R125, R218, R247). -/
namespace Sys2Proof.Machine
open Sys2Proof

section Fence
variable {s : State} {c : Ctx} (hp : s.path? = some c) (hr : c.ready {} = true) (acq rel : Bool) (sc : Scope)
include hp hr

/-- A fence of a ready path begins its release, waits for the reads before it, or goes on. -/
theorem fencePath_ready : fencePath acq rel sc s =
    if rel = true ∧ s.mayRelease c sc = false then .next (s.beginRelease c sc)
    else if acq = true ∧ c.readsBound = false then .next s
    else .next (s.putGroup c ((c.group.mapAt c.ms fun _ t => Thread.next (Thread.tick { t with spec := if acq then [] else t.spec })).issued c.lead)) := by
  unfold fencePath
  rw [hp]
  simp only [hr, Bool.not_true, Bool.false_eq_true, if_false, Bool.and_eq_true, Bool.not_eq_true']
  rfl

/-- A fence goes on, and takes the speculation entries where it acquires (R125, R218). -/
theorem fencePath_goes_on (hrel : rel = true → s.mayRelease c sc = true) (hacq : acq = true → c.readsBound = true) :
    ∃ t g, fencePath acq rel sc s = .next t ∧ Alters s t c g ∧ GroupDone c g fun j u => u = { c.group.thread j with
      pc := (c.group.thread j).pc + 4, rel := none, stall := [], kstall := [], out := (c.group.thread j).out.map OutRes.tick,
      spec := if acq = true then [] else (c.group.thread j).spec } := by
  refine ⟨_, _, (fencePath_ready hp hr acq rel sc).trans ?_, State.putGroup_alters hp (by simp),
    State.groupDone hp (fun _ t => Thread.next (Thread.tick { t with spec := if acq then [] else t.spec })) c.lead _ fun _ _ => rfl⟩
  rw [if_neg fun h => by simp [hrel h.1] at h, if_neg fun h => by simp [hacq h.1] at h]

end Fence

/-- The reads before a fence are performed (R218). -/
theorem Ctx.readsBound_iff (c : Ctx) : c.readsBound = true ↔
    ((∀ j, j ∈ c.ms → (c.group.thread j).readsDone = true) ∧ ∀ o, o ∈ c.group.kout → o.unbound = false) := by
  simp [Ctx.readsBound]

/-- Settles O37: both instructions are a fence of the path, with the sides their operands give. -/
theorem fencesWaitThenGoOn : Obligations.FencesWaitThenGoOn := by
  intro i acq rel sc hi s c hp hr
  have he : exec i s = fencePath acq rel sc s := by
    rcases hi with ⟨o, rfl, rfl, rfl⟩ | ⟨x, rfl, rfl, rfl, rfl⟩
    · cases o <;> rfl
    · rfl
  rw [he]
  simp only [← Ctx.readsBound_iff]
  refine ⟨fun h1 h2 => ?_, fun h1 h2 h3 => ?_, fun h1 h2 => fencePath_goes_on hp hr acq rel sc h1 h2⟩
  · rw [fencePath_ready hp hr, if_pos ⟨h1, h2⟩]
  · rw [fencePath_ready hp hr, if_neg fun h => by simp [h1 h.1] at h, if_pos ⟨h2, by simpa using h3⟩]

end Sys2Proof.Machine
end

section
/-! O30: scratchpad accesses (R123, R348). -/
namespace Sys2Proof.Machine
open Sys2Proof

/-! ### Bytes of a scratchpad -/

/-- A scratchpad holds the last byte written to each address. -/
theorem Memory.get_foldl_set (bs : List (Nat × Byte)) : ∀ {m : Memory}, m.wf = true → ∀ x,
    Memory.get (bs.foldl (fun m b => Memory.set m b.1 b.2) m) x = (lastWrite bs x).getD (Memory.get m x) := by
  induction bs with
  | nil => intro m _ x; rfl
  | cons b bs ih =>
    intro m h x
    rw [List.foldl_cons, ih (Memory.set_wf h b.1 b.2) x, Memory.get_set h]
    unfold lastWrite
    rw [List.reverse_cons, List.find?_append]
    cases bs.reverse.find? fun b => b.1 == x with
    | some y => rfl
    | none =>
      by_cases e : x = b.1
      · simp [e]
      · simp [e, Ne.symm e]

/-! ### The shape of a scratch access -/

/-- Where the path's threads access scratchpads: member, whether it is their own, and offset. -/
def scratchSpots (c : Ctx) (rcv : Nat → Option Nat) (own : Nat → Bool) (off : Nat → Nat) : List ScratchSpot :=
  c.ms.map fun i => { pos := i, rcv := rcv i, own := own i, off := off i }

/-- The access of a thread whose checks pass, and the trap of one whose do not. -/
def ScratchAt.spot? (i : Nat) (x : ScratchAt) : Option ScratchSpot :=
  match x with
  | .at m own off => some { pos := i, rcv := m, own := own, off := off }
  | .trap _ => none
def ScratchAt.trap? (i : Nat) (epc : VAddr) (x : ScratchAt) : Option ThreadTrap :=
  match x with
  | .trap info => some { pos := i, info := info, epc := epc }
  | .at _ _ _ => none

/-- A scratch access all of whose checks pass does what its own part says, for every thread of the path. -/
theorem scratchAccess_ready {s : State} {c : Ctx} {r : Regs} (h : LaneReady s c r) {store : Bool} (hroom : store = false → c.roomForOut = true)
    {o : MemOrder} (horder : s.orderMay c o .clu store = true) {a n : Nat} {rcv : Nat → Option Nat} {own : Nat → Bool} {off : Nat → Nat}
    (hat : ∀ i, i ∈ c.ms → s.checkScratch c.team ((c.view i).v a) n store = .at (rcv i) (own i) (off i))
    {f : State → Ctx → List ScratchSpot → Option (State × (Nat → Thread → Thread))} {s' : State} {upd : Nat → Thread → Thread}
    (hf : f s c (scratchSpots c rcv own off) = some (s', upd)) : scratchAccess r a n store o f s = .next (s'.afterIssue c upd) := by
  let check := fun i => s.checkScratch c.team ((c.view i).v a) n store
  have hspots : (c.ms.filterMap fun i => (check i).spot? i) = scratchSpots c rcv own off := by
    rw [scratchSpots, ← List.filterMap_eq_map]
    exact List.filterMap_congr fun i hi => by rw [show check i = _ from hat i hi]; rfl
  have htraps : (c.ms.filterMap fun i => (check i).trap? i (c.group.thread i).pc) = [] :=
    List.filterMap_eq_nil_iff.mpr fun i hi => by rw [show check i = _ from hat i hi]; rfl
  have hout : (!store && !c.roomForOut) = false := by
    cases store
    · simp [hroom rfl]
    · rfl
  have hpos : (scratchSpots c rcv own off).map (·.pos) = c.ms := by simp [scratchSpots, Function.comp_def]
  have hrun : scratchAccess r a n store o f s = match f s c (c.ms.filterMap fun i => (check i).spot? i) with
      | none => .next s
      | some (s', upd) => .next ((s'.mapGroup c.team.id c.group.idx fun g =>
          (g.mapAt ((c.ms.filterMap fun i => (check i).spot? i).map (·.pos)) upd).issued c.lead).takeTraps c.team.id c.group.idx
            (c.ms.filterMap fun i => (check i).trap? i (c.group.thread i).pc)) := by
    unfold scratchAccess
    rw [h.path]
    simp only [h.named, h.sound, h.free, hout, horder, Bool.not_true, Bool.false_eq_true, if_false] <;> rfl
  rw [hrun, hspots, hf, htraps, hpos]; rfl

/-! ### `lds` -/

/-- `lds` of the path's own scratchpad, or of another member's where nothing of the bytes is on its way (R123, R203, R348). -/
theorem lds_asks {t a : BitVec 7} {l : BitVec 4} {w : LpWidth} {o : MemOrder} {s : State} {c : Ctx} {T : Nat → Team} {own : Nat → Bool} {off : Nat → Nat}
    (h : LaneReady s c { reads := [(a.toNat, 1)], writes := [(t.toNat, LpWidth.span w)] }) (hroom : c.roomForOut = true)
    (horder : s.orderMay c o .clu false = true)
    (hat : ∀ i, i ∈ c.ms → s.checkScratch c.team ((c.view i).v a.toNat) (LpWidth.bytes w) false = .at (some (T i).id) (own i) (off i) ∧
      s.team? (T i).id = some (T i) ∧ (T i).scratchBad (off i) (LpWidth.bytes w) = false ∧
      (own i = false → s.scratchUnsettled (T i).id (off i) (LpWidth.bytes w) = false ∧
        s.remotePending c.team.core (T i).id (off i) (LpWidth.bytes w) = false)) :
    exec (.lds t a l w o) s = .next (s.afterIssue c fun i u =>
      ({ u with spec := if MemOrder.acquires o = true then [] else u.spec } : Thread).ask
        { dst := operandIdx c.group.handler (t.toNat, LpWidth.span w), look := l.toNat, acquire := MemOrder.acquires o, ext := !(own i),
          kind := .ready (loadValue (off i) (LpWidth.bytes w) (LpWidth.signed w)
            ((accessWords (off i) (LpWidth.bytes w)).map fun j => (T i).scratch.word (4 * j))) }) := by
  have hpending : (scratchSpots c (fun i => some (T i).id) own off).any (fun x => !x.own &&
      (s.scratchUnsettled (x.rcv.getD 0) x.off (LpWidth.bytes w) || s.remotePending c.team.core (x.rcv.getD 0) x.off (LpWidth.bytes w))) = false := by
    rw [scratchSpots, List.any_map]
    refine List.any_eq_false.mpr fun i hi => ?_
    obtain ⟨-, -, -, hsettled⟩ := hat i hi
    cases ho : own i with
    | true => simp [ho]
    | false => simp [ho, hsettled ho]
  have hspot : ∀ i, i ∈ c.ms → (scratchSpots c (fun i => some (T i).id) own off).find? (fun x => x.pos == i) =
      some { pos := i, rcv := some (T i).id, own := own i, off := off i } := fun i hi => by
    rw [scratchSpots, List.find?_map]
    exact congrArg (Option.map _) (find?_self hi)
  show execLds t a l w o s = _
  unfold execLds
  refine (scratchAccess_ready (s' := ?after) (upd := ?upd) h (fun _ => hroom) horder (fun i hi => (hat i hi).1) ?made).trans ?_
  case made => exact if_neg (Bool.eq_false_iff.mp hpending)
  refine congrArg _ (State.afterIssue_congr fun i hi u => ?_)
  obtain ⟨-, hteam, hbad, -⟩ := hat i hi
  rw [hspot i hi]
  simp only [Option.getD_some, hteam, hbad, Bool.false_eq_true, if_false]
  rfl

/-! ### `sts` -/

/-- Equal keys are one. -/
theorem eraseDups_const {α : Type} [BEq α] [LawfulBEq α] {l : List α} {x : α} (hne : l ≠ []) (h : ∀ y, y ∈ l → y = x) : l.eraseDups = [x] := by
  obtain ⟨y, r, rfl⟩ := List.exists_cons_of_ne_nil hne
  rw [List.eraseDups_cons, List.filter_eq_nil_iff.mpr fun z hz => by simp [h z (List.mem_cons_of_mem _ hz), h y List.mem_cons_self], h y List.mem_cons_self]
  rfl

/-- The bytes a path stores to scratchpads, in ascending thread order. -/
def scratchBytes (c : Ctx) (t : BitVec 7) (w : LpWidth) (off : Nat → Nat) : List (Nat × Byte) :=
  c.ms.flatMap fun i => storeBytes (off i) (LpWidth.bytes w) ((c.view i).words t.toNat (LpWidth.span w))

/-- `sts` of a path to one line of one member (R123, R347). -/
theorem sts_stores {t a : BitVec 7} {w : LpWidth} {o : MemOrder} {s : State} {c : Ctx} {m line : Nat} {own : Bool} {off : Nat → Nat}
    (h : LaneReady s c { reads := [(a.toNat, 1), (t.toNat, LpWidth.span w)] }) (horder : s.orderMay c o .clu true = true)
    (hat : ∀ i, i ∈ c.ms → (if ((c.view i).v a.toNat).toNat / 2 ^ 28 = 15 then c.team.member else ((c.view i).v a.toNat).toNat / 2 ^ 28) = m ∧
      ∃ rcv, s.checkScratch c.team ((c.view i).v a.toNat) (LpWidth.bytes w) true = .at rcv own (off i))
    (hline : ∀ i, i ∈ c.ms → off i / 128 = line) (hroom : 0 < s.room c.team.core) :
    exec (.sts t a w o) s = .next ((if m = c.team.member then
        (s.mapTeam c.team.id fun x => x.setScratch (scratchBytes c t w off)).produce c.team.core c.team.id
          (.own c.team.id (touchedWords (scratchBytes c t w off)))
      else s.produce c.team.core c.team.id (.remoteScratch (c.team.ref m) (scratchBytes c t w off) c.ms.length)).afterIssue c
        fun _ u => Thread.next (Thread.tick { u with spec := if (o == MemOrder.sc) = true then [] else u.spec })) := by
  obtain ⟨-, -, -, -, hne⟩ := State.path?_spec h.path
  have hrcv : ∀ i, ∃ rcv, i ∈ c.ms → s.checkScratch c.team ((c.view i).v a.toNat) (LpWidth.bytes w) true = .at rcv own (off i) := fun i => by
    by_cases hi : i ∈ c.ms
    · obtain ⟨-, rcv, hr⟩ := hat i hi; exact ⟨rcv, fun _ => hr⟩
    · exact ⟨none, fun hi' => absurd hi' hi⟩
  choose rcv hrcv using hrcv
  show execSts t a w o s = _
  unfold execSts
  refine scratchAccess_ready (store := true) (rcv := rcv) (own := fun _ => own) (off := off) h (fun h => by cases h) horder hrcv ?_
  have hkeys : ∀ f : ScratchSpot → Nat × Nat, (∀ i, i ∈ c.ms → f { pos := i, rcv := rcv i, own := own, off := off i } = (m, line)) →
      ((scratchSpots c rcv (fun _ => own) off).map f).eraseDups = [(m, line)] := fun f hf => by
    rw [scratchSpots, List.map_map]
    refine eraseDups_const (by simpa using hne) fun y hy => ?_
    obtain ⟨i, hi, rfl⟩ := List.mem_map.mp hy
    exact hf i hi
  have hall : ∀ p : ScratchSpot → Bool, (∀ i, i ∈ c.ms → p { pos := i, rcv := rcv i, own := own, off := off i } = true) →
      (scratchSpots c rcv (fun _ => own) off).filter p = scratchSpots c rcv (fun _ => own) off := fun p h => by
    refine List.filter_eq_self.mpr fun y hy => ?_
    obtain ⟨i, hi, rfl⟩ := List.mem_map.mp hy
    exact h i hi
  have hbytes : (scratchSpots c rcv (fun _ => own) off).flatMap (fun x =>
      storeBytes x.off (LpWidth.bytes w) ((c.view x.pos).words t.toNat (LpWidth.span w))) = scratchBytes c t w off := by
    rw [scratchSpots, List.flatMap_map]; rfl
  have hcount : (scratchSpots c rcv (fun _ => own) off).length = c.ms.length := by rw [scratchSpots, List.length_map]
  dsimp only
  rw [hkeys _ fun i hi => congrArg₂ Prod.mk (hat i hi).1 (hline i hi), List.length_singleton, if_neg (Nat.not_lt.mpr hroom)]
  simp only [List.foldl_cons, List.foldl_nil]
  rw [hall _ fun i hi => by exact Bool.and_eq_true_iff.mpr ⟨beq_iff_eq.mpr (hat i hi).1, beq_iff_eq.mpr (hline i hi)⟩, hbytes, hcount]

/-- Settles O30: the two accesses of a path all of whose checks pass, and the bytes a scratchpad then holds. -/
theorem scratchpadAccesses : Obligations.ScratchpadAccesses := by
  refine ⟨fun t a l w o s c T own off => lds_asks, fun t a w o s c m line own off => ?_, fun T bs x h => Memory.get_foldl_set bs h x⟩
  intro n span h horder hat hline hroom bs upd
  have hrun := sts_stores h horder hat hline hroom
  refine ⟨fun hm => ?_, fun hm => ?_⟩
  · rw [hrun, if_pos hm]; rfl
  · rw [hrun, if_neg hm]; rfl

end Sys2Proof.Machine
end

section
/-! O34: pushes, pops and try-pops (R127 to R129, R168). -/
namespace Sys2Proof.Machine
open Sys2Proof

/-! ### Pushes -/

section Push
variable {span : Nat} {q : BitVec 4} {a : BitVec 7} {s : State} {c : Ctx} (h : LaneReady s c { reads := [(a.toNat, span)] })
include h

/-- The words the path's threads push, in ascending thread order. -/
def pushedWords (c : Ctx) (a : BitVec 7) (span : Nat) : List Word := c.ms.flatMap fun i => (List.range span).map fun k => (c.view i).v (a.toNat + k)

/-- A push through a register that is bound to nothing it may push to traps (R127). -/
theorem qpush_unbound (hb : pushEnd (s.binding c.team c.group q.toNat) = none) : qpush span q a s = .next (s.trapPath c { code := 0x08, detail := q.toNat }) := by
  unfold qpush
  rw [h.path]
  simp only [h.named, hb, Bool.not_true, Bool.false_eq_true, if_false]

/-- A push to an engine waits for room in the settling buffer, or leaves its words there (R128, R346). -/
theorem qpush_engine {e : Nat} (hb : pushEnd (s.binding c.team c.group q.toNat) = some (.engine e)) :
    qpush span q a s = (let ws := pushedWords c a span
      let n := BitVec.ofNat 32 ws.length
      let cs := chunks32 (ws.length / 32 + 1) ws
      if s.room c.team.core < cs.length then .next s
      else .next (((pushWait c (some e) q.toNat ((SMap.getD c.team.engs e {}).pushed + n)
        ((cs.foldl (fun s w => s.produce c.team.core c.team.id (.command c.team.id e w)) s).mapTeam c.team.id fun t => t.mapEng e fun p =>
          { p with pushed := p.pushed + n, used := true })).queueProgress c.team.id).issue c)) := by
  unfold qpush
  rw [h.path]
  simp only [h.named, hb, h.sound, h.free, Bool.not_true, Bool.false_eq_true, if_false]
  rfl

/-- A push to a link, once its release may be made: the words go to a member of the same core at once, and to another core
through the settling buffer where it has room (R128, R244, R346). -/
theorem qpush_link {m : Nat} {near : Bool} (hb : pushEnd (s.binding c.team c.group q.toNat) = some (.link m))
    (hnear : (decide (m = 15) || (c.team.ref (s.linkMember c.team m)).core == c.team.core) = near)
    (hrel : s.mayRelease c (if near then .core else .clu) = true) :
    qpush span q a s = (let ws := pushedWords c a span
      let n := BitVec.ofNat 32 ws.length
      let rcv := c.team.ref (s.linkMember c.team m)
      let first := (SMap.getD c.team.links q.toNat {}).pushed
      let cs := pushChunks first ws
      let s1 := pushWait c none q.toNat (first + n) ((s.mapTeam c.team.id fun t => t.mapLink q.toNat fun l => { l with pushed := l.pushed + n }).countLap
        c.team.id c.group.role q.toNat ws.length true)
      if !near && decide (s.room c.team.core < cs.length) then .next s
      else if near then .next ((s1.linkArrives rcv q.toNat c.team.id first ws).issue c)
      else .next ((cs.foldl (fun s k => s.produce c.team.core c.team.id (.link rcv q.toNat k.1 k.2)) s1).issue c)) := by
  unfold qpush
  rw [h.path]
  simp only [h.named, hb, h.sound, h.free, hnear, hrel, Bool.not_true, Bool.false_eq_true, if_false]
  rfl

end Push

/-! ### Pops -/

section Pop
variable {span : Nat} {d : BitVec 7} {q : BitVec 4} {pw : List Nat} {s : State} {c : Ctx} {f : Ctx → QueueEnd → Result}

/-- A pop through a register that is bound to nothing it may pop from traps (R127). -/
theorem popShape_unbound (hp : s.path? = some c) (hd : operandOk c.group.regs (d.toNat, span) = true)
    (hb : popEnd c.group.role (s.binding c.team c.group q.toNat) = none) :
    popShape span d q pw f s = .next (s.trapPath c { code := 0x08, detail := q.toNat }) := by
  unfold popShape
  rw [hp]
  simp [Regs.ok, hd, hb]

/-- A pop of a ready path with room for its result does what its own part says. -/
theorem popShape_ready (h : LaneReady s c { writes := [(d.toNat, span)], predWrites := pw }) {e : QueueEnd}
    (hb : popEnd c.group.role (s.binding c.team c.group q.toNat) = some e) (hroom : c.roomForOut = true) : popShape span d q pw f s = f c e := by
  unfold popShape
  rw [h.path]
  simp [h.named, hb, h.free, hroom]

end Pop

/-! ### What a pop gives its threads -/

/-- Giving entries to threads leaves every other thread. -/
theorem fillCarried_thread_not {span i : Nat} : ∀ {ms : List Nat} (ws : List Word) (g : Group), (∀ j, j ∈ ms → j < g.threads.length) → i ∉ ms →
    (fillCarried span ms ws g).thread i = g.thread i := by
  intro ms
  induction ms with
  | nil => intro ws g _ _; rfl
  | cons j r ih =>
    intro ws g hl hi
    obtain ⟨hij, hir⟩ := List.ne_and_not_mem_of_not_mem_cons hi
    unfold fillCarried
    rw [ih _ _ (fun k hk => by simpa [Group.setThread] using hl k (List.mem_cons_of_mem _ hk)) hir,
      Group.thread_setThread (hl j List.mem_cons_self), if_neg hij]

/-- The thread at place `k` of a pop gets the `k`-th run of entries (R129). -/
theorem fillCarried_thread {span : Nat} : ∀ {ms : List Nat} (ws : List Word) (g : Group),
    (∀ i, i ∈ ms → i < g.threads.length ∧ (g.thread i).carried = []) → ms.Nodup → ∀ k i, ms[k]? = some i →
    ((fillCarried span ms ws g).thread i).carried = (ws.drop (k * span)).take span := by
  intro ms
  induction ms with
  | nil => intro _ _ _ _ k i hk; simp at hk
  | cons j r ih =>
    intro ws g hg hnd k i hk
    obtain ⟨hj, hr⟩ := List.nodup_cons.mp hnd
    obtain ⟨hjl, hjc⟩ := hg j List.mem_cons_self
    have hthread := Group.thread_setThread hjl { g.thread j with carried := (g.thread j).carried ++ ws.take (span - (g.thread j).carried.length) }
    have hlater : ∀ m, m ∈ r → m ≠ j := fun m hm e => hj (e ▸ hm)
    unfold fillCarried
    cases k with
    | zero =>
      obtain rfl : j = i := by simpa using hk
      rw [fillCarried_thread_not _ _ (fun m hm => by simpa [Group.setThread] using (hg m (List.mem_cons_of_mem _ hm)).1) hj, hthread, if_pos rfl]
      simp [hjc]
    | succ k =>
      rw [ih _ _ (fun m hm => ?_) hr k i hk, List.drop_drop, hjc, List.length_nil, Nat.sub_zero, Nat.succ_mul, Nat.add_comm]
      obtain ⟨hml, hmc⟩ := hg m (List.mem_cons_of_mem _ hm)
      refine ⟨by simpa [Group.setThread] using hml, ?_⟩
      rw [hthread, if_neg (hlater m hm), hmc]

/-! ### Try-pops -/

/-- A count of the issue, then a write of a predicate, is the write and then the count. -/
theorem Thread.tick_writeP (t : Thread) (h : Bool) (i : Nat) (x : Bool) : t.tick.writeP h i x = (t.writeP h i x).tick := by
  unfold Thread.writeP
  split
  · rfl
  · cases h <;> rfl

/-- A change of the path's group that keeps its number alters nothing else. -/
theorem State.mapGroup_path {s : State} {c : Ctx} (hp : s.path? = some c) {f : Group → Group} (hf : ∀ g, (f g).idx = g.idx) :
    Alters s (s.mapGroup c.team.id c.group.idx f) c (f c.group) := by
  obtain ⟨-, hteam, hgroup, -, -⟩ := State.path?_spec hp
  let here := fun (g : Group) => if g.idx == c.group.idx then f g else c.group
  have hsame : s.mapGroup c.team.id c.group.idx f = s.mapGroup c.team.id c.group.idx here := by
    unfold State.mapGroup
    refine congrArg (fun ts => { s with teams := ts }) (List.map_congr_left fun t _ => ?_)
    have hgroups : ∀ g : Group, (if g.idx == c.group.idx then f g else g) = if g.idx == c.group.idx then here g else g := fun g => by
      cases e : g.idx == c.group.idx <;> simp only [here, e, if_true, Bool.false_eq_true, if_false]
    simp only [hgroups]
  obtain ⟨hT, hG⟩ := State.mapGroup_alters hteam hgroup here
    (fun g => by by_cases e : g.idx = c.group.idx <;> simp [here, e, hf]) rfl
  have hself : here c.group = f c.group := by simp [here]
  rw [hself] at hG
  exact ⟨_, hsame ▸ hT, hG⟩

/-- A try-pop that claims nothing writes 0 to its predicate and acquires (R129). -/
theorem qtry_fails {span : Nat} {d : BitVec 7} {q l : BitVec 4} {p : BitVec 3} {s : State} {c : Ctx} {e : QueueEnd}
    (h : LaneReady s c { writes := [(d.toNat, span)], predWrites := [p.toNat] }) (hroom : c.roomForOut = true)
    (hb : popEnd c.group.role (s.binding c.team c.group q.toNat) = some e)
    (hno : ¬ (c.ms.length * span ≤ 32 ∧ c.ms.length * span ≤ (c.team.entries (popOf s c e q.toNat span d.toNat l.toNat).eng q.toNat).length ∧
      (c.team.pops.any fun x => x.eng == (popOf s c e q.toNat span d.toNat l.toNat).eng && (x.eng.isSome || x.q == q.toNat)) = false)) :
    ∃ t g, qtry span d q l p s = .next t ∧ Alters s t c g ∧ GroupDone c g fun i u =>
      u = { (c.group.thread i).writeP c.group.handler p.toNat false with
        pc := (c.group.thread i).pc + 4
        rel := none
        stall := []
        kstall := []
        out := (c.group.thread i).out.map OutRes.tick
        spec := [] } := by
  refine ⟨_, _, (popShape_ready h hb hroom).trans (if_neg fun hyes => hno ⟨hyes.1, hyes.2.1, Bool.not_eq_true' _ |>.mp hyes.2.2⟩),
    State.mapGroup_path h.path fun g => by simp, State.groupDone h.path
      (fun _ t => Thread.next { (t.tick.writeP c.group.handler p.toNat false) with spec := [] }) c.lead _ fun i _ => ?_⟩
  rw [Thread.tick_writeP]
  have hw := Thread.writeP_rest (c.group.thread i) c.group.handler p.toNat false
  rw [hw]; rfl

/-- Settles O34: pushes by where the register leads, pops as they join, what entries go to which thread, and try-pops. -/
theorem queuesPushPopAndTry : Obligations.QueuesPushPopAndTry := by
  refine ⟨⟨?pushes, ?pops⟩, ?fills, ?tries⟩
  case pushes =>
    intro mk span hmk q a s c h b ws n wait
    have he : exec (mk q a) s = qpush span q a s := by
      simp only [List.mem_cons, List.not_mem_nil, or_false, Prod.mk.injEq] at hmk
      rcases hmk with ⟨rfl, rfl⟩ | ⟨rfl, rfl⟩ <;> rfl
    rw [he]
    refine ⟨qpush_unbound h, ?engines, ?links⟩
    case engines =>
      intro e hb cs
      exact ⟨fun hfull => (qpush_engine h hb).trans (if_pos hfull), fun hfits => (qpush_engine h hb).trans (if_neg (Nat.not_lt.mpr hfits))⟩
    intro m hb rcv first s1
    refine ⟨fun hm hrel => ?_, fun hm hcore hrel hfits => ?_⟩
    · exact (qpush_link (near := true) h hb (by simpa using hm) hrel).trans rfl
    · exact (qpush_link (near := false) h hb (by simpa using ⟨hm, hcore⟩) hrel).trans (if_neg fun hfull => absurd hfits (Nat.not_le.mpr (of_decide_eq_true hfull)))
  case pops =>
    intro mk span hmk d q l s c hp b
    have he : exec (mk d q l) s = qpop span d q l s := by
      simp only [List.mem_cons, List.not_mem_nil, or_false, Prod.mk.injEq] at hmk
      rcases hmk with ⟨rfl, rfl⟩ | ⟨rfl, rfl⟩ <;> rfl
    rw [he]
    exact ⟨popShape_unbound hp, fun e h hb hroom => popShape_ready h hb hroom⟩
  case fills =>
    exact fun span ms ws g hg hnd _ => ⟨fillCarried_thread ws g hg hnd, fun i hi => fillCarried_thread_not ws g (fun j hj => (hg j hj).1) hi⟩
  case tries =>
    intro mk span hmk d q l p s c e h hroom hb w there n waiting
    have he : exec (mk d q l p) s = qtry span d q l p s := by
      simp only [List.mem_cons, List.not_mem_nil, or_false, Prod.mk.injEq] at hmk
      rcases hmk with ⟨rfl, rfl⟩ | ⟨rfl, rfl⟩ <;> rfl
    rw [he]
    refine ⟨fun hyes => ?_, qtry_fails h hroom hb⟩
    obtain ⟨hmost, hthere, hfirst⟩ := hyes
    exact (popShape_ready h hb hroom).trans (if_pos ⟨hmost, hthere, congrArg (!·) hfirst⟩)

end Sys2Proof.Machine
end

section
/-! O26, first part: bytes of words, cells of a cache, and what a core sees of a word. -/
namespace Sys2Proof.Machine
open Sys2Proof

/-! ### Bytes of a word -/

/-- Byte `i` of a word, by division. -/
theorem byteOf_eq (x : Word) (i : Nat) : BitVec.ofNat 8 (x.toNat / 256 ^ i) = byteOf x i := by
  apply BitVec.eq_of_toNat_eq
  simp [byteOf, BitVec.toNat_setWidth, BitVec.toNat_ushiftRight, Nat.shiftRight_eq_div_pow, Nat.pow_mul]

/-- The bits of a word that a byte mask names. -/
theorem byteMask_getLsbD : ∀ m : BitVec 4, ∀ k, k < 32 →
    (BitVec.ofNat 32 (((List.range 4).map fun i => if m.getLsbD i then 255 * 256 ^ i else 0).sum)).getLsbD k = m.getLsbD (k / 8) := by
  decide +kernel

/-- Each byte of a merged word comes from the side its mask bit names. -/
theorem byteOf_mergeBytes (v x : Word) (m : BitVec 4) {j : Nat} (hj : j < 4) :
    byteOf (mergeBytes v x m) j = if m.getLsbD j then byteOf x j else byteOf v j := by
  apply BitVec.eq_of_getLsbD_eq
  intro k hk
  have hbit : 8 * j + k < 32 := by omega
  have hbyte : (8 * j + k) / 8 = j := by omega
  have hm := byteMask_getLsbD m (8 * j + k) hbit
  rw [hbyte] at hm
  unfold mergeBytes
  generalize BitVec.ofNat 32 _ = M at hm ⊢
  unfold byteOf
  cases e : m.getLsbD j <;>
    simp only [e, Bool.false_eq_true, if_true, if_false, BitVec.getLsbD_setWidth, BitVec.getLsbD_ushiftRight, BitVec.getLsbD_or, BitVec.getLsbD_and,
      BitVec.getLsbD_not, hbit, hm, decide_true, Bool.not_true, Bool.not_false, Bool.and_true, Bool.and_false, Bool.or_false, Bool.false_or]

/-- A byte put at its place in a word. -/
theorem byteOf_place (b : Byte) {j : Nat} (hj : j < 4) : byteOf (BitVec.ofNat 32 (b.toNat * 256 ^ j)) j = b := by
  have hb := b.isLt
  rw [← byteOf_eq]
  apply BitVec.eq_of_toNat_eq
  have hfit : b.toNat * 256 ^ j < 2 ^ 32 := by
    interval_cases j <;> omega
  rw [BitVec.toNat_ofNat, BitVec.toNat_ofNat, Nat.mod_eq_of_lt hfit, Nat.mul_div_cancel _ (Nat.pow_pos (by decide)), Nat.mod_eq_of_lt hb]

/-! ### Byte writes -/

/-- The last write of a list with one more at its end. -/
theorem lastWrite_concat (bs : List (Nat × Byte)) (b : Nat × Byte) (a : Nat) :
    lastWrite (bs ++ [b]) a = if b.1 = a then some b.2 else lastWrite bs a := by
  unfold lastWrite
  rw [List.reverse_append]
  by_cases e : b.1 = a <;> simp [e]

/-- No write of a list goes to an address that none of them names. -/
theorem lastWrite_eq_none {bs : List (Nat × Byte)} {a : Nat} (h : ∀ b, b ∈ bs → b.1 ≠ a) : lastWrite bs a = none := by
  unfold lastWrite
  rw [List.find?_eq_none.mpr fun b hb => by simpa using h b (List.mem_reverse.mp hb)]
  rfl

/-- Writes to other addresses do not count. -/
theorem lastWrite_filter {bs : List (Nat × Byte)} {a : Nat} {p : Nat × Byte → Bool} (h : ∀ b, b ∈ bs → b.1 = a → p b = true) :
    lastWrite (bs.filter p) a = lastWrite bs a := by
  unfold lastWrite
  rw [← List.filter_reverse, List.find?_filter]
  refine congrArg _ (List.find?_congr fun b hb => ?_)
  by_cases e : b.1 = a
  · simp [h b (List.mem_reverse.mp hb) e, e]
  · simp [e]

/-- What one more byte write does to a word. -/
theorem wordWrite_concat (bs : List (Nat × Byte)) (b : Nat × Byte) (w : Nat) : wordWrite (bs ++ [b]) w = if b.1 / 4 = w then
    (mergeBytes (wordWrite bs w).1 (BitVec.ofNat 32 (b.2.toNat * 256 ^ (b.1 % 4))) (BitVec.ofNat 4 (2 ^ (b.1 % 4))),
      (wordWrite bs w).2 ||| BitVec.ofNat 4 (2 ^ (b.1 % 4))) else wordWrite bs w := by
  unfold wordWrite
  rw [List.filter_append, List.foldl_append]
  by_cases hw : b.1 / 4 = w
  · simp only [List.filter_cons, hw, beq_self_eq_true, if_true, List.filter_nil, List.foldl_cons, List.foldl_nil]
  · simp only [List.filter_cons, beq_false_of_ne hw, Bool.false_eq_true, if_false, List.filter_nil, List.foldl_nil, hw]

/-- The bytes of a word that a list of byte writes changes are those it writes, and each is the last written. -/
theorem wordWrite_byte (bs : List (Nat × Byte)) (w : Nat) {j : Nat} (hj : j < 4) (d : Byte) :
    (if (wordWrite bs w).2.getLsbD j then byteOf (wordWrite bs w).1 j else d) = (lastWrite bs (4 * w + j)).getD d := by
  induction bs using List.reverseRecOn with
  | nil => simp [wordWrite, lastWrite]
  | append_singleton bs b ih =>
    rw [lastWrite_concat, wordWrite_concat]
    by_cases hw : b.1 / 4 = w
    · have hbit : (BitVec.ofNat 4 (2 ^ (b.1 % 4))).getLsbD j = decide (b.1 = 4 * w + j) := by
        rw [BitVec.getLsbD_ofNat, Nat.testBit_two_pow, decide_eq_true hj, Bool.true_and]
        exact decide_eq_decide.mpr (by omega)
      simp only [if_pos hw, BitVec.getLsbD_or, hbit, byteOf_mergeBytes _ _ _ hj]
      by_cases e : b.1 = 4 * w + j
      · have hplace : b.1 % 4 = j := by omega
        simp only [decide_eq_true e, if_pos e, Bool.or_true, if_true, Option.getD_some, hplace, byteOf_place _ hj]
      · simpa only [e, decide_false, Bool.or_false, Bool.false_eq_true, if_false] using ih
    · have hother : b.1 ≠ 4 * w + j := by omega
      rw [if_neg hw, if_neg hother, ih]

/-! ### Cells of a cache -/

/-- A cache with one of its lines changed. -/
def Cache.change (c : Cache) (line : Nat) (f : Line → Line) : Cache :=
  c.map fun (nl : Nat × Line) => if nl.1 = line then (nl.1, f nl.2) else nl

theorem Cache.line?_change (c : Cache) (line : Nat) (f : Line → Line) (l : Nat) :
    (c.change line f).line? l = if l = line then (c.line? line).map f else c.line? l := by
  unfold Cache.change Cache.line?
  rw [List.find?_map, show ((fun x : Nat × Line => x.1 == l) ∘ fun nl => if nl.1 = line then (nl.1, f nl.2) else nl) = fun x => x.1 == l from
    funext fun x => by simp only [Function.comp]; split <;> rfl]
  by_cases e : l = line
  · subst e
    rw [if_pos rfl, Option.map_map, Option.map_map]
    refine Option.map_congr fun x hx => ?_
    have hkey := (beq_iff_eq (a := x.1) (b := l)).mp (List.find?_some (p := fun x : Nat × Line => x.1 == l) hx)
    simp [hkey]
  · rw [if_neg e, Option.map_map]
    refine Option.map_congr fun x hx => ?_
    have hkey := (beq_iff_eq (a := x.1) (b := l)).mp (List.find?_some (p := fun x : Nat × Line => x.1 == l) hx)
    simp [hkey, e]

theorem Cache.cell_eq (c : Cache) (line w : Nat) : c.cell line w = ((c.line? line).map fun l => SMap.getD l.ws w {}).getD {} := by
  unfold Cache.cell; cases c.line? line <;> rfl

/-- The line is in the core's L1. -/
def Core.holds (k : Core) (line : Nat) : Prop := (k.l1.line? line).isSome = true

/-- The cells of a line the L1 holds. -/
theorem Core.cell_of_holds {k : Core} {line : Nat} (h : k.holds line) (v : Nat) :
    k.cell line v = ((k.l1.line? line).map fun l => SMap.getD l.ws v {}).getD {} := (if_pos h).trans (Cache.cell_eq ..)

/-- The cells of a line are those of the L1's line and the victim buffer's. -/
theorem Core.cell_congr {k k' : Core} {line : Nat} (h : k'.l1.line? line = k.l1.line? line) (hv : k'.victim.line? line = k.victim.line? line) (v : Nat) :
    k'.cell line v = k.cell line v := by
  unfold Core.cell
  simp only [Cache.cell_eq, h, hv]

/-- A core with one line of its L1 changed. -/
def Core.changeLine (k : Core) (line : Nat) (f : Line → Line) : Core := { k with l1 := k.l1.change line f }

/-- The other lines and the number of lines are as before. -/
theorem Core.changeLine_spec (k : Core) (line : Nat) (f : Line → Line) : (∀ l, l ≠ line → ∀ v, (k.changeLine line f).cell l v = k.cell l v) ∧
    (∀ l, (k.changeLine line f).holds l ↔ k.holds l) ∧ (k.changeLine line f).l1.length = k.l1.length := by
  have hline : ∀ l, (k.changeLine line f).l1.line? l = _ := Cache.line?_change k.l1 line f
  refine ⟨fun l hl v => ?_, fun l => ?_, List.length_map ..⟩
  · exact Core.cell_congr ((hline l).trans (if_neg hl)) rfl v
  · unfold Core.holds
    rw [hline]
    by_cases e : l = line
    · subst e; simp
    · rw [if_neg e]

/-- The cells of the changed line. -/
theorem Core.cell_changeLine {k : Core} {line : Nat} (h : k.holds line) (f : Line → Line) (v : Nat) :
    (k.changeLine line f).cell line v = ((k.l1.line? line).map fun l => SMap.getD (f l).ws v {}).getD {} := by
  obtain ⟨-, hheld, -⟩ := Core.changeLine_spec k line f
  have hline : (k.changeLine line f).l1.line? line = _ := Cache.line?_change k.l1 line f line
  rw [Core.cell_of_holds ((hheld line).mpr h), hline, if_pos rfl, Option.map_map]
  rfl

/-- A cell that is put into a line of the L1 changes that line alone. -/
theorem Core.putCell_eq {k : Core} {line : Nat} (h : k.holds line) (w : Nat) (x : WordCell) :
    k.putCell line w x = k.changeLine line fun l => l.put w x := by
  unfold Core.holds at h
  unfold Core.putCell Cache.put
  rw [if_neg (by simp [Option.isSome_iff_ne_none.mp h]), if_pos h]
  rfl

/-- A cell that is put reads back, and every other is as before. -/
theorem Core.cell_putCell {k : Core} {line : Nat} (h : k.holds line) (w : Nat) {x : WordCell} (hx : x ≠ {}) (l v : Nat) :
    (k.putCell line w x).cell l v = if l = line ∧ v = w then x else k.cell l v := by
  rw [Core.putCell_eq h]
  by_cases e : l = line
  · subst e
    obtain ⟨L, hL⟩ := Option.isSome_iff_exists.mp h
    rw [Core.cell_changeLine h, Core.cell_of_holds h, hL]
    simp only [Option.map_some, Option.getD_some, Line.put, if_neg hx, SMap.getD, true_and]
    by_cases ev : v = w
    · subst ev; simp [SMap.get?_put_self]
    · simp [SMap.get?_put_ne _ ev, ev]
  · rw [(Core.changeLine_spec k line _).1 l e, if_neg fun h => e h.1]

end Sys2Proof.Machine
end

section
/-! O26, second part: what leaves unseen the bytes a core sees; loads. -/
namespace Sys2Proof.Machine
open Sys2Proof

/-! ### What a core sees of a word -/

/-- The word a cell shows over the word `fill` that a miss finds. -/
def WordCell.sight (fill : Word) (c : WordCell) : Word := mergeBytes (if c.st = .i then fill else c.val) c.pend c.pendMask

theorem State.seesByte_eq (s : State) (core a : Nat) : s.seesByte core a =
    byteOf (((s.core core).cell (a / 4 / 32) (a / 4 % 32)).sight (s.fillWord core (a / 4 / 32) (a / 4 % 32)).1) (a % 4) := byteOf_eq _ _

/-- `t` has the memory and the RDC lines of `s`, and in the L1 of `core` the lines of `s` and at most `n` more. -/
structure Follows (s t : State) (core n : Nat) : Prop where
  mem : t.mem = s.mem
  rdc : ∀ l w, (t.die (dieOf core)).rdcCell l w = (s.die (dieOf core)).rdcCell l w
  kept : ∀ l, (s.core core).holds l → (t.core core).holds l
  most : (t.core core).l1.length ≤ (s.core core).l1.length + n

/-- What is more, the core sees in `t` every byte as in `s`. -/
structure Unseen (s t : State) (core n : Nat) : Prop extends Follows s t core n where
  sees : ∀ a, isDevice a = false → t.seesByte core a = s.seesByte core a

theorem Follows.trans {s t u : State} {core m n : Nat} (h : Follows s t core m) (h' : Follows t u core n) : Follows s u core (m + n) where
  mem := h'.mem.trans h.mem
  rdc := fun l w => (h'.rdc l w).trans (h.rdc l w)
  kept := fun l hl => h'.kept l (h.kept l hl)
  most := by have := h.most; have := h'.most; omega

theorem Unseen.trans {s t u : State} {core m n : Nat} (h : Unseen s t core m) (h' : Unseen t u core n) : Unseen s u core (m + n) where
  toFollows := h.toFollows.trans h'.toFollows
  sees := fun a ha => (h'.sees a ha).trans (h.sees a ha)

theorem Unseen.refl (s : State) (core : Nat) : Unseen s s core 0 where
  mem := rfl
  rdc := fun _ _ => rfl
  kept := fun _ h => h
  most := Nat.le_refl _
  sees := fun _ _ => rfl

/-- The word of an address lies in the region of the address. -/
theorem isDevice_word (a : Nat) : isDevice (4 * (a / 4 / 32 * 32 + a / 4 % 32)) = isDevice a := by
  unfold isDevice regionOf
  rw [show 4 * (a / 4 / 32 * 32 + a / 4 % 32) / 2 ^ 48 = a / 2 ^ 48 by omega]

/-- So does its line. -/
theorem isDevice_line (a : Nat) : isDevice (a / 128 * 128) = isDevice a := by
  unfold isDevice regionOf
  rw [show a / 128 * 128 / 2 ^ 48 = a / 2 ^ 48 by omega]

/-- A miss finds the same word. -/
theorem Follows.fillWord {s t : State} {core n : Nat} (h : Follows s t core n) {a : Nat} (ha : isDevice a = false) :
    (t.fillWord core (a / 4 / 32) (a / 4 % 32)).1 = (s.fillWord core (a / 4 / 32) (a / 4 % 32)).1 := by
  unfold State.fillWord State.homeWord
  rw [h.rdc]
  simp only [isDevice_word, ha, Bool.false_eq_true, if_false, h.mem]
  split <;> rfl

/-- Where every cell shows what it showed, nothing the core sees changes. -/
theorem Follows.unseen {s t : State} {core n : Nat} (h : Follows s t core n)
    (hcells : ∀ l w, ((t.core core).cell l w).sight (s.fillWord core l w).1 = ((s.core core).cell l w).sight (s.fillWord core l w).1) : Unseen s t core n where
  toFollows := h
  sees := fun a ha => by rw [State.seesByte_eq, State.seesByte_eq, h.fillWord ha, hcells]

/-- A step that leaves the memory, the dies and the core's cached lines is unseen. -/
theorem Unseen.of_same {s t : State} {core : Nat} (hmem : t.mem = s.mem) (hdies : t.dies = s.dies) (hl1 : (t.core core).l1 = (s.core core).l1)
    (hvictim : (t.core core).victim = (s.core core).victim) : Unseen s t core 0 := by
  refine Follows.unseen ⟨hmem, fun l w => ?_, fun l hl => ?_, hl1 ▸ Nat.le_refl _⟩ fun l w => ?_
  · unfold State.die; rw [hdies]
  · unfold Core.holds; rw [hl1]; exact hl
  · rw [Core.cell_congr (congrArg (Cache.line? · l) hl1) (congrArg (Cache.line? · l) hvictim)]

/-! ### Steps that nobody sees -/

/-- A message that leaves for another package changes the count of writes there and the outbox alone. -/
theorem State.emitFar_rest (s : State) (p : Nat) (w : Wire) : { s.emitFar p w with wroteFar := s.wroteFar, outbox := s.outbox } = s := by
  unfold State.emitFar
  cases w.kind == MsgKind.wbData <;> simp only [Bool.false_eq_true, if_true, if_false] <;> rfl

/-- A message that is sent changes the wires, the count of writes to other packages and the outbox alone. -/
theorem State.send_rest (s : State) (k : MsgKind) (m : Msg) :
    { s.send k m with wires := s.wires, wroteFar := s.wroteFar, outbox := s.outbox } = s := by
  unfold State.send
  split
  · rfl
  · split
    · split
      · exact congrArg (fun t : State => { t with wires := s.wires }) (State.emitFar_rest s _ _)
      · rfl
    · rfl

theorem Unseen.send (s : State) (core : Nat) (k : MsgKind) (m : Msg) : Unseen s (s.send k m) core 0 := by
  have hmem := congrArg State.mem (State.send_rest s k m)
  have hdies := congrArg State.dies (State.send_rest s k m)
  have hcores := congrArg State.cores (State.send_rest s k m)
  exact .of_same hmem hdies (congrArg (fun x => (SMap.getD x core ({} : Core)).l1) hcores) (congrArg (fun x => (SMap.getD x core ({} : Core)).victim) hcores)

/-- A line's arrival is scored where the victim tags name it, and nothing else changes (R187). -/
theorem Unseen.noteVictim (s : State) (core line : Nat) : Unseen s (s.noteVictim core line) core 0 := by
  unfold State.noteVictim
  split
  · exact .refl s core
  · exact .of_same rfl rfl rfl rfl

/-- The dies after one is changed; one that is not there stays as it is read. -/
theorem State.die_mapDie (s : State) (d i : Nat) (f : Die → Die) : (s.mapDie d f).die i = if i = d ∧ d < s.dies.length then f (s.die d) else s.die i := by
  unfold State.mapDie State.setDie State.die
  simp only [List.getD_eq_getElem?_getD, List.getElem?_set]
  by_cases e : d = i
  · subst e
    by_cases hd : d < s.dies.length <;> simp [hd]
  · simp [e, Ne.symm e]

/-- The home's L2 notes an access, and nothing else changes. -/
theorem Unseen.useL2 (s : State) (core line : Nat) : Unseen s (s.useL2 line) core 0 := by
  unfold State.useL2
  split
  · refine Follows.unseen ⟨rfl, fun l w => ?_, fun _ h => h, Nat.le_refl _⟩ fun _ _ => rfl
    rw [State.die_mapDie]
    split
    · next e => rw [e.1]; rfl
    · rfl
  · exact .refl s core

/-! ### Filling a line -/

/-- A change of the core whose L1 keeps its lines and gains at most `n` is unseen where every cell shows what it showed. -/
theorem Unseen.mapCore {s : State} {core n : Nat} {f : Core → Core} (hkept : ∀ l, (s.core core).holds l → (f (s.core core)).holds l)
    (hmost : (f (s.core core)).l1.length ≤ (s.core core).l1.length + n)
    (hcells : ∀ l w, ((f (s.core core)).cell l w).sight (s.fillWord core l w).1 = ((s.core core).cell l w).sight (s.fillWord core l w).1) :
    Unseen s (s.mapCore core f) core n := by
  have hcore := State.core_mapCore_self s core f
  refine Follows.unseen ⟨rfl, fun _ _ => rfl, fun l hl => ?_, ?_⟩ fun l w => ?_
  · rw [hcore]; exact hkept l hl
  · rw [hcore]; exact hmost
  · rw [hcore]; exact hcells l w

/-- A cell put where the L1 holds the line is unseen where it shows what the one before showed. -/
theorem Unseen.putCell {s : State} {core line : Nat} (h : (s.core core).holds line) (w : Nat) {x : WordCell} (hx : x ≠ {})
    (hsight : x.sight (s.fillWord core line w).1 = ((s.core core).cell line w).sight (s.fillWord core line w).1) :
    Unseen s (s.mapCore core fun k => k.putCell line w x) core 0 := by
  obtain ⟨-, hheld, hlength⟩ := Core.changeLine_spec (s.core core) line fun l => l.put w x
  rw [← Core.putCell_eq h] at hheld hlength
  refine .mapCore (fun l => (hheld l).mpr) (Nat.le_of_eq hlength) fun l v => ?_
  rw [Core.cell_putCell h w hx]
  split
  · next e => rw [e.1, e.2, hsight]
  · rfl

/-- The slot a line of the L1 is marked with is unseen. -/
theorem Unseen.markSlot {s : State} {core line : Nat} (h : (s.core core).holds line) (slot : Nat) :
    Unseen s (s.mapCore core fun k => k.changeLine line fun l => { l with slot := slot }) core 0 := by
  obtain ⟨hother, hheld, hlength⟩ := Core.changeLine_spec (s.core core) line fun l => { l with slot := slot }
  refine .mapCore (fun l => (hheld l).mpr) (Nat.le_of_eq hlength) fun l v => ?_
  by_cases e : l = line
  · subst e
    rw [Core.cell_changeLine h, Core.cell_of_holds h]
  · rw [hother l e]

/-- An invalid word of a page that is not coherent takes the value a miss finds (R209). -/
def State.fillOne (core line : Nat) (s : State) (w : Nat) : State :=
  let c := (s.core core).cell line w
  if c.st = .i ∧ c.pendMask = 0 then
    s.mapCore core fun k => k.putCell line w
      { c with st := .e, val := (s.fillWord core line w).1, poison := (s.fillWord core line w).2, tracked := false }
  else s

/-- A fill shows what the miss would have found, and leaves the word valid or stored early (R209, R371). -/
theorem State.fillOne_spec {s : State} {core line : Nat} (h : (s.core core).holds line) (w : Nat) : Unseen s (s.fillOne core line w) core 0 ∧
    (∀ v, v = w ∨ ¬ (((s.core core).cell line v).st = .i ∧ ((s.core core).cell line v).pendMask = 0) →
      ¬ ((((s.fillOne core line w).core core).cell line v).st = .i ∧ (((s.fillOne core line w).core core).cell line v).pendMask = 0)) := by
  unfold State.fillOne
  by_cases hi : ((s.core core).cell line w).st = .i ∧ ((s.core core).cell line w).pendMask = 0
  · simp only [if_pos hi]
    refine ⟨.putCell h w (by simp) ?_, fun v hv => ?_⟩
    · unfold WordCell.sight; rw [if_pos hi.1]; rfl
    · rw [State.core_mapCore_self, Core.cell_putCell h w (by simp)]
      by_cases e : v = w
      · simp [e]
      · simpa [e] using hv
  · simp only [if_neg hi]
    refine ⟨.refl s core, fun v hv => ?_⟩
    rcases hv with rfl | hv
    · exact hi
    · exact hv

/-- The fills of several words. -/
theorem State.foldl_fillOne {core line : Nat} (ws : List Nat) : ∀ {s : State}, (s.core core).holds line →
    Unseen s (ws.foldl (fun s w => s.fillOne core line w) s) core 0 ∧
    (∀ v, v ∈ ws ∨ ¬ (((s.core core).cell line v).st = .i ∧ ((s.core core).cell line v).pendMask = 0) →
      let c := ((ws.foldl (fun s w => s.fillOne core line w) s).core core).cell line v
      ¬ (c.st = .i ∧ c.pendMask = 0)) := by
  induction ws with
  | nil => exact fun h => ⟨.refl _ core, fun v hv => hv.resolve_left List.not_mem_nil⟩
  | cons w ws ih =>
    intro s h
    obtain ⟨hone, hfilled⟩ := State.fillOne_spec h w
    obtain ⟨hrest, hall⟩ := ih (hone.kept line h)
    refine ⟨hone.trans hrest, fun v hv => hall v ?_⟩
    rcases hv with hv | hv
    · rcases List.mem_cons.mp hv with rfl | hv
      · exact Or.inr (hfilled v (Or.inl rfl))
      · exact Or.inl hv
    · exact Or.inr (hfilled v (Or.inr hv))

/-- Filling a line is unseen; on pages that are not coherent the words asked for are valid then, or stored early (R209). -/
theorem State.fillLine_spec {s : State} {core line : Nat} (h : (s.core core).holds line) (attr : Nat) (ws : List Nat) :
    Unseen s (s.fillLine core line attr ws) core 0 ∧ (isCoherent attr = false → ∀ v, v ∈ ws →
      let c := ((s.fillLine core line attr ws).core core).cell line v
      ¬ (c.st = .i ∧ c.pendMask = 0)) := by
  cases hc : isCoherent attr with
  | true =>
    refine ⟨?_, fun h => by cases h⟩
    unfold State.fillLine State.fetchWords
    rw [if_pos hc]
    dsimp only
    split
    · exact .refl s core
    · exact .send s core _ _
  | false =>
    have hrun : s.fillLine core line attr ws = ws.foldl (fun s w => s.fillOne core line w) (s.useL2 line) := by
      unfold State.fillLine
      rw [if_neg (by rw [hc]; decide)]
      rfl
    have huse := Unseen.useL2 s core line
    obtain ⟨hfold, hfilled⟩ := State.foldl_fillOne ws (huse.kept line h)
    rw [hrun]
    exact ⟨huse.trans hfold, fun _ v hv => hfilled v (Or.inl hv)⟩

/-! ### Room for a line -/

/-- The lines of a cache are the same with one of them moved to the front. -/
theorem Cache.line?_front (c : Cache) (line l : Nat) : (c.front line).line? l = c.line? l := by
  unfold Cache.front
  cases h : c.line? line with
  | none => rfl
  | some L =>
    by_cases e : l = line
    · subst e; rw [h]; simp [Cache.line?]
    · unfold Cache.dropLine Cache.line?
      rw [List.find?_cons_of_neg (by simpa using Ne.symm e), List.find?_filter]
      refine congrArg _ (List.find?_congr fun x _ => ?_)
      by_cases ex : x.1 = l
      · simp [ex, e]
      · simp [ex]

/-- A line that is there or has room is made the most recently used, which is unseen. -/
theorem State.allocLine_spec {s t : State} {core line slot : Nat} (h : s.allocLine core line slot = some t)
    (hroom : (s.core core).holds line ∨ (s.core core).l1.length < Config.l1Lines) : Unseen s t core 1 ∧ (t.core core).holds line := by
  unfold State.allocLine at h
  by_cases hvictim : ((s.core core).victim.line? line).isSome = true
  · simp [hvictim] at h
  by_cases hheld : (s.core core).holds line
  · have ht : s.mapCore core (fun k => { k with l1 := k.l1.front line }) = t := by
      have := hheld
      unfold Core.holds at this
      simpa [hvictim, this, State.mapCore] using h
    have hfront : ∀ l, ((s.core core).l1.front line).line? l = _ := Cache.line?_front _ line
    rw [← ht]
    refine ⟨.mapCore (fun l hl => ?_) ?_ fun l w => ?_, ?_⟩
    · unfold Core.holds; rw [hfront]; exact hl
    · unfold Cache.front Cache.dropLine
      split
      · exact Nat.succ_le_succ (List.length_filter_le _ _)
      · exact Nat.le_succ _
    · exact congrArg (WordCell.sight _) (Core.cell_congr (hfront l) (by rfl) w)
    · rw [State.core_mapCore_self]; unfold Core.holds; rw [hfront]; exact hheld
  · have ht : s.mapCore core (fun k => { k with l1 := (line, { slot := slot }) :: k.l1 }) = t := by
      have := hheld
      unfold Core.holds at this
      simpa [hvictim, this, hroom.resolve_left hheld] using h
    have hline : ∀ l, Cache.line? ((line, { slot := slot }) :: (s.core core).l1) l = if l = line then some { slot := slot } else (s.core core).l1.line? l := by
      intro l
      by_cases e : l = line
      · simp [Cache.line?, e]
      · simp [Cache.line?, e, Ne.symm e]
    rw [← ht]
    refine ⟨.mapCore (fun l hl => ?_) (Nat.le_refl _) fun l w => ?_, ?_⟩
    · unfold Core.holds; rw [hline]; split
      · rfl
      · exact hl
    · by_cases e : l = line
      · have hempty : (s.core core).cell l w = {} := by
          unfold Core.holds at hheld
          unfold Core.cell
          rw [e, if_neg hheld, Cache.cell_eq, Option.not_isSome_iff_eq_none.mp hvictim]; rfl
        have hnew : ({ s.core core with l1 := (line, { slot := slot }) :: (s.core core).l1 } : Core).cell l w = {} := by
          rw [Core.cell_of_holds (by unfold Core.holds; rw [hline, if_pos e]; rfl), hline, if_pos e]; rfl
        rw [hempty, hnew]
      · exact congrArg (WordCell.sight _) (Core.cell_congr ((hline l).trans (if_neg e)) (by rfl) w)
    · rw [State.core_mapCore_self]; unfold Core.holds; rw [hline, if_pos rfl]; rfl

/-! ### Loads -/

/-- A load's line is there or being filled, and nothing the core sees has changed (R118, R209). -/
theorem State.loadLine_unseen {s t : State} {core slot attr pa n : Nat} (h : s.loadLine core slot attr pa n = some t)
    (hroom : (s.core core).holds (pa / 128) ∨ (s.core core).l1.length < Config.l1Lines) : Unseen s t core 1 := by
  unfold State.loadLine at h
  dsimp only at h
  split at h
  · cases h
  next u hu =>
  obtain ⟨-, hu⟩ := Option.ite_none_left_eq_some.mp hu
  obtain ⟨halloc, hheld⟩ := State.allocLine_spec hu hroom
  let v := if ((s.core core).l1.line? (pa / 128)).isSome then u else u.noteVictim core (pa / 128)
  have hv : Unseen u v core 0 := by
    show Unseen u (ite _ u (u.noteVictim core (pa / 128))) core 0
    split
    · exact .refl u core
    · exact .noteVictim u core _
  by_cases hread : ((v.core core).readL1 pa n).isSome = true
  · have ht : v = t := Option.some.inj ((if_pos hread).symm.trans h)
    exact ht ▸ halloc.trans hv
  · have hvheld := hv.kept _ hheld
    obtain ⟨hfill, -⟩ := State.fillLine_spec hvheld attr (List.range 32)
    have ht : (v.fillLine core (pa / 128) attr (List.range 32)).mapCore core (fun k => k.changeLine (pa / 128) fun l => { l with slot := slot }) = t :=
      Option.some.inj ((if_neg hread).symm.trans h)
    exact ht ▸ ((halloc.trans hv).trans hfill).trans (.markSlot (hfill.kept _ hvheld) slot)

end Sys2Proof.Machine
end

section
/-! O26, third part: the value of a load. -/
namespace Sys2Proof.Machine
open Sys2Proof

/-- A bit of a sum of distinct powers of two. -/
theorem fourBits_getLsbD : ∀ a b c d : Bool, ∀ j, j < 4 →
    (BitVec.ofNat 4 ((if a then 2 ^ 0 else 0) + ((if b then 2 ^ 1 else 0) + ((if c then 2 ^ 2 else 0) + ((if d then 2 ^ 3 else 0) + 0))))).getLsbD j =
      [a, b, c, d].getD j false := by
  decide

/-- An access needs the bytes it covers. -/
theorem neededBytes_getLsbD {pa n w j : Nat} (hj : j < 4) (h : pa ≤ 4 * w + j ∧ 4 * w + j < pa + n) : (neededBytes pa n w).getLsbD j = true := by
  have hbits := fourBits_getLsbD (decide (pa ≤ 4 * w + 0 ∧ 4 * w + 0 < pa + n)) (decide (pa ≤ 4 * w + 1 ∧ 4 * w + 1 < pa + n))
    (decide (pa ≤ 4 * w + 2 ∧ 4 * w + 2 < pa + n)) (decide (pa ≤ 4 * w + 3 ∧ 4 * w + 3 < pa + n)) j hj
  simp only [decide_eq_true_eq] at hbits
  refine hbits.trans ?_
  obtain rfl | rfl | rfl | rfl : j = 0 ∨ j = 1 ∨ j = 2 ∨ j = 3 := by omega
  all_goals exact decide_eq_true h

/-- A byte that a readable cell gives is the one it shows, whatever a miss would find. -/
theorem WordCell.byteOf_seen {c : WordCell} {need : BitVec 4} (h : c.readable need = true) {j : Nat} (hj : j < 4) (hneed : need.getLsbD j = true)
    (fill : Word) : byteOf c.seen j = byteOf (c.sight fill) j := by
  unfold WordCell.seen WordCell.sight
  rw [byteOf_mergeBytes _ _ _ hj, byteOf_mergeBytes _ _ _ hj]
  by_cases hp : c.pendMask.getLsbD j = true
  · rw [if_pos hp, if_pos hp]
  · have hvalid : c.st ≠ .i := by
      intro hi
      have hearly : (need &&& ~~~c.pendMask) = 0 := by simpa [WordCell.readable, hi] using h
      have hbit := congrArg (BitVec.getLsbD · j) hearly
      simp only [BitVec.getLsbD_and, BitVec.getLsbD_not, hneed, Bool.eq_false_iff.mpr hp, hj] at hbit
      simp at hbit
    rw [if_neg hp, if_neg hp, if_neg hvalid]

/-- The words a load reads are those its L1 shows, each of them readable. -/
theorem Core.readL1_spec {k : Core} {pa n : Nat} {ws : List Word} {bad : Bool} (h : k.readL1 pa n = some (ws, bad)) :
    ws = (accessWords pa n).map (fun w => (k.cell (w / 32) (w % 32)).seen) ∧
      ∀ w, w ∈ accessWords pa n → (k.cell (w / 32) (w % 32)).readable (neededBytes pa n w) = true := by
  unfold Core.readL1 at h
  dsimp only at h
  split at h
  · next hall =>
    obtain ⟨hws, -⟩ := Prod.mk.inj (Option.some.inj h)
    exact ⟨hws.symm, List.all_eq_true.mp hall⟩
  · cases h

/-- An aligned access of a power of two does not cross words but at their bounds. -/
theorem aligned_word {pa n i : Nat} (hn : n ∈ [1, 2, 4, 8, 16]) (ha : pa % n = 0) (hi : i < n) :
    (pa + i) / 4 = pa / 4 + i / 4 ∧ i / 4 < (n + 3) / 4 ∧ (pa + i) % 4 = pa % 4 + i % 4 ∧ (4 ≤ n → pa % 4 = 0) := by
  simp only [List.mem_cons, List.not_mem_nil, or_false] at hn
  rcases hn with rfl | rfl | rfl | rfl | rfl <;> omega

/-- The bytes of the words a load reads are those the core sees (R209). -/
theorem State.readL1_bytes {s : State} {core pa n : Nat} {ws : List Word} {bad : Bool} (h : (s.core core).readL1 pa n = some (ws, bad))
    (hn : n ∈ [1, 2, 4, 8, 16]) (ha : pa % n = 0) {i : Nat} (hi : i < n) :
    byteOf (ws.getD (i / 4) 0) ((pa + i) % 4) = s.seesByte core (pa + i) := by
  obtain ⟨hws, hread⟩ := Core.readL1_spec h
  obtain ⟨hword, hin, -, -⟩ := aligned_word hn ha hi
  have hj : (pa + i) % 4 < 4 := Nat.mod_lt _ (by decide)
  have hget : ws.getD (i / 4) 0 = ((s.core core).cell ((pa + i) / 4 / 32) ((pa + i) / 4 % 32)).seen := by
    rw [hws, hword, List.getD_eq_getElem?_getD]
    simp [accessWords, hin]
  have hmem : (pa + i) / 4 ∈ accessWords pa n := List.mem_map.mpr ⟨i / 4, List.mem_range.mpr hin, hword.symm⟩
  rw [hget, State.seesByte_eq]
  exact WordCell.byteOf_seen (hread _ hmem) hj (neededBytes_getLsbD hj (by omega)) _

/-- A load of less than a word gives one word, whose low bytes are those loaded, zero- or sign-extended (R118). -/
theorem loadValue_narrow {n : Nat} (hn : n = 1 ∨ n = 2) (pa : Nat) (signed : Bool) (ws : List Word) : ∃ v, loadValue pa n signed ws = [v] ∧
    v.toNat % 256 ^ n = (ws.getD 0 0).toNat / 256 ^ (pa % 4) % 256 ^ n ∧ (signed = false → v.toNat < 256 ^ n) ∧
    (signed = true → -(256 ^ n / 2 : Int) ≤ v.toInt ∧ v.toInt < (256 ^ n / 2 : Int)) := by
  have hhead : ws.headD 0 = ws.getD 0 0 := by cases ws <;> rfl
  unfold loadValue
  rw [if_neg (by omega), hhead]
  refine ⟨_, rfl, ?_⟩
  generalize (ws.getD 0 0).toNat / 256 ^ (pa % 4) = y
  have hx : y % 256 ^ n < 256 ^ n := Nat.mod_lt _ (Nat.pow_pos (by decide))
  generalize y % 256 ^ n = x at hx ⊢
  split
  · next hneg =>
    obtain ⟨hs, hle⟩ := Bool.and_eq_true_iff.mp hneg
    have hle := of_decide_eq_true hle
    refine ⟨?_, fun h => by simp [hs] at h, fun _ => ?_⟩
    · rw [BitVec.toNat_ofInt]
      rcases hn with rfl | rfl <;> norm_num at hx hle ⊢ <;> omega
    · rw [BitVec.toInt_ofInt, Int.bmod_def]
      rcases hn with rfl | rfl <;> norm_num at hx hle ⊢ <;> omega
  · next hpos =>
    refine ⟨?_, fun _ => ?_, fun hs => ?_⟩
    · rw [BitVec.toNat_ofNat]
      rcases hn with rfl | rfl <;> norm_num at hx ⊢ <;> omega
    · rw [BitVec.toNat_ofNat]
      rcases hn with rfl | rfl <;> norm_num at hx ⊢ <;> omega
    · have hlt : x < 256 ^ n / 2 := by simpa [hs] using hpos
      rw [BitVec.toInt_eq_toNat_bmod, BitVec.toNat_ofNat, Int.bmod_def]
      rcases hn with rfl | rfl <;> norm_num at hx hlt ⊢ <;> omega

/-- The low bytes of a word with those of another's end, read a byte at a time. -/
theorem byteOf_narrow {n : Nat} (hn : n = 1 ∨ n = 2) {v w : Word} {p i : Nat} (h : v.toNat % 256 ^ n = w.toNat / 256 ^ p % 256 ^ n) (hi : i < n) :
    byteOf v i = byteOf w (p + i) := by
  rw [← byteOf_eq, ← byteOf_eq, Nat.pow_add, ← Nat.div_div_eq_div_mul]
  generalize w.toNat / 256 ^ p = y at h
  apply BitVec.eq_of_toNat_eq
  rw [BitVec.toNat_ofNat, BitVec.toNat_ofNat]
  rcases hn with rfl | rfl
  · obtain rfl : i = 0 := by omega
    norm_num at h ⊢; omega
  · obtain rfl | rfl : i = 0 ∨ i = 1 := by omega
    all_goals norm_num at h ⊢; omega

/-- Where a load's value comes from, once its line is there or being filled. -/
theorem State.startLoad_memory {s t : State} {core slot attr pa n : Nat} {signed : Bool} {va : VAddr} {k : OutKind} (hdev : isDevice pa = false)
    (h : s.startLoad core slot attr pa n signed va = some (t, k)) : s.loadLine core slot attr pa n = some t ∧
      ∀ vs, k = .ready vs → ∃ ws, (t.core core).readL1 pa n = some (ws, false) ∧ vs = loadValue pa n signed ws := by
  unfold State.startLoad at h
  rw [if_neg (by rw [hdev]; decide)] at h
  obtain ⟨u, hu, hk⟩ := Option.map_eq_some_iff.mp h
  split at hk
  · next ws hread =>
    obtain ⟨rfl, rfl⟩ := Prod.mk.inj hk
    exact ⟨hu, fun vs hvs => ⟨ws, hread, (OutKind.ready.inj hvs).symm⟩⟩
  · obtain ⟨rfl, rfl⟩ := Prod.mk.inj hk
    exact ⟨hu, fun vs hvs => by cases hvs⟩
  · obtain ⟨rfl, rfl⟩ := Prod.mk.inj hk
    exact ⟨hu, fun vs hvs => by cases hvs⟩

/-- The value of a load is the bytes its core sees, zero- or sign-extended (R118). -/
theorem State.startLoad_value {s t : State} {core slot attr pa n : Nat} {signed : Bool} {va : VAddr} {vs : List Word} (hdev : isDevice pa = false)
    (hn : n ∈ [1, 2, 4, 8, 16]) (ha : pa % n = 0) (h : s.startLoad core slot attr pa n signed va = some (t, .ready vs)) :
    (∀ i, i < n → byteOf (vs.getD (i / 4) 0) (i % 4) = t.seesByte core (pa + i)) ∧
    (n < 4 → signed = false → (vs.getD 0 0).toNat < 256 ^ n) ∧
    (n < 4 → signed = true → -(256 ^ n / 2 : Int) ≤ (vs.getD 0 0).toInt ∧ (vs.getD 0 0).toInt < (256 ^ n / 2 : Int)) := by
  obtain ⟨-, hready⟩ := State.startLoad_memory hdev h
  obtain ⟨ws, hread, rfl⟩ := hready vs rfl
  have hbyte := fun i (hi : i < n) => State.readL1_bytes hread hn ha hi
  by_cases hwide : 4 ≤ n
  · refine ⟨fun i hi => ?_, fun h => by omega, fun h => by omega⟩
    obtain ⟨-, -, hplace, haligned⟩ := aligned_word hn ha hi
    unfold loadValue
    rw [if_pos hwide, ← hbyte i hi, hplace, haligned hwide, Nat.zero_add]
  · have hsmall : n = 1 ∨ n = 2 := by
      simp only [List.mem_cons, List.not_mem_nil, or_false] at hn; omega
    obtain ⟨v, hv, hlow, hzero, hsign⟩ := loadValue_narrow hsmall pa signed ws
    rw [hv]
    refine ⟨fun i hi => ?_, fun _ => hzero, fun _ => hsign⟩
    obtain ⟨-, -, hplace, -⟩ := aligned_word hn ha hi
    have hfirst : i / 4 = 0 := by omega
    have hlowbyte : i % 4 = i := by omega
    rw [← hbyte i hi, hplace, hfirst, hlowbyte]
    exact byteOf_narrow hsmall hlow hi

end Sys2Proof.Machine
end

section
/-! O26, fourth part: what the core sees after a store. -/
namespace Sys2Proof.Machine
open Sys2Proof

/-! ### Sorted lists -/

theorem insertBy_perm {α : Type} (le : α → α → Bool) (x : α) (l : List α) : (insertBy le x l).Perm (x :: l) := by
  induction l with
  | nil => exact .refl _
  | cons y r ih =>
    unfold insertBy
    split
    · exact .refl _
    · exact (ih.cons y).trans (.swap x y r)

theorem sortBy_perm {α : Type} (le : α → α → Bool) (l : List α) : (sortBy le l).Perm l := by
  induction l with
  | nil => exact .refl _
  | cons x r ih => exact (insertBy_perm le x _).trans (ih.cons x)

theorem nodup_eraseDups {α : Type} [BEq α] [LawfulBEq α] : ∀ l : List α, l.eraseDups.Nodup
  | [] => List.nodup_nil
  | x :: r => by
    rw [List.eraseDups_cons]
    refine List.nodup_cons.mpr ⟨fun h => ?_, nodup_eraseDups _⟩
    have hx := (List.mem_filter.mp (List.mem_eraseDups.mp h)).2
    simp at hx
  termination_by l => l.length
  decreasing_by exact Nat.lt_succ_of_le (List.length_filter_le _ _)

/-! ### One word -/

/-- The store goes into the word's value at once (R209, R371). -/
def WordCell.direct (coherent : Bool) (c : WordCell) : Bool :=
  c.pendMask == 0 && (!coherent || if c.tracked && c.st != .i then c.owned && !c.shr else c.st != .i)

/-- A store that goes into the value leaves the word valid. -/
theorem WordCell.store_direct {coherent : Bool} {c : WordCell} (h : c.direct coherent = true) (x : Word) (mask : BitVec 4) :
    c.pendMask = 0 ∧ (coherent = true → c.st ≠ .i) ∧ (c.store coherent x mask).st ≠ .i ∧ (c.store coherent x mask).val = mergeBytes c.val x mask ∧
      (c.store coherent x mask).pendMask = 0 := by
  have hstore : c.store coherent x mask = { c with
      st := if c.tracked && c.st != .i && c.st == .s then .s else .m, val := mergeBytes c.val x mask, unset := c.unset + 1
      poison := c.poison && mask != 15, tracked := c.tracked && c.st != .i, loose := c.tracked && c.st != .i && c.st == .s } := if_pos h
  obtain ⟨hpend, hvalid⟩ := Bool.and_eq_true_iff.mp h
  have hpend : c.pendMask = 0 := beq_iff_eq.mp hpend
  rw [hstore]
  refine ⟨hpend, fun hc hi => ?_, ?_, rfl, hpend⟩
  · simp [hc, hi] at hvalid
  · show (if _ then WState.s else WState.m) ≠ .i
    split <;> decide

/-- A store that does not is kept beside the value. -/
theorem WordCell.store_beside {coherent : Bool} {c : WordCell} (h : ¬ c.direct coherent = true) (x : Word) (mask : BitVec 4) :
    c.store coherent x mask = { c with pend := mergeBytes c.pend x mask, pendMask := c.pendMask ||| mask, unset := c.unset + 1, tracked := true } :=
  if_neg h

/-- A store shows its own bytes and leaves the others, where the word of a page that is not coherent was filled unless it is stored
whole (R209, R371). -/
theorem WordCell.byteOf_store {coherent : Bool} {mask : BitVec 4} {c : WordCell} (x fill : Word)
    (hfilled : coherent = false → mask ≠ 15 → ¬ (c.st = .i ∧ c.pendMask = 0)) {j : Nat} (hj : j < 4) :
    byteOf ((c.store coherent x mask).sight fill) j = if mask.getLsbD j then byteOf x j else byteOf (c.sight fill) j := by
  unfold WordCell.sight
  by_cases hd : c.direct coherent = true
  · obtain ⟨hpend, hvalid, hst, hval, hpend'⟩ := WordCell.store_direct hd x mask
    rw [if_neg hst, hval, hpend', hpend]
    simp only [byteOf_mergeBytes _ _ _ hj, BitVec.ofNat_eq_ofNat, BitVec.getLsbD_zero, Bool.false_eq_true, if_false]
    by_cases hm : mask.getLsbD j = true
    · rw [if_pos hm, if_pos hm]
    · rw [if_neg hm, if_neg hm, if_neg]
      intro hi
      cases coherent with
      | false =>
        refine hfilled rfl (fun hwhole => hm ?_) ⟨hi, hpend⟩
        rw [hwhole]
        interval_cases j <;> rfl
      | true => exact hvalid rfl hi
  · rw [WordCell.store_beside hd]
    simp only [byteOf_mergeBytes _ _ _ hj, BitVec.getLsbD_or]
    cases mask.getLsbD j <;> cases c.pendMask.getLsbD j <;> rfl

/-- A stored cell counts the store (R210). -/
theorem WordCell.store_ne_empty (coherent : Bool) (x : Word) (mask : BitVec 4) (c : WordCell) : c.store coherent x mask ≠ {} := by
  intro h
  have hunset : (c.store coherent x mask).unset = c.unset + 1 := by
    unfold WordCell.store
    exact apply_ite WordCell.unset .. |>.trans (ite_self _)
  rw [h] at hunset
  cases hunset

/-! ### One line -/

/-- The L1 with the words `ws` of a line written by byte writes. -/
def Core.storeWords (coherent : Bool) (line : Nat) (bs : List (Nat × Byte)) (ws : List Nat) (k : Core) : Core :=
  ws.foldl (fun k w => k.putCell line w
    (WordCell.store coherent (wordWrite bs (line * 32 + w)).1 (wordWrite bs (line * 32 + w)).2 (k.cell line w))) k

/-- Each of the words is stored to once, and nothing else of the caches changes. -/
theorem Core.storeWords_spec {coherent : Bool} {line : Nat} {bs : List (Nat × Byte)} (ws : List Nat) : ∀ {k : Core}, k.holds line → ws.Nodup →
    (∀ l, (k.storeWords coherent line bs ws).holds l ↔ k.holds l) ∧ (k.storeWords coherent line bs ws).l1.length = k.l1.length ∧
    ∀ l v, (k.storeWords coherent line bs ws).cell l v = if l = line ∧ v ∈ ws then
      WordCell.store coherent (wordWrite bs (line * 32 + v)).1 (wordWrite bs (line * 32 + v)).2 (k.cell line v) else k.cell l v := by
  induction ws with
  | nil => exact fun _ _ => ⟨fun _ => Iff.rfl, rfl, fun l v => by rw [if_neg fun h => List.not_mem_nil h.2]; rfl⟩
  | cons w ws ih =>
    intro k hk hnd
    obtain ⟨hw, hnd⟩ := List.nodup_cons.mp hnd
    let x := WordCell.store coherent (wordWrite bs (line * 32 + w)).1 (wordWrite bs (line * 32 + w)).2 (k.cell line w)
    have hcell : ∀ l v, (k.putCell line w x).cell l v = _ := Core.cell_putCell hk w (WordCell.store_ne_empty _ _ _ _)
    obtain ⟨-, hheld, hlength⟩ := Core.changeLine_spec k line fun l => l.put w x
    rw [← Core.putCell_eq hk] at hheld hlength
    obtain ⟨hheld', hlength', hcell'⟩ := ih ((hheld line).mpr hk) hnd
    refine ⟨fun l => (hheld' l).trans (hheld l), hlength'.trans hlength, fun l v => (hcell' l v).trans ?_⟩
    rw [hcell, hcell]
    by_cases hl : l = line
    · subst hl
      by_cases hv : v = w
      · subst hv; simp [hw, x]
      · simp [hv]
    · simp [hl]

/-- Ownership is asked for by messages alone (R371). -/
theorem Unseen.askOwn (s : State) (core line : Nat) (ws : List (Nat × BitVec 4)) : Unseen s (s.askOwn core line ws) core 0 := by
  have hsend : ∀ (u : State) (k : MsgKind) (l : List (Nat × BitVec 4)), Unseen u (if l.isEmpty then u
      else u.send k { src := .l1 core, dst := parentOf core line, line := line, mask := maskOfWords (l.map (·.1)) }) core 0 := by
    intro u k l
    split
    · exact .refl u core
    · exact .send u core _ _
  exact ((hsend s _ _).trans (hsend _ _ _)).trans (hsend _ _ _)

/-- A step of the core that leaves its cached lines is unseen. -/
theorem Unseen.mapCore_same (s : State) (core : Nat) {f : Core → Core} (hl1 : ∀ k, (f k).l1 = k.l1) (hvictim : ∀ k, (f k).victim = k.victim) :
    Unseen s (s.mapCore core f) core 0 :=
  .of_same rfl rfl (by rw [State.core_mapCore_self, hl1]) (by rw [State.core_mapCore_self, hvictim])

/-- An effect that enters the settling buffer is unseen. -/
theorem Unseen.produce (s : State) (core team : Nat) (e : Effect) : Unseen s (s.produce core team e) core 0 :=
  .mapCore_same s core (fun _ => rfl) fun _ => rfl

/-- So are the note of a coherent store's number and its requests for ownership. -/
theorem Unseen.produceCoherent (s : State) (core team line : Nat) (e : Effect) (ws : List (Nat × BitVec 4)) :
    Unseen s (((s.produce core team e).mapCore core fun k => { k with writes := k.writes ++ [k.effNo] }).askOwn core line ws) core 0 := by
  have hnoted : Unseen (s.produce core team e) ((s.produce core team e).mapCore core fun k => { k with writes := k.writes ++ [k.effNo] }) core 0 :=
    .mapCore_same _ core (fun _ => rfl) fun _ => rfl
  exact ((Unseen.produce s core team e).trans hnoted).trans (.askOwn _ core line ws)

/-- A store to one line, in the parts that matter to what the core sees: room for the line, the fill of the words it does not store whole,
the words' stores, and steps that are unseen. -/
theorem State.storeLine_parts {s t : State} {core team slot line attr : Nat} {bs : List (Nat × Byte)} (hdev : isDevice (line * 128) = false)
    (h : s.storeLine core team slot line attr bs = some t) (hroom : (s.core core).holds line ∨ (s.core core).l1.length < Config.l1Lines) :
    let ws := sortNat ((bs.map fun b => b.1 / 4 % 32).eraseDups)
    ∃ f : State, Unseen s f core 1 ∧ (f.core core).holds line ∧
      (isCoherent attr = false → ∀ w, w ∈ ws → (wordWrite bs (line * 32 + w)).2 ≠ 15 →
        ¬ (((f.core core).cell line w).st = .i ∧ ((f.core core).cell line w).pendMask = 0)) ∧
      Unseen (f.setCore core ((f.core core).storeWords (isCoherent attr) line bs ws)) t core 0 := by
  intro ws
  unfold State.storeLine at h
  dsimp only at h
  rw [if_neg (by rw [hdev]; decide)] at h
  split at h
  · cases h
  next u hu =>
  obtain ⟨-, hu⟩ := Option.ite_none_right_eq_some.mp hu
  obtain ⟨halloc, hheld⟩ := State.allocLine_spec hu hroom
  let v := if ((s.core core).l1.line? line).isSome then u else u.noteVictim core line
  have hv : Unseen u v core 0 := by
    show Unseen u (ite _ u (u.noteVictim core line)) core 0
    split
    · exact .refl u core
    · exact .noteVictim u core _
  have hvheld := hv.kept line hheld
  let ps := ws.map fun w => (w, wordWrite bs (line * 32 + w))
  have hwords : ∀ k : Core, ps.foldl (fun k w => k.putCell line w.1 (WordCell.store (isCoherent attr) w.2.1 w.2.2 (k.cell line w.1))) k =
      k.storeWords (isCoherent attr) line bs ws := fun k => List.foldl_map
  rw [hwords] at h
  cases hc : isCoherent attr with
  | true =>
    simp only [hc, if_true, Option.some.injEq] at h
    refine ⟨v, halloc.trans hv, hvheld, fun hplain => Bool.noConfusion hplain, ?_⟩
    subst h
    exact .produceCoherent _ core team line _ _
  | false =>
    obtain ⟨hfill, hfilled⟩ := State.fillLine_spec hvheld attr ((ps.filter fun w => w.2.2 != 15).map (·.1))
    simp only [hc, Bool.false_eq_true, if_false, Option.some.injEq] at h
    refine ⟨_, (halloc.trans hv).trans hfill, hfill.kept line hvheld, fun _ w hw hpart => hfilled hc w ?_, ?_⟩
    · exact List.mem_map.mpr ⟨(w, _), List.mem_filter.mpr ⟨List.mem_map.mpr ⟨w, hw, rfl⟩, by simpa using hpart⟩, rfl⟩
    · subst h
      exact .produce _ core team _

/-- After a store to one line the core sees its bytes, and every other byte as before (R209, R347). -/
theorem State.storeLine_sees {s t : State} {core team slot line attr : Nat} {bs : List (Nat × Byte)} (hdev : isDevice (line * 128) = false)
    (hbs : ∀ b, b ∈ bs → b.1 / 128 = line) (h : s.storeLine core team slot line attr bs = some t)
    (hroom : (s.core core).holds line ∨ (s.core core).l1.length < Config.l1Lines) :
    Follows s t core 1 ∧ ∀ a, isDevice a = false → t.seesByte core a = (lastWrite bs a).getD (s.seesByte core a) := by
  obtain ⟨f, hbefore, hheld, hfilled, hafter⟩ := State.storeLine_parts hdev h hroom
  let ws := sortNat ((bs.map fun b => b.1 / 4 % 32).eraseDups)
  have hperm : ws.Perm ((bs.map fun b => b.1 / 4 % 32).eraseDups) := sortBy_perm _ _
  have hmem : ∀ w, w ∈ ws ↔ ∃ b, b ∈ bs ∧ b.1 / 4 % 32 = w := fun w => by rw [hperm.mem_iff, List.mem_eraseDups, List.mem_map]
  obtain ⟨hkept, hlength, hcell⟩ := Core.storeWords_spec (coherent := isCoherent attr) (bs := bs) ws hheld (hperm.nodup_iff.mpr (nodup_eraseDups _))
  let k := (f.core core).storeWords (isCoherent attr) line bs ws
  have hcore : (f.setCore core k).core core = k := State.core_mapCore_self f core fun _ => k
  have hstored : Follows f (f.setCore core k) core 0 := by
    refine ⟨rfl, fun _ _ => rfl, fun l hl => ?_, ?_⟩
    · rw [hcore]; exact (hkept l).mpr hl
    · rw [hcore]; exact Nat.le_of_eq hlength
  refine ⟨(hbefore.toFollows.trans hstored).trans hafter.toFollows, fun a ha => ?_⟩
  rw [hafter.sees a ha, ← hbefore.sees a ha, State.seesByte_eq, State.seesByte_eq, hcore, hstored.fillWord ha, hcell]
  have hj : a % 4 < 4 := Nat.mod_lt _ (by decide)
  by_cases hin : a / 4 / 32 = line ∧ a / 4 % 32 ∈ ws
  · have haddr : 4 * (line * 32 + a / 4 % 32) + a % 4 = a := by omega
    have hword := wordWrite_byte bs (line * 32 + a / 4 % 32) hj
    rw [haddr] at hword
    rw [if_pos hin, hin.1, WordCell.byteOf_store _ _ (fun hc hpart => hfilled hc _ hin.2 hpart) hj, hword]
  · have hnone : lastWrite bs a = none := lastWrite_eq_none fun b hb e => by
      have hline := hbs b hb
      exact hin ⟨by omega, (hmem _).mpr ⟨b, hb, by rw [e]⟩⟩
    rw [if_neg hin, hnone]
    rfl

/-! ### Several lines -/

/-- The bytes of a list of byte writes that lie in one line. -/
def bytesOfLine (bs : List (Nat × Nat × Byte)) (l : Nat) : List (Nat × Byte) := (bs.filter fun b => b.2.1 / 128 == l).map fun b => b.2

theorem lastWrite_bytesOfLine (bs : List (Nat × Nat × Byte)) (l a : Nat) :
    lastWrite (bytesOfLine bs l) a = if a / 128 = l then lastWrite (bs.map (·.2)) a else none := by
  have hfilter : bytesOfLine bs l = (bs.map (·.2)).filter fun b => b.1 / 128 == l := by
    unfold bytesOfLine; rw [List.filter_map]; rfl
  rw [hfilter]
  split
  · next e => exact lastWrite_filter fun b _ hb => by simp [hb, e]
  · next e => exact lastWrite_eq_none fun b hb hba => e (by
      have := (List.mem_filter.mp hb).2
      rw [← hba]; exact beq_iff_eq.mp this)

/-- A store that cannot be made stops those after it. -/
theorem foldl_bind_none {α σ : Type} (f : σ → α → Option σ) (l : List α) : l.foldl (fun acc x => acc.bind fun s => f s x) none = none := by
  induction l with
  | nil => rfl
  | cons _ _ ih => exact ih

/-- Lines that are there or for which there is room take their bytes one after the other. -/
theorem State.storeLines_sees {core team slot : Nat} {bs : List (Nat × Nat × Byte)} (ls : List (Nat × Nat)) : ∀ {s t : State},
    (ls.map (·.1)).Nodup → (∀ l, l ∈ ls → isDevice (l.1 * 128) = false) →
    ((∀ l, l ∈ ls → (s.core core).holds l.1) ∨ (s.core core).l1.length + ls.length ≤ Config.l1Lines) →
    ls.foldl (fun acc l => acc.bind fun s => s.storeLine core team slot l.1 l.2 (bytesOfLine bs l.1)) (some s) = some t →
    ∀ a, isDevice a = false → t.seesByte core a = if a / 128 ∈ ls.map (·.1) then (lastWrite (bs.map (·.2)) a).getD (s.seesByte core a)
      else s.seesByte core a := by
  induction ls with
  | nil =>
    intro s t _ _ _ h a _
    rw [← Option.some.inj h]
    simp
  | cons l ls ih =>
    intro s t hnd hdev hroom h a ha
    obtain ⟨hl, hnd⟩ := List.nodup_cons.mp hnd
    rw [List.foldl_cons, Option.bind_some] at h
    cases hu : s.storeLine core team slot l.1 l.2 (bytesOfLine bs l.1) with
    | none =>
      rw [hu, foldl_bind_none] at h
      cases h
    | some u =>
      rw [hu] at h
      have hbytes : ∀ b, b ∈ bytesOfLine bs l.1 → b.1 / 128 = l.1 := fun b hb => by
        obtain ⟨x, hx, rfl⟩ := List.mem_map.mp hb
        exact beq_iff_eq.mp (List.mem_filter.mp hx).2
      obtain ⟨hfollows, hsees⟩ := State.storeLine_sees (hdev l List.mem_cons_self) hbytes hu
        (hroom.imp (fun h => h l List.mem_cons_self) fun h => by rw [List.length_cons] at h; omega)
      have hmost := hfollows.most
      have hrest := ih hnd (fun m hm => hdev m (List.mem_cons_of_mem _ hm))
        (hroom.imp (fun h m hm => hfollows.kept _ (h m (List.mem_cons_of_mem _ hm))) fun h => by rw [List.length_cons] at h; omega) h a ha
      rw [hrest, hsees a ha, lastWrite_bytesOfLine, List.map_cons]
      by_cases e : a / 128 = l.1
      · rw [if_pos e, if_neg (e ▸ hl), if_pos (e ▸ List.mem_cons_self)]
      · rw [if_neg e]
        exact if_congr (by simp [e]) rfl rfl

/-- Settles O26: a load's steps are unseen and its value is the bytes shown; a store changes the bytes it shows, line by line. -/
theorem loadsSeeStoredBytes : Obligations.LoadsSeeStoredBytes := by
  refine ⟨fun s t core slot attr pa n signed va k hdev hn ha h => ⟨fun vs hk => ?_, fun hroom a hadev => ?_⟩, ?stores⟩
  · subst hk
    simp only [byteOf_eq]
    exact State.startLoad_value hdev hn ha h
  · exact (State.loadLine_unseen (State.startLoad_memory hdev h).1 hroom).sees a hadev
  case stores =>
    intro s t core team slot bs hbs hroom h a ha
    let ls := (bs.map fun b => (b.2.1 / 128, b.1)).eraseDups
    have hls : ∀ l, l ∈ ls ↔ ∃ b, b ∈ bs ∧ (b.2.1 / 128, b.1) = l := fun l => by rw [List.mem_eraseDups, List.mem_map]
    have hnd : (ls.map (·.1)).Nodup := by
      refine List.Nodup.map_on (fun l hl m hm e => ?_) (nodup_eraseDups _)
      obtain ⟨b, hb, rfl⟩ := (hls l).mp hl
      obtain ⟨b', hb', rfl⟩ := (hls m).mp hm
      obtain ⟨-, hattr, -⟩ := hbs b hb
      rw [hattr b' hb' e.symm, show b.2.1 / 128 = b'.2.1 / 128 from e]
    have hcount : ls.length ≤ linesOf bs := by
      rw [← List.length_map (f := (·.1))]
      refine (List.subperm_of_subset hnd fun l hl => ?_).length_le
      obtain ⟨x, hx, rfl⟩ := List.mem_map.mp hl
      obtain ⟨b, hb, rfl⟩ := (hls x).mp hx
      exact List.mem_eraseDups.mpr (List.mem_map.mpr ⟨b, hb, rfl⟩)
    have hsees := State.storeLines_sees (bs := bs) ls hnd (fun l hl => by
        obtain ⟨b, hb, rfl⟩ := (hls l).mp hl
        exact (isDevice_line b.2.1).trans (hbs b hb).1)
      (hroom.imp (fun hall l hl => by obtain ⟨b, hb, rfl⟩ := (hls l).mp hl; exact hall b hb) fun h => by omega) h a ha
    rw [hsees]
    split
    · rfl
    · next hout =>
      have hnone : lastWrite (bs.map (·.2)) a = none := lastWrite_eq_none fun b hb e => by
        obtain ⟨x, hx, rfl⟩ := List.mem_map.mp hb
        exact hout (List.mem_map.mpr ⟨_, (hls _).mpr ⟨x, hx, rfl⟩, by rw [← e]⟩)
      rw [hnone]
      rfl

end Sys2Proof.Machine
end

section
/-! O19, O20: every step and the reset leave a machine in which nobody issues and no group that is whole holds a favour (R143). -/
namespace Sys2Proof.Machine
open Sys2Proof

/-- A group that is settled at the end of a step holds a favour only while it is divided. -/
theorem Group.undivide_divided {g : Group} (h : g.undivide.favour.isSome = true) : g.undivide.divided = true := by
  unfold Group.undivide at h ⊢
  by_cases hwhole : (g.favour.isSome && !g.divided) = true
  · rw [if_pos hwhole] at h; cases h
  · rw [if_neg hwhole] at h ⊢; simpa [h] using hwhole

/-- What stands at the end of every step is calm, whatever happened in it. -/
theorem State.endStep_calm (before s : State) : (State.endStep before s).calm := by
  refine ⟨rfl, fun t ht g hg => ?_⟩
  obtain ⟨u, -, rfl⟩ := List.mem_map.mp ht
  obtain ⟨h, -, rfl⟩ := List.mem_map.mp hg
  exact Group.undivide_divided

/-- A step's outcome is what the end of the step made of one. -/
theorem finish_calm {before t : State} {clock : Bool} {r : Result} (h : finish before clock r = .next t) : t.calm := by
  cases r with
  | next s =>
    rw [finish] at h
    injection h with h
    subst h
    cases clock <;> exact State.endStep_calm before s
  | fault f => rw [finish] at h; injection h
  | refused x => rw [finish] at h; injection h

/-- Every step of the package is the end of something that happened. -/
theorem schedStep_finishes (run : Runner) (input : Instr → State → Result) (s : State) :
    ∃ clock r, schedStep run input s = finish s clock r := by
  unfold schedStep
  repeat' split
  all_goals exact ⟨_, _, rfl⟩

/-- Settles O19: whatever acts in a step, its outcome goes through the end of the step. -/
theorem stepLeavesMachineCalm : Obligations.StepLeavesMachineCalm := by
  intro s t _ h
  obtain ⟨clock, r, hfinish⟩ := schedStep_finishes runWords exec s
  exact finish_calm (hfinish.symm.trans h)

/-- Settles O20: no team is resident right after reset. -/
theorem resetIsCalm : Obligations.ResetIsCalm := ⟨rfl, fun _ ht => by cases ht⟩

end Sys2Proof.Machine
end

section
/-! O11: the rotation of a group and the count of its issues (R143). -/
namespace Sys2Proof.Machine
open Sys2Proof

/-- A rotation may favour position `i` where the path at `start` has the turn: a live thread there is not parked and not in that path. -/
def Group.mayFavour (g : Group) (start i : Nat) : Bool := (g.thread i).live && !(g.thread i).parked && !(g.members start).contains i

theorem Group.mayFavour_iff (g : Group) (start i : Nat) :
    g.mayFavour start i = true ↔ (g.thread i).live = true ∧ (g.thread i).parked = false ∧ i ∉ g.members start := by
  simp [Group.mayFavour, and_assoc]

/-- A rotation keeps the favour where no position may be favoured. -/
theorem Group.rotate_favour (g : Group) (s0 : Nat) : (g.rotate s0).favour =
    (((List.range 32).map fun k => (g.favour.getD s0 + 1 + k) % 32).find? (g.mayFavour (g.favour.getD s0))).or g.favour := by
  show Group.favour (match ((List.range 32).map fun k => (g.favour.getD s0 + 1 + k) % 32).find? (g.mayFavour (g.favour.getD s0)) with
    | some f => { g with favour := some f, n := 0 }
    | none => { g with n := 0 }) = _
  split <;> next h => rw [h]; rfl

/-- The first value of `f` below `n` that satisfies `p`. -/
theorem find?_map_range {f : Nat → Nat} {p : Nat → Bool} {n k : Nat} (hk : k < n) (hp : p (f k) = true) (hfirst : ∀ j, j < k → p (f j) = false) :
    ((List.range n).map f).find? p = some (f k) := by
  rw [List.find?_map, Option.map_eq_some_iff]
  exact ⟨k, List.find?_range_eq_some.mpr ⟨hp, List.mem_range.mpr hk, fun j hj => by simp [hfirst j hj]⟩, rfl⟩

/-- How an issue settles a favour, by whether its group is divided and its quantum full. -/
theorem Group.issued_eq (g : Group) (lead : Nat) : g.issued lead =
    if g.divided then
      if g.quantum.toNat ≠ 0 ∧ g.quantum.toNat ≤ g.n + 1 then ({ g with n := g.n + 1 } : Group).rotate lead else { g with n := g.n + 1 }
    else { g with n := g.n + 1, favour := none } := rfl

/-- Settles O11: a rotation favours what a search from the start finds; an issue counts and then settles the favour. -/
theorem issuesCountAndRotate : Obligations.IssuesCountAndRotate := by
  refine ⟨fun g s0 => ?_, fun g lead => ?_⟩
  · intro start may
    have hmay : ∀ i, g.mayFavour start i = true ↔ may i := g.mayFavour_iff start
    refine ⟨Group.rotate_n g s0, Group.rotate_rest g s0, fun k hk hok hfirst => ?_, fun hnone => ?_⟩
    · rw [Group.rotate_favour, find?_map_range hk ((hmay _).mpr hok) fun j hj => Bool.eq_false_iff.mpr fun h => hfirst j hj ((hmay _).mp h)]
      rfl
    · rw [Group.rotate_favour, List.find?_eq_none.mpr]
      · rfl
      · intro x hx
        obtain ⟨k, hk, rfl⟩ := List.mem_map.mp hx
        exact fun h => hnone k (List.mem_range.mp hk) ((hmay _).mp h)
  · rw [Group.issued_eq]
    refine ⟨fun hwhole => ?_, fun hdiv hq hfull => ?_, fun hdiv hpart => ?_⟩
    · rw [if_neg (by simp [hwhole])]
      exact ⟨rfl, rfl⟩
    · rw [if_pos hdiv, if_pos ⟨hq, hfull⟩]
      exact ⟨Group.rotate_n _ _, by rw [Group.rotate_favour, Group.rotate_favour]; rfl⟩
    · rw [if_pos hdiv, if_neg (by omega)]
      exact ⟨rfl, rfl⟩

end Sys2Proof.Machine
end

section
/-! The lane exchanges: how the members of a path arrive, what each is given when its exchange completes, and the common shape of every
exchange instruction (R149). -/
namespace Sys2Proof.Machine
open Sys2Proof

/-! ### Arriving -/

/-- The thread at a position, as it waits in the exchange it has arrived at with `x`. -/
def Thread.arriving (x : Arrival) (t : Thread) : Thread := { t.tick with status := .blocked (.exchange x) }

/-- The group after the threads `ms` have arrived, each with its own operands. -/
def Group.arrived (g : Group) (x : Nat → Arrival) (ms : List Nat) : Group := g.mapAt ms fun i => Thread.arriving (x i)

/-- Changing one thread first and then the others changes them all. -/
theorem Group.mapAt_cons {g : Group} {i : Nat} {ms : List Nat} (hi : i < g.threads.length) (hn : i ∉ ms) (f : Nat → Thread → Thread) :
    g.mapAt (i :: ms) f = (g.setThread i (f i (g.thread i))).mapAt ms f := by
  have hthread : g.thread i = g.threads[i] := by simp [Group.thread, hi]
  unfold Group.mapAt Group.setThread
  congr 1
  refine List.ext_getElem (by simp) fun j h1 h2 => ?_
  simp only [List.getElem_mapIdx, List.getElem_set]
  by_cases e : i = j
  · subst e; simp [hn, hthread]
  · simp [e, Ne.symm e]

theorem Group.mapAt_nil (g : Group) (f : Nat → Thread → Thread) : g.mapAt [] f = g :=
  congrArg (fun l => { g with threads := l }) (List.ext_getElem (by simp) (by simp))

/-- A thread that agrees with every thread that has arrived disagrees with none. -/
theorem Group.clash_of_agree {g : Group} {x : Arrival} (h : ∀ u y, (g.thread u).arrival? = some y → y.mask = x.mask ∧ y.key = x.key) (t : Nat) :
    g.clash t x = false := by
  refine List.any_eq_false.mpr fun u _ => ?_
  cases hy : (g.thread u).arrival? with
  | none => simp
  | some y => obtain ⟨hm, hk⟩ := h u y hy; simp [hm, hk]

/-- Threads that name themselves and agree with each other and with all that have arrived join them (R149). -/
theorem arriveAll_joins {x : Nat → Arrival} {M : Mask} {key : Nat} (ms : List Nat) : ∀ {g : Group} (fs : List ThreadTrap), ms.Nodup →
    (∀ i, i ∈ ms → i < g.threads.length ∧ (x i).mask = M ∧ (x i).key = key ∧ M.getLsbD i = true) →
    (∀ u y, (g.thread u).arrival? = some y → y.mask = M ∧ y.key = key) → arriveAll x ms g fs = (g.arrived x ms, fs) := by
  induction ms with
  | nil => intro g fs _ _ _; rw [Group.arrived, Group.mapAt_nil]; rfl
  | cons i ms ih =>
    intro g fs hn hx hall
    obtain ⟨hi, hn⟩ := List.nodup_cons.mp hn
    obtain ⟨hlen, hmask, hkey, hself⟩ := hx i List.mem_cons_self
    have hclash : g.clash i (x i) = false := Group.clash_of_agree (fun u y hy => hmask ▸ hkey ▸ hall u y hy) i
    unfold arriveAll
    simp only [hmask, hself, hclash, Bool.not_true, Bool.or_self, Bool.false_eq_true, if_false]
    refine (ih fs hn (fun j hj => ?_) fun u y hy => ?_).trans ?_
    · obtain ⟨hj', hrest⟩ := hx j (List.mem_cons_of_mem _ hj)
      exact ⟨by simpa [Group.setThread] using hj', hrest⟩
    · rw [Group.thread_setThread hlen] at hy
      by_cases e : u = i
      · subst e
        rw [if_pos rfl] at hy
        obtain rfl : x u = y := Option.some.inj hy
        exact ⟨hmask, hkey⟩
      · rw [if_neg e] at hy; exact hall u y hy
    · exact congrArg (·, fs) (Group.mapAt_cons hlen hi fun i => Thread.arriving (x i)).symm

/-- Threads whose masks do not name them trap with the collective mismatch, and nobody arrives (R149). -/
theorem arriveAll_mismatches {x : Nat → Arrival} {g : Group} (ms : List Nat) : ∀ (fs : List ThreadTrap),
    (∀ i, i ∈ ms → (x i).mask.getLsbD i = false) →
    arriveAll x ms g fs = (g, fs ++ ms.map fun i => { pos := i, info := { code := 0x0C }, epc := (g.thread i).pc }) := by
  induction ms with
  | nil => intro fs _; rw [List.map_nil, List.append_nil]; rfl
  | cons i ms ih =>
    intro fs hx
    unfold arriveAll
    simp only [hx i List.mem_cons_self, Bool.not_false, Bool.true_or, if_true]
    rw [ih _ fun j hj => hx j (List.mem_cons_of_mem _ hj), List.append_assoc, List.map_cons]
    rfl

/-! ### Completing -/

/-- A member of an exchange that is complete leaves it with its result; one of an exchange that is not waits on. -/
theorem Group.exchangeProgress_thread_arrival {g : Group} {i : Nat} {x : Arrival} (h : (g.thread i).arrival? = some x) :
    g.exchangeProgress.thread i = if g.exchangeDone x.mask then
      Thread.exchanged g.handler x (exchangeResult (x.key % 16) (x.key / 16) (g.exchangeSet x.mask) (fun u => ((g.thread u).arrival?).getD x) i) (g.thread i)
    else g.thread i := by
  unfold Group.exchangeProgress
  refine (Group.thread_mapIdx g _ (fun _ => rfl) i).trans ?_
  rw [h]

/-- A group none of whose threads waits in an exchange is as before. -/
theorem Group.exchangeProgress_of_none {g : Group} (h : ∀ u, (g.thread u).arrival? = none) : g.exchangeProgress = g := by
  unfold Group.exchangeProgress
  have hthreads : ∀ f : Nat → Thread → Arrival → Thread,
      (g.threads.mapIdx fun i t => match t.arrival? with | none => t | some x => f i t x) = g.threads := fun f => by
    refine List.ext_getElem (by simp) fun i h1 h2 => ?_
    have hnone := h i
    rw [Group.thread, List.getD_eq_getElem _ _ h2] at hnone
    simp only [List.getElem_mapIdx, hnone]
  exact congrArg (fun l => { g with threads := l }) (hthreads fun i t x => if g.exchangeDone x.mask then _ else t)

/-- A thread whose group is in no handler it takes no part in goes on as it leaves a wait (R332). -/
theorem Thread.release_of_awake {handler : Bool} {t : Thread} (h : handler = true → t.resume.isSome = true) :
    Thread.release handler t = { t with status := .running, pc := t.pc + 4 } := by
  have : (handler && t.resume.isNone) = false := by
    cases handler
    · rfl
    · have := h rfl
      cases hr : t.resume <;> simp_all
  rw [Thread.release, this]; rfl

/-- The members of a path are its running positions in ascending order. -/
theorem Ctx.ms_spec {s : State} {c : Ctx} (h : s.path? = some c) : c.ms = (List.range 32).filter fun i => decide (i ∈ c.ms) := by
  obtain ⟨-, -, -, hms, -⟩ := State.path?_spec h
  rw [hms]
  unfold Group.members
  split
  · refine List.filter_congr fun i hi => ?_
    rw [Bool.eq_iff_iff]
    simp [List.mem_range.mp hi]
  · simp

theorem Ctx.ms_nodup {s : State} {c : Ctx} (h : s.path? = some c) : c.ms.Nodup := by
  rw [Ctx.ms_spec h]
  exact List.nodup_range.filter _

theorem Ctx.ms_lt {s : State} {c : Ctx} (h : s.path? = some c) {i : Nat} (hi : i ∈ c.ms) : i < 32 := by
  rw [Ctx.ms_spec h] at hi
  exact List.mem_range.mp (List.mem_filter.mp hi).1

theorem Ctx.running {s : State} {c : Ctx} (h : s.path? = some c) {i : Nat} (hi : i ∈ c.ms) : (c.group.thread i).status = .running := by
  obtain ⟨-, -, -, hms, -⟩ := State.path?_spec h
  obtain ⟨-, -, hrun, -⟩ := Group.mem_members (hms ▸ hi)
  unfold Thread.running at hrun
  split at hrun
  · assumption
  all_goals cases hrun

/-! ### An exchange instruction -/

/-- What a thread of a path arrives with at the exchange its instruction makes. -/
def Ctx.arrival (c : Ctx) (d minor pat look : Nat) (a : View → DWord) (b : View → Word) (p : View → Bool) (i : Nat) : Arrival :=
  { key := minor + 16 * pat, mask := (c.view i).v d, a := a (c.view i), b := b (c.view i), pred := p (c.view i), dst := vIndex c.group.handler d, look := look }

section Exchange
variable {s : State} {c : Ctx} {r : Regs} {d minor pat look : Nat} {a : View → DWord} {b : View → Word} {p : View → Bool} {M : Mask}

/-- The path's threads arrive, and what is complete is completed. -/
theorem laneExchange_ready (h : LaneReady s c r) (hroom : (minor = 8 ∨ minor = 9) → c.roomForOut = true) :
    laneExchange r d minor pat look a b p s =
      let (g, fs) := arriveAll (c.arrival d minor pat look a b p) c.ms c.group []
      .next ((s.putGroup c (g.exchangeProgress.issued c.lead)).takeTraps c.team.id c.group.idx fs) := by
  have hout : ¬ ((minor = 8 ∨ minor = 9) ∧ (!c.roomForOut) = true) := fun ⟨hm, hr⟩ => by simp [hroom hm] at hr
  unfold laneExchange
  rw [h.path]
  simp only [h.named, h.sound, h.free, hout, Bool.not_true, Bool.false_eq_true, if_false]
  rfl

/-- Threads of a path that agree on a mask which names each of them arrive, and none traps. -/
theorem laneExchange_arrives (h : LaneReady s c r) (hroom : (minor = 8 ∨ minor = 9) → c.roomForOut = true)
    (halone : ∀ u, (c.group.thread u).arrival? = none) (hmask : ∀ i, i ∈ c.ms → (c.view i).v d = M ∧ M.getLsbD i = true) :
    laneExchange r d minor pat look a b p s =
      .next (s.putGroup c ((c.group.arrived (c.arrival d minor pat look a b p) c.ms).exchangeProgress.issued c.lead)) := by
  rw [laneExchange_ready h hroom, arriveAll_joins (M := M) (key := minor + 16 * pat) c.ms [] (Ctx.ms_nodup h.path)
    (fun i hi => ⟨State.path?_mem h.path hi, (hmask i hi).1, rfl, (hmask i hi).2⟩) fun u y hy => by rw [halone u] at hy; cases hy]
  rfl

/-- The group of a path whose members have arrived is, but for their status, as it was. -/
theorem Ctx.arrived_thread_mem (h : s.path? = some c) (x : Nat → Arrival) {i : Nat} (hi : i ∈ c.ms) :
    (c.group.arrived x c.ms).thread i = (c.group.thread i).arriving (x i) := Group.thread_mapAt_mem hi (State.path?_mem h hi)

theorem Ctx.arrived_thread_not (x : Nat → Arrival) {i : Nat} (hi : i ∉ c.ms) : (c.group.arrived x c.ms).thread i = c.group.thread i :=
  Group.thread_mapAt_not hi

/-- The group after the arrivals: off the path nothing has changed. -/
theorem arrived_groupDone (halone : ∀ u, (c.group.thread u).arrival? = none) (x : Nat → Arrival) {P : Nat → Thread → Prop}
    (hP : ∀ i, i ∈ c.ms → P i ((c.group.arrived x c.ms).exchangeProgress.thread i)) :
    GroupDone c ((c.group.arrived x c.ms).exchangeProgress.issued c.lead) P where
  rest := congrArg (fun g : Group => { g with threads := c.group.threads }) (Group.issued_rest (c.group.arrived x c.ms).exchangeProgress c.lead)
  length := by simp [Group.exchangeProgress, Group.arrived, Group.mapAt]
  off i hi := by
    have hsame := Ctx.arrived_thread_not x hi
    rw [Group.issued_thread, Group.exchangeProgress_thread (by rw [hsame]; exact halone i), hsame]
  on i hi := by rw [Group.issued_thread]; exact hP i hi

/-- The set of an exchange whose mask names the members of a path and no other live thread is the path. -/
theorem Together.exchangeSet (h : s.path? = some c) (ht : Together c d M) (x : Nat → Arrival) : (c.group.arrived x c.ms).exchangeSet M = c.ms := by
  refine (List.filter_congr fun u hu => ?_).trans (Ctx.ms_spec h).symm
  by_cases hm : u ∈ c.ms
  · have hlive : (Thread.arriving (x u) (c.group.thread u)).live = true := rfl
    rw [Ctx.arrived_thread_mem h x hm, hlive, ht.named u hm]; simp [hm]
  · rw [Ctx.arrived_thread_not x hm, decide_eq_false hm]
    exact Bool.eq_false_iff.mpr fun hl => hm (ht.whole u (List.mem_range.mp hu) (by simp_all) (by simp_all))

/-- What an exchange gives a member depends on what its members arrived with alone. -/
theorem exchangeResult_congr {S : List Nat} {x y : Nat → Arrival} (h : ∀ u, u ∈ S → x u = y u) {t : Nat} (ht : t ∈ S) :
    exchangeResult minor pat S x t = exchangeResult minor pat S y t := by
  have hor : ∀ j o, sourceOr S (fun u => lowWord (x u).a) j o = sourceOr S (fun u => lowWord (y u).a) j o := fun j o => by
    unfold sourceOr
    split
    · next hj => exact congrArg (fun z => lowWord z.a) (h j (by simpa using hj))
    · rfl
  have hfilter : ∀ f : Arrival → Bool, S.filter (fun u => f (x u)) = S.filter fun u => f (y u) := fun f =>
    List.filter_congr fun u hu => by rw [h u hu]
  have hany : ∀ f : Arrival → Bool, S.any (fun u => f (x u)) = S.any fun u => f (y u) := fun f => by
    rw [Bool.eq_iff_iff, List.any_eq_true, List.any_eq_true]
    exact exists_congr fun u => and_congr_right fun hu => by rw [h u hu]
  have hall : ∀ f : Arrival → Bool, S.all (fun u => f (x u)) = S.all fun u => f (y u) := fun f => by
    rw [Bool.eq_iff_iff, List.all_eq_true, List.all_eq_true]
    exact forall₂_congr fun u hu => by rw [h u hu]
  have hmap : S.map (fun u => lowWord (x u).a) = S.map fun u => lowWord (y u).a := List.map_congr_left fun u hu => by rw [h u hu]
  have htree : ((List.range 32).map fun i => if S.contains i then some (lowWord (x i).a) else none) =
      (List.range 32).map fun i => if S.contains i then some (lowWord (y i).a) else none := List.map_congr_left fun u _ => by
    split
    · next hu => rw [h u (by simpa using hu)]
    · rfl
  unfold exchangeResult
  simp only [h t ht, hor, maskOf, voteSpan, reduceAll, hmap, htree, hfilter fun z => z.pred, hfilter fun z => lowWord z.a == lowWord (y t).a,
    hfilter fun z => z.a == (y t).a, hany fun z => z.pred, hall fun z => z.pred, hany fun z => !z.pred, hall fun z => !z.pred]

/-- An exchange that its members issue together completes at once, and each leaves it with its result (R149). -/
theorem laneExchange_together (h : LaneReady s c r) (ht : Together c d M) (hroom : (minor = 8 ∨ minor = 9) → c.roomForOut = true)
    (hminor : minor < 16) : ∃ t g, laneExchange r d minor pat look a b p s = .next t ∧ Alters s t c g ∧ GroupDone c g fun i u =>
      let x := c.arrival d minor pat look a b p
      u = Thread.exchanged c.group.handler (x i) (exchangeResult minor pat c.ms x i) ((c.group.thread i).arriving (x i)) := by
  let x := c.arrival d minor pat look a b p
  refine ⟨_, _, laneExchange_arrives h hroom ht.alone fun i hi => ⟨ht.alike i hi, ht.named i hi⟩,
    State.putGroup_alters h.path (by simp [Group.exchangeProgress, Group.arrived, Group.mapAt]), arrived_groupDone ht.alone x fun i hi => ?_⟩
  have hS := ht.exchangeSet h.path x
  have harrival : ∀ u, u ∈ c.ms → ((c.group.arrived x c.ms).thread u).arrival? = some (x u) := fun u hu => by
    rw [Ctx.arrived_thread_mem h.path x hu]; rfl
  have hmask : (x i).mask = M := ht.alike i hi
  have hkey : (x i).key % 16 = minor ∧ (x i).key / 16 = pat := by
    show (minor + 16 * pat) % 16 = minor ∧ (minor + 16 * pat) / 16 = pat
    omega
  have hdone : (c.group.arrived x c.ms).exchangeDone M = true := by
    unfold Group.exchangeDone
    rw [hS]
    exact List.all_eq_true.mpr fun u hu => by rw [harrival u hu]; rfl
  rw [Group.exchangeProgress_thread_arrival (harrival i hi), hmask, hdone, if_pos rfl, hS, hkey.1, hkey.2, Ctx.arrived_thread_mem h.path x hi,
    exchangeResult_congr (y := x) (fun u hu => by rw [harrival u hu]; rfl) hi]
  rfl

/-- A member of an exchange other than a match leaves it with its result in its register, at the next word. -/
theorem Thread.exchanged_writes {c : Ctx} (h : s.path? = some c) (hawake : c.awake) {i : Nat} (hi : i ∈ c.ms) {x : Arrival}
    (hx : x.key % 16 ≠ 8 ∧ x.key % 16 ≠ 9) (hd : x.dst = vIndex c.group.handler d) (w : Word) :
    ThreadDone c.group.handler (c.group.thread i) (Thread.exchanged c.group.handler x w ((c.group.thread i).arriving x))
      ((c.group.thread i).pc + 4) [(d, w)] [] := by
  have hrun := Ctx.running h hi
  have hresume : c.group.handler = true → (((c.group.thread i).arriving x).writeV x.dst w).resume.isSome = true := fun hh => by
    rw [Thread.writeV_rest]; exact hawake hh i hi
  have hsame : Thread.exchanged c.group.handler x w ((c.group.thread i).arriving x) =
      (((c.view i).setV d w).goTo ((c.group.thread i).pc + 4)).tick := by
    rw [Thread.exchanged, if_neg (by omega), Thread.release_of_awake hresume, hd]
    unfold View.setV Ctx.view Thread.writeV Thread.goTo Thread.tick Thread.arriving Thread.tick
    split <;> simp [hrun]
  rw [hsame]
  exact threadDone_setV (c.view i) d w _

/-- An exchange instruction other than a match gives each member what its exchange gives it. -/
theorem exchanges_of_laneExchange {i : Instr} {R : Ctx → Nat → Word} (he : ∀ s, exec i s = laneExchange r d minor pat look a b p s)
    (hminor : minor < 16 ∧ minor ≠ 8 ∧ minor ≠ 9)
    (hR : ∀ c j, j ∈ c.ms → exchangeResult minor pat c.ms (c.arrival d minor pat look a b p) j = R c j) : Exchanges i r d R := by
  intro s c M h ht
  obtain ⟨t, g, hrun, halters, hdone⟩ := laneExchange_together (look := look) (a := a) (b := b) (p := p) (pat := pat) h ht (fun hm => by omega) hminor.1
  refine ⟨t, g, (he s).trans hrun, halters, hdone.rest, hdone.length, hdone.off, fun j hj => ?_⟩
  have hkey : (c.arrival d minor pat look a b p j).key % 16 = minor := by
    show (minor + 16 * pat) % 16 = minor
    omega
  rw [hdone.on j hj, ← hR c j hj]
  exact Thread.exchanged_writes h.path ht.awake hj (by omega) rfl _

end Exchange

end Sys2Proof.Machine
end

section
/-! O32: shuffles, swizzles, votes and reductions (R149, R151, R152, R153, R155). -/
namespace Sys2Proof.Machine
open Sys2Proof

/-! ### What the members' operands come to -/

@[simp] theorem lowWord_setWidth (x : Word) : lowWord (x.setWidth 64) = x := by
  simp [lowWord]

theorem sourceOr_eq_memberOr (c : Ctx) (a : Nat → Word) (j : Nat) (x : Word) : sourceOr c.ms a j x = memberOr c a j x := by
  simp [sourceOr, memberOr]

/-- The bits of a mask of positions (R153, R154). -/
theorem maskOf_getLsbD {S : List Nat} (hn : S.Nodup) (hS : ∀ j, j ∈ S → j < 32) (f : Nat → Bool) {u : Nat} (hu : u < 32) :
    (maskOf S f).getLsbD u = (decide (u ∈ S) && f u) := by
  let p := fun u => decide (u ∈ S) && f u
  have hperm : (S.filter f).Perm ((List.range 32).filter p) :=
    (List.perm_ext_iff_of_nodup (hn.filter _) (List.nodup_range.filter _)).mpr fun j => by
      simp only [List.mem_filter, List.mem_range, p, Bool.and_eq_true, decide_eq_true_eq]
      exact ⟨fun ⟨hj, hf⟩ => ⟨hS j hj, hj, hf⟩, fun ⟨_, hj⟩ => hj⟩
  have hsum : ((S.filter f).map fun u => 2 ^ u).sum = ((List.range 32).map fun i => if p i then 2 ^ i else 0).sum := by
    rw [(hperm.map _).sum_eq, List.sum_map_ite]
    simp
  rw [maskOf, hsum, BitVec.getLsbD_ofNat, decide_eq_true hu, Bool.true_and, (testBit_sum_two_pow p 32).2 u hu]

theorem foldl_add_eq_ofNat (r : List Word) : ∀ x : Word, r.foldl (fun p q => p + q) x = BitVec.ofNat 32 (x.toNat + (r.map BitVec.toNat).sum) := by
  induction r with
  | nil => intro x; simp
  | cons y r ih => intro x; rw [List.foldl_cons, ih]; apply BitVec.eq_of_toNat_eq; simp; omega

/-- Keeping the lesser of two by `key`, one after another, ends with a least one. -/
theorem foldl_least (key : Word → Int) (r : List Word) : ∀ x : Word, let y := r.foldl (fun p q => if key q < key p then q else p) x
    y ∈ x :: r ∧ ∀ z, z ∈ x :: r → key y ≤ key z := by
  induction r with
  | nil => intro x; simp
  | cons y r ih =>
    intro x
    obtain ⟨hmem, hle⟩ := ih (if key y < key x then y else x)
    have hkept : key (if key y < key x then y else x) ≤ key x ∧ key (if key y < key x then y else x) ≤ key y := by split <;> omega
    have hfirst := hle _ List.mem_cons_self
    refine ⟨?_, fun z hz => ?_⟩
    · rcases List.mem_cons.mp hmem with h | h
      · rw [List.foldl_cons, h]; split <;> simp
      · exact List.mem_cons_of_mem _ (List.mem_cons_of_mem _ h)
    · rcases List.mem_cons.mp hz with rfl | hz
      · exact hfirst.trans hkept.1
      · rcases List.mem_cons.mp hz with rfl | hz
        · exact hfirst.trans hkept.2
        · exact hle z (List.mem_cons_of_mem _ hz)

theorem foldl_and_getLsbD (u : Nat) (r : List Word) : ∀ x : Word,
    (r.foldl (fun p q => p &&& q) x).getLsbD u = (x :: r).all fun y => y.getLsbD u := by
  induction r with
  | nil => intro x; simp
  | cons y r ih => intro x; rw [List.foldl_cons, ih]; simp [Bool.and_assoc]

theorem foldl_or_getLsbD (u : Nat) (r : List Word) : ∀ x : Word,
    (r.foldl (fun p q => p ||| q) x).getLsbD u = (x :: r).any fun y => y.getLsbD u := by
  induction r with
  | nil => intro x; simp
  | cons y r ih => intro x; rw [List.foldl_cons, ih]; simp [Bool.or_assoc]

theorem reduceAll_add (S : List Nat) (a : Nat → Word) : reduceAll 10 S a = BitVec.ofNat 32 ((S.map a).map BitVec.toNat).sum := by
  show (match S.map a with | [] => 0 | x :: r => r.foldl (fun p q => p + q) x) = _
  cases S.map a with
  | nil => rfl
  | cons x r => exact (foldl_add_eq_ofNat r x).trans (by rw [List.map_cons, List.sum_cons])

theorem reduceAll_min {S : List Nat} (hS : S ≠ []) (a : Nat → Word) :
    reduceAll 11 S a ∈ S.map a ∧ ∀ x, x ∈ S.map a → (reduceAll 11 S a).toInt ≤ x.toInt := by
  obtain ⟨i, S, rfl⟩ := List.exists_cons_of_ne_nil hS
  exact foldl_least BitVec.toInt (S.map a) (a i)

theorem reduceAll_max {S : List Nat} (hS : S ≠ []) (a : Nat → Word) :
    reduceAll 12 S a ∈ S.map a ∧ ∀ x, x ∈ S.map a → x.toInt ≤ (reduceAll 12 S a).toInt := by
  obtain ⟨i, S, rfl⟩ := List.exists_cons_of_ne_nil hS
  have hflip : reduceAll 12 (i :: S) a = (S.map a).foldl (fun p q => if -q.toInt < -p.toInt then q else p) (a i) := by
    simp only [neg_lt_neg_iff]; rfl
  obtain ⟨hmem, hle⟩ := foldl_least (fun w => -w.toInt) (S.map a) (a i)
  rw [hflip]
  exact ⟨hmem, fun x hx => neg_le_neg_iff.mp (hle x hx)⟩

theorem reduceAll_and {S : List Nat} (hS : S ≠ []) (a : Nat → Word) (u : Nat) :
    (reduceAll 13 S a).getLsbD u = (S.map a).all fun x => x.getLsbD u := by
  obtain ⟨i, S, rfl⟩ := List.exists_cons_of_ne_nil hS
  exact foldl_and_getLsbD u (S.map a) (a i)

theorem reduceAll_or {S : List Nat} (hS : S ≠ []) (a : Nat → Word) (u : Nat) :
    (reduceAll 14 S a).getLsbD u = (S.map a).any fun x => x.getLsbD u := by
  obtain ⟨i, S, rfl⟩ := List.exists_cons_of_ne_nil hS
  exact foldl_or_getLsbD u (S.map a) (a i)

theorem reduceAll_fadd (S : List Nat) (a : Nat → Word) :
    reduceAll 15 S a = (pairwiseTree addRn 5 ((List.range 32).map fun i => if i ∈ S then some (a i) else none)).getD 0 := by
  show (pairwiseTree addRn 5 ((List.range 32).map fun i => if S.contains i then some (a i) else none)).getD 0 = _
  simp only [List.contains_iff_mem]

theorem voteSpan_eq (S : List Nat) (f : Nat → Bool) : voteSpan S f = BitVec.ofNat 32
    ((if (S.any fun i => f i == true) then 1 else 0) + (if (S.any fun i => f i == false) then 0 else 2) +
      (if (S.any fun i => f i == false) then 4 else 0) + (if (S.any fun i => f i == true) then 0 else 8)) := by
  have hall : S.all f = !S.any fun i => f i == false := by simp [List.not_any_eq_all_not]
  have hnone : (S.all fun u => !f u) = !S.any fun i => f i == true := by simp [List.not_any_eq_all_not]
  have hany : S.any f = S.any fun i => f i == true := by simp
  have hsome : (S.any fun u => !f u) = S.any fun i => f i == false := by simp
  rw [voteSpan, hall, hnone, hany, hsome]
  cases S.any fun i => f i == true <;> cases S.any fun i => f i == false <;> rfl

/-! ### The forms of exchange instructions -/

/-- A shuffle gives a member the operand of its source position (R151). -/
theorem shuffle_exchanges {i : Instr} {minor : Nat} {d a b : BitVec 7} {R : Ctx → Nat → Word} (he : ∀ s, exec i s = shuffle minor d a b s)
    (hm : minor < 4) (hR : ∀ c j, j ∈ c.ms → (match shuffleSource minor c.ms j ((c.view j).v b.toNat) with
      | some k => memberOr c (fun u => (c.view u).v a.toNat) k 0
      | none => 0) = R c j) :
    Exchanges i { reads := [(d.toNat, 1), (a.toNat, 1), (b.toNat, 1)], writes := [(d.toNat, 1)] } d.toNat R := by
  refine exchanges_of_laneExchange he (by omega) fun c j hj => (Eq.trans ?_ (hR c j hj))
  have hcases : minor = 0 ∨ minor = 1 ∨ minor = 2 ∨ minor = 3 := by omega
  simp only [← sourceOr_eq_memberOr]
  rcases hcases with rfl | rfl | rfl | rfl <;> simp only [exchangeResult, Ctx.arrival, lowWord_setWidth] <;> rfl

/-- A swizzle gives a member the operand of its source position, or where that is no member its own (R152). -/
theorem swizzle_exchanges {i : Instr} {mode : Nat} {d a : BitVec 7} {x : BitVec 5} (he : ∀ s, exec i s = swizzle mode d a x s) :
    Exchanges i { reads := [(d.toNat, 1), (a.toNat, 1)], writes := [(d.toNat, 1)] } d.toNat
      fun c j => memberOr c (fun u => (c.view u).v a.toNat) (swizzleSource mode x.toNat j) ((c.view j).v a.toNat) := by
  refine exchanges_of_laneExchange he (by omega) fun c j _ => ?_
  have hpat : (32 * mode + x.toNat) / 32 = mode ∧ (32 * mode + x.toNat) % 32 = x.toNat := by omega
  simp only [exchangeResult, Ctx.arrival, lowWord_setWidth, hpat, sourceOr_eq_memberOr]

/-- A vote gives a member what the members' predicates come to (R153). -/
theorem vote_exchanges {i : Instr} {minor : Nat} {d : BitVec 7} {p : BitVec 3} {R : Ctx → Nat → Word} (he : ∀ s, exec i s = vote minor d p s)
    (hm : minor < 8) (hR : ∀ c j, j ∈ c.ms →
      exchangeResult minor 0 c.ms (c.arrival d.toNat minor 0 0 (fun _ => 0) (fun _ => 0) fun w => w.p p.toNat) j = R c j) :
    Exchanges i { reads := [(d.toNat, 1)], writes := [(d.toNat, 1)], predReads := [p.toNat] } d.toNat R :=
  exchanges_of_laneExchange he (by omega) hR

/-- A reduction gives every member the reduction of the members' operands (R155). -/
theorem redux_exchanges {i : Instr} {minor : Nat} {d a : BitVec 7} (he : ∀ s, exec i s = redux minor d a s) (hm : minor < 16 ∧ 10 ≤ minor) :
    Exchanges i { reads := [(d.toNat, 1), (a.toNat, 1)], writes := [(d.toNat, 1)] } d.toNat
      fun c _ => reduceAll minor c.ms fun u => (c.view u).v a.toNat := by
  refine exchanges_of_laneExchange he (by omega) fun c j _ => ?_
  have hcases : minor = 10 ∨ minor = 11 ∨ minor = 12 ∨ minor = 13 ∨ minor = 14 ∨ minor = 15 := by omega
  rcases hcases with rfl | rfl | rfl | rfl | rfl | rfl <;> simp only [exchangeResult, Ctx.arrival, lowWord_setWidth] <;> rfl

/-- Position `k` of a list of members is one of them. -/
theorem memberOr_getD {c : Ctx} {a : Nat → Word} {k : Nat} (hk : k < c.ms.length) : memberOr c a (c.ms.getD k 0) 0 = a (c.ms.getD k 0) := by
  rw [List.getD_eq_getElem _ _ hk]
  exact if_pos (List.getElem_mem hk)

/-- Settles O32: each instruction is an exchange of the path's members, of one of four forms. -/
theorem shufflesVotesAndReductions : Obligations.ShufflesVotesAndReductions := by
  refine ⟨⟨fun d a b => ?_, fun d a x => ?_⟩, fun d p => ?_, fun d a => ?_⟩
  · refine ⟨shuffle_exchanges (minor := 0) (fun _ => rfl) (by omega) fun c j _ => rfl,
      shuffle_exchanges (minor := 1) (fun _ => rfl) (by omega) fun c j _ => ?_,
      shuffle_exchanges (minor := 2) (fun _ => rfl) (by omega) fun c j hj => ?_,
      shuffle_exchanges (minor := 3) (fun _ => rfl) (by omega) fun c j _ => ?_⟩
    · by_cases hin : 0 ≤ (j : Int) + (((c.view j).v b.toNat).setWidth 6).toInt ∧ (j : Int) + (((c.view j).v b.toNat).setWidth 6).toInt ≤ 31
      · simp only [shuffleSource, hin, and_self, if_true]
      · simp only [shuffleSource, hin, if_false]
    · have hpos : 0 < c.ms.length := List.length_pos_of_mem hj
      have hk := Nat.mod_lt (c.ms.idxOf j + ((c.view j).v b.toNat).toNat % 32) hpos
      simp only [shuffleSource, List.getElem?_eq_getElem hk]
      rw [← List.getD_eq_getElem _ 0 hk, memberOr_getD hk]
    · by_cases hk : ((c.view j).v b.toNat).toNat % 32 < c.ms.length
      · simp only [shuffleSource, List.getElem?_eq_getElem hk, hk, if_true]
        rw [← List.getD_eq_getElem _ 0 hk, memberOr_getD hk]
      · simp only [shuffleSource, List.getElem?_eq_none (Nat.le_of_not_lt hk), hk, if_false]
  · exact ⟨swizzle_exchanges (mode := 0) fun _ => rfl, swizzle_exchanges (mode := 1) fun _ => rfl, swizzle_exchanges (mode := 2) fun _ => rfl⟩
  · refine ⟨vote_exchanges (minor := 5) (fun _ => rfl) (by omega) fun c j _ => rfl,
      ⟨_, vote_exchanges (minor := 6) (fun _ => rfl) (by omega) fun c j _ => rfl, fun c i u hu hlt hn => maskOf_getLsbD hn hlt _ hu⟩,
      vote_exchanges (minor := 7) (fun _ => rfl) (by omega) fun c j _ => voteSpan_eq _ _⟩
  · refine ⟨?_, ⟨_, redux_exchanges (minor := 11) (fun _ => rfl) (by omega), fun c _ hne => reduceAll_min hne _⟩,
      ⟨_, redux_exchanges (minor := 12) (fun _ => rfl) (by omega), fun c _ hne => reduceAll_max hne _⟩,
      ⟨_, redux_exchanges (minor := 13) (fun _ => rfl) (by omega), fun c _ u hne _ => reduceAll_and hne _ u⟩,
      ⟨_, redux_exchanges (minor := 14) (fun _ => rfl) (by omega), fun c _ u hne _ => reduceAll_or hne _ u⟩, ?_⟩
    · have h := redux_exchanges (i := .reduxAddI32 d a) (minor := 10) (fun _ => rfl) (by omega)
      simpa only [reduceAll_add] using h
    · have h := redux_exchanges (i := .reduxFaddF32Rn d a) (minor := 15) (fun _ => rfl) (by omega)
      simpa only [reduceAll_fadd] using h

end Sys2Proof.Machine
end

section
/-! O33: matches, masks that do not name their member, and members that wait for others (R149, R154). -/
namespace Sys2Proof.Machine
open Sys2Proof

/-- A member of a match leaves it with its result outstanding, at the next word (R154). -/
theorem Thread.exchanged_asks {c : Ctx} {s : State} (h : s.path? = some c) (hawake : c.awake) {i : Nat} (hi : i ∈ c.ms) {x : Arrival}
    (hx : x.key % 16 = 8 ∨ x.key % 16 = 9) (w : Word) :
    AsksFor (c.group.thread i) (Thread.exchanged c.group.handler x w ((c.group.thread i).arriving x))
      { dst := [x.dst], look := x.look, kind := .ready [w] } := by
  have hrun := Ctx.running h hi
  rw [Thread.exchanged, if_pos hx, Thread.release_of_awake (by exact fun hh => hawake hh i hi)]
  simp [AsksFor, Thread.arriving, Thread.tick, hrun]

section Match
variable {s : State} {c : Ctx} {r : Regs} {d minor look : Nat} {a : View → DWord} {M : Mask}

/-- A match that its members issue together leaves each with the mask of the members that have its key, in the sense of `same` (R149, R154). -/
theorem laneExchange_match (h : LaneReady s c r) (ht : Together c d M) (hroom : c.roomForOut = true) (hminor : minor = 8 ∨ minor = 9)
    {same : Nat → Nat → Bool} (hsame : ∀ i, exchangeResult minor 0 c.ms (c.arrival d minor 0 look a (fun _ => 0) fun _ => false) i = maskOf c.ms (same i)) :
    ∃ t g, ∃ R : Nat → Word, laneExchange r d minor 0 look a (fun _ => 0) (fun _ => false) s = .next t ∧ Alters s t c g ∧
      (GroupDone c g fun i u => AsksFor (c.group.thread i) u { dst := [vIndex c.group.handler d], look := look, kind := .ready [R i] }) ∧
      ∀ i u, i ∈ c.ms → u < 32 → (R i).getLsbD u = (decide (u ∈ c.ms) && same i u) := by
  obtain ⟨t, g, hrun, halters, hdone⟩ := laneExchange_together (minor := minor) (look := look) (a := a) (b := fun _ => 0) (p := fun _ => false) (pat := 0) h ht
    (fun _ => hroom) (by omega)
  refine ⟨t, g, fun i => maskOf c.ms (same i), hrun, halters, ⟨hdone.rest, hdone.length, hdone.off, fun i hi => ?_⟩, fun i u _ hu =>
    maskOf_getLsbD (Ctx.ms_nodup h.path) (fun j hj => Ctx.ms_lt h.path hj) _ hu⟩
  rw [hdone.on i hi, hsame i]
  exact Thread.exchanged_asks (x := c.arrival d minor 0 look a (fun _ => 0) (fun _ => false) i) h.path ht.awake hi
    (by show (minor + 16 * 0) % 16 = 8 ∨ (minor + 16 * 0) % 16 = 9; omega) _

end Match

section Mismatch
variable {s : State} {c : Ctx} {r : Regs} {d minor pat look : Nat} {a : View → DWord} {b : View → Word} {p : View → Bool} {M : Mask}

/-- Members that their masks do not name trap, each at the exchange instruction, and nobody has arrived (R149). -/
theorem laneExchange_mismatches (h : LaneReady s c r) (hroom : (minor = 8 ∨ minor = 9) → c.roomForOut = true)
    (halone : ∀ u, (c.group.thread u).arrival? = none) (hmask : ∀ i, i ∈ c.ms → ((c.view i).v d).getLsbD i = false) :
    laneExchange r d minor pat look a b p s = .next ((s.putGroup c (c.group.issued c.lead)).takeTraps c.team.id c.group.idx
      (c.ms.map fun i => { pos := i, info := { code := 0x0C }, epc := (c.group.thread i).pc })) := by
  rw [laneExchange_ready h hroom, arriveAll_mismatches c.ms [] hmask, List.nil_append]
  simp only [Group.exchangeProgress_of_none halone]

/-- Members whose mask names a live thread that has not arrived wait inside the instruction (R149). -/
theorem laneExchange_waits (h : LaneReady s c r) (hroom : (minor = 8 ∨ minor = 9) → c.roomForOut = true)
    (halone : ∀ u, (c.group.thread u).arrival? = none) (hmask : ∀ i, i ∈ c.ms → (c.view i).v d = M ∧ M.getLsbD i = true)
    {w : Nat} (hw : w < 32) (hM : M.getLsbD w = true) (hlive : (c.group.thread w).live = true) (hout : w ∉ c.ms) :
    ∃ t g, laneExchange r d minor pat look a b p s = .next t ∧ Alters s t c g ∧ GroupDone c g fun i u =>
      u = (c.group.thread i).arriving (c.arrival d minor pat look a b p i) := by
  let x := c.arrival d minor pat look a b p
  refine ⟨_, _, laneExchange_arrives h hroom halone hmask, State.putGroup_alters h.path (by simp [Group.exchangeProgress, Group.arrived, Group.mapAt]),
    arrived_groupDone halone x fun i hi => ?_⟩
  have hmissing : (c.group.arrived x c.ms).exchangeDone M = false := by
    refine List.all_eq_false.mpr ⟨w, List.mem_filter.mpr ⟨List.mem_range.mpr hw, ?_⟩, ?_⟩
    · rw [Ctx.arrived_thread_not x hout, hM, hlive]; rfl
    · rw [Ctx.arrived_thread_not x hout, halone w]; simp
  have harrival : ((c.group.arrived x c.ms).thread i).arrival? = some (x i) := by rw [Ctx.arrived_thread_mem h.path x hi]; rfl
  have hi' : (x i).mask = M := (hmask i hi).1
  rw [Group.exchangeProgress_thread_arrival harrival, hi', hmissing, if_neg Bool.false_ne_true, Ctx.arrived_thread_mem h.path x hi]

end Mismatch

/-- Settles O33: the two matches, and `shfl.sel` with masks that do not name their member and with masks that name one that has not arrived. -/
theorem matchesAndMismatches : Obligations.MatchesAndMismatches := by
  refine ⟨fun d a l mk span hmk s c M h ht hroom => ?_, fun d a b s c h halone hmask => ?_, fun d a b s c M w h halone hmask hw hM hlive hout => ?_⟩
  · simp only [List.mem_cons, List.not_mem_nil, or_false, Prod.mk.injEq] at hmk
    rcases hmk with ⟨rfl, rfl⟩ | ⟨rfl, rfl⟩
    · have he : exec (.matchB32 d a l) s = laneExchange { reads := [(d.toNat, 1), (a.toNat, 1)], writes := [(d.toNat, 1)] } d.toNat 8 0 l.toNat
        (fun w => (w.v a.toNat).setWidth 64) (fun _ => 0) (fun _ => false) s := rfl
      have hkey : ∀ u v : Word, (u == v) = (u.setWidth 64 == v.setWidth 64) := fun u v => by
        rw [Bool.eq_iff_iff, beq_iff_eq, beq_iff_eq]
        exact ⟨congrArg _, fun e => by simpa using congrArg lowWord e⟩
      rw [he]
      refine laneExchange_match h ht hroom (Or.inl rfl) fun i => ?_
      simp only [exchangeResult, Ctx.arrival, lowWord_setWidth, hkey]
      rfl
    · have he : exec (.matchB64 d a l) s = laneExchange { reads := [(d.toNat, 1), (a.toNat, 2)], writes := [(d.toNat, 1)] } d.toNat 9 0 l.toNat
        (fun w => w.pair a.toNat) (fun _ => 0) (fun _ => false) s := rfl
      rw [he]
      exact laneExchange_match h ht hroom (Or.inr rfl) fun i => rfl
  · have he : exec (.shflSel d a b) s = shuffle 0 d a b s := rfl
    rw [he]
    exact laneExchange_mismatches h (by omega) halone hmask
  · have he : exec (.shflSel d a b) s = shuffle 0 d a b s := rfl
    obtain ⟨t, g, hrun, halters, hdone⟩ := laneExchange_waits (minor := 0) h (by omega) halone hmask hw hM hlive hout
    exact ⟨t, g, he.trans hrun, halters, hdone.rest, hdone.length, hdone.off, fun i hi => ⟨_, hdone.on i hi, (hmask i hi).1, rfl, rfl⟩⟩

end Sys2Proof.Machine
end

section
/-! O35: joining a barrier, and what lets a thread go on from one (R156, R157, R158, R163, R243). -/
namespace Sys2Proof.Machine
open Sys2Proof

/-! ### What a barrier counts of a team's threads -/

/-- What barriers count of a thread: whether it lives, whether it is present, and its generations and arrivals (R156, R158). -/
def Thread.stance (t : Thread) : Bool × Bool × Nat × Nat × SMap Nat := (t.live, t.status != .absent, t.barT, t.barC, t.nbA)

/-- What barriers count of a team's threads. -/
def Team.stances (t : Team) : List (List (Bool × Bool × Nat × Nat × SMap Nat)) := t.groups.map fun g => g.threads.map Thread.stance

theorem Team.allJoined_eq (t : Team) (k : Nat) : t.allJoined k = t.stances.all fun g => g.all fun x => !x.1 || decide (k ≤ x.2.2.1) := by
  simp only [Team.allJoined, Team.stances, List.all_map, Function.comp_def, Thread.stance]; rfl

theorem Team.cluJoined_eq (t : Team) (others : List Nat) (threads k : Nat) : t.cluJoined others threads k =
    ((t.stances.all fun g => g.all fun x => !x.1 || decide (k ≤ x.2.2.2.1)) && others.all fun m => (List.range threads).all fun i =>
      t.exitSeen.contains (m, i) || t.cluSeen.any fun x => x.1 == m && x.2.1 == i && decide (k ≤ x.2.2)) := by
  simp only [Team.cluJoined, Team.stances, List.all_map, Function.comp_def, Thread.stance]; rfl

/-- The phase that stances stand for (R158). -/
def phaseOf (xs : List (Bool × Bool × Nat × Nat × SMap Nat)) (n : Nat) : Nat :=
  let all := xs.filter fun x => x.2.1
  let live := all.filter fun x => x.1
  match (if live.isEmpty then all else live).map fun x => SMap.getD x.2.2.2.2 n 0 with
  | [] => 0
  | a :: r => r.foldl min a

theorem Team.phase_eq (t : Team) (n : Nat) : t.phase n = phaseOf t.stances.flatten n := by
  have hflat : t.stances.flatten = (t.groups.flatMap (·.threads)).map Thread.stance := by
    rw [Team.stances, ← List.flatMap_def, List.map_flatMap]
  unfold Team.phase phaseOf
  simp only [hflat, List.filter_map, List.isEmpty_map]
  rw [← apply_ite (List.map Thread.stance), List.map_map]
  rfl

/-! ### Leaving a barrier -/

/-- A waiting thread of a team may go on: what it waits for at a barrier, or for its children, has come (R156, R158, R163). -/
def Team.passes (t : Team) (peers : List Nat) (threads children : Nat) (h : Thread) : Bool :=
  match h.status with
  | .blocked (.barTeam k) => t.allJoined k
  | .blocked (.barClu k) => t.cluJoined peers threads k
  | .blocked (.nbArrive n) => decide (SMap.getD h.nbA n 0 ≤ t.phase n + 15)
  | .blocked (.nbWait n) => decide (SMap.getD h.nbW n 0 + 1 ≤ (SMap.getD t.nbZ n 0).toNat)
  | .blocked .waitChild => children == 0
  | _ => false

/-- What going on from a barrier changes of a thread: it counts its wait, and an acquire takes its speculation entries (R125, R158). -/
def Thread.passed (h : Thread) : Thread :=
  match h.status with
  | .blocked (.nbWait n) => { h with nbW := SMap.put h.nbW n (SMap.getD h.nbW n 0 + 1), spec := [] }
  | .blocked (.barTeam _) => { h with spec := [] }
  | .blocked (.barClu _) => { h with spec := [] }
  | .blocked .waitChild => { h with spec := [] }
  | _ => h

theorem Thread.passed_rest (h : Thread) : h.passed = { h with nbW := h.passed.nbW, spec := h.passed.spec } := by
  unfold Thread.passed
  split <;> rfl

/-- A team whose waiting threads have gone on as far as they may. -/
def Team.released (t : Team) (peers : List Nat) (threads : Nat) : Team := t.releaseWhere (fun g _ h => t.passes peers threads g.children h) Thread.passed

theorem State.barrierProgress_eq {s : State} {i : Nat} {t : Team} (h : s.team? i = some t) :
    s.barrierProgress i = s.setTeam (t.released (s.peers t) (((s.launchOf t).map (·.threadCount)).getD 0)) := by
  unfold State.barrierProgress
  rw [h]
  rfl

/-- Going on changes nothing that barriers count. -/
theorem Thread.release_stance (handler : Bool) {t : Thread} (h : t.isBlocked = true) : (Thread.release handler t.passed).stance = t.stance := by
  have hlive : t.live = true ∧ (t.status != .absent) = true := by
    unfold Thread.isBlocked at h
    unfold Thread.live
    split at h
    · next e => rw [e]; exact ⟨rfl, rfl⟩
    all_goals cases h
  rw [Thread.passed_rest]
  unfold Thread.release Thread.stance
  rw [hlive.1, hlive.2]
  split <;> rfl

/-- What lets a thread go on depends on what barriers count of its team. -/
theorem Team.passes_congr {t u : Team} (hrest : { t with groups := u.groups } = u) (hs : t.stances = u.stances) (peers : List Nat)
    (threads children : Nat) (h : Thread) : t.passes peers threads children h = u.passes peers threads children h := by
  have hexit : t.exitSeen = u.exitSeen := by have h := congrArg Team.exitSeen hrest; exact h
  have hclu : t.cluSeen = u.cluSeen := by have h := congrArg Team.cluSeen hrest; exact h
  have hnbZ : t.nbZ = u.nbZ := by have h := congrArg Team.nbZ hrest; exact h
  unfold Team.passes
  simp only [Team.allJoined_eq, Team.cluJoined_eq, Team.phase_eq, hs, hexit, hclu, hnbZ]

theorem Team.released_stances (t : Team) (peers : List Nat) (threads : Nat) : (t.released peers threads).stances = t.stances := by
  unfold Team.released Team.releaseWhere Team.stances
  simp only [List.map_map]
  refine List.map_congr_left fun g _ => List.ext_getElem (by simp) fun i h1 h2 => ?_
  simp only [Function.comp_apply, List.getElem_map, List.getElem_mapIdx]
  cases hb : (g.threads[i]'(by simpa using h2)).isBlocked
  · rfl
  · cases t.passes peers threads g.children _
    · rfl
    · exact Thread.release_stance _ hb

/-! ### Joining -/

section Joins
variable {s : State} {c : Ctx}

/-- A thread as it waits inside an instruction, `f` having changed it as it came. -/
def Thread.joining (f : Thread → Thread) (b : Thread → Block) (t : Thread) : Thread := { (f t).tick with status := .blocked (b (f t)) }

/-- The group of a path whose threads enter a wait. -/
def Ctx.waiting (c : Ctx) (f : Thread → Thread) (b : Thread → Block) : Group := c.group.mapAt c.ms fun _ => Thread.joining f b

/-- A blocked thread goes on exactly if it may. -/
theorem Group.releasing_thread_blocked {g : Group} {i : Nat} (h : (g.thread i).isBlocked = true) {may : Group → Nat → Thread → Bool}
    {f : Thread → Thread} : (g.releasing may f).thread i = if may g i (g.thread i) = true then Thread.release g.handler (f (g.thread i)) else g.thread i := by
  refine (Group.thread_mapIdx g (fun i h => bif h.isBlocked && may g i h then Thread.release g.handler (f h) else h) (fun _ => rfl) i).trans ?_
  rw [h, Bool.true_and, Bool.cond_eq_ite]

/-- The threads of a path enter a wait, and those of them that may go on at once do. -/
theorem blockPath_spec (hp : s.path? = some c) (f : Thread → Thread) (b : Thread → Block) :
    ∃ T h, { blockPath c f b s with teams := s.teams } = s ∧ (blockPath c f b s).team? c.team.id = some T ∧ T.group? c.group.idx = some h ∧
      ∀ j, j ∈ c.ms → let t := (c.group.thread j).joining f b
        h.thread j = if T.passes (s.peers c.team) (((s.launchOf c.team).map (·.threadCount)).getD 0) h.children t = true then
          Thread.release c.group.handler t.passed else t := by
  obtain ⟨U, hU, hG⟩ := State.putGroup_alters hp (g := c.waiting f b) rfl
  let peers := s.peers c.team
  let threads := ((s.launchOf c.team).map (·.threadCount)).getD 0
  let V := U.released peers threads
  let settle := fun g : Group => if g.idx == c.group.idx then g.issued c.lead else g
  have hUid : U.id = c.team.id := State.team?_id hU.self
  have hpeers : (s.putGroup c (c.waiting f b)).peers U = peers ∧ (((s.putGroup c (c.waiting f b)).launchOf U).map (·.threadCount)).getD 0 = threads := by
    obtain ⟨gs, hgs⟩ : ∃ gs, U = { c.team with groups := gs } := ⟨U.groups, congrArg (fun t : Team => { t with groups := U.groups }) hG.rest⟩
    rw [hgs]; exact ⟨rfl, rfl⟩
  have hrun : blockPath c f b s = ((s.putGroup c (c.waiting f b)).setTeam V).issue c := by
    have hprogress := State.barrierProgress_eq hU.self
    rw [hpeers.1, hpeers.2] at hprogress
    exact congrArg (State.issue · c) hprogress
  have hV : ((s.putGroup c (c.waiting f b)).setTeam V).team? c.team.id = some V := State.team?_setTeam_self hU.self hUid
  have hT : (((s.putGroup c (c.waiting f b)).setTeam V).issue c).team? c.team.id = some { V with groups := V.groups.map settle } := by
    refine (State.team?_map _ _ (fun t => by split <;> rfl) _).trans ?_
    rw [hV]
    exact congrArg some (if_pos (beq_iff_eq.mpr hUid))
  have hVgroup := (Team.releaseWhere_group? U (fun g _ h => U.passes peers threads g.children h) Thread.passed c.group.idx).trans
    (congrArg (Option.map _) hG.self)
  have hgroup := (Team.group?_map V settle (fun g => by simp only [settle]; split <;> simp) c.group.idx).trans (congrArg (Option.map settle) hVgroup)
  have hstances : ({ V with groups := V.groups.map settle } : Team).stances = U.stances := by
    refine Eq.trans ?_ (Team.released_stances U peers threads)
    unfold Team.stances
    rw [List.map_map]
    refine List.map_congr_left fun g _ => ?_
    simp only [Function.comp_apply, settle]
    split <;> simp
  rw [hrun]
  refine ⟨_, _, rfl, hT, hgroup, fun j hj => ?_⟩
  intro t
  have hj' : (c.waiting f b).thread j = t := Group.thread_mapAt_mem hj (State.path?_mem hp hj)
  have hsettle : ∀ g : Group, (settle g).thread j = g.thread j ∧ (settle g).children = g.children := fun g => by
    simp only [settle]
    split
    · exact ⟨Group.issued_thread g _ j, by have h := congrArg Group.children (Group.issued_rest g c.lead); exact h⟩
    · exact ⟨rfl, rfl⟩
  obtain ⟨hthread, hchildren⟩ := hsettle ((c.waiting f b).releasing (fun g _ h => U.passes peers threads g.children h) Thread.passed)
  have hpasses := Team.passes_congr (t := { V with groups := V.groups.map settle }) (u := U) rfl hstances peers threads c.group.children t
  rw [hthread, Group.releasing_thread_blocked (by rw [hj']; rfl), hj', hchildren]
  show (if U.passes peers threads c.group.children t = true then _ else _) = if Team.passes _ peers threads c.group.children t = true then _ else _
  rw [hpasses]
  rfl

/-- A wait of a path's threads that `go` may end at once: each goes on, changed by `leave`, or waits as `b` says. -/
theorem blockPath_joins (f leave : Thread → Thread) (b : Thread → Block) (go : Team → Group → Thread → Bool) {i : Instr} {u : State}
    (hp : s.path? = some c) (hawake : c.awake) (hrun : exec i u = .next (blockPath c f b s)) (hf : ∀ t, (f t).pc = t.pc ∧ (f t).resume = t.resume)
    (hleave : ∀ t, (t.joining f b).passed = { leave (f t).tick with status := .blocked (b (f t)) })
    (hgo : ∀ (T : Team) (h : Group) t, T.passes (s.peers c.team) (((s.launchOf c.team).map (·.threadCount)).getD 0) h.children (t.joining f b) = go T h (f t)) :
    ∃ t T h, exec i u = .next t ∧ { t with teams := s.teams } = s ∧ t.team? c.team.id = some T ∧ T.group? c.group.idx = some h ∧
      ∀ j, j ∈ c.ms → Waited (c.group.thread j) (h.thread j) (go T h (f (c.group.thread j))) f leave (b (f (c.group.thread j))) := by
  obtain ⟨T, h, hrest, hT, hh, hthread⟩ := blockPath_spec hp f b
  refine ⟨_, T, h, hrun, hrest, hT, hh, fun j hj => ?_⟩
  obtain ⟨hpc, hresume⟩ := hf (c.group.thread j)
  have hrest := Thread.passed_rest ((c.group.thread j).joining f b)
  have hpc' : ((c.group.thread j).joining f b).passed.pc = (c.group.thread j).pc := by rw [hrest]; exact hpc
  have hawake' : c.group.handler = true → ((c.group.thread j).joining f b).passed.resume.isSome = true := fun hh => by
    rw [hrest]; exact (congrArg Option.isSome hresume).trans (hawake hh j hj)
  unfold Waited
  rw [hthread j hj, hgo]
  split
  · rw [Thread.release_of_awake hawake', hpc', hleave]
  · rfl

end Joins

/-- Effects a core produces change the cores alone. -/
theorem State.foldl_produce_cores {α : Type} (core team : Nat) (e : α → Effect) (l : List α) : ∀ s : State,
    ∃ cores, l.foldl (fun s m => s.produce core team (e m)) s = { s with cores := cores } := by
  induction l with
  | nil => intro s; exact ⟨s.cores, rfl⟩
  | cons x l ih =>
    intro s
    obtain ⟨cores, h⟩ := ih (s.produce core team (e x))
    exact ⟨cores, h⟩

/-- Settles O35: each instruction is one wait of its path, which it joins where its release may be made. -/
theorem barriersJoinAndComplete : Obligations.BarriersJoinAndComplete := by
  intro s c hp hr hawake joins
  refine ⟨fun hm => ?_, fun hm => ?_, fun n htile => ⟨fun hm => ?_, fun hm => ?_, ?_⟩, fun n htile => ⟨?_, ?_⟩, ?_, fun hm hroom => ?_⟩
  · refine blockPath_joins (fun t => { t with barT := t.barT + 1 }) (fun t => { t with spec := [] }) (fun t => .barTeam t.barT) (fun T _ t => T.allJoined t.barT)
      hp hawake ?_ (fun t => ⟨rfl, rfl⟩) (fun t => rfl) fun T h t => rfl
    show execBarTeam s = _
    unfold execBarTeam
    rw [hp]
    simp only [hr, hm, Bool.not_true, Bool.and_false, Bool.false_eq_true, if_false, if_true]
  · show execBarTeam s = _
    unfold execBarTeam
    rw [hp]
    simp only [hr, hm, Bool.not_false, Bool.and_true, if_true]
  · refine blockPath_joins (fun t => { t with nbA := SMap.put t.nbA n.toNat (SMap.getD t.nbA n.toNat 0 + 1) }) (fun t => t)
      (fun _ => .nbArrive n.toNat) (fun T _ t => decide (SMap.getD t.nbA n.toNat 0 ≤ T.phase n.toNat + 15))
      hp hawake ?_ (fun t => ⟨rfl, rfl⟩) (fun t => rfl) fun T h t => rfl
    show execBarNbArrive n s = _
    unfold execBarNbArrive
    rw [hp]
    simp only [Team.hasTile, htile, hr, hm, Bool.not_true, Bool.and_false, Bool.false_eq_true, if_false, if_true]
  · show execBarNbArrive n s = _
    unfold execBarNbArrive
    rw [hp]
    simp only [Team.hasTile, htile, hr, hm, Bool.not_true, Bool.not_false, Bool.and_true, Bool.false_eq_true, if_false, if_true]
  · refine blockPath_joins (fun t => t) (fun t => { t with nbW := SMap.put t.nbW n.toNat (SMap.getD t.nbW n.toNat 0 + 1), spec := [] })
      (fun _ => .nbWait n.toNat) (fun T _ t => decide (SMap.getD t.nbW n.toNat 0 + 1 ≤ (SMap.getD T.nbZ n.toNat 0).toNat))
      hp hawake ?_ (fun t => ⟨rfl, rfl⟩) (fun t => rfl) fun T h t => rfl
    show execBarNbWait n s = _
    unfold execBarNbWait
    rw [hp]
    simp only [Team.hasTile, htile, hr, Bool.not_true, Bool.false_eq_true, if_false, if_true]
  · show execBarNbArrive n s = _
    unfold execBarNbArrive
    rw [hp]
    simp only [Team.hasTile, htile, Bool.not_false, if_true]
  · show execBarNbWait n s = _
    unfold execBarNbWait
    rw [hp]
    simp only [Team.hasTile, htile, Bool.not_false, if_true]
  · refine blockPath_joins (fun t => t) (fun t => { t with spec := [] }) (fun _ => .waitChild) (fun _ g _ => g.children == 0)
      hp hawake ?_ (fun t => ⟨rfl, rfl⟩) (fun t => rfl) fun T h t => rfl
    show execWaitchild s = _
    unfold execWaitchild
    rw [hp]
    simp only [hr, if_true]
  · obtain ⟨cores, hcores⟩ := State.foldl_produce_cores c.team.core c.team.id (fun m => Effect.barClu (c.team.ref m) c.team.member
      (c.ms.map fun i => (32 * c.group.idx + i, (c.group.thread i).barC + 1))) (s.peers c.team) s
    rw [hcores]
    refine blockPath_joins (s := { s with cores := cores }) (fun t => { t with barC := t.barC + 1 }) (fun t => { t with spec := [] })
      (fun t => .barClu t.barC) (fun T _ t => T.cluJoined (s.peers c.team) (((s.launchOf c.team).map (·.threadCount)).getD 0) t.barC)
      hp hawake ?_ (fun t => ⟨rfl, rfl⟩) (fun t => rfl) fun T h t => rfl
    show execBarClu s = _
    unfold execBarClu
    rw [hp]
    simp only [hr, hm, hroom, decide_true, Bool.not_true, Bool.and_false, Bool.and_true, Bool.false_eq_true, if_false, if_true]
    rw [hcores]

end Sys2Proof.Machine
end

section
/-! What bringing a line into an L1 leaves alone: of the teams, all but the scores of their groups (R187). -/
namespace Sys2Proof.Machine
open Sys2Proof

/-! ### Steps that change no team -/

@[simp] theorem State.send_teams (s : State) (k : MsgKind) (m : Msg) : (s.send k m).teams = s.teams := by
  have h := congrArg State.teams (State.send_rest s k m); exact h

@[simp] theorem State.markPoison_teams (s : State) (w : Nat) (p : Bool) : (s.markPoison w p).teams = s.teams := by
  unfold State.markPoison
  dsimp only
  repeat' split
  all_goals rfl

@[simp] theorem State.holdHost_teams (s : State) (w : Nat) : (s.holdHost w).teams = s.teams := by
  unfold State.holdHost
  split <;> rfl

@[simp] theorem State.useL2_teams (s : State) (line : Nat) : (s.useL2 line).teams = s.teams := by
  unfold State.useL2
  split <;> rfl

@[simp] theorem State.shoot_teams (s : State) (ws : List Nat) : (s.shoot ws).teams = s.teams := rfl

@[simp] theorem State.deviceWrite_teams (s : State) (w : Submitter) (bs : List (Nat × Byte)) : (s.deviceWrite w bs).teams = s.teams := rfl

@[simp] theorem State.setHomeWord_teams (s : State) (w : Nat) (x : Word) (p : Bool) : (s.setHomeWord w x p).teams = s.teams := by
  unfold State.setHomeWord
  split
  · rfl
  · split
    · rfl
    · simp

@[simp] theorem State.releaseHostLine_teams (s : State) (i line : Nat) : (s.releaseHostLine i line).teams = s.teams := by
  unfold State.releaseHostLine
  dsimp only
  repeat' split
  all_goals simp

/-- What each step of a fold keeps, the fold keeps. -/
theorem foldl_keeps {σ α β : Type} {step : σ → α → σ} (p : σ → β) (hstep : ∀ s a, p (step s a) = p s) (l : List α) : ∀ s, p (l.foldl step s) = p s := by
  induction l with
  | nil => intro s; rfl
  | cons a l ih => intro s; exact (ih _).trans (hstep s a)

@[simp] theorem State.writeHome_teams (s : State) (core line : Nat) (ws : List (Nat × WordCell)) : (s.writeHome core line ws).teams = s.teams := by
  have hwords := foldl_keeps State.teams (fun (s : State) (x : Nat × WordCell) => State.setHomeWord_teams s (line * 32 + x.1) x.2.val x.2.poison) ws s
  unfold State.writeHome
  dsimp only
  split
  · split <;> simp [hwords, -List.foldl_cons]
  · simp [hwords]

@[simp] theorem State.evict_teams (s : State) (core line : Nat) : (s.evict core line).teams = s.teams := by
  unfold State.evict
  split
  · rfl
  · dsimp only
    split <;> split <;> simp

@[simp] theorem State.fetchWords_teams (s : State) (core line : Nat) (ws : List Nat) : (s.fetchWords core line ws).teams = s.teams := by
  unfold State.fetchWords
  dsimp only
  split <;> simp

@[simp] theorem State.fillLine_teams (s : State) (core line attr : Nat) (ws : List Nat) : (s.fillLine core line attr ws).teams = s.teams := by
  unfold State.fillLine
  split
  · simp
  · refine (foldl_keeps State.teams (fun s w => ?_) ws _).trans (State.useL2_teams s line)
    dsimp only
    split <;> rfl

theorem State.allocLine_teams {s t : State} {core line slot : Nat} (h : s.allocLine core line slot = some t) : t.teams = s.teams := by
  unfold State.allocLine at h
  dsimp only at h
  split at h
  · cases h
  · split at h
    · cases h; rfl
    · obtain ⟨u, hu, rfl⟩ := Option.map_eq_some_iff.mp h
      split at hu
      · cases hu; rfl
      · obtain ⟨l, -, rfl⟩ := Option.map_eq_some_iff.mp hu
        simp

/-! ### Teams but for their scores -/

/-- A team without the scores of its groups. -/
def Team.unscored (t : Team) : Team := { t with groups := t.groups.map fun g => { g with score := 0 } }

/-- The resident teams without the scores of their groups. -/
def State.unscored (s : State) : List Team := s.teams.map Team.unscored

theorem State.unscored_congr {s t : State} (h : t.teams = s.teams) : t.unscored = s.unscored := congrArg (List.map Team.unscored) h

theorem State.noteVictim_unscored (s : State) (core line : Nat) : (s.noteVictim core line).unscored = s.unscored := by
  unfold State.noteVictim
  split
  · rfl
  · refine (List.map_map ..).trans (List.map_congr_left fun t _ => ?_)
    simp only [Function.comp_apply]
    split
    · refine congrArg (fun gs => { t with groups := gs }) ((List.map_map ..).trans (List.map_congr_left fun g _ => ?_))
      simp only [Function.comp_apply]
      split <;> rfl
    · rfl

theorem State.loadLine_unscored {s t : State} {core slot attr pa n : Nat} (h : s.loadLine core slot attr pa n = some t) : t.unscored = s.unscored := by
  unfold State.loadLine at h
  dsimp only at h
  split at h
  · cases h
  next u hu =>
  obtain ⟨-, hu⟩ := Option.ite_none_left_eq_some.mp hu
  have halloc := State.unscored_congr (State.allocLine_teams hu)
  let v := if ((s.core core).l1.line? (pa / 128)).isSome then u else u.noteVictim core (pa / 128)
  have hv : v.unscored = u.unscored := by
    show State.unscored (ite _ u (u.noteVictim core (pa / 128))) = _
    split
    · rfl
    · exact State.noteVictim_unscored u core _
  by_cases hread : ((v.core core).readL1 pa n).isSome = true
  · have ht : v = t := Option.some.inj ((if_pos hread).symm.trans h)
    exact ht ▸ hv.trans halloc
  · have ht := Option.some.inj ((if_neg hread).symm.trans h)
    exact ht ▸ (State.unscored_congr (State.fillLine_teams v core (pa / 128) attr (List.range 32))).trans (hv.trans halloc)

/-- A descriptor that was read left the teams as they were, but for their scores (R160, R187). -/
theorem State.readDesc_unscored {s s' : State} {c : Ctx} {lane : Option Nat} {da : DWord} {ws : List Word}
    (h : s.readDesc c lane da = (s', .ok ws)) : s'.unscored = s.unscored := by
  unfold State.readDesc at h
  dsimp only at h
  repeat' split at h
  all_goals cases h
  rename_i hload _ _
  have hkeep := State.loadLine_unscored hload
  exact hkeep

/-- Reading a team without its scores. -/
theorem State.find?_unscored (s : State) (id : Nat) : s.unscored.find? (fun t => t.id == id) = (s.team? id).map Team.unscored := by
  unfold State.unscored State.team?
  rw [List.find?_map]
  rfl

/-- A path's team and group where only scores have changed since. -/
theorem State.path_of_unscored {s s' : State} {c : Ctx} (hp : s.path? = some c) (h : s'.unscored = s.unscored) : ∃ T g,
    s'.team? c.team.id = some T ∧ T.group? c.group.idx = some g ∧ T.core = c.team.core ∧ g = { c.group with score := g.score } := by
  obtain ⟨-, ht, hg, -, -⟩ := State.path?_spec hp
  have hteam := (State.find?_unscored s' c.team.id).symm.trans ((congrArg (List.find? fun t => t.id == c.team.id) h).trans (State.find?_unscored s c.team.id))
  rw [ht] at hteam
  obtain ⟨T, hT, hTc⟩ := Option.map_eq_some_iff.mp hteam
  have hgroups : ∀ t : Team, t.unscored.group? c.group.idx = (t.group? c.group.idx).map fun g => { g with score := 0 } := fun t =>
    Team.group?_map t (fun g => { g with score := 0 }) (fun _ => rfl) _
  have hgroup := (hgroups T).symm.trans ((congrArg (Team.group? · c.group.idx) hTc).trans (hgroups c.team))
  rw [hg] at hgroup
  obtain ⟨g, hG, hgc⟩ := Option.map_eq_some_iff.mp hgroup
  have hcore := congrArg Team.core hTc
  exact ⟨T, g, hT, hG, hcore, congrArg (fun h : Group => { h with score := g.score }) hgc⟩

end Sys2Proof.Machine
end

section
/-! O36, first part: the requests of threads that wait to spawn enter the queue of their core (R160, R161). -/
namespace Sys2Proof.Machine
open Sys2Proof

/-! ### The requests of one group -/

/-- The thread waits with a spawn request. -/
def Thread.waitsToSpawn (t : Thread) : Prop := ∃ desc da arg pos, t.status = .blocked (.spawn desc da arg pos)

/-- A group none of whose threads waits with a request has none to make. -/
theorem Group.spawnReqs_of_none {g : Group} (h : ∀ t, t ∈ g.threads → ¬ t.waitsToSpawn) (team : Nat) : g.spawnReqs team = [] := by
  refine List.filterMap_eq_nil_iff.mpr fun x hx => ?_
  have hx := h x.1 (List.fst_mem_of_mem_zipIdx hx)
  split
  · next e => exact absurd ⟨_, _, _, _, e⟩ hx
  · rfl

/-- Ascending positions of a list are those a filter of the positions leaves. -/
theorem filter_range_of_ascending {who : List Nat} {n : Nat} (hasc : who.Pairwise (· < ·)) (hlt : ∀ i, i ∈ who → i < n) :
    (List.range n).filter (fun i => decide (i ∈ who)) = who := by
  refine List.Perm.eq_of_pairwise' (r := (· < ·)) ?_ hasc ?_
  · exact List.pairwise_lt_range.filter _
  · refine (List.perm_ext_iff_of_nodup (List.nodup_range.filter _) hasc.nodup).mpr fun i => ?_
    simp only [List.mem_filter, List.mem_range, decide_eq_true_eq]
    exact ⟨fun h => h.2, fun h => ⟨hlt i h, h⟩⟩

/-- The request of a thread that waits to spawn. -/
def Group.request (g : Group) (team : Nat) (desc : List Word) (da arg : DWord) (pos : Nat) : SpawnReq :=
  { parent := { team := team, group := g.idx }, desc := desc, da := da, arg := arg, pos := pos, depth := g.depth + 1 }

/-- The requests of a group whose threads `who` wait to spawn, in ascending order (R160). -/
theorem Group.spawnReqs_eq {g : Group} {who : List Nat} {desc : Nat → List Word} {da arg : Nat → DWord} (hasc : who.Pairwise (· < ·))
    (hwho : ∀ i, i ∈ who → i < g.threads.length ∧ (g.thread i).status = .blocked (.spawn (desc i) (da i) (arg i) i))
    (hother : ∀ i, i ∉ who → ¬ (g.thread i).waitsToSpawn) (team : Nat) :
    g.spawnReqs team = who.map fun i => (i, g.request team (desc i) (da i) (arg i) i) := by
  have hzip : g.threads.zipIdx = (List.range g.threads.length).map fun i => (g.thread i, i) := by
    refine List.ext_getElem (by simp) fun i h1 h2 => ?_
    have hi : i < g.threads.length := by simpa using h1
    simp [Group.thread, hi]
  have hfilter := filter_range_of_ascending hasc fun i hi => (hwho i hi).1
  unfold Group.spawnReqs
  rw [hzip, List.filterMap_map]
  conv_rhs => rw [← hfilter, ← List.filterMap_eq_map, List.filterMap_filter]
  refine List.filterMap_congr fun i _ => ?_
  by_cases hi : i ∈ who
  · simp only [Function.comp_apply, (hwho i hi).2, hi, decide_true, if_true]
    rfl
  · simp only [Function.comp_apply, hi, decide_false, Bool.false_eq_true, if_false]
    split
    · next e => exact absurd ⟨_, _, _, _, e⟩ (hother i hi)
    · rfl

/-! ### Leaving a spawn -/

/-- What lets a thread leave its spawn: its own request is in the queue, or that of the path whose `kspawn` it waits in. -/
def Thread.spawnedBy (j : Nat) (t : Thread) (i : Nat) : Prop := j = i ∨ t.status = .blocked (.spawnPath i)

theorem Group.spawned_thread (g : Group) {i j : Nat} (hj : j < g.threads.length) :
    (g.spawned i).thread j = if j == i || (g.thread j).status == .blocked (.spawnPath i) then Thread.release g.handler (g.thread j) else g.thread j := by
  unfold Group.spawned Group.thread
  simp [List.getD_eq_getElem?_getD, hj]

/-- A group after several of its requests have entered the queue. -/
theorem Group.foldl_spawned_rest (is : List Nat) : ∀ g : Group,
    { is.foldl Group.spawned g with threads := g.threads, children := g.children } = g ∧
    (is.foldl Group.spawned g).children = g.children + is.length ∧ (is.foldl Group.spawned g).threads.length = g.threads.length := by
  induction is with
  | nil => intro g; exact ⟨rfl, rfl, rfl⟩
  | cons i is ih =>
    intro g
    obtain ⟨hrest, hchildren, hlength⟩ := ih (g.spawned i)
    refine ⟨congrArg (fun h : Group => { h with threads := g.threads, children := g.children }) hrest, ?_, ?_⟩
    · rw [List.foldl_cons, hchildren, List.length_cons]
      show g.children + 1 + is.length = _
      omega
    · rw [List.foldl_cons, hlength]
      simp [Group.spawned]

/-- A thread that none of several requests lets go is as before. -/
theorem Group.foldl_spawned_stays {j : Nat} (is : List Nat) : ∀ g : Group, j < g.threads.length → (∀ i, i ∈ is → ¬ (g.thread j).spawnedBy j i) →
    (is.foldl Group.spawned g).thread j = g.thread j := by
  induction is with
  | nil => intro g _ _; rfl
  | cons i is ih =>
    intro g hj h
    have hfirst := h i List.mem_cons_self
    have hsame : (g.spawned i).thread j = g.thread j := by
      rw [Group.spawned_thread g hj, if_neg (by simpa [Thread.spawnedBy] using hfirst)]
    rw [List.foldl_cons, ih _ (by simpa [Group.spawned] using hj) fun k hk => by rw [hsame]; exact h k (List.mem_cons_of_mem _ hk), hsame]

/-- A thread that just one of several requests lets go leaves its spawn. -/
theorem Group.foldl_spawned_leaves {i j : Nat} (is : List Nat) : ∀ g : Group, j < g.threads.length → is.Nodup → i ∈ is →
    (∀ k, k ∈ is → ((g.thread j).spawnedBy j k ↔ k = i)) → (is.foldl Group.spawned g).thread j = Thread.release g.handler (g.thread j) := by
  induction is with
  | nil => intro g _ _ hi _; cases hi
  | cons k is ih =>
    intro g hj hn hi h
    obtain ⟨hk, hn⟩ := List.nodup_cons.mp hn
    have hj' : j < (g.spawned k).threads.length := by simpa [Group.spawned] using hj
    have hthread := Group.spawned_thread g hj (i := k)
    rw [List.foldl_cons]
    by_cases e : k = i
    · subst e
      have hleaves := (h k List.mem_cons_self).mpr rfl
      rw [if_pos (by simpa [Thread.spawnedBy] using hleaves)] at hthread
      rw [Group.foldl_spawned_stays is _ hj' fun l hl hby => ?_, hthread]
      rw [hthread] at hby
      have hawake : ∀ b, (Thread.release g.handler (g.thread j)).status ≠ .blocked b := fun b => by
        unfold Thread.release
        split <;> simp
      have hjl := hby.resolve_right (hawake _)
      exact hk ((h l (List.mem_cons_of_mem _ hl)).mp (Or.inl hjl) ▸ hl)
    · have hstays := fun hby => e ((h k List.mem_cons_self).mp hby)
      rw [if_neg (by simpa [Thread.spawnedBy] using hstays)] at hthread
      have hi' := (List.mem_cons.mp hi).resolve_left (Ne.symm e)
      rw [ih _ hj' hn hi' fun l hl => by rw [hthread]; exact h l (List.mem_cons_of_mem _ hl), hthread]
      rfl

/-! ### The queue -/

/-- A request enters the queue of its core, where it has room (R160). -/
def State.admitSpawn (core team group : Nat) (s : State) (q : Nat × SpawnReq) : State :=
  if Config.spawnEntries ≤ (s.core core).spawnQ.length then s
  else (s.mapCore core fun k => { k with spawnQ := k.spawnQ ++ [q.2] }).mapGroup team group fun g => g.spawned q.1

/-- Two changes of one group, one after the other. -/
theorem State.mapGroup_mapGroup (s : State) (i j : Nat) (f h : Group → Group) (hf : ∀ g, (f g).idx = g.idx) :
    (s.mapGroup i j f).mapGroup i j h = s.mapGroup i j fun g => h (f g) := by
  unfold State.mapGroup
  refine congrArg (fun ts => { s with teams := ts }) ((List.map_map ..).trans (List.map_congr_left fun t _ => ?_))
  simp only [Function.comp_apply]
  by_cases ht : (t.id == i) = true
  · simp only [ht, if_true, List.map_map]
    refine congrArg (fun gs => { t with groups := gs }) (List.map_congr_left fun g _ => ?_)
    simp only [Function.comp_apply]
    by_cases hg : (g.idx == j) = true
    · simp only [hg, if_true, hf]
    · simp only [hg, if_false, Bool.false_eq_true]
  · simp only [ht, if_false, Bool.false_eq_true]

/-- Requests of one group for which the queue has room all enter it, in order, and their threads leave their spawns. -/
theorem State.foldl_admitSpawn (core team group : Nat) (qs : List (Nat × SpawnReq)) : ∀ s : State,
    (s.core core).spawnQ.length + qs.length ≤ Config.spawnEntries →
    let u := qs.foldl (State.admitSpawn core team group) s
    u.teams = (s.mapGroup team group fun g => (qs.map (·.1)).foldl Group.spawned g).teams ∧
    (u.core core).spawnQ = (s.core core).spawnQ ++ qs.map (·.2) := by
  induction qs with
  | nil =>
    intro s _
    refine ⟨?_, (List.append_nil _).symm⟩
    show s.teams = _
    unfold State.mapGroup
    simp
  | cons q qs ih =>
    intro s hroom
    rw [List.length_cons] at hroom
    have hstep : s.admitSpawn core team group q = (s.mapCore core fun k => { k with spawnQ := k.spawnQ ++ [q.2] }).mapGroup team group fun g => g.spawned q.1 :=
      if_neg (by omega)
    have hq : ((s.admitSpawn core team group q).core core).spawnQ = (s.core core).spawnQ ++ [q.2] := by
      rw [hstep, State.mapGroup_core, State.core_mapCore_self]
    obtain ⟨hteams, hqueue⟩ := ih (s.admitSpawn core team group q) (by rw [hq, List.length_append, List.length_singleton]; omega)
    refine ⟨hteams.trans ?_, hqueue.trans ?_⟩
    · rw [hstep]
      exact (congrArg State.teams (State.mapGroup_mapGroup _ team group (fun g => g.spawned q.1) _ fun _ => rfl)).trans rfl
    · rw [hq, List.append_assoc]; rfl

/-- A fold all but one of whose steps do nothing. -/
theorem foldl_eq_of_unique {σ α : Type} {f : σ → α → σ} {a : α} (l : List α) : ∀ s, a ∈ l → l.Nodup → (∀ b, b ∈ l → b ≠ a → ∀ s, f s b = s) →
    l.foldl f s = f s a := by
  induction l with
  | nil => intro s h; cases h
  | cons b l ih =>
    intro s ha hn h
    obtain ⟨hb, hn⟩ := List.nodup_cons.mp hn
    rw [List.foldl_cons]
    by_cases e : b = a
    · subst e
      have hrest : ∀ m : List α, (∀ x, x ∈ m → x ∈ l) → ∀ s, m.foldl f s = s := fun m => by
        induction m with
        | nil => intro _ s; rfl
        | cons x m ihm =>
          intro hm s
          have hx := hm x List.mem_cons_self
          rw [List.foldl_cons, h x (List.mem_cons_of_mem _ hx) (fun e => hb (e ▸ hx)), ihm fun y hy => hm y (List.mem_cons_of_mem _ hy)]
      exact hrest l (fun _ hx => hx) _
    · rw [h b List.mem_cons_self e]
      exact ih s ((List.mem_cons.mp ha).resolve_left (Ne.symm e)) hn fun x hx => h x (List.mem_cons_of_mem _ hx)

/-- Where the threads of one group alone wait to spawn, its requests are what enters the queue. -/
theorem State.spawnProgress_of_one {s : State} {t : Team} {g : Group} (hids : (s.teams.map (·.id)).Nodup) (hidx : (t.groups.map (·.idx)).Nodup)
    (ht : t ∈ s.teams) (hg : g ∈ t.groups)
    (hone : ∀ u h, u ∈ s.teams → h ∈ u.groups → (u.id, h.idx) ≠ (t.id, g.idx) → h.spawnReqs u.id = []) :
    s.spawnProgress t.core = (g.spawnReqs t.id).foldl (State.admitSpawn t.core t.id g.idx) s := by
  have hnone : ∀ (u : Team), u ∈ s.teams → u ≠ t → ∀ v : State,
      u.groups.foldl (fun s g => (g.spawnReqs u.id).foldl (State.admitSpawn t.core u.id g.idx) s) v = v := fun u hu hne v => by
    have hid : u.id ≠ t.id := fun e => hne (List.inj_on_of_nodup_map hids hu ht e)
    refine List.foldlRecOn (motive := fun w => w = v) _ _ rfl fun w hw h hh => ?_
    rw [hone u h hu hh fun e => hid (congrArg Prod.fst e)]
    exact hw
  show (s.teams.filter fun u => u.core == t.core).foldl (fun s u => u.groups.foldl (fun s g =>
    (g.spawnReqs u.id).foldl (State.admitSpawn t.core u.id g.idx) s) s) s = _
  rw [foldl_eq_of_unique (a := t) _ s (List.mem_filter.mpr ⟨ht, by simp⟩) (hids.of_map.filter _) fun u hu hne v =>
    hnone u (List.mem_filter.mp hu).1 hne v]
  refine foldl_eq_of_unique (a := g) _ s hg hidx.of_map fun h hh hne v => ?_
  rw [hone t h ht hh fun e => hne (List.inj_on_of_nodup_map hidx hh hg (congrArg Prod.snd e))]
  rfl

end Sys2Proof.Machine
end

section
/-! O36, second part: `spawn`, `kspawn` and `klaunch` (R159, R160, R161, R175). -/
namespace Sys2Proof.Machine
open Sys2Proof

/-! ### A spawn all of whose descriptors are read -/

/-- A thread as it waits in its spawn. -/
def Thread.spawning (b : Block) (t : Thread) : Thread := { t.tick with status := .blocked b, spec := [] }

/-- What a thread of a path waits for whose positions `who` spawn: that its request has entered the queue, or, where it makes none, that of the
path (R160, R161). -/
def Ctx.spawnBlock (c : Ctx) (who : List Nat) (desc : Nat → List Word) (da arg : Nat → DWord) (i : Nat) : Block :=
  if i ∈ who then .spawn (desc i) (da i) (arg i) i else .spawnPath (c.ms.headD c.lead)

section Spawn
variable {s s' : State} {c : Ctx} {who : List Nat} {lane : Nat → Option Nat} {da arg : Nat → DWord} {desc : Nat → List Word} {group : Bool}

/-- Once the descriptors are read the path waits, the journal has recorded them, and what can enter the queue does. -/
theorem spawnFor_reads (hrel : s.mayRelease c .clu = true) (hroom : s.journalRoom c.team.core (8 * who.length) = true)
    (hread : who.foldl (fun (a : State × List (Nat × DescRead)) i =>
      ((a.1.readDesc c (lane i) (da i)).1, a.2 ++ [(i, (a.1.readDesc c (lane i) (da i)).2)])) (s, []) = (s', who.map fun i => (i, .ok (desc i))))
    (hwho : group = false ∧ who = c.ms ∨ group = true ∧ who ≠ []) :
    ∃ u : State, u.teams = s'.teams ∧ u.mem = s'.mem ∧ (u.core c.team.core).spawnQ = (s'.core c.team.core).spawnQ ∧
      spawnFor c who lane da arg group s = .next (((u.mapGroup c.team.id c.group.idx fun g => g.mapAt c.ms fun i =>
        Thread.spawning (c.spawnBlock who desc da arg i)).spawnProgress c.team.core).issue c) := by
  unfold spawnFor
  rw [if_neg (by rw [hrel]; decide), if_neg (by rw [hroom]; decide)]
  split
  next u rs he =>
  obtain ⟨rfl, rfl⟩ := Prod.mk.inj (he.symm.trans hread)
  have hok : ∀ r, r ∈ who.map (fun i => (i, DescRead.ok (desc i))) → ∃ i, r = (i, DescRead.ok (desc i)) := fun r hr => by
    obtain ⟨i, -, rfl⟩ := List.mem_map.mp hr
    exact ⟨i, rfl⟩
  split
  next hv =>
    obtain ⟨r, hr, hv⟩ := List.exists_of_findSome?_eq_some hv
    obtain ⟨i, rfl⟩ := hok r hr
    cases hv
  split
  next hv =>
    obtain ⟨r, hr, hv⟩ := List.exists_of_findSome?_eq_some hv
    obtain ⟨i, rfl⟩ := hok r hr
    cases hv
  split
  next hw =>
    obtain ⟨r, hr, hw⟩ := List.any_eq_true.mp hw
    obtain ⟨i, rfl⟩ := hok r hr
    cases hw
  dsimp only
  simp only [List.flatMap_map, List.filterMap_map, Function.comp_def, List.filterMap_eq_map', List.any_map, List.map_map, List.find?_map]
  have hms : (if group = true then if (who.map fun x => (x, desc x)).isEmpty = true then [] else c.ms else who.map fun x => x) = c.ms := by
    rcases hwho with ⟨rfl, rfl⟩ | ⟨rfl, hne⟩
    · simp
    · simp [hne]
  have hkept : ∀ {β : Type} (p : State → β), (∀ (v : State) core w, p (v.journal core w) = p v) →
      p ((who.map fun x => (x, desc x)).foldl (fun s g => g.2.foldl (fun s w => s.journal c.team.core w) s) u) = p u := fun p hp =>
    foldl_keeps p (fun v (x : Nat × List Word) => foldl_keeps p (fun v w => hp v _ w) x.2 v) _ u
  refine ⟨_, hkept State.teams fun _ _ _ => rfl, hkept State.mem fun _ _ _ => rfl,
    hkept (fun v => (v.core c.team.core).spawnQ) fun v core w => ?_, ?_⟩
  · unfold State.journal
    rw [State.core_mapCore]
    split
    · next e => rw [e]
    · rfl
  · rw [hms, List.flatMap_eq_nil_iff.mpr fun _ _ => rfl]
    refine congrArg (fun f => Host.Outcome.next (((State.mapGroup _ c.team.id c.group.idx f).spawnProgress c.team.core).issue c)) (funext fun g =>
      Group.mapAt_congr fun i _ t => ?_)
    unfold Thread.spawning Ctx.spawnBlock
    by_cases hi : i ∈ who
    · simp [hi, find?_self hi]
    · simp [hi]

/-- A change of a group that keeps its number changes that group alone. -/
theorem State.mapGroup_at {v : State} {i j : Nat} {t : Team} {g : Group} (ht : v.team? i = some t) (hg : t.group? j = some g) (f : Group → Group)
    (hf : ∀ h, (f h).idx = h.idx) : ∃ T, OnlyTeam v (v.mapGroup i j f) i T ∧ OnlyGroup t T j (f g) := by
  obtain rfl := State.team?_id ht
  obtain rfl := Team.group?_idx hg
  exact State.mapGroup_only ht hg f hf

/-- A team of a state one of whose groups was changed, read back. -/
theorem State.mem_mapGroup {v : State} {i j : Nat} {f : Group → Group} (hf : ∀ g, (f g).idx = g.idx) {t : Team} (ht : t ∈ (v.mapGroup i j f).teams) :
    ∃ t', t' ∈ v.teams ∧ t.id = t'.id ∧ t.groups.map (·.idx) = t'.groups.map (·.idx) ∧ ∀ g, g ∈ t.groups → (t.id, g.idx) ≠ (i, j) → g ∈ t'.groups := by
  obtain ⟨t', ht', rfl⟩ := List.mem_map.mp ht
  refine ⟨t', ht', ?_⟩
  by_cases hid : t'.id = i
  · rw [if_pos (beq_iff_eq.mpr hid)]
    refine ⟨rfl, ?_, fun g hg hne => ?_⟩
    · refine (List.map_map ..).trans (List.map_congr_left fun g _ => ?_)
      simp only [Function.comp_apply]
      split
      · exact hf g
      · rfl
    · obtain ⟨g', hg', rfl⟩ := List.mem_map.mp hg
      by_cases hidx : (g'.idx == j) = true
      · rw [if_pos hidx, hf] at hne
        exact absurd (by rw [beq_iff_eq.mp hidx, ← hid]) hne
      · rwa [if_neg hidx]
  · rw [if_neg (by simpa using hid)]
    exact ⟨rfl, rfl, fun g hg _ => hg⟩

/-- A position beyond a group's threads, or one of its threads, waits with no request where none of them does. -/
theorem Group.thread_not_waitsToSpawn {g : Group} (h : ∀ t, t ∈ g.threads → ¬ t.waitsToSpawn) (i : Nat) : ¬ (g.thread i).waitsToSpawn := by
  unfold Group.thread
  rw [List.getD_eq_getElem?_getD]
  cases ht : g.threads[i]? with
  | none => rintro ⟨_, _, _, _, e⟩; cases e
  | some t => exact h t (List.mem_of_getElem? ht)

/-- The group of a path whose threads wait in their spawn. -/
def Group.spawningAt (g : Group) (c : Ctx) (who : List Nat) (desc : Nat → List Word) (da arg : Nat → DWord) : Group :=
  g.mapAt c.ms fun i => Thread.spawning (c.spawnBlock who desc da arg i)

/-- The requests of such a group (R160, R161). -/
theorem Group.spawningAt_spawnReqs (hp : s.path? = some c) (hasc : who.Pairwise (· < ·)) (hsub : ∀ i, i ∈ who → i ∈ c.ms) {g : Group}
    (hthreads : g.threads = c.group.threads) (hnone : ∀ t, t ∈ g.threads → ¬ t.waitsToSpawn) (team : Nat) :
    (g.spawningAt c who desc da arg).spawnReqs team = who.map fun i => (i, g.request team (desc i) (da i) (arg i) i) := by
  have hlt : ∀ i, i ∈ c.ms → i < g.threads.length := fun i hi => hthreads ▸ State.path?_mem hp hi
  refine Group.spawnReqs_eq hasc (fun i hi => ⟨?_, ?_⟩) (fun i hi => ?_) team
  · simpa [Group.spawningAt, Group.mapAt] using hlt i (hsub i hi)
  · rw [Group.spawningAt, Group.thread_mapAt_mem (hsub i hi) (hlt i (hsub i hi))]
    exact congrArg ThStatus.blocked (if_pos hi)
  · by_cases hm : i ∈ c.ms
    · rw [Group.spawningAt, Group.thread_mapAt_mem hm (hlt i hm)]
      rintro ⟨_, _, _, _, e⟩
      have hpath : ThStatus.blocked (.spawnPath (c.ms.headD c.lead)) = _ := (congrArg ThStatus.blocked (if_neg hi)).symm.trans e
      cases hpath
    · rw [Group.spawningAt, Group.thread_mapAt_not hm]
      exact Group.thread_not_waitsToSpawn hnone i

/-- Once all requests of such a group are in the queue, every thread of the path has gone on. -/
theorem Group.spawningAt_leaves (hp : s.path? = some c) (hawake : c.awake) (hasc : who.Pairwise (· < ·))
    (hhead : c.ms.headD c.lead ∈ who) {g : Group} (hthreads : g.threads = c.group.threads) (hhandler : g.handler = c.group.handler) {j : Nat} (hj : j ∈ c.ms) :
    (who.foldl Group.spawned (g.spawningAt c who desc da arg)).thread j =
      { Thread.spawning (c.spawnBlock who desc da arg j) (c.group.thread j) with status := .running, pc := (c.group.thread j).pc + 4 } := by
  have hlt : j < g.threads.length := hthreads ▸ State.path?_mem hp hj
  have hthread : (g.spawningAt c who desc da arg).thread j = Thread.spawning (c.spawnBlock who desc da arg j) (c.group.thread j) := by
    rw [Group.spawningAt, Group.thread_mapAt_mem hj hlt, Group.thread, hthreads]
    rfl
  have hlt' : j < (g.spawningAt c who desc da arg).threads.length := by simpa [Group.spawningAt, Group.mapAt] using hlt
  have hone : ∃ i, i ∈ who ∧ ∀ k, k ∈ who → (((g.spawningAt c who desc da arg).thread j).spawnedBy j k ↔ k = i) := by
    rw [hthread]
    unfold Thread.spawnedBy Thread.spawning Ctx.spawnBlock
    by_cases hw : j ∈ who
    · refine ⟨j, hw, fun k _ => ?_⟩
      simp [hw, eq_comm]
    · refine ⟨c.ms.headD c.lead, hhead, fun k hk => ?_⟩
      have hne : j ≠ k := fun e => hw (e ▸ hk)
      simp only [hw, if_false, hne, false_or, ThStatus.blocked.injEq, Block.spawnPath.injEq]
      exact eq_comm
  obtain ⟨i, hi, hiff⟩ := hone
  rw [Group.foldl_spawned_leaves who _ hlt' hasc.nodup hi hiff, hthread]
  have hh : (g.spawningAt c who desc da arg).handler = c.group.handler := hhandler
  rw [hh, Thread.release_of_awake (by exact fun hb => hawake hb j hj)]
  rfl

/-- The requests of a path's spawn are all in the queue, and its threads have gone on (R160, R161). -/
theorem spawn_enters (hp : s.path? = some c) (hawake : c.awake) (hscored : s'.unscored = s.unscored) (hasc : who.Pairwise (· < ·))
    (hsub : ∀ i, i ∈ who → i ∈ c.ms) (hhead : c.ms.headD c.lead ∈ who) {u : State} (hteams : u.teams = s'.teams)
    (hids : (u.teams.map (·.id)).Nodup) (hidx : ∀ t, t ∈ u.teams → (t.groups.map (·.idx)).Nodup)
    (hnone : ∀ t g h, t ∈ u.teams → g ∈ t.groups → h ∈ g.threads → ¬ h.waitsToSpawn)
    (hqueue : (u.core c.team.core).spawnQ.length + who.length ≤ Config.spawnEntries) :
    let t := ((u.mapGroup c.team.id c.group.idx fun g => g.spawningAt c who desc da arg).spawnProgress c.team.core).issue c
    ∃ T g, t.mem = u.mem ∧ t.team? c.team.id = some T ∧ T.group? c.group.idx = some g ∧
      (t.core c.team.core).spawnQ = (u.core c.team.core).spawnQ ++ who.map (fun i => c.group.request c.team.id (desc i) (da i) (arg i) i) ∧
      g.children = c.group.children + who.length ∧
      ∀ j, j ∈ c.ms → (g.thread j).running = true ∧ (g.thread j).pc = (c.group.thread j).pc + 4 ∧ (g.thread j).v = (c.group.thread j).v := by
  intro t
  obtain ⟨T, g, hT, hg, hcore, hgroup⟩ := State.path_of_unscored hp hscored
  have hT : u.team? c.team.id = some T := by unfold State.team?; rw [hteams]; exact hT
  have hTid := State.team?_id hT
  have hgidx := Team.group?_idx hg
  have hthreads : g.threads = c.group.threads := by have h := congrArg Group.threads hgroup; exact h
  have hhandler : g.handler = c.group.handler := by have h := congrArg Group.handler hgroup; exact h
  have hrequest : g.request c.team.id = c.group.request c.team.id := by rw [hgroup]; rfl
  have hchildren : g.children = c.group.children := by have h := congrArg Group.children hgroup; exact h
  let w := u.mapGroup c.team.id c.group.idx fun g => g.spawningAt c who desc da arg
  obtain ⟨T', hT', hG'⟩ := State.mapGroup_at hT hg (fun g => g.spawningAt c who desc da arg) fun _ => rfl
  have hT'id := State.team?_id hT'.self
  have hg'idx : (g.spawningAt c who desc da arg).idx = c.group.idx := hgidx
  have hT'core : T'.core = c.team.core := (hG'.field (·.core)).trans hcore
  have hmem := List.mem_of_find?_eq_some hT'.self
  obtain ⟨T₀, hT₀, -, hT₀idx, -⟩ := State.mem_mapGroup (f := fun g => g.spawningAt c who desc da arg) (fun _ => rfl) hmem
  have hids' : (w.teams.map (·.id)).Nodup := by
    have hsame : w.teams.map (·.id) = u.teams.map (·.id) :=
      (List.map_map ..).trans (List.map_congr_left fun t _ => by simp only [Function.comp_apply]; split <;> rfl)
    rwa [hsame]
  have hreqs := Group.spawningAt_spawnReqs (desc := desc) (da := da) (arg := arg) hp hasc hsub hthreads
    (fun h hh => hnone T g h (List.mem_of_find?_eq_some hT) (List.mem_of_find?_eq_some hg) hh) c.team.id
  have hothers : ∀ v h, v ∈ w.teams → h ∈ v.groups → (v.id, h.idx) ≠ (T'.id, (g.spawningAt c who desc da arg).idx) → h.spawnReqs v.id = [] := by
    intro v h hv hh hne
    rw [hT'id, hg'idx] at hne
    obtain ⟨v', hv', -, -, hkept⟩ := State.mem_mapGroup (f := fun g => g.spawningAt c who desc da arg) (fun _ => rfl) hv
    exact Group.spawnReqs_of_none (fun t ht => hnone v' h t hv' (hkept h hh hne) ht) v.id
  have hprogress := State.spawnProgress_of_one hids' (hT₀idx ▸ hidx T₀ hT₀) hmem (List.mem_of_find?_eq_some hG'.self) hothers
  rw [hT'core, hT'id, hg'idx, hreqs] at hprogress
  obtain ⟨hvteams, hvqueue⟩ := State.foldl_admitSpawn c.team.core c.team.id c.group.idx
    (who.map fun i => (i, g.request c.team.id (desc i) (da i) (arg i) i)) w (by rw [List.length_map]; exact hqueue)
  rw [← hprogress] at hvteams hvqueue
  simp only [List.map_map, Function.comp_def, List.map_id'] at hvteams hvqueue
  obtain ⟨T₁, hT₁, hG₁⟩ := State.mapGroup_at hT'.self hG'.self (fun g => who.foldl Group.spawned g) fun g => by
    have h := congrArg Group.idx (Group.foldl_spawned_rest who g).1; exact h
  have hvteam : (w.spawnProgress c.team.core).team? c.team.id = some T₁ := by
    have h := hT₁.self
    unfold State.team? at h ⊢
    rw [hvteams]; exact h
  obtain ⟨T₂, hT₂, hG₂⟩ := State.mapGroup_at hvteam hG₁.self (fun g => g.issued c.lead) fun g => Group.issued_idx g _
  refine ⟨T₂, _, State.spawnProgress_mem w c.team.core, hT₂.self, hG₂.self, ?_, ?_, fun j hj => ?_⟩
  · rw [← hrequest]; exact hvqueue
  · have hissued := congrArg Group.children (Group.issued_rest (who.foldl Group.spawned (g.spawningAt c who desc da arg)) c.lead)
    refine Eq.trans ?_ ((Group.foldl_spawned_rest who (g.spawningAt c who desc da arg)).2.1.trans (congrArg (· + who.length) hchildren))
    exact hissued
  · rw [Group.issued_thread, Group.spawningAt_leaves hp hawake hasc hhead hthreads hhandler hj]
    exact ⟨rfl, rfl, rfl⟩

/-- Descriptors that are all read left the teams as they were, but for their scores. -/
theorem foldl_readDesc_unscored (who : List Nat) (s : State) (acc : List (Nat × DescRead)) :
    ∃ u : State × List (Nat × DescRead), u = who.foldl (fun (a : State × List (Nat × DescRead)) i =>
        ((a.1.readDesc c (lane i) (da i)).1, a.2 ++ [(i, (a.1.readDesc c (lane i) (da i)).2)])) (s, acc) ∧
      ∃ rs, u.2 = acc ++ rs ∧ ((∀ r, r ∈ rs → ∃ ws, r.2 = .ok ws) → u.1.unscored = s.unscored) := by
  refine ⟨_, rfl, ?_⟩
  induction who generalizing s acc with
  | nil => exact ⟨[], (List.append_nil _).symm, fun _ => rfl⟩
  | cons i who ih =>
    obtain ⟨rs, hrs, hscored⟩ := ih (s.readDesc c (lane i) (da i)).1 (acc ++ [(i, (s.readDesc c (lane i) (da i)).2)])
    refine ⟨_, hrs.trans (List.append_assoc ..), fun hall => ?_⟩
    obtain ⟨ws, hws⟩ := hall _ List.mem_cons_self
    exact (hscored fun r hr => hall r (List.mem_cons_of_mem _ hr)).trans (State.readDesc_unscored (Prod.ext rfl hws))

/-- A spawn all of whose descriptors are read, with room for its requests (R160, R161). -/
theorem spawnFor_enters (hp : s.path? = some c) (hawake : c.awake) (hrel : s.mayRelease c .clu = true)
    (hroom : s.journalRoom c.team.core (8 * who.length) = true)
    (hread : who.foldl (fun (a : State × List (Nat × DescRead)) i =>
      ((a.1.readDesc c (lane i) (da i)).1, a.2 ++ [(i, (a.1.readDesc c (lane i) (da i)).2)])) (s, []) = (s', who.map fun i => (i, .ok (desc i))))
    (hwho : group = false ∧ who = c.ms ∨ group = true ∧ who = c.ms.take 1)
    (hqueue : (s'.core c.team.core).spawnQ.length + who.length ≤ Config.spawnEntries) (hids : (s'.teams.map (·.id)).Nodup)
    (hidx : ∀ t, t ∈ s'.teams → (t.groups.map (·.idx)).Nodup)
    (hnone : ∀ t g h d x y p, t ∈ s'.teams → g ∈ t.groups → h ∈ g.threads → h.status ≠ .blocked (.spawn d x y p)) :
    ∃ t T g, spawnFor c who lane da arg group s = .next t ∧ t.mem = s'.mem ∧ t.team? c.team.id = some T ∧ T.group? c.group.idx = some g ∧
      (t.core c.team.core).spawnQ = (s'.core c.team.core).spawnQ ++ who.map (fun i => c.group.request c.team.id (desc i) (da i) (arg i) i) ∧
      g.children = c.group.children + who.length ∧
      ∀ j, j ∈ c.ms → (g.thread j).running = true ∧ (g.thread j).pc = (c.group.thread j).pc + 4 ∧ (g.thread j).v = (c.group.thread j).v := by
  obtain ⟨-, -, -, -, hms⟩ := State.path?_spec hp
  obtain ⟨m, ms, hcons⟩ := List.exists_cons_of_ne_nil hms
  have hascending : c.ms.Pairwise (· < ·) := by
    rw [Ctx.ms_spec hp]
    exact List.pairwise_lt_range.filter _
  have hsublist : who.Sublist c.ms := by
    rcases hwho with ⟨-, rfl⟩ | ⟨-, rfl⟩
    · exact List.Sublist.refl _
    · exact List.take_sublist 1 _
  have hhead : c.ms.headD c.lead ∈ who := by rcases hwho with ⟨-, rfl⟩ | ⟨-, rfl⟩ <;> simp [hcons]
  obtain ⟨-, rfl, rs, hrs, hscored⟩ := foldl_readDesc_unscored (c := c) (lane := lane) (da := da) who s []
  rw [hread] at hrs hscored
  have hscored := hscored fun r hr => by
    rw [List.nil_append] at hrs
    rw [← hrs] at hr
    obtain ⟨i, -, rfl⟩ := List.mem_map.mp hr
    exact ⟨_, rfl⟩
  obtain ⟨u, hteams, hmem, hspawnQ, hrun⟩ := spawnFor_reads (arg := arg) (group := group) hrel hroom hread
    (hwho.imp id fun h => ⟨h.1, List.ne_nil_of_mem hhead⟩)
  obtain ⟨T, g, hmem', hT, hg, hq, hrest⟩ := spawn_enters (desc := desc) (da := da) (arg := arg) hp hawake hscored (hascending.sublist hsublist)
    (fun i hi => hsublist.subset hi) hhead hteams (by rwa [hteams]) (by rwa [hteams])
    (fun t g h ht hg hh => by rintro ⟨d, x, y, p, e⟩; exact hnone t g h d x y p (hteams ▸ ht) hg hh e) (by rwa [hspawnQ])
  exact ⟨_, T, g, hrun, hmem'.trans hmem, hT, hg, hspawnQ ▸ hq, hrest⟩

end Spawn

/-! ### `klaunch` -/

/-- `klaunch` of a path that may issue it, case by case (R175). -/
theorem execKlaunch_ready {d a : BitVec 6} {s : State} {c : Ctx} (h : KReady s c { reads := [(a.toNat, 2)], writes := [(d.toNat, 1)] }) :
    let ra := c.group.kpair a.toNat
    exec (.klaunch d a) s = if ra.toNat % 256 ≠ 0 then .next (s.trapPath c { code := 0x03, tval := vaddr ra })
      else if !canonical ra then .next (s.endTeam c.team.id 0x0F 1 (vaddr ra))
      else if !leaseCovers (s.leases c.team) (vaddr ra).toNat 256 .load then .next (s.endTeam c.team.id 0x0F 0 (vaddr ra))
      else if (s.core c.team.core).submission.isSome || (s.core c.team.core).buffer.any (fun e => match e.eff with | .submit _ _ _ => true | _ => false)
          || s.room c.team.core = 0 then .next s
      else if !s.mayRelease c .dev then .next (s.beginRelease c .dev)
      else .next ((({ s with fresh := s.fresh + 1 } : State).produce c.team.core c.team.id
        (.submit c.team.asid s.fresh (vaddr ra))).mapGroup c.team.id c.group.idx fun g =>
          Group.issued { g.mapAt c.ms (fun _ t => t.tick.next) with
            kout := g.kout ++ [{ dst := [kIndex c.group.handler d.toNat], look := 0, tag := s.fresh, ext := true, kind := .submitted }] } c.lead) := by
  intro ra
  show execKlaunch d a s = _
  unfold execKlaunch
  rw [h.path]
  simp only [h.named, h.sound, h.free, Bool.not_true, Bool.false_eq_true, if_false]
  rfl

/-- Settles O36: both spawns are `spawnFor`, for the threads of the path or for its lowest; `klaunch` is a chain of checks. -/
theorem spawnsAndLaunchesAreQueued : Obligations.SpawnsAndLaunchesAreQueued := by
  refine ⟨fun s s' c who i lane da arg desc hi hrel hroom hawake hread hqueue hids hidx hnone => ?_, fun d a s c h => ?_⟩
  · have hrun : ∃ group, exec i s = spawnFor c who lane da arg group s ∧ s.path? = some c ∧
        (group = false ∧ who = c.ms ∨ group = true ∧ who = c.ms.take 1) := by
      rcases hi with ⟨a, b, rfl, h, rfl, rfl, rfl, rfl⟩ | ⟨a, b, rfl, h, rfl, rfl, rfl, rfl⟩
      · refine ⟨false, ?_, h.path, Or.inl ⟨rfl, rfl⟩⟩
        show execSpawn a b s = _
        unfold execSpawn
        rw [h.path]
        simp only [h.named, h.sound, h.free, Bool.not_true, Bool.false_eq_true, if_false]
      · refine ⟨true, ?_, h.path, Or.inr ⟨rfl, rfl⟩⟩
        show execKspawn a b s = _
        unfold execKspawn
        rw [h.path]
        simp only [h.named, h.sound, h.free, Bool.not_true, Bool.false_eq_true, if_false]
    obtain ⟨group, hrun, hp, hwho⟩ := hrun
    rw [hrun]
    exact spawnFor_enters hp hawake hrel hroom hread hwho hqueue hids hidx hnone
  · intro ra
    rw [execKlaunch_ready h]
    refine ⟨fun hal => ?_, fun hal hcan => ?_, fun hal hcan hlease => ?_, fun hal hcan hlease hsub hbuf hroom hrel => ?_⟩
    · exact if_pos hal
    · rw [if_neg (not_not_intro hal), if_pos (by rw [hcan]; rfl)]
    · rw [if_neg (not_not_intro hal), if_neg (by rw [hcan]; decide), if_pos (by rw [hlease]; rfl)]
    · have hclear : ¬ ((s.core c.team.core).submission.isSome || (s.core c.team.core).buffer.any (fun e => match e.eff with | .submit _ _ _ => true | _ => false)
          || s.room c.team.core = 0) = true := by
        have hany : (s.core c.team.core).buffer.any (fun e => match e.eff with | .submit _ _ _ => true | _ => false) = false :=
          List.any_eq_false.mpr fun e he => by
            split
            · next x y z heff => exact absurd heff (hbuf e x y z he)
            · decide
        rw [hsub, hany]
        simp; omega
      rw [if_neg (not_not_intro hal), if_neg (by rw [hcan]; decide), if_neg (by rw [hlease]; decide), if_neg hclear, if_neg (by rw [hrel]; decide)]

end Sys2Proof.Machine
end

section
/-! O51: handlers, rotation, the active set and the windows of a core as events (R143, R184, R185, R187, R188, R332, R336). -/
namespace Sys2Proof.Machine
open Sys2Proof

/-! ### Entering a handler -/

/-- A thread as its handler starts, if it is not blocked: one that runs or is parked goes to the handler's address, one that is not live stays. -/
theorem Thread.toHandler_of_unblocked (vec : VAddr) (t : Thread) :
    (t.status = .running ∨ t.status = .parked →
      t.toHandler vec = { t with status := .running, held := t.status, resume := some t.pc, pc := vec, stall := [], kstall := [] }) ∧
    (t.status = .exited ∨ t.status = .absent → t.toHandler vec = { t with stall := [], kstall := [] }) := by
  unfold Thread.toHandler
  constructor <;> rintro (h | h) <;> simp [h]

/-- A group that has drained and whose trap is pending enters its handler, or that of its team (R332, R336). -/
theorem State.enterIfDrained_of_drained {s : State} {team group : Nat} {t : Team} {g : Group} (ht : s.team? team = some t)
    (hg : t.group? group = some g) (hd : g.drained = true) {own : Bool} (hp : g.pending = if own then .own else .team) :
    s.enterIfDrained team group = s.mapGroup team group fun g => g.enter (s.port t.asid).trapVec !own := by
  unfold State.enterIfDrained
  simp only [ht, hg, hd, if_true, hp]
  cases own <;> rfl

/-- What entering a handler makes of a group (R332 step 4). -/
theorem Group.enter_spec (g : Group) (vec : VAddr) (own : Bool) :
    (g.enter vec !own).handler = true ∧ (g.enter vec !own).teamHandler = !own ∧ (g.enter vec !own).pending = .none ∧
    (g.enter vec !own).fmask = (if own = true then g.fmask else 0) ∧
    ∀ i, ((g.thread i).status = .running ∨ (g.thread i).status = .parked → (g.enter vec !own).thread i = { g.thread i with
        status := .running, held := (g.thread i).status, resume := some (g.thread i).pc, pc := vec, stall := [], kstall := [] }) ∧
      ((g.thread i).status = .exited ∨ (g.thread i).status = .absent → (g.enter vec !own).thread i = { g.thread i with stall := [], kstall := [] }) := by
  refine ⟨rfl, rfl, rfl, by cases own <;> rfl, fun i => ?_⟩
  rw [Group.enter_thread]
  exact (g.thread i).toHandler_of_unblocked vec

section Events
variable {s : State} {team group core : Nat} {t : Team} {g : Group}

theorem execTrapHandlerEntry_of_drained (ht : s.team? team = some t) (hg : t.group? group = some g) (hp : g.pending ≠ .none)
    (hd : g.drained = true) : exec (.trapHandlerEntry team group) s = .next (s.enterIfDrained team group) := by
  show execTrapHandlerEntry team group s = _
  unfold execTrapHandlerEntry
  simp only [ht, Option.bind_some, hg]
  exact if_pos ⟨hp, hd⟩

theorem execTeamHandlerEntry_due (ht : s.team? team = some t) (hdue : t.handlerDue = true) : exec (.teamHandlerEntry team) s =
    match t.handlerGroup with
    | none => .next (s.endTeam team (t.tcause.toNat % 64) 0 0)
    | some g => .next ((s.mapGroup team g fun g => { g with pending := .team }).enterIfDrained team g) := by
  show execTeamHandlerEntry team s = _
  unfold execTeamHandlerEntry
  simp only [ht, hdue, Bool.not_true, Bool.false_eq_true, if_false] <;> rfl

/-- A group whose team's trap is pending enters the team handler once it has drained, and until then it is pending (R336). -/
theorem State.enterTeamHandler (ht : s.team? team = some t) (hg : t.group? group = some g) :
    (s.mapGroup team group fun g => { g with pending := .team }).enterIfDrained team group =
      s.mapGroup team group fun h => if g.drained then ({ h with pending := .team } : Group).enter (s.port t.asid).trapVec true
        else { h with pending := .team } := by
  obtain ⟨T, hT, hG⟩ := State.mapGroup_at ht hg (fun g => { g with pending := .team }) fun _ => rfl
  have hdrained : ({ g with pending := .team } : Group).drained = g.drained := rfl
  have hasid : T.asid = t.asid := hG.field (·.asid)
  by_cases hd : g.drained = true
  · rw [State.enterIfDrained_of_drained (own := false) hT.self hG.self (hdrained.trans hd) rfl,
      State.mapGroup_mapGroup s team group (fun g => { g with pending := .team }) _ fun _ => rfl, hasid]
    simp only [hd, if_true]
    rfl
  · unfold State.enterIfDrained
    simp only [hT.self, hG.self, hdrained, hd, if_false, Bool.false_eq_true]

/-- A group that became divided at a full quantum rotates from its lowest live position where it holds no favour (R143). -/
theorem execQuantumRotation_of_full (ht : s.team? team = some t) (hg : t.group? group = some g) (hdiv : g.divided = true)
    (hq : g.quantum.toNat ≠ 0) (hfull : g.quantum.toNat ≤ g.n) : exec (.quantumRotation team group) s =
      .next (s.mapGroup team group fun g => g.rotate (((List.range 32).find? fun i => (g.thread i).live).getD 0)) := by
  show execQuantumRotation team group s = _
  unfold execQuantumRotation
  simp only [ht, Option.bind_some, hg]
  exact if_pos ⟨hdiv, hq, hfull⟩

/-- What the events of one group do to it. -/
theorem groupEvents (ht : s.team? team = some t) (hg : t.group? group = some g) :
    let enters := fun (i : Instr) (own : Bool) => ∃ u T G, exec i s = .next u ∧ OnlyTeam s u team T ∧ OnlyGroup t T group G ∧
      G.handler = true ∧ G.teamHandler = !own ∧ G.pending = .none ∧ G.fmask = (if own = true then g.fmask else 0) ∧
      ∀ i, ((g.thread i).status = .running ∨ (g.thread i).status = .parked → G.thread i = { g.thread i with
          status := .running, held := (g.thread i).status, resume := some (g.thread i).pc, pc := (s.port t.asid).trapVec, stall := [], kstall := [] }) ∧
        ((g.thread i).status = .exited ∨ (g.thread i).status = .absent → G.thread i = { g.thread i with stall := [], kstall := [] })
    (g.pending = .own → g.drained = true → enters (.trapHandlerEntry team group) true) ∧
    (g.pending = .team → g.drained = true → enters (.trapHandlerEntry team group) false) ∧
    (t.handlerDue = true → t.handlerGroup = some group →
      (g.drained = true → enters (.teamHandlerEntry team) false) ∧
      (g.drained = false → ∃ u T G, exec (.teamHandlerEntry team) s = .next u ∧ OnlyTeam s u team T ∧ OnlyGroup t T group G ∧
        G = { g with pending := .team })) := by
  intro enters
  have hpending : ∀ own, (g.pending = if own then .own else .team) → g.drained = true → enters (.trapHandlerEntry team group) own := by
    intro own hp hd
    obtain ⟨T, hT, hG⟩ := State.mapGroup_at ht hg (fun g => g.enter (s.port t.asid).trapVec !own) fun _ => rfl
    refine ⟨_, T, _, ?_, hT, hG, g.enter_spec _ own⟩
    rw [execTrapHandlerEntry_of_drained ht hg (by rw [hp]; cases own <;> decide) hd, State.enterIfDrained_of_drained ht hg hd hp]
  refine ⟨hpending true, hpending false, fun hdue hgroup => ?_⟩
  have hrun := execTeamHandlerEntry_due ht hdue
  simp only [hgroup, State.enterTeamHandler ht hg] at hrun
  constructor
  · intro hd
    simp only [hd, if_true] at hrun
    obtain ⟨T, hT, hG⟩ := State.mapGroup_at ht hg (fun g => ({ g with pending := .team } : Group).enter (s.port t.asid).trapVec true) fun _ => rfl
    exact ⟨_, T, _, hrun, hT, hG, ({ g with pending := .team } : Group).enter_spec _ false⟩
  · intro hd
    simp only [hd, if_false, Bool.false_eq_true] at hrun
    obtain ⟨T, hT, hG⟩ := State.mapGroup_at ht hg (fun g => { g with pending := .team }) fun _ => rfl
    exact ⟨_, T, _, hrun, hT, hG, rfl⟩

/-- The rotation of a full quantum changes the count and the favour alone. -/
theorem quantumRotation_rotates (ht : s.team? team = some t) (hg : t.group? group = some g) (hdiv : g.divided = true)
    (hq : g.quantum.toNat ≠ 0) (hfull : g.quantum.toNat ≤ g.n) : ∃ u T G, exec (.quantumRotation team group) s = .next u ∧
      OnlyTeam s u team T ∧ OnlyGroup t T group G ∧ G.n = 0 ∧ { G with n := g.n, favour := g.favour } = g ∧
      ∀ i, i < 32 → (g.thread i).live = true → (∀ j, j < i → (g.thread j).live = false) → G.favour = (g.rotate i).favour := by
  obtain ⟨T, hT, hG⟩ := State.mapGroup_at ht hg (fun g => g.rotate (((List.range 32).find? fun i => (g.thread i).live).getD 0))
    fun h => Group.rotate_idx h _
  refine ⟨_, T, _, execQuantumRotation_of_full ht hg hdiv hq hfull, hT, hG, Group.rotate_n g _, Group.rotate_rest g _, fun i hi hlive hlow => ?_⟩
  have hfirst : (List.range 32).find? (fun i => (g.thread i).live) = some i :=
    List.find?_range_eq_some.mpr ⟨hlive, List.mem_range.mpr hi, fun j hj => by simp [hlow j hj]⟩
  rw [hfirst]
  rfl

/-! ### The active set -/

/-- The oldest ready pending group takes a free place of the active set, or that of the oldest active group that waits (R185). -/
theorem execGroupSwap_ready {side : Nat} {p : Seat} (hp : (s.seats core side).find? (fun x => !x.active && x.ready) = some p) :
    exec (.groupSwap core side) s =
      if ((s.seats core side).filter (·.active)).length < 8 then .next (s.seat p true)
      else match ((s.seats core side).filter (·.active)).find? (·.waiting) with
        | some a => .next ((s.seat a false).seat p true)
        | none => .refused .notDue := by
  show execGroupSwap core side s = _
  unfold execGroupSwap
  simp only [hp] <;> rfl

theorem State.seat_only {x : Seat} (ht : s.team? x.team = some t) (hg : t.group? x.group = some g) (b : Bool) :
    ∃ T, OnlyTeam s (s.seat x b) x.team T ∧ OnlyGroup t T x.group { g with active := b } :=
  State.mapGroup_at ht hg (fun g => { g with active := b }) fun _ => rfl

/-- One group takes the place of another (R185). -/
theorem State.seat_swaps {a p : Seat} {ta : Team} {ga : Group} (ht : s.team? p.team = some t) (hg : t.group? p.group = some g)
    (hta : s.team? a.team = some ta) (hga : ta.group? a.group = some ga) (hne : (a.team, a.group) ≠ (p.team, p.group)) :
    let u := (s.seat a false).seat p true
    ∃ T A, { u with teams := s.teams } = s ∧ u.team? p.team = some T ∧ T.group? p.group = some { g with active := true } ∧
      u.team? a.team = some A ∧ A.group? a.group = some { ga with active := false } ∧ ∀ j, j ≠ p.team → j ≠ a.team → u.team? j = s.team? j := by
  intro u
  obtain ⟨A, hA, hAg⟩ := State.seat_only hta hga false
  by_cases hteam : p.team = a.team
  · have hgroup : p.group ≠ a.group := fun h => hne (by rw [hteam, h])
    have hsame : t = ta := Option.some.inj (ht.symm.trans ((congrArg s.team? hteam).trans hta))
    subst hsame
    obtain ⟨T, hT, hTg⟩ := State.seat_only (x := p) (hteam ▸ hA.self) ((hAg.others _ hgroup).trans hg) true
    exact ⟨T, T, rfl, hT.self, hTg.self, hteam ▸ hT.self, (hTg.others _ hgroup.symm).trans hAg.self,
      fun j hj hj' => (hT.others j hj).trans (hA.others j hj')⟩
  · obtain ⟨T, hT, hTg⟩ := State.seat_only (x := p) ((hA.others _ hteam).trans ht) hg true
    exact ⟨T, A, rfl, hT.self, hTg.self, (hT.others _ (Ne.symm hteam)).trans hA.self, hAg.self,
      fun j hj hj' => (hT.others j hj).trans (hA.others j hj')⟩

/-! ### Windows -/

/-- A change of every team of a core and of the core itself. -/
theorem State.mapTeamsOn_mapCore {f : Team → Team} (hf : ∀ t, (f t).id = t.id) (h : Core → Core) :
    let u := (s.mapTeamsOn core f).mapCore core h
    u.core core = h (s.core core) ∧ (∀ c, c ≠ core → u.core c = s.core c) ∧ { u with teams := s.teams, cores := s.cores } = s ∧
      ∀ id t, s.team? id = some t → u.team? id = some (if t.core = core then f t else t) := by
  refine ⟨State.core_mapCore_self _ core h, fun c hc => ?_, rfl, fun id t ht => ?_⟩
  · rw [State.core_mapCore, if_neg hc]
    rfl
  · have hid : ∀ t : Team, (if t.core = core then f t else t).id = t.id := fun t => by
      split
      · exact hf t
      · rfl
    exact (State.team?_map s (fun t => if t.core = core then f t else t) hid id).trans (congrArg _ ht)

/-- A team with its tokens restored (R188). -/
def Team.refilled (t : Team) : Team := { t with tensorSpent := 0, sfuSpent := 0, tensorIssued := false, sfuIssued := false }

/-- A team with the scores of its groups halved (R187). -/
def Team.scoresHalved (t : Team) : Team := { t with groups := t.groups.map fun (g : Group) => { g with score := g.score / 2 } }

theorem execTokenWindowStart_due (hw : (s.core core).window < s.now core / Config.tokenWindow) : exec (.tokenWindowStart core) s =
    .next ((s.mapTeamsOn core Team.refilled).mapCore core fun k => { k with window := s.now core / Config.tokenWindow }) :=
  if_neg (Nat.not_le.mpr hw)

theorem execThrottleScoreHalving_due (hw : (s.core core).halved < s.now core / Config.tokenWindow) : exec (.throttleScoreHalving core) s =
    .next ((s.mapTeamsOn core Team.scoresHalved).mapCore core fun k => { k with halved := s.now core / Config.tokenWindow }) :=
  if_neg (Nat.not_le.mpr hw)

end Events

/-- Settles O51: each event is one change of a group, of two groups, or of the teams of a core. -/
theorem groupAndWindowEvents : Obligations.GroupAndWindowEvents := by
  refine ⟨fun s team group t g ht hg => ?_, fun s team t ht hdue hnone => ?_, fun s core side p t g hp ht hg => ?_, fun s core => ?_⟩
  · obtain ⟨hown, hteam, hdue⟩ := groupEvents ht hg
    exact ⟨hown, hteam, hdue, quantumRotation_rotates ht hg⟩
  · rw [execTeamHandlerEntry_due ht hdue, hnone]
  · intro act
    rw [execGroupSwap_ready hp]
    refine ⟨fun hroom => ?_, fun hfull a ta ga ha hta hga hne => ?_, fun hfull hnone => ?_⟩
    · obtain ⟨T, hT, hG⟩ := State.seat_only ht hg true
      exact ⟨_, T, if_pos hroom, hT, hG⟩
    · obtain ⟨T, A, hswap⟩ := State.seat_swaps ht hg hta hga hne
      exact ⟨_, T, A, by rw [if_neg (Nat.not_lt.mpr hfull), ha], hswap⟩
    · rw [if_neg (Nat.not_lt.mpr hfull), hnone]
  · exact ⟨fun hw => ⟨_, execTokenWindowStart_due hw, State.mapTeamsOn_mapCore (f := Team.refilled) (fun _ => rfl) _⟩,
      fun hw => ⟨_, execThrottleScoreHalving_due hw, State.mapTeamsOn_mapCore (f := Team.scoresHalved) (fun _ => rfl) _⟩⟩

end Sys2Proof.Machine
end

section
/-! What writing lines back leaves of the ports, and what dropping a word's copies leaves of memory (R219, R227). -/
namespace Sys2Proof.Machine
open Sys2Proof

/-! ### Directories -/

/-- `p` reads nothing of an I/O die, and of the compute dies at most their states. -/
structure PastCaches {β : Type} (p : State → β) : Prop where
  die : ∀ (s : State) (d : Nat) (f : Die → Die), (∀ k, (f k).state = k.state) → p (s.mapDie d f) = p s
  ios : ∀ (s : State) (xs : List IoDie), p { s with ios := xs } = p s

section
variable {β : Type} {p : State → β} (hp : PastCaches p) (s : State)
include hp

theorem PastCaches.mapHub (n : Node) (f : Hub → Hub) : p (s.mapHub n f) = p s := by
  unfold State.mapHub
  split
  · exact hp.die _ _ _ fun _ => rfl
  · exact hp.die _ _ _ fun _ => rfl
  · exact hp.ios _ _
  all_goals rfl

theorem PastCaches.mapFilter (h : Nat) (quarter : Bool) (f : List (Nat × FilterEntry) → List (Nat × FilterEntry)) :
    p (s.mapFilter h quarter f) = p s := by
  unfold State.mapFilter
  split
  · rfl
  · exact hp.die _ _ _ fun _ => by split <;> rfl

theorem PastCaches.mapEntry (n : Node) (line : Nat) (f : DirEntry → DirEntry) : p (s.mapEntry n line f) = p s := by
  have hhub := hp.mapHub s n fun h => h.setEntry line (f (h.entry line))
  unfold State.mapEntry
  dsimp only
  split
  · unfold State.noteFilters
    split
    · exact ((hp.mapFilter _ _ _ _).trans (hp.mapFilter _ _ _ _)).trans hhub
    · exact hhub
  · exact hhub

end

/-! ### The ports, past a write-back -/

theorem pastCaches_ports : PastCaches State.ports := ⟨fun _ _ _ _ => rfl, fun _ _ => rfl⟩

@[simp] theorem State.mapEntry_ports (s : State) (n : Node) (line : Nat) (f : DirEntry → DirEntry) : (s.mapEntry n line f).ports = s.ports :=
  pastCaches_ports.mapEntry s n line f

@[simp] theorem State.send_ports (s : State) (k : MsgKind) (m : Msg) : (s.send k m).ports = s.ports := by
  have h := congrArg State.ports (State.send_rest s k m); exact h

@[simp] theorem State.markPoison_ports (s : State) (w : Nat) (p : Bool) : (s.markPoison w p).ports = s.ports := by
  unfold State.markPoison
  dsimp only
  repeat' split
  all_goals rfl

@[simp] theorem State.holdHost_ports (s : State) (w : Nat) : (s.holdHost w).ports = s.ports := by
  unfold State.holdHost
  split <;> rfl

@[simp] theorem State.useL2_ports (s : State) (line : Nat) : (s.useL2 line).ports = s.ports := by
  unfold State.useL2
  split <;> rfl

@[simp] theorem State.shoot_ports (s : State) (ws : List Nat) : (s.shoot ws).ports = s.ports := rfl

@[simp] theorem State.setHomeWord_ports (s : State) (w : Nat) (x : Word) (p : Bool) : (s.setHomeWord w x p).ports = s.ports := by
  unfold State.setHomeWord
  split
  · rfl
  · split
    · rfl
    · simp

@[simp] theorem State.releaseHostLine_ports (s : State) (i line : Nat) : (s.releaseHostLine i line).ports = s.ports := by
  unfold State.releaseHostLine
  dsimp only
  repeat' split
  all_goals simp

@[simp] theorem State.writeHome_ports (s : State) (core line : Nat) (ws : List (Nat × WordCell)) : (s.writeHome core line ws).ports = s.ports := by
  have hwords := foldl_keeps State.ports (fun (s : State) (x : Nat × WordCell) => State.setHomeWord_ports s (line * 32 + x.1) x.2.val x.2.poison) ws s
  unfold State.writeHome
  dsimp only
  split
  · split <;> simp [hwords, -List.foldl_cons]
  · simp [hwords]

@[simp] theorem State.demote_ports (s : State) (hub holder : Node) (line w : Nat) : (s.demote hub holder line w).ports = s.ports := by
  unfold State.demote
  split <;> simp

@[simp] theorem State.lowerWord_ports (s : State) (core line w : Nat) (c : WordCell) : (s.lowerWord core line w c).ports = s.ports := by
  unfold State.lowerWord
  dsimp only
  split <;> simp

@[simp] theorem State.cwbL1_ports (s : State) (core line : Nat) : (s.cwbL1 core line).ports = s.ports := by
  have hlower := foldl_keeps State.ports (fun (s : State) (x : Nat × WordCell) => State.lowerWord_ports s core line x.1 x.2) (s.dirtyL1 core line true) s
  unfold State.cwbL1
  dsimp only
  split
  · exact hlower
  · rw [State.mapCore_ports, State.writeHome_ports]
    exact hlower

@[simp] theorem State.softenL1_ports (s : State) (d line w : Nat) : (s.softenL1 d line w).ports = s.ports := by
  unfold State.softenL1
  split <;> simp

@[simp] theorem State.wbRdc_ports (s : State) (d line : Nat) (ws : List Nat) : (s.wbRdc d line ws).ports = s.ports := by
  have hsoften := foldl_keeps State.ports (fun s w => State.softenL1_ports s d line w) ws s
  unfold State.wbRdc
  split
  · rfl
  · rw [State.send_ports, State.mapDie_ports]
    exact hsoften

/-- Writing a line back leaves the launch ports. -/
@[simp] theorem State.cwbLine_ports (s : State) (cs ds : List Nat) (line : Nat) : (s.cwbLine cs ds line).ports = s.ports := by
  have hl1 := foldl_keeps State.ports (fun s c => State.cwbL1_ports s c line) (s.holdingCores cs line) s
  unfold State.cwbLine
  exact (foldl_keeps State.ports (fun u d => State.wbRdc_ports u d line _) _ _).trans hl1

/-! ### Memory and the dead, past the copies of a word -/

/-- Memory, and which homes are dead. -/
def State.ground (s : State) : Memory × List Nat × (Nat → Nat) := (s.mem, s.lostPkgs, fun d => (s.die d).state)

theorem State.ground_congr {s t : State} (h : t.ground = s.ground) : t.mem = s.mem ∧ ∀ n, t.isDead n = s.isDead n := by
  obtain ⟨hmem, hpkgs, hdies⟩ : t.mem = s.mem ∧ t.lostPkgs = s.lostPkgs ∧ (fun d => (t.die d).state) = fun d => (s.die d).state := by
    simpa [State.ground] using h
  refine ⟨hmem, fun n => ?_⟩
  have hdie : ∀ d, (t.die d).state = (s.die d).state := congrFun hdies
  unfold State.isDead
  simp only [hpkgs, hdie]

theorem pastCaches_ground : PastCaches State.ground := by
  refine ⟨fun s d f hf => ?_, fun _ _ => rfl⟩
  refine congrArg (fun x => (s.mem, s.lostPkgs, x)) (funext fun i => ?_)
  rw [State.die_mapDie]
  split
  · next h => rw [hf, h.1]
  · rfl

@[simp] theorem State.send_ground (s : State) (k : MsgKind) (m : Msg) : (s.send k m).ground = s.ground := by
  have h := congrArg State.ground (State.send_rest s k m); exact h

theorem Die.putRdc_state (k : Die) (line w : Nat) (c : WordCell) : (k.putRdc line w c).state = k.state := by
  unfold Die.putRdc
  repeat' split
  all_goals rfl

/-- What both branches keep, a choice between them keeps. -/
theorem ite_ground {c : Prop} [Decidable c] {s t u : State} (ht : t.ground = s.ground) (hu : u.ground = s.ground) :
    (if c then t else u).ground = s.ground := by
  split
  · exact ht
  · exact hu

theorem State.dropL1_ground (s : State) (core line w : Nat) : (s.dropL1 core line w).ground = s.ground := by
  unfold State.dropL1
  dsimp only
  have hforget : (if ((s.core core).cell line w).tracked = true then
      (s.mapCore core fun k => k.putCell line w {}).mapEntry (parentOf core line) line fun e => e.forget w (.l1 core)
      else s.mapCore core fun k => k.putCell line w {}).ground = s.ground := ite_ground (pastCaches_ground.mapEntry _ _ _ _) rfl
  exact ite_ground rfl (ite_ground ((State.send_ground _ _ _).trans hforget) hforget)

theorem State.dropRdc_ground (s : State) (d line w : Nat) : (s.dropRdc d line w).ground = s.ground := by
  have hforget : ((s.mapDie d fun k => k.putRdc line w {}).mapEntry (homeOf (line * 128)) line fun e => e.forget w (.rdc d)).ground = s.ground :=
    (pastCaches_ground.mapEntry _ _ _ _).trans (pastCaches_ground.die _ _ _ fun k => k.putRdc_state _ _ _)
  unfold State.dropRdc
  exact ite_ground rfl (ite_ground ((State.send_ground _ _ _).trans hforget) hforget)

theorem State.breakLr_ground (s : State) (io : Option Nat) (line : Nat) (ws : Mask) : (s.breakLr io line ws).ground = s.ground := by
  unfold State.breakLr
  split <;> rfl

/-- Dropping the copies of a word leaves memory and the dead homes (R227). -/
theorem State.dropCopies_ground (s : State) (w : Nat) : (s.dropCopies w).ground = s.ground := by
  have hl1 := foldl_keeps State.ground (step := fun s c => if ((s.core c).cell (w / 32) (w % 32)).tracked then s.dropL1 c (w / 32) (w % 32) else s)
    (fun s c => ite_ground (s.dropL1_ground c _ _) rfl) (s.cores.map (·.1)) s
  have hrdc := fun t => foldl_keeps State.ground (fun s d => State.dropRdc_ground s d (w / 32) (w % 32)) (List.range Config.numDies) t
  unfold State.dropCopies
  dsimp only
  rw [State.breakLr_ground]
  exact ite_ground ((hrdc _).trans hl1) ((pastCaches_ground.mapEntry _ _ _ _).trans ((hrdc _).trans hl1))

/-! ### A word written at its home -/

@[simp] theorem State.markPoison_mem (s : State) (w : Nat) (p : Bool) : (s.markPoison w p).mem = s.mem := by
  unfold State.markPoison
  dsimp only
  repeat' split
  all_goals rfl

@[simp] theorem State.holdHost_mem (s : State) (w : Nat) : (s.holdHost w).mem = s.mem := by
  unfold State.holdHost
  split <;> rfl

@[simp] theorem State.useL2_mem (s : State) (line : Nat) : (s.useL2 line).mem = s.mem := by
  unfold State.useL2
  split <;> rfl

@[simp] theorem State.shoot_mem (s : State) (ws : List Nat) : (s.shoot ws).mem = s.mem := rfl

/-- Writing a word at its home, on the package's memory and alive, writes it into memory. -/
theorem State.setHomeWord_mem {s : State} {w : Nat} (x : Word) (p : Bool) (hdev : isDevice (4 * w) = false) (hdead : s.isDead (homeOf (4 * w)) = false) :
    (s.setHomeWord w x p).mem = s.mem.setWord (4 * w) x := by
  unfold State.setHomeWord
  rw [if_neg (by simp [hdev]), if_neg (by simp [hdead])]
  simp

/-- A word a party without an L1 wrote stands at its home. -/
theorem State.homeWord_homeWrite {s : State} {w : Nat} (x : Word) (hdev : isDevice (4 * w) = false) (hdead : s.isDead (homeOf (4 * w)) = false)
    (hwf : s.mem.wf = true) : ((s.homeWrite w x).homeWord w).1 = x := by
  obtain ⟨hmem, hdeads⟩ := State.ground_congr (s.dropCopies_ground w)
  unfold State.homeWord
  rw [if_neg (by simp [hdev])]
  refine (congrArg (fun m => Memory.word m (4 * w)) (State.setHomeWord_mem (s := s.dropCopies w) x false hdev (by rw [hdeads, hdead]))).trans ?_
  rw [hmem]
  exact Memory.word_setWord hwf _ _

end Sys2Proof.Machine
end

section
/-! O48: the retirement of a team, the flush of a launch and its signal (R163, R177, R189, R190, R212). -/
namespace Sys2Proof.Machine
open Sys2Proof

/-! ### Retirement -/

/-- A child's end changes nothing of the child's own team, and without a parent nothing at all (R163). -/
theorem State.childGone_spec (s : State) {team : Nat} {t : Team} (hparent : ∀ p, t.parent = some p → p.team ≠ team) :
    (s.childGone t).mem = s.mem ∧ (s.childGone t).team? team = s.team? team ∧ (t.parent = none → s.childGone t = s) := by
  unfold State.childGone
  cases hp : t.parent with
  | none => exact ⟨rfl, rfl, fun _ => rfl⟩
  | some p =>
    dsimp only
    refine ⟨?_, ?_, fun h => by cases h⟩
    · repeat' split
      all_goals rfl
    · split
      · rfl
      · split
        · exact (State.team?_mapTeam s p.team (f := Team.lessChild p.group) (fun _ => rfl) team).trans (if_neg (hparent p hp).symm)
        · rfl

/-- A team as its retirement is reported: the commands it had not finished go (R189). -/
def Team.reportsRetired (t : Team) : Team := { t with retiring := true, engs := t.engs.map fun p => (p.1, { p.2 with cmd := [] }) }

theorem execTeamRetirement_done {s : State} {team : Nat} {t : Team} (ht : s.team? team = some t) (hret : t.retiring = false)
    (hdone : s.teamDone t = true) (hstreams : t.streamsDone = true) (hchild : s.childReleased t = true) (hroom : 2 ≤ s.room t.core) :
    exec (.teamRetirement team) s = .next (((s.mapTeam team Team.reportsRetired).childGone t).produce t.core team (.retire team)) := by
  show execTeamRetirement team s = _
  unfold execTeamRetirement retireTeam
  simp only [ht, hret, hdone, hstreams, hchild, Bool.not_true, Bool.or_self, Bool.false_or]
  exact if_neg (by simpa using Nat.not_lt.mpr hroom)

/-- A team that is done reports its retirement (R189, R163). -/
theorem teamRetirement_reports {s : State} {team : Nat} {t : Team} (ht : s.team? team = some t) (hparent : ∀ p, t.parent = some p → p.team ≠ team)
    (hret : t.retiring = false) (hdone : s.teamDone t = true) (hstreams : t.streamsDone = true) (hchild : s.childReleased t = true)
    (hroom : 2 ≤ s.room t.core) :
    ∃ v, exec (.teamRetirement team) s = .next v ∧ v.mem = s.mem ∧ v.team? team = some t.reportsRetired ∧
      ((v.core t.core).buffer.getLast?).map (·.eff) = some (.retire team) ∧
      (t.parent = none → (v.core t.core).buffer.length = (s.core t.core).buffer.length + 1 ∧ ∀ j, j ≠ team → v.team? j = s.team? j) := by
  let u := s.mapTeam team Team.reportsRetired
  have hteam : ∀ j, u.team? j = if j = team then (s.team? j).map Team.reportsRetired else s.team? j := State.team?_mapTeam s team fun _ => rfl
  obtain ⟨hmem, hself, hnone⟩ := u.childGone_spec hparent
  have hbuffer : (((u.childGone t).produce t.core team (.retire team)).core t.core).buffer = ((u.childGone t).core t.core).buffer ++ [_] :=
    congrArg Core.buffer (State.core_mapCore_self _ t.core _)
  refine ⟨_, execTeamRetirement_done ht hret hdone hstreams hchild hroom, hmem, ?_, ?_, fun hp => ⟨?_, fun j hj => ?_⟩⟩
  · refine hself.trans ((hteam team).trans ?_)
    rw [if_pos rfl, ht]
    rfl
  · rw [hbuffer, List.getLast?_concat]
    rfl
  · rw [hbuffer, hnone hp, List.length_append]
    rfl
  · show (u.childGone t).team? j = _
    rw [hnone hp, hteam, if_neg hj]

/-! ### Ports and launches -/

theorem State.port_mapPort (s : State) (i j : Nat) (f : Port → Port) : (s.mapPort i f).port j = if j = i then f (s.port i) else s.port j := by
  unfold State.mapPort State.port SMap.getD
  by_cases e : j = i
  · subst e; simp [SMap.get?_put_self]
  · simp [SMap.get?_put_ne _ e, e]

theorem State.mapPort_only (s : State) (i : Nat) (f : Port → Port) : OnlyPort s (s.mapPort i f) i (f (s.port i)) where
  rest := rfl
  self := (s.port_mapPort i i f).trans (if_pos rfl)
  others j hj := (s.port_mapPort i j f).trans (if_neg hj)

/-- A launch after a change that keeps its number. -/
theorem State.launch?_mapLaunch {s : State} {asid seq : Nat} {l : Launch} (h : s.launch? asid seq = some l) {f : Launch → Launch}
    (hf : ∀ l, (f l).seq = l.seq) : (s.mapLaunch asid seq f).launch? asid seq = some (f l) := by
  have hseq : l.seq = seq := by simpa using List.find?_some h
  have hkeep : ∀ m : Launch, (if m.seq == seq then f m else m).seq = m.seq := fun m => by
    split
    · exact hf m
    · rfl
  unfold State.launch? State.mapLaunch
  rw [State.port_mapPort, if_pos rfl]
  refine (List.find?_map ..).trans ?_
  simp only [Function.comp_def, hkeep]
  exact (congrArg _ h).trans (congrArg some (if_pos (by simpa using hseq)))

/-! ### The flush -/

/-- A launch's flush once it may: the lines of which nothing is in flight are written back (R190, R212). -/
theorem execLaunchFlush_may {s : State} {asid seq : Nat} {l : Launch} {todo sent : List Nat} (hl : s.launch? asid seq = some l)
    (hstate : l.state = .flushing) (hmay : s.flushMay l = true) (hlines : s.flushLines l = some (todo, sent)) :
    let ready := todo.filter fun n => !s.lineBusy n
    let u := ready.foldl (fun s n => s.cwbLine (s.cores.map (·.1)) (List.range Config.numDies) n) s
    exec (.launchFlush asid seq) s =
      if (todo.filter s.lineBusy).isEmpty && u.writtenBack (sent ++ ready) then .next (u.mapLaunch asid seq fun l => { l with state := .signalled, flush := none })
      else if ready.isEmpty && l.flush.isSome then .refused .notDue
      else .next (u.mapLaunch asid seq fun l => { l with flush := some (todo.filter s.lineBusy, sent ++ ready) }) := by
  intro ready u
  show execLaunchFlush asid seq s = _
  unfold execLaunchFlush
  simp only [hl, hstate, hmay, hlines, true_and, if_true]
  rfl

theorem State.flushMay_iff (s : State) (l : Launch) : s.flushMay l = true ↔ ∀ x, x ∈ l.flushUpto →
    (∀ n, n ∈ (s.core x.1).writes → x.2 < n) ∧ (∀ n, n ∈ (s.core x.1).unmir → x.2 < n) ∧ ∀ e, e ∈ (s.core x.1).buffer → x.2 < e.no := by
  simp [State.flushMay, and_assoc]

theorem State.flushLines_eq {s : State} {l : Launch} {todo sent : List Nat} {pages : List (Nat × Nat)}
    (h : l.flush = some (todo, sent) ∨ (l.flush = none ∧ sent = [] ∧ s.pagesOf l.asid = some pages ∧ todo = s.dirtyLines.filter (l.flushes pages))) :
    s.flushLines l = some (todo, sent) := by
  unfold State.flushLines
  rcases h with h | ⟨h, rfl, hpages, rfl⟩
  · rw [h]
  · rw [h, hpages]
    rfl

theorem State.writtenBack_iff (s : State) (lines : List Nat) : s.writtenBack lines = true ↔ ∀ n, n ∈ lines → s.lineBusy n = false := by
  simp [State.writtenBack]

/-- Both of a flush's outcomes (R190, R212). -/
theorem launchFlush_progress {s : State} {asid seq : Nat} {l : Launch} {todo sent : List Nat} (hl : s.launch? asid seq = some l)
    (hstate : l.state = .flushing) (hmay : s.flushMay l = true) (hlines : s.flushLines l = some (todo, sent)) :
    let ready := todo.filter fun n => !s.lineBusy n
    let u := ready.foldl (fun s n => s.cwbLine (s.cores.map (·.1)) (List.range Config.numDies) n) s
    ((∀ n, n ∈ todo → s.lineBusy n = false) → (∀ n, n ∈ sent ++ ready → u.lineBusy n = false) →
      ∃ v P, exec (.launchFlush asid seq) s = .next v ∧ OnlyPort u v asid P ∧
        v.launch? asid seq = some { l with state := .signalled, flush := none }) ∧
    (ready ≠ [] → (∃ n, n ∈ todo ∧ s.lineBusy n = true) ∨ (∃ n, n ∈ sent ++ ready ∧ u.lineBusy n = true) →
      ∃ v P, exec (.launchFlush asid seq) s = .next v ∧ OnlyPort u v asid P ∧
        v.launch? asid seq = some { l with flush := some (todo.filter s.lineBusy, sent ++ ready) }) := by
  intro ready u
  have hports : u.ports = s.ports := foldl_keeps State.ports (fun s n => State.cwbLine_ports s _ _ n) ready s
  have hlaunch : u.launch? asid seq = some l := by
    unfold State.launch? State.port at hl ⊢
    rw [hports]
    exact hl
  have hdone : ((todo.filter s.lineBusy).isEmpty && u.writtenBack (sent ++ ready)) = true ↔
      (∀ n, n ∈ todo → s.lineBusy n = false) ∧ ∀ n, n ∈ sent ++ ready → u.lineBusy n = false := by
    rw [Bool.and_eq_true, State.writtenBack_iff, List.isEmpty_iff, List.filter_eq_nil_iff]
    simp
  have hrun := execLaunchFlush_may hl hstate hmay hlines
  refine ⟨fun hquiet hback => ?_, fun hready hbusy => ?_⟩
  · exact ⟨_, _, hrun.trans (if_pos (hdone.mpr ⟨hquiet, hback⟩)), State.mapPort_only u asid _, State.launch?_mapLaunch hlaunch fun _ => rfl⟩
  · have hnot : ¬ ((todo.filter s.lineBusy).isEmpty && u.writtenBack (sent ++ ready)) = true := fun h => by
      obtain ⟨hquiet, hback⟩ := hdone.mp h
      rcases hbusy with ⟨n, hn, hb⟩ | ⟨n, hn, hb⟩
      · exact absurd hb (by rw [hquiet n hn]; decide)
      · exact absurd hb (by rw [hback n hn]; decide)
    refine ⟨_, _, hrun.trans ((if_neg hnot).trans (if_neg fun h => ?_)), State.mapPort_only u asid _, State.launch?_mapLaunch hlaunch fun _ => rfl⟩
    exact hready (List.isEmpty_iff.mp (Bool.and_eq_true_iff.mp h).1)

/-! ### The signal -/

theorem Launch.status_eq (l : Launch) : l.status = if l.state = .refused then l.reason else if l.gangKilled = true then 0x11
    else if l.teamEnded = true then 0x10 else l.reason := by
  simp [Launch.status]

/-- A port once the launch of a number has signalled (R177). -/
def Port.ended (seq : Nat) (p : Port) : Port := Port.noteSignal { p with launches := p.launches.filter fun m => m.seq != seq } seq

theorem Port.mem_ended_signalled {p : Port} {seq : Nat} (h : seqDelta (p.ended seq).lastSeq.toNat seq < Config.rememberedSeqs) :
    seq ∈ (p.ended seq).signalled := by
  refine List.mem_filter.mpr ⟨?_, ?_⟩
  · dsimp only
    split
    · next hc => exact List.contains_iff_mem.mp hc
    · exact List.mem_cons_self
  · exact Bool.or_eq_true_iff.mpr (Or.inl (decide_eq_true h))

theorem execLaunchSignalWrite_may {s s1 s2 : State} {asid seq : Nat} {l : Launch} (hl : s.launch? asid seq = some l)
    (hstate : l.state = .signalled ∨ l.state = .refused) (h1 : s.signalWrite asid l 4 (BitVec.ofNat 32 l.status) = some s1)
    (h2 : s1.signalWrite asid l 0 (BitVec.ofNat 32 seq) = some s2) : exec (.launchSignalWrite asid seq) s = .next (s2.mapPort asid (Port.ended seq)) := by
  show execLaunchSignalWrite asid seq s = _
  unfold execLaunchSignalWrite
  simp only [hl, hstate, if_true, h1, h2]
  rfl

/-- A launch that has signalled has ended (R177, R190). -/
theorem State.launch?_ended (s : State) (asid seq : Nat) : (s.mapPort asid (Port.ended seq)).launch? asid seq = none := by
  unfold State.launch?
  rw [State.port_mapPort, if_pos rfl]
  refine List.find?_eq_none.mpr fun m hm => ?_
  simpa using (List.mem_filter.mp hm).2

/-- A word of a signal is written at its home (R190). -/
theorem State.signalWrite_home {s : State} {asid off pa : Nat} {l : Launch} (x : Word) (hpa : l.signalPa = some (pa - off) ∧ off ≤ pa ∨
      (l.signalPa = none ∧ ∃ e, s.walkPa asid (l.signal % 2 ^ 56 + off) = some (some e) ∧ pa = e.phys (l.signal % 2 ^ 56 + off)))
    (hquiet : s.wordQuiet (pa / 4) = true) (htrans : s.inTransition pa = false) : s.signalWrite asid l off x = some (s.homeWrite (pa / 4) x) := by
  unfold State.signalWrite
  rcases hpa with ⟨h, hoff⟩ | ⟨h, e, hwalk, rfl⟩
  · rw [h]
    simp only [Nat.sub_add_cancel hoff, hquiet, htrans]
    rfl
  · rw [h]
    unfold State.distWrite
    simp only [hwalk, hquiet, htrans]
    rfl

/-- Settles O48: writing lines back leaves the ports, so that the launch is still there; dropping the copies of a word leaves its home's memory. -/
theorem teamsRetireAndLaunchesSignal : Obligations.TeamsRetireAndLaunchesSignal := by
  refine ⟨fun s team t ht hparent hret hdone hstreams hchild hroom => teamRetirement_reports ht hparent hret hdone hstreams hchild hroom,
    fun s asid seq l hl hstate hmay todo sent pages hlines =>
      launchFlush_progress hl hstate ((s.flushMay_iff l).mpr hmay) (State.flushLines_eq hlines),
    fun s s1 s2 asid seq l hl hstate h1 h2 => ?_, fun s asid off pa l x hpa hquiet htrans hdev hdead hwf => ?_⟩
  · rw [← Launch.status_eq] at h1
    exact ⟨_, _, execLaunchSignalWrite_may hl hstate h1 h2, State.mapPort_only s2 asid _, s2.launch?_ended asid seq, Port.mem_ended_signalled⟩
  · exact ⟨_, State.signalWrite_home x hpa hquiet htrans, State.homeWord_homeWrite x hdev hdead hwf⟩

end Sys2Proof.Machine
end

section
/-! O21: the machine right after reset (R172, R324, R339, R362, R379, R400, R403, R404). -/
namespace Sys2Proof.Machine
open Sys2Proof

/-- Every compute die is in its own reset state, whether it is listed or not. -/
theorem State.die_reset (d : Nat) : State.reset.die d = {} := List.getElem?_getD_replicate_default_eq ({} : Die) Config.numDies d

theorem State.port_reset (asid : Nat) : State.reset.port asid = {} := rfl

theorem State.core_reset (c : Nat) : State.reset.core c = {} := rfl

/-- Settles O21: every die, port and core is in the reset state of its own type, and the other registers are fields of the state. -/
theorem resetValuesOfRegisters : Obligations.ResetValuesOfRegisters := by
  refine ⟨fun d _ => ?_, fun a => ?_, fun c => ?_, ?_⟩
  · rw [State.die_reset]
    decide
  · rw [State.port_reset]
    decide
  · rw [State.core_reset]
    decide
  · decide

end Sys2Proof.Machine
end

section
/-! O46: the submissions of a launch port, the checks of a record, dependencies and leases (R164, R171 to R173, R176, R177). -/
namespace Sys2Proof.Machine
open Sys2Proof

theorem OnlyPort.mapPort {s t : State} {i : Nat} {p : Port} (h : OnlyPort s t i p) (f : Port → Port) : OnlyPort s (t.mapPort i f) i (f p) where
  rest := h.rest
  self := (t.port_mapPort i i f).trans ((if_pos rfl).trans (congrArg f h.self))
  others j hj := (t.port_mapPort i j f).trans ((if_neg hj).trans (h.others j hj))

/-! ### Submissions -/

theorem execLpSubmit_writes {asid : Nat} (h : asid < Config.numAsids) (value : DWord) (s : State) :
    exec (.lpSubmit asid value) s = .next (s.submit asid (BitVec.ofNat 56 (value.toNat % 2 ^ 56 / 256 * 256)) .other) := if_pos h

theorem State.submit_accepts {s : State} {asid : Nat} (hroom : (s.port asid).queue.length < Config.portQueue) (hstalled : (s.port asid).stalled = [])
    (addr : VAddr) (writer : Submitter) : s.submit asid addr writer = s.accept asid addr writer :=
  if_pos ⟨hroom, List.isEmpty_iff.mpr hstalled⟩

theorem State.submit_stalls {s : State} {asid : Nat} (hfull : Config.portQueue ≤ (s.port asid).queue.length ∨ (s.port asid).stalled ≠ [])
    (addr : VAddr) (writer : Submitter) :
    s.submit asid addr writer = s.mapPort asid fun p => { p with stalled := p.stalled ++ [(addr, writer)] } :=
  if_neg fun ⟨hroom, hstalled⟩ => hfull.elim (Nat.not_le.mpr hroom) fun h => h (List.isEmpty_iff.mp hstalled)

/-- A port once it has accepted an address as its next number (R173). -/
def Port.accepting (asid : Nat) (addr : VAddr) (order : Nat) (p : Port) : Port :=
  { p with
    lastAddr := addr, lastSeq := nextSeq p.lastSeq, accepted := p.accepted + 1, queue := p.queue ++ [addr],
    launches := p.launches ++ [{ asid := asid, seq := (nextSeq p.lastSeq).toNat, addr := addr, before := p.accepted, order := order }] }

/-- An address of a writer that waits for no number (R173, R175). -/
theorem State.accept_other (s : State) (asid : Nat) (addr : VAddr) :
    s.accept asid addr .other = ({ s with fresh := s.fresh + 1 } : State).mapPort asid (Port.accepting asid addr s.fresh) := rfl

/-! ### Refusals -/

theorem Port.mem_noteSignal {p : Port} {seq : Nat} (h : p.remembers seq = true) : seq ∈ (p.noteSignal seq).signalled := by
  refine List.mem_filter.mpr ⟨?_, h⟩
  split
  · next hc => exact List.contains_iff_mem.mp hc
  · exact List.mem_cons_self

theorem seqDelta_self (n : Nat) : seqDelta n n = 0 := by
  unfold seqDelta
  rw [Nat.add_sub_cancel_left, Nat.mod_self]

/-- A launch that may still ask keeps its own number remembered (R177). -/
theorem Port.remembers_of_mayAsk {p : Port} {l : Launch} (hl : l ∈ p.launches) (hask : l.mayAsk = true) : p.remembers l.seq = true := by
  refine Bool.or_eq_true_iff.mpr (Or.inr (List.any_eq_true.mpr ⟨l, hl, ?_⟩))
  rw [hask, seqDelta_self]
  rfl

/-- A port that reports a refusal, whose launch counts as signalled (R171, R177). -/
def Port.refusing (seq reason : Nat) (p : Port) : Port :=
  Port.noteSignal { p with refused := true, reason := BitVec.ofNat 8 reason, refusedSeq := BitVec.ofNat 32 seq } seq

/-- A launch after its refusal (R171). -/
def Launch.refusedFor (reason : Nat) (l : Launch) : Launch := { l with state := .refused, reason := reason, refuseSignal := true }

/-- A port without the launch of a number. -/
def Port.dropLaunch (seq : Nat) (p : Port) : Port := { p with launches := p.launches.filter fun l => l.seq != seq }

theorem State.refuseLaunch_signal (s : State) (asid seq reason : Nat) :
    s.refuseLaunch asid seq reason true = (s.mapPort asid (Port.refusing seq reason)).mapLaunch asid seq (Launch.refusedFor reason) := rfl

theorem State.refuseLaunch_silent (s : State) (asid seq reason : Nat) :
    s.refuseLaunch asid seq reason false = (s.mapPort asid (Port.refusing seq reason)).mapPort asid (Port.dropLaunch seq) := rfl

/-- What a refusal leaves in its port (R171, R177). -/
structure Port.Refusal (p q : Port) (seq reason : Nat) : Prop where
  queue : q.queue = p.queue
  refused : q.refused = true
  reason : q.reason = BitVec.ofNat 8 reason
  refusedSeq : q.refusedSeq = BitVec.ofNat 32 seq
  signalled : q.signalled = (p.noteSignal seq).signalled

/-- A refusal changes its port alone. -/
theorem State.refuseLaunch_only (s : State) (asid seq reason : Nat) (signal : Bool) :
    ∃ P, OnlyPort s (s.refuseLaunch asid seq reason signal) asid P ∧ (s.port asid).Refusal P seq reason := by
  have hreport := s.mapPort_only asid (Port.refusing seq reason)
  cases signal with
  | true =>
    rw [State.refuseLaunch_signal]
    exact ⟨_, hreport.mapPort _, rfl, rfl, rfl, rfl, rfl⟩
  | false =>
    rw [State.refuseLaunch_silent]
    exact ⟨_, hreport.mapPort _, rfl, rfl, rfl, rfl, rfl⟩

theorem State.launch?_dropLaunch (s : State) (asid seq : Nat) : (s.mapPort asid (Port.dropLaunch seq)).launch? asid seq = none := by
  unfold State.launch?
  rw [State.port_mapPort, if_pos rfl]
  refine List.find?_eq_none.mpr fun m hm => ?_
  simpa using (List.mem_filter.mp hm).2

/-- A change of a port that keeps its launches. -/
theorem State.launch?_mapPort (s : State) (asid seq : Nat) {f : Port → Port} (hf : (f (s.port asid)).launches = (s.port asid).launches) :
    (s.mapPort asid f).launch? asid seq = s.launch? asid seq := by
  unfold State.launch?
  rw [State.port_mapPort, if_pos rfl, hf]

/-- A refused launch stays to write its signal word, or is gone where that may not be written (R171). -/
theorem State.launch?_refuseLaunch {s : State} {asid seq : Nat} {l : Launch} (h : s.launch? asid seq = some l) (reason : Nat) (signal : Bool) :
    (s.refuseLaunch asid seq reason signal).launch? asid seq = if signal = true then some (l.refusedFor reason) else none := by
  cases signal with
  | true =>
    rw [State.refuseLaunch_signal]
    exact State.launch?_mapLaunch ((s.launch?_mapPort asid seq rfl).trans h) fun _ => rfl
  | false =>
    rw [State.refuseLaunch_silent]
    exact State.launch?_dropLaunch _ asid seq

/-- A launch that takes the place of another of its number. -/
theorem State.launch?_mapLaunch_const {s : State} {asid seq : Nat} {l m : Launch} (h : s.launch? asid seq = some l) (hm : m.seq = seq) :
    (s.mapLaunch asid seq fun _ => m).launch? asid seq = some m := by
  let replace := fun x : Launch => if x.seq = seq then m else x
  have hsame : (s.mapLaunch asid seq fun _ => m) = s.mapLaunch asid seq replace := by
    have hmap : (fun x : Launch => if x.seq == seq then m else x) = fun x => if x.seq == seq then replace x else x := by
      funext x
      by_cases hx : x.seq = seq
      · simp [replace, hx]
      · simp [hx]
    unfold State.mapLaunch
    rw [hmap]
  have hkeeps : ∀ x, (replace x).seq = x.seq := fun x => by
    by_cases hx : x.seq = seq
    · simp [replace, hx, hm]
    · simp [replace, hx]
  have hseq : l.seq = seq := by simpa using List.find?_some h
  rw [hsame, State.launch?_mapLaunch h hkeeps]
  exact congrArg some (if_pos hseq)

/-! ### The checks of a record -/

/-- A place in the port's queue becomes free. -/
def Port.dequeue (rest : List VAddr) (p : Port) : Port := { p with queue := rest }

/-- Nothing waits for the place that becomes free (R173). -/
theorem State.admitStalled_dequeue {s : State} {asid : Nat} (h : (s.port asid).stalled = []) (rest : List VAddr) :
    (s.mapPort asid fun p => { p with queue := rest }).admitStalled asid = s.mapPort asid (Port.dequeue rest) := by
  have hnone : ((s.mapPort asid fun p => { p with queue := rest }).port asid).stalled = [] :=
    (congrArg Port.stalled (s.mapPort_only asid _).self).trans h
  unfold State.admitStalled
  rw [hnone]
  rfl

/-- The checks of a record ask a port for its cores alone (R171, R172). -/
theorem State.recordCode_mapPort (s : State) (asid : Nat) {f : Port → Port} (hf : (f (s.port asid)).coreSet = (s.port asid).coreSet) (l : Launch) :
    (s.mapPort asid f).recordCode l = s.recordCode l := by
  have hset : ∀ a, ((s.mapPort asid f).port a).coreSet = (s.port a).coreSet := fun a => by
    rw [State.port_mapPort]
    split
    · next e => rw [hf, e]
    · rfl
  have heligible : ∀ a, (s.mapPort asid f).eligible a = s.eligible a := fun a => funext fun c => by
    unfold State.eligible
    rw [hset]
    rfl
  unfold State.recordCode State.couldPlace State.rectangles
  simp only [heligible]

/-- A launch with what the distributor has read (R164, R328). -/
def Launch.withRecord (ws : List Word) (rs : List (Nat × Nat × Nat)) (l : Launch) : Launch := { l with record := ws, leases := rs }

/-- The machine once the record at the head of a port's queue has become a launch's (R164). -/
def State.takeRecord (s : State) (asid : Nat) (rest : List VAddr) (m : Launch) : State :=
  (s.mapPort asid (Port.dequeue rest)).mapLaunch asid m.seq fun _ => m

theorem State.recordCode_takeRecord (s : State) (asid : Nat) (rest : List VAddr) (m : Launch) :
    (s.takeRecord asid rest m).recordCode m = s.recordCode m :=
  (State.recordCode_mapPort _ asid rfl m).trans (State.recordCode_mapPort s asid rfl m)

theorem Launch.mayAsk_of_accepted {ls : List Launch} {l : Launch} (h : (ls.find? fun l => l.state == .accepted) = some l) : l.mayAsk = true :=
  Bool.or_eq_true_iff.mpr (Or.inl (List.find?_some (p := fun l : Launch => l.state == .accepted) h))

/-- The number of a launch whose record is to be checked names a launch of its port. -/
theorem State.launch?_of_accepted {s : State} {asid : Nat} {l : Launch}
    (h : ((s.port asid).launches.find? fun l => l.state == .accepted) = some l) : ∃ x, s.launch? asid l.seq = some x :=
  Option.isSome_iff_exists.mp (List.find?_isSome.mpr ⟨l, List.mem_of_find?_eq_some h, beq_self_eq_true _⟩)

/-- What a refusal of the oldest record leaves in its port (R171, R177). -/
def Port.RefusedRecord (p : Port) (rest : List VAddr) (seq code : Nat) : Prop :=
  p.queue = rest ∧ p.refused = true ∧ p.reason = BitVec.ofNat 8 code ∧ p.refusedSeq = BitVec.ofNat 32 seq ∧ seq ∈ p.signalled

theorem State.refuseLaunch_refusedRecord {s : State} {asid : Nat} {rest : List VAddr} {l : Launch} (hqueue : (s.port asid).queue = rest)
    (hl : l ∈ (s.port asid).launches) (hask : l.mayAsk = true) (reason : Nat) (signal : Bool) :
    ((s.refuseLaunch asid l.seq reason signal).port asid).RefusedRecord rest l.seq reason := by
  obtain ⟨P, honly, hq, hrefused, hreason, hseq, hsig⟩ := s.refuseLaunch_only asid l.seq reason signal
  rw [honly.self]
  exact ⟨hq.trans hqueue, hrefused, hreason, hseq, hsig ▸ Port.mem_noteSignal (Port.remembers_of_mayAsk hl hask)⟩

section RecordCheck
variable {s : State} {asid : Nat} {l : Launch} {a : VAddr} {rest : List VAddr}
  (hfind : ((s.port asid).launches.find? fun l => l.state == .accepted) = some l) (hqueue : (s.port asid).queue = a :: rest)
  (hstalled : (s.port asid).stalled = [])
include hfind hqueue hstalled

/-- A root that may not be used refuses the launch unread (R324). -/
theorem execLaunchRecordCheck_rootless (hroot : (s.port asid).rootOk = false) :
    exec (.launchRecordCheck asid) s = .next ((s.mapPort asid (Port.dequeue rest)).refuseLaunch asid l.seq 8 false) := by
  show execLaunchRecordCheck asid s = _
  unfold execLaunchRecordCheck
  simp only [hfind, hqueue, hroot, State.admitStalled_dequeue hstalled, Bool.not_false, if_true]

/-- A record that is read is kept with its leases; its checks then refuse the launch or let it wait (R164, R171). -/
theorem execLaunchRecordCheck_read {ws : List Word} {rs : List (Nat × Nat × Nat)} (hroot : (s.port asid).rootOk = true)
    (hrecord : s.distRead asid l.addr.toNat 64 = .ok ws) (hleases : s.readLeases asid ({ l with record := ws } : Launch).leaseList = .ok rs) :
    exec (.launchRecordCheck asid) s = .next ((s.recordCode (l.withRecord ws rs)).elim
      ((s.takeRecord asid rest (l.withRecord ws rs)).mapLaunch asid l.seq fun l => { l with state := .waiting, toPlace := List.range l.teamCount })
      fun code => (s.takeRecord asid rest (l.withRecord ws rs)).refuseLaunch asid l.seq code (l.withRecord ws rs).signalOk) := by
  have hcode := s.recordCode_takeRecord asid rest (l.withRecord ws rs)
  show execLaunchRecordCheck asid s = _
  unfold execLaunchRecordCheck
  unfold State.takeRecord Launch.withRecord at hcode ⊢
  simp only [hfind, hqueue, hroot, hrecord, hleases, hcode, State.admitStalled_dequeue hstalled, Bool.not_true, Bool.false_eq_true, if_false]
  cases s.recordCode { l with record := ws, leases := rs } <;> rfl

theorem launchRecordCheck_rootless (hroot : (s.port asid).rootOk = false) :
    ∃ v, exec (.launchRecordCheck asid) s = .next v ∧ (v.port asid).RefusedRecord rest l.seq 8 ∧ v.launch? asid l.seq = none := by
  have hport : (s.mapPort asid (Port.dequeue rest)).port asid = (s.port asid).dequeue rest := (s.mapPort_only asid _).self
  have hmem : l ∈ ((s.mapPort asid (Port.dequeue rest)).port asid).launches := by
    rw [hport]
    exact List.mem_of_find?_eq_some hfind
  obtain ⟨x, hx⟩ := State.launch?_of_accepted hfind
  exact ⟨_, execLaunchRecordCheck_rootless hfind hqueue hstalled hroot,
    State.refuseLaunch_refusedRecord (congrArg Port.queue hport) hmem (Launch.mayAsk_of_accepted hfind) 8 false,
    State.launch?_refuseLaunch ((s.launch?_mapPort asid l.seq rfl).trans hx) 8 false⟩

theorem launchRecordCheck_read {ws : List Word} {rs : List (Nat × Nat × Nat)} (hroot : (s.port asid).rootOk = true)
    (hrecord : s.distRead asid l.addr.toNat 64 = .ok ws) (hleases : s.readLeases asid ({ l with record := ws } : Launch).leaseList = .ok rs) :
    (∀ code, s.recordCode (l.withRecord ws rs) = some code → ∃ v, exec (.launchRecordCheck asid) s = .next v ∧
      (v.port asid).RefusedRecord rest l.seq code ∧
      v.launch? asid l.seq = if (l.withRecord ws rs).signalOk = true then some ((l.withRecord ws rs).refusedFor code) else none) ∧
    (s.recordCode (l.withRecord ws rs) = none → ∃ v, exec (.launchRecordCheck asid) s = .next v ∧ (v.port asid).queue = rest ∧
      v.launch? asid l.seq = some { l.withRecord ws rs with state := .waiting, toPlace := List.range (l.withRecord ws rs).teamCount }) := by
  have hrun := execLaunchRecordCheck_read hfind hqueue hstalled hroot hrecord hleases
  have hask : (l.withRecord ws rs).mayAsk = true := (Launch.mayAsk_of_accepted hfind : l.mayAsk = true)
  obtain ⟨x, hx⟩ := State.launch?_of_accepted hfind
  have hm : (s.takeRecord asid rest (l.withRecord ws rs)).launch? asid l.seq = some (l.withRecord ws rs) :=
    State.launch?_mapLaunch_const ((s.launch?_mapPort asid l.seq (f := Port.dequeue rest) rfl).trans hx) rfl
  have hrest : ((s.takeRecord asid rest (l.withRecord ws rs)).port asid).queue = rest :=
    congrArg Port.queue ((State.mapPort_only _ asid _).self.trans (congrArg _ (s.mapPort_only asid (Port.dequeue rest)).self))
  refine ⟨fun code hcode => ?_, fun hcode => ?_⟩
  · rw [hcode, Option.elim_some] at hrun
    exact ⟨_, hrun, State.refuseLaunch_refusedRecord (l := l.withRecord ws rs) hrest (List.mem_of_find?_eq_some hm) hask code _,
      State.launch?_refuseLaunch hm code _⟩
  · rw [hcode, Option.elim_none] at hrun
    exact ⟨_, hrun, (congrArg Port.queue (State.mapPort_only _ asid _).self).trans hrest, State.launch?_mapLaunch hm fun _ => rfl⟩

end RecordCheck

/-! ### Dependencies and leases -/

/-- A launch refused for its translations (R171, R324). -/
theorem State.refuseLaunch_code8 {s : State} {asid seq : Nat} {l : Launch} (hl : s.launch? asid seq = some l) :
    ∃ P, OnlyPort s (s.refuseLaunch asid seq 8 true) asid P ∧ P.reason = 8 ∧ P.refused = true ∧ P.refusedSeq = BitVec.ofNat 32 seq ∧
      (s.refuseLaunch asid seq 8 true).launch? asid seq = some { l with state := .refused, reason := 8, refuseSignal := true } := by
  obtain ⟨P, honly, _, href, hreason, hseq, _⟩ := s.refuseLaunch_only asid seq 8 true
  exact ⟨P, honly, hreason, href, hseq, State.launch?_refuseLaunch hl 8 true⟩

/-- A range that is resident holds no page whose walk is Invalid (R323, R329). -/
theorem State.unmapped_of_resident (s : State) (asid kind : Nat) (fuel a stop : Nat) (h : s.resident asid kind fuel a stop = true) :
    s.unmapped asid fuel a stop = false := by
  induction fuel generalizing a with
  | zero => rfl
  | succ fuel ih =>
    unfold State.resident at h
    unfold State.unmapped
    by_cases hend : stop ≤ a
    · exact if_pos hend
    · rw [if_neg hend] at h ⊢
      cases hwalk : s.walk asid (BitVec.ofNat 56 a) with
      | found e =>
        rw [hwalk] at h
        exact ih _ (Bool.and_eq_true_iff.mp h).2
      | invalid => simp [hwalk] at h
      | poisoned => simp [hwalk] at h
      | wait => rfl

section Waiting
variable {s : State} {asid seq : Nat} {l : Launch} (hl : s.launch? asid seq = some l)
include hl

theorem execDependencySatisfied_met (hstate : l.state = .waiting) (hmet : (s.port asid).dependencyMet l = true) (hdue : (s.port asid).rootDue = false) :
    exec (.dependencySatisfied asid seq) s =
      if (s.port asid).rootOk then .next (s.mapLaunch asid seq fun l => { l with state := .leasing }) else .next (s.refuseLaunch asid seq 8 true) := by
  show execDependencySatisfied asid seq s = _
  unfold execDependencySatisfied
  rw [hl]
  exact if_pos ⟨hstate, hmet, hdue⟩

theorem execLeasingComplete_resident (hstate : l.state = .leasing)
    (hres : ∀ r, r ∈ l.leases → s.resident asid r.2.2 (r.2.1 / 65536 + 2) r.1 (r.1 + r.2.1) = true) :
    exec (.leasingComplete asid seq) s = .next (s.mapLaunch asid seq fun l => { l with state := .placing, place := s.settlePlace l }) := by
  show execLeasingComplete asid seq s = _
  unfold execLeasingComplete
  rw [hl]
  exact if_pos ⟨hstate, List.all_eq_true.mpr hres⟩

theorem execLeasingComplete_unmapped (hstate : l.state = .leasing)
    (hun : ∃ r, r ∈ l.leases ∧ s.unmapped asid (r.2.1 / 65536 + 2) r.1 (r.1 + r.2.1) = true) :
    exec (.leasingComplete asid seq) s = .next (s.refuseLaunch asid seq 8 true) := by
  obtain ⟨r, hr, hunmapped⟩ := hun
  show execLeasingComplete asid seq s = _
  unfold execLeasingComplete
  rw [hl]
  refine (if_neg fun ⟨_, hall⟩ => ?_).trans (if_pos ⟨hstate, List.any_eq_true.mpr ⟨r, hr, hunmapped⟩⟩)
  have hres := State.unmapped_of_resident s asid _ _ _ _ (List.all_eq_true.mp hall r hr)
  exact absurd (hunmapped.symm.trans hres) (by decide)

theorem execLeaseDeclined_leasing (hstate : l.state = .leasing) :
    exec (.leaseDeclined asid seq) s = .next (s.refuseLaunch asid seq 8 true) := by
  show execLeaseDeclined asid seq s = _
  unfold execLeaseDeclined
  rw [hl]
  exact if_pos hstate

end Waiting

/-- Settles O46: an acceptance, a refusal and a change of state each change the port alone; a launch whose record is checked may still ask, so that its
own number is remembered as signalled. -/
theorem launchesAreAcceptedAndChecked : Obligations.LaunchesAreAcceptedAndChecked := by
  refine ⟨fun s asid value hasid => ?_, fun s asid l a rest hfind hqueue hstalled =>
      ⟨launchRecordCheck_rootless hfind hqueue hstalled, fun hroot ws rs => launchRecordCheck_read hfind hqueue hstalled hroot⟩,
    fun s asid seq l hl => ⟨fun hstate hmet hdue => ?_, fun hstate hres => ?_, fun hstate hun => ?_, fun hstate => ?_⟩⟩
  · intro p addr
    refine ⟨fun hroom hstalled => ?_, fun hfull => ?_⟩
    · have honly := ({ s with fresh := s.fresh + 1 } : State).mapPort_only asid (Port.accepting asid addr s.fresh)
      refine ⟨_, execLpSubmit_writes hasid value s, ?_⟩
      rw [State.submit_accepts hroom hstalled, State.accept_other]
      exact ⟨rfl, honly.others, honly.self⟩
    · refine ⟨_, execLpSubmit_writes hasid value s, ?_⟩
      rw [State.submit_stalls hfull]
      exact s.mapPort_only asid _
  · have hrun := execDependencySatisfied_met hl hstate hmet hdue
    refine ⟨fun hroot => ?_, fun hroot => ?_⟩
    · exact ⟨_, _, hrun.trans (if_pos hroot), s.mapPort_only asid _, State.launch?_mapLaunch hl fun _ => rfl⟩
    · obtain ⟨P, hP⟩ := State.refuseLaunch_code8 hl
      exact ⟨_, P, hrun.trans (if_neg (Bool.eq_false_iff.mp hroot)), hP⟩
  · exact ⟨_, _, execLeasingComplete_resident hl hstate hres, s.mapPort_only asid _, State.launch?_mapLaunch hl fun _ => rfl⟩
  · obtain ⟨P, hP⟩ := State.refuseLaunch_code8 hl
    exact ⟨_, P, execLeasingComplete_unmapped hl hstate hun, hP⟩
  · obtain ⟨P, hP⟩ := State.refuseLaunch_code8 hl
    exact ⟨_, P, execLeaseDeclined_leasing hl hstate, hP⟩

end Sys2Proof.Machine
end

section
/-! O29: atomics update their word in thread order and leave its old values outstanding (R214 to R216). -/
namespace Sys2Proof.Machine
open Sys2Proof

/-- The upper half of an `atom.fadd2` adds the upper halves of its operands, the lower half the lower ones (R215). -/
theorem atomNew_fadd2_toNat (m v e : Word) : (atomNew .fadd2 m v e).toNat =
    roundTo .bf16 .rn false (FVal.add .rn (Fmt.bf16.decode (m.toNat / 2 ^ 16)) (Fmt.bf16.decode (v.toNat / 2 ^ 16))) * 2 ^ 16 +
      roundTo .bf16 .rn false (FVal.add .rn (Fmt.bf16.decode (m.toNat % 2 ^ 16)) (Fmt.bf16.decode (v.toNat % 2 ^ 16))) := by
  have hupper (x : Word) : ((x >>> 16).setWidth 16).toNat = x.toNat / 2 ^ 16 := by
    rw [BitVec.toNat_setWidth, BitVec.toNat_ushiftRight, Nat.shiftRight_eq_div_pow]
    exact Nat.mod_eq_of_lt (Nat.div_lt_of_lt_mul x.isLt)
  have hround (x : FVal) : (toBf16 .rn x).toNat = roundTo .bf16 .rn false x := by
    rw [toBf16, BitVec.toNat_ofNat]
    exact Nat.mod_eq_of_lt (roundTo_half_lt (Or.inl rfl) .rn false x)
  simp only [atomNew]
  rw [BitVec.toNat_append, ← Nat.shiftLeft_add_eq_or_of_lt (BitVec.isLt _), Nat.shiftLeft_eq, hround, hround]
  simp only [bf16, hupper, BitVec.toNat_setWidth]

theorem atomNew_fadd_toNat (m v e : Word) : (atomNew .fadd m v e).toNat = roundTo .f32 .rn false (FVal.add .rn (f32 m) (f32 v)) := by
  simp only [atomNew, addRn, toF32, BitVec.toNat_ofNat]
  exact Nat.mod_eq_of_lt (roundTo_lt (Fmt.codesFit_of_mem (by simp)) .rn false _)

/-- The smaller and the larger of a word and an operand (R215). -/
theorem atomNew_minMax (m v e : Word) :
    (atomNew .minI m v e).toInt = min m.toInt v.toInt ∧ (atomNew .maxI m v e).toInt = max m.toInt v.toInt ∧
    (atomNew .minN m v e).toNat = min m.toNat v.toNat ∧ (atomNew .maxN m v e).toNat = max m.toNat v.toNat := by
  simp only [atomNew]
  refine ⟨?_, ?_, ?_, ?_⟩ <;> split <;> omega

/-- A lane-set atomic that may be made, with room in the settling buffer. -/
theorem laneAtom_asks {op : AtomOp} {t : BitVec 7} {a : BitVec 6} {l : BitVec 4} {sc : Scope} {o : MemOrder} {s s' : State} {c : Ctx} {at' : Leads}
    {ks : List (Nat × OutKind)}
    (h : AccessReady s c { reads := [(2 * a.toNat, 2), (t.toNat, atomSpan op)], writes := [(t.toNat, 1)] } (2 * a.toNat) 4 true true o sc at')
    (hk : (s.kept c at').atoms c.team.core c.team.id c.group.slotKey op
      ((spotsAt c (2 * a.toNat) at').map fun x => { spot := x, args := (c.view x.pos).words t.toNat (atomSpan op) }) = some (s', ks)) :
    laneAtom op t a l sc o s = .next (s'.afterIssue c fun i u =>
      (u.dropSpec (MemOrder.acquires o) (vaddr ((c.view i).pair (2 * a.toNat))).toNat 4).ask
        { dst := [vIndex c.group.handler t.toNat], look := l.toNat, acquire := MemOrder.acquires o, ext := true, kind := kindAt ks i }) := by
  refine (laneAccess_ready h (s' := s') (upd := fun i u => u.loading [vIndex c.group.handler t.toNat] l.toNat (MemOrder.acquires o)
    (vaAt (spotsAt c (2 * a.toNat) at') i) 4 (kindAt ks i)) (by rw [hk]; rfl)).trans ?_
  exact congrArg _ (State.afterIssue_congr fun i hi u => by rw [vaAt_spotsAt hi]; rfl)

/-- A uniform atomic that may be made, with room in the settling buffer. -/
theorem uniAtom_asks {op : AtomOp} {t a : BitVec 6} {l : BitVec 4} {sc : Scope} {o : MemOrder} {s s' : State} {c : Ctx} {pa attr : Nat}
    {e : TlbEntry} {ks : List (Nat × OutKind)}
    (h : KAccessReady s c { reads := [(a.toNat, 2), (t.toNat, atomSpan op)], writes := [(t.toNat, 1)] } a.toNat 4 true true o sc pa attr e)
    (hk : (s.keep c.team.core none e).atoms c.team.core c.team.id c.group.slotKey op
      [{ spot := { pos := c.lead, va := vaddr (c.group.kpair a.toNat), pa := pa, attr := attr },
         args := (List.range (atomSpan op)).map fun j => c.group.kv (t.toNat + j) }] = some (s', ks)) :
    uniAtom op t a l sc o s = .next (({ s' with fresh := s'.fresh + 1 } : State).mapGroup c.team.id c.group.idx fun g =>
      Group.issued { (g.mapAt c.ms fun _ u => (u.dropSpec (MemOrder.acquires o) (vaddr (c.group.kpair a.toNat)).toNat 4).ask
          { dst := [], look := l.toNat, tag := s'.fresh, kind := .uniform s'.fresh }) with
        kout := g.kout ++ [{ dst := [kIndex c.group.handler t.toNat], look := l.toNat, acquire := MemOrder.acquires o, ext := true,
                             tag := s'.fresh, kind := kindAt ks c.lead }] } c.lead) :=
  uniAccess_ready h (by rw [hk]; rfl)

/-- Settles O29: the atomics of each set share one shape, and their new words are those of R215. -/
theorem atomicsUpdateAndReturn : Obligations.AtomicsUpdateAndReturn := by
  have hspan (op : AtomOp) : (if op = .cas then 2 else 1) = atomSpan op := by cases op <;> rfl
  refine ⟨⟨fun _ _ => rfl, fun _ _ _ _ => rfl, fun m v e => ?_⟩, fun mk op hmk t a l sc o s s' c at' ks => ?_,
    fun mk op hmk t a l sc o s s' c pa attr e ks => ?_⟩
  · obtain ⟨hmin, hmax, hminN, hmaxN⟩ := atomNew_minMax m v e
    exact ⟨BitVec.eq_of_toNat_eq (by simp [atomNew]), rfl, rfl, rfl, hmin, hmax, hminN, hmaxN, rfl, fun h => if_pos h, fun h => if_neg h,
      atomNew_fadd_toNat m v e, atomNew_fadd2_toNat m v e⟩
  · have he : exec (mk t a l sc o) s = laneAtom op t a l sc o s := by
      simp only [List.mem_cons, List.not_mem_nil, or_false, Prod.mk.injEq] at hmk
      rcases hmk with ⟨rfl, rfl⟩ | ⟨rfl, rfl⟩ | ⟨rfl, rfl⟩ | ⟨rfl, rfl⟩ | ⟨rfl, rfl⟩ | ⟨rfl, rfl⟩ | ⟨rfl, rfl⟩ | ⟨rfl, rfl⟩ | ⟨rfl, rfl⟩ |
        ⟨rfl, rfl⟩ | ⟨rfl, rfl⟩ | ⟨rfl, rfl⟩ <;> rfl
    simp only [hspan, he]
    exact laneAtom_asks
  · have he : exec (mk t a l sc o) s = uniAtom op t a l sc o s := by
      simp only [List.mem_cons, List.not_mem_nil, or_false, Prod.mk.injEq] at hmk
      rcases hmk with ⟨rfl, rfl⟩ | ⟨rfl, rfl⟩ | ⟨rfl, rfl⟩ | ⟨rfl, rfl⟩ | ⟨rfl, rfl⟩ | ⟨rfl, rfl⟩ | ⟨rfl, rfl⟩ | ⟨rfl, rfl⟩ | ⟨rfl, rfl⟩ |
        ⟨rfl, rfl⟩ | ⟨rfl, rfl⟩ <;> rfl
    simp only [hspan, he]
    exact uniAtom_asks

end Sys2Proof.Machine
end

section
/-! What a step leaves of a word of a line in the L1 of a core, in the RDC of its die and at its home; cells that are put into a cache,
and write-backs that keep the word (R219). -/
namespace Sys2Proof.Machine
open Sys2Proof

/-! ### Cells put into a line of a cache -/

theorem Cache.line?_put (c : Cache) (line w : Nat) (x : WordCell) : (c.put line w x).line? line = some (((c.line? line).getD {}).put w x) := by
  unfold Cache.put
  cases h : c.line? line with
  | none => simp [Cache.line?]
  | some l => exact (c.line?_change line (fun l => l.put w x) line).trans (by simp [h])

theorem Cache.cell_put (c : Cache) (line w v : Nat) {x : WordCell} (hx : x ≠ {}) :
    (c.put line w x).cell line v = if v = w then x else c.cell line v := by
  rw [Cache.cell_eq, Cache.line?_put, Cache.cell_eq]
  simp only [Line.put, if_neg hx, Option.map_some, Option.getD_some, SMap.getD]
  by_cases e : v = w
  · simp [e, SMap.get?_put_self]
  · cases c.line? line <;> simp [e, SMap.get?_put_ne _ e, SMap.get?]

/-- A cell put into a line reads back, in the L1 or in the victim buffer, and the line's other cells are as before. -/
theorem Core.cell_putCell_line (k : Core) (line w v : Nat) {x : WordCell} (hx : x ≠ {}) :
    (k.putCell line w x).cell line v = if v = w then x else k.cell line v := by
  unfold Core.putCell Core.cell
  cases ha : k.l1.line? line <;> cases hb : k.victim.line? line <;> simp [ha, hb, Cache.line?_put, Cache.cell_put _ _ _ _ hx, Cache.cell_eq]

/-- The same in an RDC. -/
theorem Die.rdcCell_putRdc (d : Die) (line w v : Nat) {x : WordCell} (hx : x ≠ {}) :
    (d.putRdc line w x).rdcCell line v = if v = w then x else d.rdcCell line v := by
  unfold Die.putRdc Die.rdcCell
  cases ha : d.rdc.line? line <;> cases hb : d.rdcVictim.line? line <;> simp [ha, hb, Cache.line?_put, Cache.cell_put _ _ _ _ hx, Cache.cell_eq]

/-- A word of a line that is changed; one with any content lies in a line that is held. -/
theorem Core.cell_mapWord {k : Core} {line w : Nat} (hcell : k.cell line w ≠ {}) {f : WordCell → WordCell} (hf : f (k.cell line w) ≠ {}) (v : Nat) :
    (k.mapWord line w f).cell line v = if v = w then f (k.cell line w) else k.cell line v := by
  have hheld : ((k.l1.line? line).isSome || (k.victim.line? line).isSome) = true := by
    refine Classical.byContradiction fun h => hcell ?_
    simp only [Bool.or_eq_true, not_or, Option.not_isSome_iff_eq_none] at h
    simp [Core.cell, Cache.cell_eq, h]
  unfold Core.mapWord
  exact (congrArg (fun k' : Core => k'.cell line v) (if_pos hheld)).trans (Core.cell_putCell_line _ line w v hf)

end Sys2Proof.Machine
end
section
/-! A word of a line where a core can see it, and what write-backs leave of it (R219). -/
namespace Sys2Proof.Machine
open Sys2Proof

/-! ### Homes of words -/

/-- A word of a line that is no device register's has the home of its line. -/
theorem homeOf_word {line w : Nat} (hw : w < 32) (hdev : isDevice (line * 128) = false) :
    homeOf (4 * (line * 32 + w)) = homeOf (line * 128) ∧ isDevice (4 * (line * 32 + w)) = false := by
  have hregion : regionOf (4 * (line * 32 + w)) = regionOf (line * 128) := by unfold regionOf; omega
  have hdie : 4 * (line * 32 + w) / 2 ^ 36 = line * 128 / 2 ^ 36 := by omega
  have hpkg : 4 * (line * 32 + w) / 2 ^ 41 = line * 128 / 2 ^ 41 := by omega
  have hseven : regionOf (line * 128) ≠ 7 := by simpa [isDevice] using hdev
  refine ⟨?_, by simpa [isDevice, hregion] using hseven⟩
  unfold homeOf
  rw [hregion, hdie, hpkg]
  split
  case h_6 hregister => exact absurd hregister hseven
  all_goals rfl

/-- A line whose home is a die is no device's. -/
theorem isDevice_of_home {pa h : Nat} (hh : homeOf pa = .home h) : isDevice pa = false := by
  refine Classical.byContradiction fun hdev => ?_
  have hseven : regionOf pa = 7 := by simpa [isDevice] using hdev
  simp [homeOf, hseven] at hh

theorem parentOf_home {core line h : Nat} (hh : homeOf (line * 128) = .home h) :
    parentOf core line = if h = dieOf core then .home h else .rdc (dieOf core) := by
  simp only [parentOf, hh]

/-! ### What leaves a word -/

/-- `t` has word `w` of a line in the L1 of `core` and in the RDC of its die as `s` has it, with the same dies, and its memory is well formed. -/
structure LeavesCopies (s t : State) (core line w : Nat) : Prop where
  cell : (t.core core).cell line w = (s.core core).cell line w
  rdc : (t.die (dieOf core)).rdcCell line w = (s.die (dieOf core)).rdcCell line w
  wf : s.mem.wf = true → t.mem.wf = true
  state : ∀ d, (t.die d).state = (s.die d).state
  dies : t.dies.length = s.dies.length

/-- What is more, memory holds the word as before. -/
structure LeavesWord (s t : State) (core line w : Nat) : Prop extends LeavesCopies s t core line w where
  word : s.mem.wf = true → t.mem.word (4 * (line * 32 + w)) = s.mem.word (4 * (line * 32 + w))

section
variable {s t u : State} {core line w : Nat}

theorem LeavesCopies.trans (h : LeavesCopies s t core line w) (h' : LeavesCopies t u core line w) : LeavesCopies s u core line w where
  cell := h'.cell.trans h.cell
  rdc := h'.rdc.trans h.rdc
  wf := fun hwf => h'.wf (h.wf hwf)
  state := fun d => (h'.state d).trans (h.state d)
  dies := h'.dies.trans h.dies

theorem LeavesWord.trans (h : LeavesWord s t core line w) (h' : LeavesWord t u core line w) : LeavesWord s u core line w where
  toLeavesCopies := h.toLeavesCopies.trans h'.toLeavesCopies
  word := fun hwf => (h'.word (h.wf hwf)).trans (h.word hwf)

theorem LeavesWord.refl (s : State) (core line w : Nat) : LeavesWord s s core line w where
  cell := rfl
  rdc := rfl
  wf := id
  state := fun _ => rfl
  dies := rfl
  word := fun _ => rfl

/-- What each step of a fold leaves, the fold leaves. -/
theorem LeavesWord.foldl {α : Type} {step : State → α → State} {xs : List α} (h : ∀ x, x ∈ xs → ∀ s, LeavesWord s (step s x) core line w) :
    ∀ s, LeavesWord s (xs.foldl step s) core line w := by
  induction xs with
  | nil => exact fun s => .refl s core line w
  | cons x xs ih => exact fun s => (h x List.mem_cons_self s).trans (ih (fun y hy => h y (List.mem_cons_of_mem _ hy)) (step s x))

/-- A reading of a die that a change leaves is left on every die. -/
theorem State.die_mapDie_keeps {β : Type} (s : State) (d i : Nat) {f : Die → Die} (g : Die → β) (hf : ∀ k, g (f k) = g k) :
    g ((s.mapDie d f).die i) = g (s.die i) := by
  rw [State.die_mapDie]
  split
  · next h => rw [hf, h.1]
  · rfl

theorem State.mapDie_length (s : State) (d : Nat) (f : Die → Die) : (s.mapDie d f).dies.length = s.dies.length := List.length_set

theorem LeavesWord.mapDie (s : State) (core line w d : Nat) {f : Die → Die} (hstate : ∀ k, (f k).state = k.state)
    (hrdc : ∀ k, (f k).rdcCell line w = k.rdcCell line w) : LeavesWord s (s.mapDie d f) core line w where
  cell := rfl
  rdc := s.die_mapDie_keeps d _ (fun k => k.rdcCell line w) hrdc
  wf := id
  state := fun i => s.die_mapDie_keeps d i Die.state hstate
  dies := s.mapDie_length d f
  word := fun _ => rfl

theorem LeavesWord.mapCore (s : State) {core line w : Nat} {f : Core → Core}
    (hcell : (f (s.core core)).cell line w = (s.core core).cell line w) : LeavesWord s (s.mapCore core f) core line w where
  cell := by rw [State.core_mapCore_self, hcell]
  rdc := rfl
  wf := id
  state := fun _ => rfl
  dies := rfl
  word := fun _ => rfl

/-- A change of the state that touches no core, no die and no memory. -/
theorem LeavesWord.of_same (hcores : t.cores = s.cores) (hdies : t.dies = s.dies) (hmem : t.mem = s.mem) (core line w : Nat) :
    LeavesWord s t core line w where
  cell := by unfold State.core; rw [hcores]
  rdc := by unfold State.die; rw [hdies]
  wf := fun h => hmem ▸ h
  state := fun d => by unfold State.die; rw [hdies]
  dies := by rw [hdies]
  word := fun _ => by rw [hmem]

theorem LeavesWord.mapFilter (s : State) (core line w d : Nat) (quarter : Bool) (f : List (Nat × FilterEntry) → List (Nat × FilterEntry)) :
    LeavesWord s (s.mapFilter d quarter f) core line w := by
  unfold State.mapFilter
  split
  · exact .refl s core line w
  · exact .mapDie s core line w d (fun k => by split <;> rfl) fun k => by split <;> rfl

/-- Directories and filters hold no words. -/
theorem LeavesWord.mapEntry (s : State) (core line w : Nat) (n : Node) (l : Nat) (f : DirEntry → DirEntry) :
    LeavesWord s (s.mapEntry n l f) core line w := by
  have hhub : LeavesWord s (s.mapHub n fun h => h.setEntry l (f (h.entry l))) core line w := by
    unfold State.mapHub
    split
    · exact .mapDie s core line w _ (fun _ => rfl) fun _ => rfl
    · exact .mapDie s core line w _ (fun _ => rfl) fun _ => rfl
    all_goals refine .of_same ?_ ?_ ?_ core line w <;> rfl
  unfold State.mapEntry
  dsimp only
  split
  · refine hhub.trans ?_
    unfold State.noteFilters
    split
    · exact (LeavesWord.mapFilter ..).trans (LeavesWord.mapFilter ..)
    · exact .refl _ core line w
  · exact hhub

theorem LeavesWord.demote (s : State) (core line w : Nat) (hub holder : Node) (l v : Nat) : LeavesWord s (s.demote hub holder l v) core line w := by
  unfold State.demote
  split
  · exact .mapEntry s core line w hub l _
  · exact .refl s core line w

end

/-! ### A word written at its home -/

theorem SMap.get?_mapVals {α β : Type} (f : α → β) (m : SMap α) (k : Nat) :
    SMap.get? (m.map fun x : Nat × α => (x.1, f x.2)) k = (SMap.get? m k).map f := by
  induction m with
  | nil => rfl
  | cons x m ih =>
    simp only [List.map_cons, SMap.get?, ih]
    split
    · rfl
    · split <;> rfl

/-- Translations that go leave a core's caches (R325). -/
theorem State.cell_shoot (s : State) (ws : List Nat) (core line w : Nat) : ((s.shoot ws).core core).cell line w = (s.core core).cell line w := by
  have hcell : ∀ k : Core, (Core.shoot ws k).cell line w = k.cell line w := fun k => by unfold Core.shoot; dsimp only; split <;> rfl
  have hblank : Core.shoot ws {} = {} := rfl
  unfold State.shoot State.core SMap.getD
  simp only [SMap.get?_mapVals]
  cases SMap.get? s.cores core with
  | none => rfl
  | some k => exact hcell k

theorem LeavesCopies.setHomeWord {s : State} {v : Nat} (x : Word) (p : Bool) (hdev : isDevice (4 * v) = false) (core line w : Nat) :
    LeavesCopies s (s.setHomeWord v x p) core line w := by
  unfold State.setHomeWord
  rw [if_neg (by simp [hdev])]
  split
  · exact (LeavesWord.refl s core line w).toLeavesCopies
  · have hmark : ∀ u : State, LeavesWord u (u.markPoison v p) core line w := fun u => by
      unfold State.markPoison
      dsimp only
      repeat' split
      all_goals refine .of_same ?_ ?_ ?_ core line w <;> rfl
    have hshoot : ∀ u : State, LeavesWord u (u.shoot [v]) core line w := fun u =>
      ⟨⟨State.cell_shoot u [v] core line w, rfl, id, fun _ => rfl, rfl⟩, fun _ => rfl⟩
    have hhold : ∀ u : State, LeavesWord u (u.holdHost v) core line w := fun u => by
      unfold State.holdHost
      split <;> refine .of_same ?_ ?_ ?_ core line w <;> rfl
    have huse : ∀ u : State, LeavesWord u (u.useL2 (v / 32)) core line w := fun u => by
      unfold State.useL2
      split
      · exact .mapDie u core line w _ (fun _ => rfl) fun _ => rfl
      · exact .refl u core line w
    have hset : LeavesCopies s { s with mem := s.mem.setWord (4 * v) x } core line w :=
      ⟨rfl, rfl, fun hwf => Memory.setWord_wf hwf _ _, fun _ => rfl, rfl⟩
    exact hset.trans ((((hmark _).trans (hshoot _)).trans (hhold _)).trans (huse _)).toLeavesCopies

/-- Another word's write leaves a word where it is. -/
theorem LeavesWord.setHomeWord {s : State} {core line v w : Nat} (x : Word) (p : Bool) (hdev : isDevice (4 * (line * 32 + v)) = false) (hvw : w ≠ v) :
    LeavesWord s (s.setHomeWord (line * 32 + v) x p) core line w where
  toLeavesCopies := .setHomeWord x p hdev core line w
  word := fun hwf => by
    by_cases hdead : s.isDead (homeOf (4 * (line * 32 + v))) = true
    · unfold State.setHomeWord
      rw [if_neg (by simp [hdev]), if_pos hdead]
    · rw [State.setHomeWord_mem x p hdev (Bool.not_eq_true _ ▸ hdead)]
      exact Memory.word_setWord_ne hwf x (by omega)

/-! ### `cwb` at an L1 -/

/-- What writing back a dirty word comes to (R219, log 28): the L1 keeps it clean, and its value stands in the die's RDC, where that
registers the L1 as its owner, or at its home `h`. -/
structure WrittenBack (s : State) (core h line w : Nat) (x : WordCell) : Prop where
  clean : ((s.core core).cell line w).st ≠ .m
  val : ((s.core core).cell line w).val = x.val
  lowered : x.tracked = true → x.loose = false → h ≠ dieOf core →
    ((s.die (dieOf core)).rdcCell line w).st = .m ∧ ((s.die (dieOf core)).rdcCell line w).val = x.val
  home : x.tracked = false ∨ x.loose = true ∨ h = dieOf core → s.mem.word (4 * (line * 32 + w)) = x.val

/-- The memory is well formed, the home `h` lives, and the core's die is there. -/
structure Standing (s : State) (core h : Nat) : Prop where
  wf : s.mem.wf = true
  alive : s.isDead (.home h) = false
  die : dieOf core < s.dies.length

section
variable {s t : State} {core h line w : Nat}

theorem LeavesWord.writtenBack {x : WordCell} (hleaves : LeavesWord s t core line w) (hwf : s.mem.wf = true) (hback : WrittenBack s core h line w x) :
    WrittenBack t core h line w x where
  clean := by rw [hleaves.cell]; exact hback.clean
  val := by rw [hleaves.cell]; exact hback.val
  lowered := by rw [hleaves.rdc]; exact hback.lowered
  home := by rw [hleaves.word hwf]; exact hback.home

theorem LeavesCopies.standing (hleaves : LeavesCopies s t core line w) (hs : Standing s core h) : Standing t core h where
  wf := hleaves.wf hs.wf
  alive := by
    have hstate := hleaves.state h
    have halive := hs.alive
    simp only [State.isDead, nodeDie] at halive ⊢
    rw [hstate, halive]
  die := hleaves.dies ▸ hs.die

/-- The L1 keeps a word it had dirty, clean and shared. -/
def State.cleanWord (s : State) (core line v : Nat) : State :=
  s.mapCore core fun k => k.mapWord line v fun c => if c.st = .m then { c with st := .s, shr := false } else c

/-- The RDC of a die holds a word dirty that one of its L1s had. -/
def State.rdcTakesWord (s : State) (d line v : Nat) (x : WordCell) : State :=
  s.mapDie d fun k => k.putRdc line v { k.rdcCell line v with st := .m, val := x.val, poison := x.poison, tracked := true }

theorem State.lowerWord_eq (s : State) (core v : Nat) (x : WordCell) (hh : homeOf (line * 128) = .home h) : s.lowerWord core line v x =
    if h = dieOf core then ((s.cleanWord core line v).setHomeWord (line * 32 + v) x.val x.poison).demote (.home h) (.l1 core) line v
    else ((s.cleanWord core line v).rdcTakesWord (dieOf core) line v x).demote (.rdc (dieOf core)) (.l1 core) line v := by
  unfold State.lowerWord
  rw [parentOf_home hh]
  by_cases hown : h = dieOf core
  · simp only [if_pos hown]; rfl
  · simp only [if_neg hown]; rfl

theorem State.rdcTakesWord_leaves (s : State) {d v : Nat} (x : WordCell) (hwv : w ≠ v) : LeavesWord s (s.rdcTakesWord d line v x) core line w :=
  .mapDie s core line w d (fun k => k.putRdc_state _ _ _) fun k => by rw [Die.rdcCell_putRdc _ _ _ _ (by simp), if_neg hwv]

theorem State.rdcTakesWord_standing (hs : Standing s core h) (d line v : Nat) (x : WordCell) : Standing (s.rdcTakesWord d line v x) core h :=
  (State.rdcTakesWord_leaves (core := core) s x (Nat.succ_ne_self v)).standing hs

section Lower
variable {v : Nat} {x : WordCell} (hcell : (s.core core).cell line v = x) (hm : x.st = .m)
include hcell hm

/-- The cells of the line once one is clean. -/
theorem State.cell_cleanWord (w : Nat) : ((s.cleanWord core line v).core core).cell line w =
    if w = v then { x with st := .s, shr := false } else (s.core core).cell line w := by
  unfold State.cleanWord
  rw [State.core_mapCore_self, Core.cell_mapWord (by rw [hcell]; rintro rfl; cases hm) (by rw [hcell, if_pos hm]; simp), hcell, if_pos hm]

variable (hh : homeOf (line * 128) = .home h) (hv : v < 32)
include hh hv

/-- A dirty word that is lowered leaves every other. -/
theorem State.lowerWord_leaves (hwv : w ≠ v) : LeavesWord s (s.lowerWord core line v x) core line w := by
  obtain ⟨-, hdev⟩ := homeOf_word hv (isDevice_of_home hh)
  have hclean : LeavesWord s (s.cleanWord core line v) core line w :=
    ⟨⟨(State.cell_cleanWord hcell hm w).trans (if_neg hwv), rfl, id, fun _ => rfl, rfl⟩, fun _ => rfl⟩
  rw [State.lowerWord_eq s core v x hh]
  split
  · exact (hclean.trans (.setHomeWord _ _ hdev hwv)).trans (.demote _ core line w _ _ line v)
  · exact (hclean.trans (State.rdcTakesWord_leaves _ x hwv)).trans (.demote _ core line w _ _ line v)

/-- A dirty word that its directory registers as owned is written back (R219, R385). -/
theorem State.lowerWord_writtenBack (hs : Standing s core h) (hregistered : x.tracked = true ∧ x.loose = false) :
    WrittenBack (s.lowerWord core line v x) core h line v x ∧ Standing (s.lowerWord core line v x) core h := by
  obtain ⟨hhome, hdev⟩ := homeOf_word hv (isDevice_of_home hh)
  have hread := (State.cell_cleanWord hcell hm v).trans (if_pos rfl)
  have hclean : Standing (s.cleanWord core line v) core h := ⟨hs.wf, hs.alive, hs.die⟩
  rw [State.lowerWord_eq s core v x hh]
  generalize s.cleanWord core line v = u at hread hclean ⊢
  have hdead : u.isDead (homeOf (4 * (line * 32 + v))) = false := by rw [hhome, hh]; exact hclean.alive
  by_cases hown : h = dieOf core
  · rw [if_pos hown]
    have hcopies := LeavesCopies.setHomeWord (s := u) x.val x.poison hdev core line v
    have hdemote := LeavesWord.demote (u.setHomeWord (line * 32 + v) x.val x.poison) core line v (.home h) (.l1 core) line v
    have hstand := hcopies.standing hclean
    refine ⟨hdemote.writtenBack hstand.wf ⟨?_, ?_, fun _ _ hne => absurd hown hne, fun _ => ?_⟩, hdemote.standing hstand⟩
    · rw [hcopies.cell, hread]; simp
    · rw [hcopies.cell, hread]
    · rw [State.setHomeWord_mem _ _ hdev hdead, Memory.word_setWord hclean.wf]
  · rw [if_neg hown]
    have hrdc : ((u.rdcTakesWord (dieOf core) line v x).die (dieOf core)).rdcCell line v =
        { (u.die (dieOf core)).rdcCell line v with st := .m, val := x.val, poison := x.poison, tracked := true } := by
      unfold State.rdcTakesWord
      rw [State.die_mapDie, if_pos ⟨rfl, hclean.die⟩, Die.rdcCell_putRdc _ _ _ _ (by simp), if_pos rfl]
    have hcores : (u.rdcTakesWord (dieOf core) line v x).core core = u.core core := rfl
    have hstand := State.rdcTakesWord_standing hclean (dieOf core) line v x
    have hdemote := LeavesWord.demote (u.rdcTakesWord (dieOf core) line v x) core line v (.rdc (dieOf core)) (.l1 core) line v
    refine ⟨hdemote.writtenBack hstand.wf ⟨?_, ?_, fun _ _ _ => ?_, fun hcase => ?_⟩, hdemote.standing hstand⟩
    · rw [hcores, hread]; simp
    · rw [hcores, hread]
    · rw [hrdc]; exact ⟨rfl, rfl⟩
    · simp [hregistered, hown] at hcase

end Lower

/-- Dirty words that their directory registers as owned are written back one after another, and the others are left. -/
theorem State.foldl_lowerWord (hh : homeOf (line * 128) = .home h) (xs : List (Nat × WordCell)) : ∀ {s : State}, Standing s core h →
    (xs.map (·.1)).Nodup → (∀ y, y ∈ xs → (s.core core).cell line y.1 = y.2 ∧ y.1 < 32 ∧ y.2.st = .m ∧ y.2.tracked = true ∧ y.2.loose = false) →
    let t := xs.foldl (fun s y => s.lowerWord core line y.1 y.2) s
    Standing t core h ∧ (∀ w, w ∉ xs.map (·.1) → LeavesWord s t core line w) ∧ ∀ y, y ∈ xs → WrittenBack t core h line y.1 y.2 := by
  induction xs with
  | nil => exact fun hs _ _ => ⟨hs, fun w _ => .refl _ core line w, fun y hy => absurd hy List.not_mem_nil⟩
  | cons x xs ih =>
    intro s hs hnodup hall
    obtain ⟨hnew, hrest⟩ := List.nodup_cons.mp hnodup
    obtain ⟨hcell, hx, hm, hregistered⟩ := hall x List.mem_cons_self
    obtain ⟨hback, hstand⟩ := State.lowerWord_writtenBack hcell hm hh hx hs hregistered
    have hother : ∀ w, w ≠ x.1 → LeavesWord s (s.lowerWord core line x.1 x.2) core line w := fun w => State.lowerWord_leaves hcell hm hh hx
    obtain ⟨hend, hleaves, hbacks⟩ := ih hstand hrest fun y hy => by
      have hne : y.1 ≠ x.1 := fun e => hnew (List.mem_map.mpr ⟨y, hy, e⟩)
      rw [(hother y.1 hne).cell]
      exact hall y (List.mem_cons_of_mem _ hy)
    refine ⟨hend, fun w hw => ?_, fun y hy => ?_⟩
    · obtain ⟨hwx, hwxs⟩ := not_or.mp (mt List.mem_cons.mpr hw)
      exact (hother w hwx).trans (hleaves w hwxs)
    · rcases List.mem_cons.mp hy with rfl | hy
      · exact (hleaves y.1 hnew).writtenBack hstand.wf hback
      · exact hbacks y hy

/-! ### Words written back past the directory -/

/-- Words of a line written at their home: the caches are left, and memory holds each. -/
theorem State.foldl_setHomeWord (hh : homeOf (line * 128) = .home h) (xs : List (Nat × WordCell)) : ∀ {s : State}, Standing s core h →
    (xs.map (·.1)).Nodup → (∀ y, y ∈ xs → y.1 < 32) →
    let t := xs.foldl (fun s y => s.setHomeWord (line * 32 + y.1) y.2.val y.2.poison) s
    Standing t core h ∧ (∀ w, LeavesCopies s t core line w) ∧ (∀ w, w ∉ xs.map (·.1) → LeavesWord s t core line w) ∧
      ∀ y, y ∈ xs → t.mem.word (4 * (line * 32 + y.1)) = y.2.val := by
  induction xs with
  | nil => exact fun hs _ _ => ⟨hs, fun w => (LeavesWord.refl _ core line w).toLeavesCopies, fun w _ => .refl _ core line w,
      fun y hy => absurd hy List.not_mem_nil⟩
  | cons x xs ih =>
    intro s hs hnodup hall
    obtain ⟨hnew, hrest⟩ := List.nodup_cons.mp hnodup
    obtain ⟨hhome, hdev⟩ := homeOf_word (hall x List.mem_cons_self) (isDevice_of_home hh)
    have hdead : s.isDead (homeOf (4 * (line * 32 + x.1))) = false := by rw [hhome, hh]; exact hs.alive
    have hcopies : ∀ w, LeavesCopies s (s.setHomeWord (line * 32 + x.1) x.2.val x.2.poison) core line w := fun w => .setHomeWord _ _ hdev core line w
    have hstand := (hcopies 0).standing hs
    obtain ⟨hend, hcaches, hleaves, hwords⟩ := ih hstand hrest fun y hy => hall y (List.mem_cons_of_mem _ hy)
    refine ⟨hend, fun w => (hcopies w).trans (hcaches w), fun w hw => ?_, fun y hy => ?_⟩
    · obtain ⟨hwx, hwxs⟩ := not_or.mp (mt List.mem_cons.mpr hw)
      exact (LeavesWord.setHomeWord _ _ hdev hwx).trans (hleaves w hwxs)
    · rcases List.mem_cons.mp hy with rfl | hy
      · exact ((hleaves y.1 hnew).word hstand.wf).trans (by rw [State.setHomeWord_mem _ _ hdev hdead, Memory.word_setWord hs.wf])
      · exact hwords y hy

/-- The unregistered copies that an RDC holds follow the words written back; the others are left. -/
theorem Die.foldl_follow (line : Nat) (xs : List (Nat × WordCell)) {w : Nat} (hw : w ∉ xs.map (·.1)) : ∀ k : Die,
    let k' := xs.foldl (fun k x => let r := k.rdcCell line x.1
      if r.st = .i ∨ r.tracked then k else k.putRdc line x.1 { r with val := x.2.val, poison := x.2.poison }) k
    k'.rdcCell line w = k.rdcCell line w ∧ k'.state = k.state := by
  induction xs with
  | nil => exact fun k => ⟨rfl, rfl⟩
  | cons x xs ih =>
    intro k
    obtain ⟨hwx, hwxs⟩ := not_or.mp (mt List.mem_cons.mpr hw)
    simp only [List.foldl_cons]
    split
    · exact ih hwxs k
    · next hvalid =>
      obtain ⟨hcell, hstate⟩ := ih hwxs (k.putRdc line x.1 { k.rdcCell line x.1 with val := x.2.val, poison := x.2.poison })
      have hne : ({ k.rdcCell line x.1 with val := x.2.val, poison := x.2.poison } : WordCell) ≠ {} := fun e =>
        hvalid (Or.inl (congrArg WordCell.st e))
      exact ⟨hcell.trans ((Die.rdcCell_putRdc k line x.1 w hne).trans (if_neg hwx)), hstate.trans (k.putRdc_state _ _ _)⟩

/-- Copies of words in an L1 that become clean, one after another. -/
theorem Core.foldl_putClean (line : Nat) (xs : List (Nat × WordCell)) : ∀ {k : Core}, (xs.map (·.1)).Nodup →
    let k' := xs.foldl (fun k x => k.putCell line x.1 { x.2 with st := if x.2.loose then .s else .e, loose := false }) k
    (∀ w, w ∉ xs.map (·.1) → k'.cell line w = k.cell line w) ∧
      ∀ y, y ∈ xs → k'.cell line y.1 = { y.2 with st := if y.2.loose then .s else .e, loose := false } := by
  induction xs with
  | nil => exact fun _ => ⟨fun _ _ => rfl, fun y hy => absurd hy List.not_mem_nil⟩
  | cons x xs ih =>
    intro k hnodup
    obtain ⟨hnew, hrest⟩ := List.nodup_cons.mp hnodup
    have hput := Core.cell_putCell_line k line x.1 (x := { x.2 with st := if x.2.loose then .s else .e, loose := false }) (hx := fun e => by
      have hst := congrArg WordCell.st e
      dsimp only at hst
      split at hst <;> cases hst)
    obtain ⟨hother, hmem⟩ := ih (k := k.putCell line x.1 { x.2 with st := if x.2.loose then .s else .e, loose := false }) hrest
    refine ⟨fun w hw => ?_, fun y hy => ?_⟩
    · obtain ⟨hwx, hwxs⟩ := not_or.mp (mt List.mem_cons.mpr hw)
      exact (hother w hwxs).trans ((hput w).trans (if_neg hwx))
    · rcases List.mem_cons.mp hy with rfl | hy
      · exact (hother y.1 hnew).trans ((hput y.1).trans (if_pos rfl))
      · exact hmem y hy

/-! ### A line of an L1 written back -/

theorem State.mem_dirtyL1 {s : State} {core line : Nat} {owned : Bool} {y : Nat × WordCell} : y ∈ s.dirtyL1 core line owned ↔
    y.1 < 32 ∧ y.2 = (s.core core).cell line y.1 ∧ y.2.dirty = true ∧ y.2.unset = 0 ∧ y.2.mirs = 0 ∧ y.2.pendMask = 0 ∧
      (y.2.tracked && !y.2.loose) = owned := by
  obtain ⟨v, x⟩ := y
  simp only [State.dirtyL1, List.mem_filter, List.mem_map, List.mem_range, Prod.mk.injEq, Bool.and_eq_true, beq_iff_eq]
  constructor
  · rintro ⟨⟨w, hw, rfl, rfl⟩, ⟨⟨⟨hdirty, hunset⟩, hmirs⟩, hpend⟩, howned⟩
    exact ⟨hw, rfl, hdirty, hunset, hmirs, hpend, howned⟩
  · rintro ⟨hw, rfl, hdirty, hunset, hmirs, hpend, howned⟩
    exact ⟨⟨v, hw, rfl, rfl⟩, ⟨⟨⟨hdirty, hunset⟩, hmirs⟩, hpend⟩, howned⟩

theorem State.dirtyL1_nodup (s : State) (core line : Nat) (owned : Bool) : ((s.dirtyL1 core line owned).map (·.1)).Nodup := by
  have hkeys : ((List.range 32).map fun w => (w, (s.core core).cell line w)).map (·.1) = List.range 32 := by simp [Function.comp_def]
  exact (hkeys ▸ List.nodup_range).sublist ((List.filter_sublist).map _)

/-- The words that `cwb` at an L1 writes back past the directory. -/
def State.passDirectory (s : State) (core line : Nat) (past : List (Nat × WordCell)) : State :=
  (s.writeHome core line past).mapCore core fun k => past.foldl (fun k x =>
    k.putCell line x.1 { x.2 with st := if x.2.loose then .s else .e, loose := false }) k

theorem State.cwbL1_eq (s : State) (core line : Nat) : s.cwbL1 core line =
    let t := (s.dirtyL1 core line true).foldl (fun s x => s.lowerWord core line x.1 x.2) s
    if (s.dirtyL1 core line false).isEmpty then t else t.passDirectory core line (s.dirtyL1 core line false) := rfl

/-- Words written back past the directory: the home holds them, the L1 keeps them clean, and the others are left (R206, R207, R219). -/
theorem State.passDirectory_spec {s : State} {core h line : Nat} (hh : homeOf (line * 128) = .home h) (hs : Standing s core h)
    {xs : List (Nat × WordCell)} (hnodup : (xs.map (·.1)).Nodup) (hlt : ∀ y, y ∈ xs → y.1 < 32)
    (hpast : ∀ y, y ∈ xs → (y.2.tracked && !y.2.loose) = false) :
    (∀ w, w ∉ xs.map (·.1) → LeavesWord s (s.passDirectory core line xs) core line w) ∧
      ∀ y, y ∈ xs → WrittenBack (s.passDirectory core line xs) core h line y.1 y.2 := by
  obtain ⟨hend, -, hleaves, hwords⟩ := State.foldl_setHomeWord hh xs hs hnodup hlt
  obtain ⟨hother, hclean⟩ := Core.foldl_putClean line xs (k := (xs.foldl (fun s y => s.setHomeWord (line * 32 + y.1) y.2.val y.2.poison) s).core core) hnodup
  have hrun : s.writeHome core line xs = (xs.foldl (fun s y => s.setHomeWord (line * 32 + y.1) y.2.val y.2.poison) s).mapDie (dieOf core) fun k =>
      xs.foldl (fun k x => let r := k.rdcCell line x.1
        if r.st = .i ∨ r.tracked then k else k.putRdc line x.1 { r with val := x.2.val, poison := x.2.poison }) k := by
    unfold State.writeHome
    dsimp only
    rw [hh]
  unfold State.passDirectory
  rw [hrun]
  generalize xs.foldl (fun s y => s.setHomeWord (line * 32 + y.1) y.2.val y.2.poison) s = u at hend hleaves hwords hother hclean ⊢
  refine ⟨fun w hw => ?_, fun y hy => ⟨?_, ?_, fun htracked hloose => ?_, fun _ => hwords y hy⟩⟩
  · refine (hleaves w hw).trans (LeavesWord.trans (.mapDie u core line w (dieOf core) (fun k => (Die.foldl_follow line xs hw k).2) fun k =>
      (Die.foldl_follow line xs hw k).1) (.mapCore _ (hother w hw)))
  · rw [State.core_mapCore_self]
    refine fun hm => ?_
    have hst := (congrArg WordCell.st (hclean y hy)).symm.trans hm
    dsimp only at hst
    split at hst <;> cases hst
  · rw [State.core_mapCore_self]
    exact (congrArg WordCell.val (hclean y hy)).trans rfl
  · have := hpast y hy
    rw [htracked, hloose] at this
    cases this

/-- `cwb` at an L1 writes back each settled word that it holds dirty (R219, log 28). -/
theorem State.cwbL1_writtenBack {s : State} {core h line w : Nat} (hw : w < 32) (hh : homeOf (line * 128) = .home h) (hs : Standing s core h)
    {x : WordCell} (hx : (s.core core).cell line w = x) (hm : x.st = .m) (hunset : x.unset = 0) (hmirs : x.mirs = 0) (hpend : x.pendMask = 0) :
    WrittenBack (s.cwbL1 core line) core h line w x := by
  have hmem : ∀ owned, (x.tracked && !x.loose) = owned → (w, x) ∈ s.dirtyL1 core line owned := fun owned howned =>
    State.mem_dirtyL1.mpr ⟨hw, hx.symm, by simp [WordCell.dirty, hm], hunset, hmirs, hpend, howned⟩
  have hkeys : ∀ owned, (x.tracked && !x.loose) ≠ owned → w ∉ (s.dirtyL1 core line owned).map (·.1) := fun owned howned hin => by
    obtain ⟨y, hy, rfl⟩ := List.mem_map.mp hin
    obtain ⟨-, hcell, -, -, -, -, hyowned⟩ := State.mem_dirtyL1.mp hy
    exact howned (by rw [← hx, ← hcell, hyowned])
  obtain ⟨hend, hleaves, hbacks⟩ := State.foldl_lowerWord hh (s.dirtyL1 core line true) hs (s.dirtyL1_nodup core line true) fun y hy => by
    obtain ⟨hlt, hcell, hdirty, -, -, -, hregistered⟩ := State.mem_dirtyL1.mp hy
    obtain ⟨htracked, hloose⟩ : y.2.tracked = true ∧ y.2.loose = false := by simpa using hregistered
    exact ⟨hcell.symm, hlt, by simpa [WordCell.dirty, hloose] using hdirty, htracked, hloose⟩
  obtain ⟨hother, hpast⟩ := State.passDirectory_spec hh hend (s.dirtyL1_nodup core line false)
    (fun y hy => (State.mem_dirtyL1.mp hy).1) fun y hy => (State.mem_dirtyL1.mp hy).2.2.2.2.2.2
  rw [State.cwbL1_eq]
  dsimp only
  cases howned : x.tracked && !x.loose with
  | true =>
    split
    · exact hbacks _ (hmem true howned)
    · exact (hother w (hkeys false (by rw [howned]; decide))).writtenBack hend.wf (hbacks _ (hmem true howned))
  | false =>
    have hin := hmem false howned
    rw [if_neg fun hempty => List.ne_nil_of_mem hin (List.isEmpty_iff.mp hempty)]
    exact hpast _ hin

end

end Sys2Proof.Machine
end

section
/-! O38: cache control and prefetches (R219, R220). -/
namespace Sys2Proof.Machine
open Sys2Proof

/-- The attempts of a path's threads through the pair `a` where all of them pass. -/
def passed (c : Ctx) (a : Nat) (at' : Leads) : List Attempt :=
  c.ms.map fun i => Attempt.mk i (vaddr ((c.view i).pair a)) (.ok (at' i).1 (at' i).2.1 (at' i).2.2)

theorem firstViolation_passed (c : Ctx) (a : Nat) (at' : Leads) : firstViolation (passed c a at') = none := by simp [firstViolation, passed]

theorem spotsOf_passed (c : Ctx) (a : Nat) (at' : Leads) : spotsOf (passed c a at') = spotsAt c a at' := by
  simp [passed, spotsOf, spotsAt, Attempt.ok?, List.filterMap_map]

theorem State.keepAll_passed (s : State) (c : Ctx) (a : Nat) (at' : Leads) : s.keepAll c (passed c a at') = s.kept c at' := by
  simp [passed, State.keepAll, State.kept, Attempt.ok?, List.foldl_map]

/-- A cache-control operation whose threads' lines are translated and quiet acts on each in ascending order. -/
theorem cacheOp_acts {a : BitVec 7} {sc : Scope} {quiet : Bool} {f : State → Ctx → Nat → State} {s : State} {c : Ctx} {at' : Leads}
    (hready : LaneReady s c { reads := [(a.toNat, 2)] })
    (h : ∀ i, i ∈ c.ms → s.checkCache c.team (laneOf c.group i) ((c.view i).pair a.toNat) = .ok (at' i).1 (at' i).2.1 (at' i).2.2 ∧
      s.inTransition (at' i).1 = false ∧ c.mustWait i ((at' i).1 / 128 * 128) 128 = false ∧
      (quiet = true → s.lineQuiet (s.scopeCores c.team sc) (scopeDies c.team sc) ((at' i).1 / 128) = true)) :
    cacheOp a sc quiet f s = .next ((c.ms.foldl (fun s i => f s c ((at' i).1 / 128)) (s.kept c at')).afterIssue c fun _ u => u.tick.next) := by
  have hxs : (c.ms.map fun i => Attempt.mk i (vaddr ((c.view i).pair a.toNat)) (s.checkCache c.team (laneOf c.group i) ((c.view i).pair a.toNat))) =
      passed c a.toNat at' := List.map_congr_left fun i hi => by rw [(h i hi).1]
  unfold cacheOp
  rw [hready.path]; dsimp only
  simp only [hready.named, hready.sound, hready.free, Bool.not_true, Bool.false_eq_true, if_false, hxs, firstViolation_passed, spotsOf_passed,
    State.keepAll_passed]
  refine (if_neg ?_).trans (by simp only [spotsAt, List.foldl_map]; rfl)
  rw [Bool.not_eq_true, passed, List.any_map, List.any_eq_false]
  intro i hi
  obtain ⟨-, htrans, hwait, hquiet⟩ := h i hi
  cases quiet
  · simp [Attempt.ok?, htrans, hwait]
  · simp [Attempt.ok?, htrans, hwait, hquiet rfl]

/-- The lease violation of the path's first thread ends its team, and nothing is done (R220, log 27). -/
theorem cacheOp_breach {a : BitVec 7} {sc : Scope} {quiet : Bool} {f : State → Ctx → Nat → State} {s : State} {c : Ctx} {i sub : Nat} {va : VAddr}
    (hready : LaneReady s c { reads := [(a.toNat, 2)] }) (hfirst : c.ms.head? = some i)
    (hcheck : s.checkCache c.team (laneOf c.group i) ((c.view i).pair a.toNat) = .violation sub va) :
    cacheOp a sc quiet f s = .next (s.breach c.team.id sub va) := by
  obtain ⟨r, hr⟩ := List.head?_eq_some_iff.mp hfirst
  have hviolation : firstViolation (c.ms.map fun i => Attempt.mk i (vaddr ((c.view i).pair a.toNat))
      (s.checkCache c.team (laneOf c.group i) ((c.view i).pair a.toNat))) = some (sub, va) := by
    rw [hr]
    simp [firstViolation, hcheck]
  unfold cacheOp
  rw [hready.path]; dsimp only
  simp only [hready.named, hready.sound, hready.free, Bool.not_true, Bool.false_eq_true, if_false, hviolation]

/-- A prefetch always goes on, with the lines filled that its threads' addresses lead to. -/
theorem prefetch_goesOn {a : BitVec 7} {f : State → Ctx → Spot → State} {s : State} {c : Ctx} (hready : LaneReady s c { reads := [(a.toNat, 2)] }) :
    let xs := c.ms.map fun i => Attempt.mk i (vaddr ((c.view i).pair a.toNat)) (s.checkCache c.team (laneOf c.group i) ((c.view i).pair a.toNat))
    prefetch a f s = .next ((((spotsOf xs).filter fun x => !s.inTransition x.pa).foldl (fun s x => f s c x) (s.keepAll c xs)).afterIssue c
      fun _ u => u.tick.next) := by
  unfold prefetch
  rw [hready.path]; dsimp only
  simp only [hready.named, hready.sound, hready.free, Bool.not_true, Bool.false_eq_true, if_false]
  rfl

/-- Settles O38: each cache-control word is `cacheOp` with its own effect, a prefetch `prefetch` with its own, and `cwb` at an L1 writes each
dirty word back. -/
theorem cacheControlAndPrefetch : Obligations.CacheControlAndPrefetch := by
  refine ⟨⟨?acts, ?writesBack, ?violates⟩, ?prefetches⟩
  case acts =>
    intro mk quiet f hmk a sc s c at' hready h
    have he : exec (mk a sc) s = cacheOp a sc quiet (fun s c l => f s c sc l) s := by
      simp only [List.mem_cons, List.not_mem_nil, or_false, Prod.mk.injEq] at hmk
      rcases hmk with ⟨rfl, rfl, rfl⟩ | ⟨rfl, rfl, rfl⟩ | ⟨rfl, rfl, rfl⟩ | ⟨rfl, rfl, rfl⟩ <;> rfl
    rw [he]
    exact cacheOp_acts hready h
  case writesBack =>
    intro s core line w h hw hh halive hwf hdie x t r hm hunset hmirs hpend
    obtain ⟨hclean, hval, hlowered, hhome⟩ := State.cwbL1_writtenBack hw hh ⟨hwf, halive, hdie⟩ rfl hm hunset hmirs hpend
    refine ⟨hclean, hval, hlowered, fun hcase => ?_⟩
    obtain ⟨-, hdev⟩ := homeOf_word hw (isDevice_of_home hh)
    unfold State.homeWord
    rw [if_neg (by simp [hdev])]
    exact hhome hcase
  case violates =>
    intro mk hmk a sc s c i sub va hready hfirst hcheck
    have he : ∃ quiet f, exec (mk a sc) s = cacheOp a sc quiet f s := by
      simp only [List.mem_cons, List.not_mem_nil, or_false] at hmk
      rcases hmk with rfl | rfl | rfl | rfl
      · exact ⟨_, _, (rfl : _ = execCwb a sc s)⟩
      · exact ⟨_, _, (rfl : _ = execCinv a sc s)⟩
      · exact ⟨_, _, (rfl : _ = execCwbinv a sc s)⟩
      · exact ⟨_, _, (rfl : _ = execIcinv a sc s)⟩
    obtain ⟨quiet, f, he⟩ := he
    rw [he]
    exact cacheOp_breach hready hfirst hcheck
  case prefetches =>
    intro mk f hmk a sc s c hready
    have he : exec (mk a sc) s = prefetch a f s := by
      simp only [List.mem_cons, List.not_mem_nil, or_false, Prod.mk.injEq] at hmk
      rcases hmk with ⟨rfl, rfl⟩ | ⟨rfl, rfl⟩ <;> rfl
    rw [he]
    exact prefetch_goesOn hready

end Sys2Proof.Machine
end

section
/-! O39: `rgn.conv`, one step of a path's conversions at a time, and the words it sweeps (R221, R223, R224). -/
namespace Sys2Proof.Machine
open Sys2Proof

/-! ### What a step of a path's conversions is -/

section Steps
variable {s : State} {c : Ctx}

theorem execRgnConv_illegal {t a : BitVec 7} (hp : s.path? = some c) (hh : c.group.handler = false) :
    exec (.rgnConv t a) s = .next (s.trapPath c { code := 0x01 }) := by
  show execRgnConv t a s = _
  unfold execRgnConv
  simp [hp, hh]

theorem execRgnConv_enters {t a : BitVec 7} (hh : c.group.handler = true)
    (hready : LaneReady s c { reads := [(t.toNat, 1), (a.toNat, 2)], writes := [(t.toNat, 1)] }) (hconv : c.group.conv = none) :
    exec (.rgnConv t a) s = .next (s.putConv c { ms := c.ms }) := by
  show execRgnConv t a s = _
  unfold execRgnConv
  simp [hready.path, hh, hready.named, hready.sound, hready.free, hconv]

theorem execRgnConv_steps {t a : BitVec 7} {v : Conv} (hp : s.path? = some c) (hh : c.group.handler = true)
    (hnamed : ({ reads := [(t.toNat, 1), (a.toNat, 2)], writes := [(t.toNat, 1)] } : Regs).ok c.group.regs = true) (hconv : c.group.conv = some v)
    (hms : v.ms = c.ms) : exec (.rgnConv t a) s = .next (s.convStep c v t.toNat a.toNat) := by
  show execRgnConv t a s = _
  unfold execRgnConv
  simp [hp, hh, hnamed, hconv, hms]

variable {v : Conv} {t a i : Nat}

theorem State.convStep_done (hthread : v.thread? = none) : s.convStep c v t a = s.convDone c v := by
  unfold State.convStep; rw [hthread]

theorem State.convStep_begin (hthread : v.thread? = some i) (hpages : v.pages = none) :
    s.convStep c v t a = s.convBegin c v i (vaddr ((c.view i).pair a)) ((c.view i).v t).toNat := by
  unfold State.convStep; rw [hthread, hpages]

theorem State.convStep_end (hthread : v.thread? = some i) (hpages : v.pages = some []) : s.convStep c v t a = s.convEnd c v t i := by
  unfold State.convStep; rw [hthread, hpages]

theorem State.convStep_page {e : TlbEntry} {rest : List TlbEntry} (hthread : v.thread? = some i) (hpages : v.pages = some (e :: rest)) :
    s.convStep c v t a = s.convPage c v e rest := by
  unfold State.convStep; rw [hthread, hpages]

/-! ### A conversion begins and ends -/

/-- Each end of a conversion waits as `fence.sc.dev` of its thread does. -/
theorem State.convStep_waits (hthread : v.thread? = some i) (hrelease : s.mayRelease (c.alone i) .dev = false)
    (hpages : v.pages = none ∨ v.pages = some []) : s.convStep c v t a = s.beginRelease (c.alone i) .dev := by
  rcases hpages with hpages | hpages
  · rw [State.convStep_begin hthread hpages, State.convBegin, hrelease]; rfl
  · rw [State.convStep_end hthread hpages, State.convEnd, hrelease]; rfl

/-- A group whose path's conversions have all ended, none of them with a trap. -/
def Group.endConversions (lead : Nat) (v : Conv) (g : Group) : Group :=
  { (g.mapAt (v.ended.map (·.1)) fun _ u => u.tick.next).issued lead with conv := none }

/-- The threads of a path whose conversions have all ended go on. -/
theorem State.convDone_alters (hp : s.path? = some c) (htraps : v.traps = []) : ∃ g, Alters s (s.convDone c v) c g ∧ g.conv = none ∧
    ∀ i, i ∈ c.ms → i ∈ v.ended.map (·.1) → g.thread i = (c.group.thread i).tick.next := by
  have hrun : s.convDone c v = s.mapGroup c.team.id c.group.idx (Group.endConversions c.lead v) := by
    unfold State.convDone
    rw [htraps]
    rfl
  rw [hrun]
  refine ⟨_, State.mapGroup_path hp fun g => Group.issued_idx _ _, rfl, fun i hi hended => ?_⟩
  exact (Group.issued_thread _ _ i).trans (Group.thread_mapAt_mem hended (State.path?_mem hp hi))

/-- A group one of whose threads ends its conversion. -/
def Group.endConversion (v : Conv) (t i : Nat) (g : Group) : Group :=
  { g.mapAt [i] (fun _ u => { View.setV { t := u, handler := g.handler } t (BitVec.ofNat 32 v.n) with spec := [], rel := none }) with
    conv := some { v with ended := v.ended ++ [(i, v.n)], pages := none }
    cfl := g.cfl + BitVec.ofNat 56 (16 * v.n) }

/-- The register of a thread whose conversion ends holds the count of its records, and the log pointer has moved past them. -/
theorem State.convEnd_counts (hp : s.path? = some c) (hh : c.group.handler = true) (hi : i ∈ c.ms) (hrelease : s.mayRelease (c.alone i) .dev = true) :
    ∃ g, Alters s (s.convEnd c v t i) c g ∧ g.conv = some { v with ended := v.ended ++ [(i, v.n)], pages := none } ∧
      g.cfl = c.group.cfl + BitVec.ofNat 56 (16 * v.n) ∧ (g.thread i).readV (vIndex true t) = BitVec.ofNat 32 v.n ∧ (g.thread i).spec = [] := by
  have hrun : s.convEnd c v t i = s.mapGroup c.team.id c.group.idx (Group.endConversion v t i) := by
    unfold State.convEnd
    rw [hrelease]
    rfl
  have hthread : (c.group.endConversion v t i).thread i =
      { View.setV { t := c.group.thread i, handler := c.group.handler } t (BitVec.ofNat 32 v.n) with spec := [], rel := none } :=
    Group.thread_mapAt_mem (List.mem_singleton_self i) (State.path?_mem hp hi)
  rw [hrun]
  refine ⟨_, State.mapGroup_path hp fun _ => rfl, rfl, rfl, ?_, ?_⟩
  · rw [hthread]
    show ((c.group.thread i).writeV (vIndex c.group.handler t) (BitVec.ofNat 32 v.n)).readV (vIndex true t) = _
    rw [hh, Thread.readV_writeV, if_pos rfl]
  · rw [hthread]

/-! ### A page is converted -/

variable {e : TlbEntry} {rest : List TlbEntry}

theorem State.convPage_asks (hasked : v.asked = false) (hroom : 0 < s.room c.team.core) : s.convPage c v e rest =
    (s.putConv c { v with asked := true }).produce c.team.core c.team.id (.convert e.pa e.size) := by
  unfold State.convPage
  rw [hasked]
  exact if_neg (Nat.ne_of_gt hroom)

theorem State.convPage_sweeps (hasked : v.asked = true) (hswept : v.swept = none) (hconverting : s.converting c.team.id e = true)
    (hquiet : s.pageQuiet e.pa e.size = true) : s.convPage c v e rest =
    (s.sweep e (s.cachedWords e)).1.inputTeam c.team.id (Team.sweptPage c.group.idx e (s.sweep e (s.cachedWords e)).2) := by
  unfold State.convPage
  rw [hasked, hswept, hconverting, hquiet]
  rfl

theorem State.convPage_records {x : List Word} {xs : List (List Word)} {s' : State} (hasked : v.asked = true) (hswept : v.swept = some (x :: xs))
    (hstore : s.storeAt c.team.core c.team.id c.group.slotKey c.team.asid (c.group.cfl.toNat + 16 * v.n) x = some s') :
    s.convPage c v e rest = s'.putConv c { v with swept := some xs, n := v.n + 1 } := by
  unfold State.convPage
  rw [hasked, hswept]
  simp only [hstore]
  rfl

theorem State.convPage_turnsCoherent {s' : State} (hasked : v.asked = true) (hswept : v.swept = some []) (hset : s.setCoherent e = some s') :
    s.convPage c v e rest = ({ s' with transition := s'.transition.erase (e.pa, e.size, some c.team.id) } : State).putConv c
      { v with pages := some rest, asked := false, swept := none } := by
  unfold State.convPage
  rw [hasked, hswept]
  simp only [hset]
  rfl

end Steps

/-! ### A word is swept -/

/-- Dropping every copy of a word leaves memory and the dead homes. -/
theorem State.dropAll_ground (s : State) (line w : Nat) : (s.dropAll line w).ground = s.ground := by
  have hl1 := foldl_keeps State.ground (fun s c => State.dropL1_ground s c line w) (s.cores.map (·.1)) s
  have hrdc := fun t => foldl_keeps State.ground (fun s d => State.dropRdc_ground s d line w) (List.range Config.numDies) t
  unfold State.dropAll
  exact (hrdc _).trans hl1

/-- A word written at its home is read there. -/
theorem State.homeWord_setHomeWord {s : State} {w : Nat} (x : Word) (p : Bool) (hdev : isDevice (4 * w) = false) (hdead : s.isDead (homeOf (4 * w)) = false)
    (hwf : s.mem.wf = true) : ((s.setHomeWord w x p).homeWord w).1 = x := by
  unfold State.homeWord
  rw [if_neg (by simp [hdev]), State.setHomeWord_mem x p hdev hdead]
  exact Memory.word_setWord hwf _ _

/-- The dirty copy that wins becomes its home's value, and copies that differ leave one record (R222, R223). -/
theorem State.sweepWord_wins {s : State} (e : TlbEntry) {line w : Nat} {k : DirtyCopy} {r : List DirtyCopy} (hcopies : s.dirtyCopies line w = k :: r) :
    s.sweepWord e line w = ((s.dropAll line w).setHomeWord (line * 32 + w) k.val false,
      if ((k :: r).map (·.val)).eraseDups.length < 2 then []
      else [convRecord (e.va + (line * 128 + 4 * w - e.pa)) k.val ((k :: r).map (·.val)).eraseDups.length k.core k.die]) := by
  unfold State.sweepWord
  rw [hcopies]

/-- Settles O39: each clause is one branch of `convStep`, and a swept word takes the value of the first of its dirty copies. -/
theorem regionConversion : Obligations.RegionConversion := by
  refine ⟨fun t a s c hp => ?paths, fun s e line w k r hdev hw hdead hwf hcopies => ?words⟩
  case paths =>
    refine ⟨execRgnConv_illegal hp, execRgnConv_enters, fun v hh hnamed hconv hms => ?_⟩
    have hrun := execRgnConv_steps hp hh hnamed hconv hms
    refine ⟨fun hthread htraps => ?ended, fun i hthread => ⟨?waits, ?begins, ?ends, ?converts⟩⟩
    case ended =>
      obtain ⟨g, halters, hnone, hthreads⟩ := State.convDone_alters hp htraps
      refine ⟨_, g, hrun.trans (congrArg _ (State.convStep_done hthread)), halters, hnone, fun i hi hended => ?_⟩
      rw [hthreads i hi hended]
      rfl
    case waits =>
      exact fun hrelease hpages => hrun.trans (congrArg _ (State.convStep_waits hthread hrelease hpages))
    case begins =>
      intro hrelease hpages check go
      rw [hrun, State.convStep_begin hthread hpages, State.convBegin, hrelease]
      refine ⟨fun ps hcheck => ?_, fun x hcheck => ?_, fun sub va hcheck => ?_⟩ <;> simp only [check] at hcheck <;> rw [hcheck] <;> rfl
    case ends =>
      intro hrelease hpages hteam hgroup _
      have hi : i ∈ c.ms := hms ▸ List.mem_of_find?_eq_some hthread
      obtain ⟨g, ⟨T, honly, hgroups⟩, hspec⟩ := State.convEnd_counts (v := v) (t := t.toNat) hp hh hi hrelease
      exact ⟨_, T, g, hrun.trans (congrArg _ (State.convStep_end hthread hpages)), honly.self, hgroups.self, honly.field State.mem, hspec⟩
    case converts =>
      intro e rest hpages
      rw [hrun, State.convStep_page hthread hpages]
      exact ⟨fun hasked hroom => congrArg _ (State.convPage_asks hasked hroom),
        fun hasked hswept hconverting hquiet => congrArg _ (State.convPage_sweeps hasked hswept hconverting hquiet),
        fun x xs s' hasked hswept hstore => congrArg _ (State.convPage_records hasked hswept hstore),
        fun s' hasked hswept hset => congrArg _ (State.convPage_turnsCoherent hasked hswept hset)⟩
  case words =>
    obtain ⟨hhome, hword⟩ := homeOf_word hw hdev
    obtain ⟨hmem, hdeads⟩ := State.ground_congr (s.dropAll_ground line w)
    rw [State.sweepWord_wins e hcopies]
    exact ⟨State.homeWord_setHomeWord _ _ hword (by rw [hdeads, hhome, hdead]) (by rw [hmem, hwf]), fun hfew => if_pos hfew,
      fun hmany => if_neg (Nat.not_lt.mpr hmany)⟩

end Sys2Proof.Machine
end


section
/-! Finite maps whose keys rise, masks of words, entries of a directory, and what a directory's steps leave (R366, R370). -/
namespace Sys2Proof
namespace SMap
variable {α : Type}

/-! ### Maps whose keys rise -/

theorem sorted_iff (m : SMap α) : m.sorted = true ↔ m.Pairwise fun x y => x.1 < y.1 := by
  induction m with
  | nil => simp [SMap.sorted]
  | cons x r ih =>
    cases r with
    | nil => simp [SMap.sorted]
    | cons y r =>
      rw [List.pairwise_cons, ← ih]
      simp only [SMap.sorted, Bool.and_eq_true, decide_eq_true_eq, List.mem_cons, forall_eq_or_imp]
      refine ⟨fun ⟨hxy, hr⟩ => ⟨⟨hxy, fun z hz => ?_⟩, hr⟩, fun ⟨⟨hxy, _⟩, hr⟩ => ⟨hxy, hr⟩⟩
      exact Nat.lt_trans hxy ((List.pairwise_cons.mp (ih.mp hr)).1 z hz)

/-- A key that does not come after the first is not among the others. -/
theorem get?_eq_none {m : SMap α} {k : Nat} (h : ∀ x, x ∈ m → k < x.1) : SMap.get? m k = none := by
  cases m with
  | nil => rfl
  | cons x r =>
    have hx := h x List.mem_cons_self
    simp [SMap.get?, Nat.ne_of_gt hx, hx]

theorem del_sublist (m : SMap α) (k : Nat) : (SMap.del m k).Sublist m := by
  induction m with
  | nil => exact .refl _
  | cons x r ih =>
    obtain ⟨j, v⟩ := x
    simp only [SMap.del]
    split
    · exact List.sublist_cons_self _ _
    · split
      · exact .refl _
      · exact ih.cons_cons _

theorem sorted_del {m : SMap α} (h : m.sorted = true) (k : Nat) : (SMap.del m k).sorted = true :=
  (sorted_iff _).mpr (((sorted_iff m).mp h).sublist (m.del_sublist k))

/-- What is left of a map without one of its keys. -/
theorem get?_del {m : SMap α} (h : m.sorted = true) (k i : Nat) : SMap.get? (SMap.del m k) i = if i = k then none else SMap.get? m i := by
  induction m with
  | nil => simp [SMap.del, SMap.get?]
  | cons x r ih =>
    obtain ⟨j, v⟩ := x
    obtain ⟨hfirst, hrest⟩ := List.pairwise_cons.mp ((sorted_iff _).mp h)
    have hlow : ∀ i, i ≤ j → SMap.get? r i = none := fun i hi => get?_eq_none fun x hx => Nat.lt_of_le_of_lt hi (hfirst x hx)
    simp only [SMap.del]
    rcases Nat.lt_trichotomy j k with hjk | rfl | hjk
    · simp only [Nat.ne_of_lt hjk, Nat.not_lt_of_gt hjk, if_false, SMap.get?, ih ((sorted_iff r).mpr hrest)]
      split
      · rw [if_neg (by omega)]
      · split
        · rw [ite_self]
        · rfl
    · rw [if_pos rfl]
      by_cases hi : i = j
      · rw [if_pos hi, hlow i (Nat.le_of_eq hi)]
      · rw [if_neg hi]
        simp only [SMap.get?, if_neg (Ne.symm hi)]
        split
        · exact hlow i (by omega)
        · rfl
    · rw [if_neg (Nat.ne_of_gt hjk), if_pos hjk]
      by_cases hi : i = k
      · subst hi; simp [SMap.get?, Nat.ne_of_gt hjk, hjk]
      · rw [if_neg hi]

theorem mem_put {m : SMap α} {k : Nat} {v : α} {x : Nat × α} (h : x ∈ SMap.put m k v) : x = (k, v) ∨ x ∈ m := by
  induction m with
  | nil => exact Or.inl (List.mem_singleton.mp h)
  | cons y r ih =>
    obtain ⟨j, w⟩ := y
    simp only [SMap.put] at h
    split at h
    · exact (List.mem_cons.mp h).imp_right (List.mem_cons_of_mem _)
    · split at h
      · exact List.mem_cons.mp h
      · rcases List.mem_cons.mp h with rfl | h
        · exact Or.inr List.mem_cons_self
        · exact (ih h).imp_right (List.mem_cons_of_mem _)

theorem sorted_put {m : SMap α} (h : m.sorted = true) (k : Nat) (v : α) : (SMap.put m k v).sorted = true := by
  rw [sorted_iff] at h ⊢
  induction m with
  | nil => exact List.pairwise_singleton _ _
  | cons y r ih =>
    obtain ⟨j, w⟩ := y
    obtain ⟨hfirst, hrest⟩ := List.pairwise_cons.mp h
    simp only [SMap.put]
    split
    · next e => subst e; exact List.pairwise_cons.mpr ⟨hfirst, hrest⟩
    · split
      · next hkj =>
        refine List.pairwise_cons.mpr ⟨fun x hx => ?_, h⟩
        rcases List.mem_cons.mp hx with rfl | hx
        · exact hkj
        · exact Nat.lt_trans hkj (hfirst x hx)
      · next hne hkj =>
        refine List.pairwise_cons.mpr ⟨fun x hx => ?_, ih hrest⟩
        rcases mem_put hx with rfl | hx
        · show j < k; omega
        · exact hfirst x hx

/-- A map that does not list a key stays as it is without it. -/
theorem del_of_absent {m : SMap α} {k : Nat} (h : SMap.get? m k = none) : SMap.del m k = m := by
  induction m with
  | nil => rfl
  | cons x r ih =>
    obtain ⟨j, v⟩ := x
    simp only [SMap.get?] at h
    simp only [SMap.del]
    split
    · next e => rw [if_pos e] at h; cases h
    · next hne =>
      rw [if_neg hne] at h
      split
      · rfl
      · next hlt => rw [if_neg hlt] at h; rw [ih h]

end SMap
end Sys2Proof

namespace Sys2Proof.Machine
open Sys2Proof

/-! ### Masks of words -/

theorem mem_wordsOf {m : Mask} {w : Nat} : w ∈ wordsOf m ↔ w < 32 ∧ m.getLsbD w = true := by simp [wordsOf]

theorem wordsOf_nodup (m : Mask) : (wordsOf m).Nodup := List.nodup_range.filter _

theorem bitOf_getLsbD {w v : Nat} (hv : v < 32) : (bitOf w).getLsbD v = decide (v = w) := by
  rw [bitOf, BitVec.getLsbD_ofNat, Nat.testBit_two_pow, decide_eq_true hv, Bool.true_and]
  exact decide_eq_decide.mpr eq_comm

/-- The words of a list and of a mask they are added to. -/
theorem foldl_bitOf_getLsbD (ws : List Nat) {v : Nat} (hv : v < 32) : ∀ m : Mask,
    (ws.foldl (fun m w => m ||| bitOf w) m).getLsbD v = (m.getLsbD v || decide (v ∈ ws)) := by
  induction ws with
  | nil => simp
  | cons w ws ih =>
    intro m
    rw [List.foldl_cons, ih, BitVec.getLsbD_or, bitOf_getLsbD hv, Bool.or_assoc]
    simp [Bool.decide_or]

theorem maskOfWords_wordsOf (m : Mask) : maskOfWords (wordsOf m) = m := by
  apply BitVec.eq_of_getLsbD_eq
  intro v hv
  rw [maskOfWords, foldl_bitOf_getLsbD _ hv, show (0 : Mask).getLsbD v = false from BitVec.getLsbD_zero, Bool.false_or]
  simp only [mem_wordsOf, hv, true_and, Bool.decide_eq_true]

theorem wordsOf_bitOf : ∀ w, w < 32 → wordsOf (bitOf w) = [w] := by decide +kernel

theorem maskOfWords_singleton (w : Nat) : maskOfWords [w] = bitOf w := BitVec.zero_or

/-! ### Entries of a directory -/

/-- The entry of a line that was set is read back. -/
theorem Hub.entry_setEntry (h : Hub) (line : Nat) (e : DirEntry) : (h.setEntry line e).entry line = e := by
  unfold Hub.setEntry Hub.entry
  dsimp only
  by_cases hempty : (e.owner.isEmpty && e.sharers.isEmpty) = true
  · obtain ⟨howner, hsharers⟩ := Bool.and_eq_true_iff.mp hempty
    have hnone : ((h.dir.filter fun x => x.1 != line).find? fun x => x.1 == line) = none :=
      List.find?_eq_none.mpr fun x hx => by simpa using (List.mem_filter.mp hx).2
    rw [if_pos hempty, hnone]
    obtain ⟨owner, sharers⟩ := e
    obtain rfl := List.isEmpty_iff.mp howner
    obtain rfl := List.isEmpty_iff.mp hsharers
    rfl
  · rw [if_neg hempty, List.find?_cons_of_pos (by simp)]
    rfl

/-- A line of which a directory registers an owner has an entry. -/
theorem Hub.any_of_ownerOf {h : Hub} {line w : Nat} {n : Node} (howner : (h.entry line).ownerOf w = some n) : (h.dir.any fun e => e.1 == line) = true := by
  refine Classical.byContradiction fun hany => ?_
  have hnone : (h.dir.find? fun e => e.1 == line) = none := List.find?_eq_none.mpr fun e he hline => hany (List.any_eq_true.mpr ⟨e, he, hline⟩)
  simp [Hub.entry, hnone, DirEntry.ownerOf, SMap.get?] at howner

/-- A line without an entry has no holder. -/
theorem Hub.entry_of_absent {h : Hub} {line : Nat} (habsent : ∀ e, e ∈ h.dir → e.1 ≠ line) : h.entry line = {} := by
  have hnone : (h.dir.find? fun e => e.1 == line) = none := List.find?_eq_none.mpr fun e he hline => habsent e he (beq_iff_eq.mp hline)
  simp [Hub.entry, hnone]

/-- An entry without holders takes no room. -/
theorem Hub.setEntry_blank_length (h : Hub) (line : Nat) : (h.setEntry line {}).dir.length ≤ h.dir.length := List.length_filter_le _ _

theorem DirEntry.ownerOf_own (e : DirEntry) (w : Nat) (n : Node) (v : Nat) : (e.own w n).ownerOf v = if v = w then some n else e.ownerOf v := by
  unfold DirEntry.own DirEntry.ownerOf
  by_cases h : v = w
  · subst h; simp [SMap.get?_put_self]
  · simp [SMap.get?_put_ne _ h, h]

theorem DirEntry.sharersOf_share {e : DirEntry} (h : e.sharers.sorted = true) (w : Nat) (ns : List Node) (v : Nat) :
    (e.share w ns).sharersOf v = if v = w then ns else e.sharersOf v := by
  unfold DirEntry.share DirEntry.sharersOf SMap.getD
  cases hns : ns.isEmpty with
  | true =>
    simp only [if_true, SMap.get?_del h]
    split
    · rw [List.isEmpty_iff.mp hns]; rfl
    · rfl
  | false =>
    simp only [Bool.false_eq_true, if_false]
    by_cases hv : v = w
    · subst hv; simp [SMap.get?_put_self]
    · simp [SMap.get?_put_ne _ hv, hv]

theorem DirEntry.share_sorted {e : DirEntry} (h : e.sharers.sorted = true) (w : Nat) (ns : List Node) : (e.share w ns).sharers.sorted = true := by
  unfold DirEntry.share
  dsimp only
  split
  · exact SMap.sorted_del h w
  · exact SMap.sorted_put h w ns

/-- The entry's words are listed in order. -/
structure DirEntry.Sorted (e : DirEntry) : Prop where
  owner : e.owner.sorted = true
  sharers : e.sharers.sorted = true

/-- A holder that is gone from a word neither owns nor shares it, and nothing else changes. -/
theorem DirEntry.forget_spec {e : DirEntry} (h : e.Sorted) (w : Nat) (n : Node) : (e.forget w n).Sorted ∧
    (∀ v, (e.forget w n).ownerOf v = if v = w ∧ e.ownerOf w = some n then none else e.ownerOf v) ∧
    ∀ v, (e.forget w n).sharersOf v = if v = w then (e.sharersOf w).filter fun x => x != n else e.sharersOf v := by
  unfold DirEntry.forget
  by_cases hown : e.ownerOf w = some n
  · rw [if_pos (beq_iff_eq.mpr hown)]
    refine ⟨⟨SMap.sorted_del h.owner w, DirEntry.share_sorted (e := e.disown w) h.sharers w _⟩, fun v => ?_, fun v => ?_⟩
    · simp only [hown, and_true]
      exact SMap.get?_del h.owner w v
    · exact DirEntry.sharersOf_share (e := e.disown w) h.sharers w _ v
  · rw [if_neg (fun hb => hown (beq_iff_eq.mp hb))]
    refine ⟨⟨h.owner, DirEntry.share_sorted h.sharers w _⟩, fun v => ?_, fun v => DirEntry.sharersOf_share h.sharers w _ v⟩
    simp only [hown, and_false, if_false]
    rfl

/-- A holder that is gone from several words. -/
theorem DirEntry.foldl_forget (n : Node) (ws : List Nat) : ∀ {e : DirEntry}, e.Sorted →
    let f := ws.foldl (fun e w => e.forget w n) e
    ∀ v, (v ∈ ws → f.ownerOf v ≠ some n ∧ n ∉ f.sharersOf v) ∧ (v ∉ ws → f.ownerOf v = e.ownerOf v ∧ f.sharersOf v = e.sharersOf v) ∧
      (e.ownerOf v ≠ some n ∧ n ∉ e.sharersOf v → f.ownerOf v ≠ some n ∧ n ∉ f.sharersOf v) := by
  induction ws with
  | nil => exact fun _ v => ⟨fun hv => absurd hv List.not_mem_nil, fun _ => ⟨rfl, rfl⟩, id⟩
  | cons w ws ih =>
    intro e h f v
    obtain ⟨hsorted, howner, hsharers⟩ := DirEntry.forget_spec h w n
    obtain ⟨-, hother, hgone⟩ := ih hsorted v
    have hkeep : e.ownerOf v ≠ some n ∧ n ∉ e.sharersOf v → (e.forget w n).ownerOf v ≠ some n ∧ n ∉ (e.forget w n).sharersOf v := fun hv => by
      rw [howner, hsharers]
      refine ⟨by split <;> simp [hv.1], ?_⟩
      split
      · simp
      · exact hv.2
    have hself : (e.forget w n).ownerOf w ≠ some n ∧ n ∉ (e.forget w n).sharersOf w := by
      rw [howner, hsharers]
      refine ⟨fun hown => ?_, by simp⟩
      split at hown
      · cases hown
      · next hne => exact hne ⟨rfl, hown⟩
    refine ⟨fun hv => ?_, fun hv => ?_, fun hv => hgone (hkeep hv)⟩
    · by_cases hvw : v = w
      · exact hgone (hvw ▸ hself)
      · exact (ih hsorted v).1 ((List.mem_cons.mp hv).resolve_left hvw)
    · obtain ⟨hvw, hvws⟩ := not_or.mp (mt List.mem_cons.mpr hv)
      obtain ⟨ho, hs⟩ := hother hvws
      exact ⟨ho.trans ((howner v).trans (if_neg fun h => hvw h.1)), hs.trans ((hsharers v).trans (if_neg hvw))⟩

end Sys2Proof.Machine
end

section
/-! Directories at rest: what registering holders leaves, and a message's arrival where nothing else is in flight (R365, R370). -/
namespace Sys2Proof.Machine
open Sys2Proof

/-! ### What a change of directory entries leaves -/

/-- The package without its compute dies and I/O dies. -/
def State.beyondDies (s : State) : State := { s with dies := [], ios := [] }

/-- A die's state, what its home directory has under way, and its RDC's directory. -/
def Die.desk (k : Die) : Nat × Hub × Hub := (k.state, { k.home with dir := [] }, k.rdcHub)

/-- `t` is `s` but for the entries of home directories and what the dies hold beside their directories. -/
structure DeskKept (s t : State) : Prop where
  beyond : t.beyondDies = s.beyondDies
  dies : t.dies.length = s.dies.length
  desk : ∀ i, (t.die i).desk = (s.die i).desk

section
variable {s t u : State}

theorem DeskKept.refl (s : State) : DeskKept s s := ⟨rfl, rfl, fun _ => rfl⟩

theorem DeskKept.trans (h : DeskKept s t) (h' : DeskKept t u) : DeskKept s u :=
  ⟨h'.beyond.trans h.beyond, h'.dies.trans h.dies, fun i => (h'.desk i).trans (h.desk i)⟩

/-- What each step of a fold keeps, the fold keeps. -/
theorem DeskKept.foldl {α : Type} {step : State → α → State} (h : ∀ s x, DeskKept s (step s x)) (xs : List α) : ∀ s, DeskKept s (xs.foldl step s) := by
  induction xs with
  | nil => exact DeskKept.refl
  | cons x xs ih => exact fun s => (h s x).trans (ih _)

theorem DeskKept.wires (h : DeskKept s t) : t.wires = s.wires := by have := congrArg State.wires h.beyond; exact this
theorem DeskKept.mem (h : DeskKept s t) : t.mem = s.mem := by have := congrArg State.mem h.beyond; exact this
theorem DeskKept.teams (h : DeskKept s t) : t.teams = s.teams := by have := congrArg State.teams h.beyond; exact this
theorem DeskKept.cores (h : DeskKept s t) : t.cores = s.cores := by have := congrArg State.cores h.beyond; exact this
theorem DeskKept.state (h : DeskKept s t) (i : Nat) : (t.die i).state = (s.die i).state := congrArg (·.1) (h.desk i)
theorem DeskKept.rdcHub (h : DeskKept s t) (i : Nat) : (t.die i).rdcHub = (s.die i).rdcHub := congrArg (·.2.2) (h.desk i)
theorem DeskKept.txns (h : DeskKept s t) (i : Nat) : (t.die i).home.txns = (s.die i).home.txns := congrArg (·.2.1.txns) (h.desk i)
theorem DeskKept.waitq (h : DeskKept s t) (i : Nat) : (t.die i).home.waitq = (s.die i).home.waitq := congrArg (·.2.1.waitq) (h.desk i)
theorem DeskKept.outq (h : DeskKept s t) (i : Nat) : (t.die i).home.outq = (s.die i).home.outq := congrArg (·.2.1.outq) (h.desk i)

theorem DeskKept.isDead (h : DeskKept s t) (n : Node) : t.isDead n = s.isDead n := by
  have hpkgs : t.lostPkgs = s.lostPkgs := by have := congrArg State.lostPkgs h.beyond; exact this
  unfold State.isDead
  simp only [hpkgs, h.state]

/-- A word that is no device register's reads as before at its home. -/
theorem DeskKept.homeWord (h : DeskKept s t) {w : Nat} (hdev : isDevice (4 * w) = false) : t.homeWord w = s.homeWord w := by
  have hpoison : t.poison = s.poison := by have := congrArg State.poison h.beyond; exact this
  have hdies : t.lostDies = s.lostDies := by have := congrArg State.lostDies h.beyond; exact this
  have hpkgs : t.lostPkgs = s.lostPkgs := by have := congrArg State.lostPkgs h.beyond; exact this
  unfold State.homeWord State.isPoisoned
  rw [if_neg (by simp [hdev]), if_neg (by simp [hdev]), h.mem, hpoison, hdies, hpkgs]

theorem DeskKept.mapDie (s : State) (d : Nat) {f : Die → Die} (hf : ∀ k, (f k).desk = k.desk) : DeskKept s (s.mapDie d f) :=
  ⟨rfl, s.mapDie_length d f, fun i => s.die_mapDie_keeps d i Die.desk hf⟩

theorem DeskKept.mapFilter (s : State) (d : Nat) (quarter : Bool) (f : List (Nat × FilterEntry) → List (Nat × FilterEntry)) :
    DeskKept s (s.mapFilter d quarter f) := by
  unfold State.mapFilter
  split
  · exact .refl s
  · exact .mapDie s d fun k => by split <;> rfl

theorem DeskKept.noteFilters (s : State) (line : Nat) : DeskKept s (s.noteFilters line) := by
  unfold State.noteFilters
  split
  · exact (DeskKept.mapFilter ..).trans (DeskKept.mapFilter ..)
  · exact .refl s

/-- A home that registers holders keeps what it has under way. -/
theorem DeskKept.mapEntry (s : State) (d line : Nat) (f : DirEntry → DirEntry) : DeskKept s (s.mapEntry (.home d) line f) :=
  (DeskKept.mapDie s d (f := fun x => { x with home := x.home.setEntry line (f (x.home.entry line)) }) fun _ => rfl).trans (DeskKept.noteFilters _ line)

/-- Filters are not in the homes' directories. -/
theorem State.noteFilters_home (s : State) (line i : Nat) : ((s.noteFilters line).die i).home = (s.die i).home := by
  have hfilter : ∀ (s : State) (d : Nat) (quarter : Bool) f, ((s.mapFilter d quarter f).die i).home = (s.die i).home := fun s d quarter f => by
    unfold State.mapFilter
    split
    · rfl
    · exact s.die_mapDie_keeps d i Die.home fun k => by split <;> rfl
  unfold State.noteFilters
  split
  · exact (hfilter ..).trans (hfilter ..)
  · rfl

/-- The home directory of a die after the entry of a line is changed. -/
theorem State.home_mapEntry {s : State} {d : Nat} (hd : d < s.dies.length) (line : Nat) (f : DirEntry → DirEntry) :
    ((s.mapEntry (.home d) line f).die d).home = (s.die d).home.setEntry line (f ((s.die d).home.entry line)) := by
  refine (State.noteFilters_home _ line d).trans ?_
  show ((s.mapDie d fun x => { x with home := x.home.setEntry line (f (x.home.entry line)) }).die d).home = _
  rw [State.die_mapDie, if_pos ⟨rfl, hd⟩]

theorem State.entry_mapEntry {s : State} {d : Nat} (hd : d < s.dies.length) (line : Nat) (f : DirEntry → DirEntry) :
    ((s.mapEntry (.home d) line f).die d).home.entry line = f ((s.die d).home.entry line) := by
  rw [State.home_mapEntry hd, Hub.entry_setEntry]

/-- What an entry becomes is all that counts. -/
theorem State.mapEntry_congr {s : State} {d line : Nat} {f g : DirEntry → DirEntry}
    (h : f ((s.die d).home.entry line) = g ((s.die d).home.entry line)) : s.mapEntry (.home d) line f = s.mapEntry (.home d) line g := by
  unfold State.mapEntry State.mapHub State.mapDie
  simp only [h]

/-- A word written at its home leaves the directories as they are. -/
theorem State.setHomeWord_desk (s : State) {w : Nat} (x : Word) (p : Bool) (hdev : isDevice (4 * w) = false) :
    (s.setHomeWord w x p).wires = s.wires ∧ (s.setHomeWord w x p).dies.length = s.dies.length ∧
      ∀ i, ((s.setHomeWord w x p).die i).state = (s.die i).state ∧ ((s.setHomeWord w x p).die i).home = (s.die i).home := by
  unfold State.setHomeWord
  rw [if_neg (by simp [hdev])]
  split
  · exact ⟨rfl, rfl, fun _ => ⟨rfl, rfl⟩⟩
  · have hmark : ∀ u : State, (u.markPoison w p).dies = u.dies ∧ (u.markPoison w p).wires = u.wires := fun u => by
      unfold State.markPoison
      dsimp only
      repeat' split
      all_goals exact ⟨rfl, rfl⟩
    have hhold : ∀ u : State, (u.holdHost w).dies = u.dies ∧ (u.holdHost w).wires = u.wires := fun u => by
      unfold State.holdHost
      split <;> exact ⟨rfl, rfl⟩
    have hbefore : ∀ u : State, (((u.markPoison w p).shoot [w]).holdHost w).dies = u.dies ∧ (((u.markPoison w p).shoot [w]).holdHost w).wires = u.wires :=
      fun u => ⟨(hhold _).1.trans (hmark u).1, (hhold _).2.trans (hmark u).2⟩
    obtain ⟨hdies, hwires⟩ := hbefore { s with mem := s.mem.setWord (4 * w) x }
    generalize (((({ s with mem := s.mem.setWord (4 * w) x } : State).markPoison w p).shoot [w]).holdHost w) = u at hdies hwires
    have hdie : ∀ i, u.die i = s.die i := fun i => by unfold State.die; rw [hdies]
    unfold State.useL2
    split
    · exact ⟨hwires, (u.mapDie_length _ _).trans (congrArg List.length hdies), fun i => by
        rw [← hdie i]
        exact ⟨u.die_mapDie_keeps _ i Die.state fun _ => rfl, u.die_mapDie_keeps _ i Die.home fun _ => rfl⟩⟩
    · exact ⟨hwires, congrArg List.length hdies, fun i => by rw [hdie i]; exact ⟨rfl, rfl⟩⟩

end

/-! ### Messages that are sent and arrive alone -/

/-- Nothing waits at a directory, neither to be served nor to be sent, and it is no I/O die. -/
structure Silent (s : State) (n : Node) : Prop where
  waitq : (s.hub n).waitq = []
  outq : (s.hub n).outq = []
  near : ∀ i, n ≠ .ioHome i

/-- Nothing is in flight, no die is dead, and nothing waits at the home `d`. -/
structure Still (s : State) (d : Nat) : Prop where
  wires : s.wires = []
  live : ∀ i, (s.die i).state ≠ 3
  die : d < s.dies.length
  silent : Silent s (.home d)

section
variable {s t : State} {d : Nat}

theorem DeskKept.silent (h : DeskKept s t) {n : Node} (hs : Silent s n) : Silent t n := by
  obtain ⟨hwaitq, houtq, hnear⟩ := hs
  cases n with
  | home i => exact ⟨(h.waitq i).trans hwaitq, (h.outq i).trans houtq, hnear⟩
  | rdc i => exact ⟨(congrArg Hub.waitq (h.rdcHub i)).trans hwaitq, (congrArg Hub.outq (h.rdcHub i)).trans houtq, hnear⟩
  | ioHome i => exact absurd rfl (hnear i)
  | l1 _ | mirror _ | pkg _ | core _ | app _ => exact ⟨rfl, rfl, nofun⟩

theorem DeskKept.still (h : DeskKept s t) (hs : Still s d) : Still t d :=
  ⟨h.wires.trans hs.wires, fun i => h.state i ▸ hs.live i, h.dies ▸ hs.die, h.silent hs.silent⟩

/-- A directory at which nothing waits has nothing to start. -/
theorem Silent.pump {n : Node} (h : Silent s n) (line : Nat) : s.pump n line = s := by
  have hflush : s.flushOut n line = s := by unfold State.flushOut; rw [h.outq]; rfl
  have hpump : s.pumpFor n line ((s.hub n).waitq.length + 1) = s := by
    rw [h.waitq]
    show State.pumpFor s n line 1 = s
    unfold State.pumpFor
    rw [h.waitq]
    rfl
  unfold State.pump
  rw [hflush]
  dsimp only
  rw [hpump]
  cases n with
  | ioHome i => exact absurd rfl (h.near i)
  | home _ | rdc _ | l1 _ | mirror _ | pkg _ | core _ | app _ => rfl

theorem isDead_of_live (hlive : ∀ i, (s.die i).state ≠ 3) {n : Node} (hn : ∀ p, n ≠ .pkg p) : s.isDead n = false := by
  cases n with
  | pkg p => exact absurd rfl (hn p)
  | ioHome _ | app _ => rfl
  | home i | rdc i | mirror i => simpa [State.isDead, nodeDie] using hlive i
  | l1 c | core c => simpa [State.isDead, nodeDie] using hlive (dieOf c)

/-- A message to a unit of the package goes on its way. -/
theorem State.send_near (hlive : ∀ i, (s.die i).state ≠ 3) (k : MsgKind) {m : Msg} (hdst : ∀ p, m.dst ≠ .pkg p) :
    s.send k m = { s with wires := s.wires ++ [Wire.mk k m] } := by
  unfold State.send
  rw [if_neg (by rw [isDead_of_live hlive hdst]; decide)]
  split
  · next p hp => exact absurd hp (hdst p)
  · rfl

theorem Still.send (h : Still s d) (k : MsgKind) {m : Msg} (hdst : ∀ p, m.dst ≠ .pkg p) : s.send k m = { s with wires := [Wire.mk k m] } := by
  rw [State.send_near h.live k hdst, h.wires]
  rfl

/-- A home sends a message to a unit that has none of its on the way. -/
theorem Still.sendUnit (h : Still s d) (k : MsgKind) {m : Msg} (hsrc : m.src = .home d) (hdst : ∀ p, m.dst ≠ .pkg p) :
    s.sendUnit k m = { s with wires := [Wire.mk k m] } := by
  unfold State.sendUnit
  rw [h.wires, hsrc, h.silent.outq]
  exact h.send k hdst

theorem Alone.die_live {k : MsgKind} {m : Msg} (h : Alone s k m d) (i : Nat) : (s.die i).state ≠ 3 := by
  unfold State.die
  rw [List.getD_eq_getElem?_getD]
  cases hi : s.dies[i]? with
  | none => decide
  | some x => exact h.live x (List.mem_of_getElem? hi)

end

end Sys2Proof.Machine
end

section
/-! O54: requests, answers, write-backs and evictions at the home of their line (R214, R366, R370 to R372). -/
namespace Sys2Proof.Machine
open Sys2Proof

/-! ### A message arrives -/

/-- The state once the one message in flight has been taken off the wires. -/
def State.unwired (s : State) : State := { s with wires := [] }

section Arrival
variable {s : State} {k : MsgKind} {m : Msg} {d : Nat}

/-- The one message in flight arrives. -/
theorem Alone.arrives (h : Alone s k m d) (hsrc : ∀ p, m.src ≠ .pkg p) (hdst : m.dst = .home d) (f : Msg → State → State) :
    onMessage k f m s = .next ((f m s.unwired).pump m.src m.line) := by
  have htake : s.takeWire { kind := k, msg := m } = some s.unwired := by
    have hroute : (!s.isDead m.src && (s.routeOf m).isNone) = false := by
      rw [Option.isNone_eq_false_iff.mpr h.route, Bool.and_false]
    unfold State.takeWire
    rw [if_neg (by simp [hroute])]
    split
    · next p hp => exact absurd hp (hsrc p)
    · simp [h.wire, sameRoute, State.unwired]
  unfold onMessage
  rw [hdst]
  simp only [htake]

theorem Alone.still (h : Alone s k m d) (hwaitq : (s.die d).home.waitq = []) : Still s.unwired d where
  wires := rfl
  live := h.die_live
  die := h.dies ▸ h.die
  silent := ⟨hwaitq, (h.sent _ (by
    rw [State.die, List.getD_eq_getElem _ _ (h.dies ▸ h.die)]
    exact List.getElem_mem _)).1, nofun⟩

/-- Units that hold no directory are silent. -/
theorem silent_unit (s : State) {n : Node} (hn : (∃ c, n = .l1 c) ∨ (∃ c, n = .core c) ∨ ∃ i, n = .app i) : Silent s n := by
  rcases hn with ⟨c, rfl⟩ | ⟨c, rfl⟩ | ⟨i, rfl⟩ <;> exact ⟨rfl, rfl, nofun⟩

theorem Alone.silent_rdc (h : Alone s k m d) {c : Nat} (hwaitq : (s.die c).rdcHub.waitq = []) : Silent s.unwired (.rdc c) := by
  refine ⟨hwaitq, ?_, nofun⟩
  show (s.die c).rdcHub.outq = []
  unfold State.die
  rw [List.getD_eq_getElem?_getD]
  cases hc : s.dies[c]? with
  | none => rfl
  | some x => exact (h.sent x (List.mem_of_getElem? hc)).2

end Arrival

/-! ### A request that may start at once -/

section Starts
variable {s : State} {d : Nat}

/-- A home with one request that waits. -/
def State.queued (s : State) (d : Nat) (w : Wire) : State := s.mapHub (.home d) fun h => { h with waitq := h.waitq ++ [w] }

/-- A request taken from the queue again leaves the home as it was. -/
theorem State.unqueue (hs : Still s d) (w : Wire) : ((s.queued d w).mapHub (.home d) fun h => { h with waitq := [] }) = s := by
  have hdie : s.die d = s.dies[d]'hs.die := by rw [State.die, List.getD_eq_getElem _ _ hs.die]
  have hhome : ({ (s.die d).home with waitq := [] } : Hub) = (s.die d).home := by
    have hwaitq : (s.die d).home.waitq = [] := hs.silent.waitq
    rw [← hwaitq]
  have hqueued : (s.queued d w).die d = { s.die d with home := { (s.die d).home with waitq := (s.die d).home.waitq ++ [w] } } := by
    show (s.mapDie d fun x => { x with home := { x.home with waitq := x.home.waitq ++ [w] } }).die d = _
    rw [State.die_mapDie, if_pos ⟨rfl, hs.die⟩]
  calc (s.queued d w).mapHub (.home d) (fun h => { h with waitq := [] })
      = (s.queued d w).setDie d { (s.queued d w).die d with home := { ((s.queued d w).die d).home with waitq := [] } } := rfl
    _ = (s.queued d w).setDie d { s.die d with home := { (s.die d).home with waitq := [] } } := by rw [hqueued]
    _ = (s.queued d w).setDie d (s.die d) := by rw [hhome]
    _ = s := by
      unfold State.queued State.mapHub State.mapDie State.setDie
      simp only [List.set_set, hdie, List.set_getElem_self]

theorem State.queued_waitq (hs : Still s d) (w : Wire) : ((s.queued d w).hub (.home d)).waitq = [w] := by
  have hwaitq : (s.die d).home.waitq = [] := hs.silent.waitq
  show ((s.mapDie d fun x => { x with home := { x.home with waitq := x.home.waitq ++ [w] } }).die d).home.waitq = [w]
  rw [State.die_mapDie, if_pos ⟨rfl, hs.die⟩, hwaitq]
  rfl

/-- A request that may start at a silent home is served in the step of its arrival, where that leaves room at the home. -/
theorem Still.arrive (hs : Still s d) {w : Wire} (hstart : (s.queued d w).mayStart (.home d) w [] = true)
    (hsilent : Silent (s.beginTxn (.home d) w) (.home d)) (hroom : (s.beginTxn (.home d) w).hubRoom (.home d) w.msg.line = true) :
    s.arrive (.home d) w = s.beginTxn (.home d) w := by
  have hfirst : (s.queued d w).firstStart (.home d) w.msg.line [] [w] = some (w, []) := by
    simp [State.firstStart, Wire.on, hstart]
  have hflush : (s.queued d w).flushOut (.home d) w.msg.line = s.queued d w := by
    have houtq : (s.die d).home.outq = [] := hs.silent.outq
    have hqueued : ((s.queued d w).hub (.home d)).outq = [] := by
      show ((s.mapDie d fun x => { x with home := { x.home with waitq := x.home.waitq ++ [w] } }).die d).home.outq = []
      rw [State.die_mapDie, if_pos ⟨rfl, hs.die⟩, houtq]
    unfold State.flushOut
    rw [hqueued]
    rfl
  have hpump : (s.queued d w).pump (.home d) w.msg.line = s.beginTxn (.home d) w := by
    unfold State.pump
    rw [hflush]
    dsimp only
    rw [State.queued_waitq hs]
    show State.pumpFor _ _ _ 2 = _
    unfold State.pumpFor
    rw [State.queued_waitq hs, hfirst]
    dsimp only
    rw [State.unqueue hs]
    unfold State.pumpFor
    rw [hsilent.waitq]
    rfl
  have hrecall : (s.beginTxn (.home d) w).recallLine (.home d) w.msg.line = none := by
    unfold State.recallLine
    rw [if_pos hroom]
  have hpumped : (s.mapHub (.home d) fun h => { h with waitq := h.waitq ++ [w] }).pump (.home d) w.msg.line = s.beginTxn (.home d) w := hpump
  unfold State.arrive
  dsimp only
  rw [hpumped, hrecall]
  dsimp only
  rw [hsilent.waitq]
  rfl

/-- At a home with nothing in progress a request may start, where it has room for its entries. -/
theorem Still.mayStart (hs : Still s d) (hfree : HomeFree s d) {w : Wire} (hfilter : s.filterRoom (.home d) w.msg = true) :
    (s.queued d w).mayStart (.home d) w [] = true := by
  have hkeeps : ∀ {β : Type} (g : Die → β) (i : Nat), (∀ k h, g { k with home := h } = g k) → g ((s.queued d w).die i) = g (s.die i) :=
    fun g i hg => s.die_mapDie_keeps d i g fun k => hg k _
  have hhub : (s.queued d w).hub (.home d) = { (s.die d).home with waitq := (s.die d).home.waitq ++ [w] } := by
    show ((s.mapDie d fun x => { x with home := { x.home with waitq := x.home.waitq ++ [w] } }).die d).home = _
    rw [State.die_mapDie, if_pos ⟨rfl, hs.die⟩]
  have hfilters : (s.queued d w).filterRoom (.home d) w.msg = true := by
    rw [← hfilter]
    unfold State.filterRoom State.filterFor
    simp only [hkeeps Die.quarterFilter _ fun _ _ => rfl, hkeeps Die.deviceFilter _ fun _ _ => rfl]
    rfl
  have hslices : (s.queued d w).sliceReady (.home d) w.msg = true := by
    have hlive : ((s.queued d w).dies.all fun x => x.state != 3) = true := List.all_eq_true.mpr fun x hx => by
      obtain ⟨i, hi, rfl⟩ := List.mem_iff_getElem.mp hx
      have hstate := hkeeps Die.state i fun _ _ => rfl
      rw [State.die, List.getD_eq_getElem _ _ hi] at hstate
      exact bne_iff_ne.mpr (hstate ▸ hs.live i)
    unfold State.sliceReady
    rw [if_pos hlive]
  have hroom : (s.queued d w).hubRoom (.home d) w.msg.line = true := by
    unfold State.hubRoom
    rw [hhub]
    exact Bool.or_eq_true_iff.mpr (Or.inr (decide_eq_true hfree.room))
  unfold State.mayStart
  dsimp only
  rw [hhub, hfilters, hslices, hroom]
  simp [hfree.txns, State.victimRoom]

/-- A home that has served a request: nothing else waits there, and there is room for its entries. -/
structure Served (t : State) (d line : Nat) (src : Node) : Prop where
  home : Silent t (.home d)
  src : Silent t src
  room : t.hubRoom (.home d) line = true

/-- The one message in flight is a request that a free home serves in the step of its arrival. -/
theorem Alone.request_served {k : MsgKind} {m : Msg} (h : Alone s k m d) (hfree : HomeFree s d) (hsrc : ∀ p, m.src ≠ .pkg p) (hdst : m.dst = .home d)
    (hfilter : s.filterRoom (.home d) m = true) (hserved : Served (s.unwired.beginTxn (.home d) (Wire.mk k m)) d m.line m.src) :
    onMessage k (requestArrives k) m s = .next (s.unwired.beginTxn (.home d) (Wire.mk k m)) := by
  have hstill := h.still hfree.waitq
  have harrive : requestArrives k m s.unwired = s.unwired.beginTxn (.home d) (Wire.mk k m) := by
    unfold requestArrives
    rw [hdst]
    exact hstill.arrive (hstill.mayStart ⟨hfree.txns, hfree.waitq, hfree.room⟩ hfilter) hserved.home hserved.room
  rw [h.arrives hsrc hdst, harrive, hserved.src.pump]

/-- A request of words that no one holds is finished where it begins. -/
theorem State.beginTxn_finish {w : Wire} {r : Req} (hr : reqOf (.home d) w = r) (hwb : r ≠ .wb) (hentry : (s.die d).home.entry w.msg.line = {}) :
    s.beginTxn (.home d) w = s.finish (.home d) { req := r, msg := w.msg } := by
  have hup : s.needUp (.home d) r w.msg = 0 := ite_self _
  have hsnoops : s.snoopsFor (.home d) r w.msg = [] := by
    have hhub : (s.hub (.home d)).entry w.msg.line = {} := hentry
    unfold State.snoopsFor
    dsimp only
    rw [hhub]
    simp [DirEntry.nodes, externalNodes]
  have hstage : s.stage2 (.home d) { req := r, msg := w.msg } = s.finish (.home d) { req := r, msg := w.msg } := by
    unfold State.stage2
    rw [hsnoops]
    rfl
  unfold State.beginTxn
  rw [hr]
  cases r
  case wb => exact absurd rfl hwb
  all_goals simp only [hup, beq_self_eq_true, if_true, hstage]

end Starts

end Sys2Proof.Machine
end

section
/-! O54: what a home grants, performs, writes and registers for the messages it takes (R214, R366, R370 to R372). -/
namespace Sys2Proof.Machine
open Sys2Proof

/-! ### Grants -/

/-- The words of a grant, given one after another by `f`. -/
def State.gives (f : State → Nat → State × Give) (ws : List Nat) (a : State × List Give) : State × List Give :=
  ws.foldl (fun a w => ((f a.1 w).1, a.2 ++ [(f a.1 w).2])) a

/-- The grant of a finished transaction, from the words it gives. -/
def Txn.grant (n : Node) (t : Txn) (gs : List Give) : Msg :=
  { src := n, dst := t.msg.src, line := t.msg.line, mask := t.msg.mask, tag := t.msg.tag, asked := t.sent,
    excl := maskOfWords ((gs.filter (·.excl)).map (·.w)), dirty := maskOfWords ((gs.filter (·.dirty)).map (·.w)),
    poison := maskOfWords ((gs.filter (·.poison)).map (·.w)), data := (gs.filter fun g => !t.sent.getLsbD g.w).map fun g => (g.w, g.val) }

/-- How a transaction that ends in a grant gives each of its words. -/
def State.finishWord (n : Node) (t : Txn) (s : State) (w : Nat) : State × Give :=
  if t.req = .rds then s.finishRead n t w else s.finishOwn n t w

/-- A read, or a request to own words, ends in a grant. -/
theorem State.finish_grant (s : State) (n : Node) {t : Txn} (hreq : t.req ∈ [Req.rds, .rdOwn, .ownNd, .upg]) :
    let r := State.gives (State.finishWord n t) (wordsOf t.msg.mask) (s, [])
    s.finish n t = r.1.sendUnit .gnt (t.grant n r.2) := by
  simp only [List.mem_cons, List.not_mem_nil, or_false] at hreq
  unfold State.finish
  rcases hreq with hreq | hreq | hreq | hreq
  · rw [show State.finishWord n t = fun s w => s.finishRead n t w from funext fun _ => funext fun _ => by simp [State.finishWord, hreq]]
    simp only [hreq]
    rfl
  all_goals
    rw [show State.finishWord n t = fun s w => s.finishOwn n t w from funext fun _ => funext fun _ => by simp [State.finishWord, hreq]]
    simp only [hreq]
    rfl

section Unheld
variable {s : State} {d line : Nat} {src : Node}

/-- What a home gives of a word that no one holds: exclusively, with its own value. -/
def State.giveOwn (s : State) (line w : Nat) : Give :=
  { w := w, excl := true, val := (s.homeWord (line * 32 + w)).1, dirty := false, poison := (s.homeWord (line * 32 + w)).2 }

/-- The home registers a requester as the owner of words. -/
def State.ownAll (d line : Nat) (src : Node) (ws : List Nat) (s : State) : State :=
  ws.foldl (fun s w => s.mapEntry (.home d) line fun e => e.own w src) s

theorem State.ownAll_desk (s : State) (d line : Nat) (src : Node) (ws : List Nat) : DeskKept s (s.ownAll d line src ws) :=
  DeskKept.foldl (fun s _ => DeskKept.mapEntry s d line _) ws s

/-- Who owns the words of the line then. -/
theorem State.ownAll_ownerOf (ws : List Nat) : ∀ {s : State}, d < s.dies.length → ∀ v,
    (((s.ownAll d line src ws).die d).home.entry line).ownerOf v = if v ∈ ws then some src else ((s.die d).home.entry line).ownerOf v := by
  induction ws with
  | nil => exact fun _ v => (if_neg List.not_mem_nil).symm
  | cons w ws ih =>
    intro s hd v
    have hstep := ih (s := s.mapEntry (.home d) line fun e => e.own w src) ((DeskKept.mapEntry s d line _).dies.symm ▸ hd) v
    refine hstep.trans ?_
    rw [State.entry_mapEntry hd, DirEntry.ownerOf_own]
    by_cases hv : v = w
    · simp [hv]
    · simp [hv]

/-- A word that an entry does not name has no holder. -/
def DirEntry.Unheld (e : DirEntry) (w : Nat) : Prop := SMap.get? e.owner w = none ∧ SMap.get? e.sharers w = none

theorem DirEntry.Unheld.disown {e : DirEntry} {w : Nat} (h : e.Unheld w) : e.disown w = e := by
  unfold DirEntry.disown
  rw [SMap.del_of_absent h.1]

theorem DirEntry.Unheld.clear {e : DirEntry} {w : Nat} (h : e.Unheld w) : e.clear w = e := by
  unfold DirEntry.clear DirEntry.share
  rw [h.disown]
  simp [SMap.del_of_absent h.2]

/-- A transaction that has gathered nothing has its home's own value of a word. -/
theorem State.txnWord_fresh (s : State) (d : Nat) {t : Txn} {w : Nat} (hgot : t.got = []) (hsent : t.sent.getLsbD w = false) :
    s.txnWord (.home d) t w = ((s.homeWord (t.msg.line * 32 + w)).1, false, (s.homeWord (t.msg.line * 32 + w)).2) := by
  simp [State.txnWord, hgot, hsent, SMap.get?, State.baseWord]

/-- A word that no one holds is given exclusively, and the requester is registered as its owner (R370). -/
theorem State.finishWord_unheld {r : Req} {m : Msg} {w : Nat} (hun : ((s.die d).home.entry m.line).Unheld w) :
    State.finishWord (.home d) { req := r, msg := m } s w = (s.mapEntry (.home d) m.line fun e => e.own w m.src, s.giveOwn m.line w) := by
  have howner : ((s.hub (.home d)).entry m.line).ownerOf w = none := hun.1
  have hsharers : ((s.hub (.home d)).entry m.line).sharersOf w = [] := by
    show SMap.getD ((s.die d).home.entry m.line).sharers w [] = []
    rw [SMap.getD, hun.2]
    rfl
  have hword : s.txnWord (.home d) { req := r, msg := m } w = ((s.homeWord (m.line * 32 + w)).1, false, (s.homeWord (m.line * 32 + w)).2) :=
    State.txnWord_fresh s d rfl BitVec.getLsbD_zero
  have hdisown : s.mapEntry (.home d) m.line (fun e => (e.disown w).own w m.src) = s.mapEntry (.home d) m.line fun e => e.own w m.src :=
    State.mapEntry_congr (by rw [hun.disown])
  have hclear : s.mapEntry (.home d) m.line (fun e => (e.clear w).own w m.src) = s.mapEntry (.home d) m.line fun e => e.own w m.src :=
    State.mapEntry_congr (by rw [hun.clear])
  have hmay : (([] : List Node).isEmpty && s.canOwn (.home d) m.line w) = true := rfl
  unfold State.finishWord
  split
  · unfold State.finishRead
    simp only [hword, howner, hsharers, hmay, if_true, hdisown, State.giveOwn]
  · unfold State.finishOwn
    simp only [hword, Bool.and_false, Bool.false_and, Bool.false_eq_true, if_false, hclear, State.giveOwn]

/-- Words that no one holds are all given (R370). -/
theorem State.gives_unheld {r : Req} {m : Msg} (hdev : isDevice (m.line * 128) = false) (ws : List Nat) :
    ∀ {s : State} {gs : List Give}, d < s.dies.length → ws.Nodup → (∀ w, w ∈ ws → w < 32 ∧ ((s.die d).home.entry m.line).Unheld w) →
      State.gives (State.finishWord (.home d) { req := r, msg := m }) ws (s, gs) = (s.ownAll d m.line m.src ws, gs ++ ws.map (s.giveOwn m.line)) := by
  induction ws with
  | nil => exact fun _ _ _ => by simp [State.gives, State.ownAll]
  | cons w ws ih =>
    intro s gs hd hnodup hun
    obtain ⟨hnew, hrest⟩ := List.nodup_cons.mp hnodup
    have hdesk := DeskKept.mapEntry s d m.line fun e => e.own w m.src
    have hgive : ws.map ((s.mapEntry (.home d) m.line fun e => e.own w m.src).giveOwn m.line) = ws.map (s.giveOwn m.line) :=
      List.map_congr_left fun v hv => by
        have hword := hdesk.homeWord (homeOf_word (hun v (List.mem_cons_of_mem _ hv)).1 hdev).2
        unfold State.giveOwn
        rw [hword]
    have hstep := ih (s := s.mapEntry (.home d) m.line fun e => e.own w m.src) (gs := gs ++ [s.giveOwn m.line w]) (hdesk.dies.symm ▸ hd) hrest fun v hv => by
      obtain ⟨hlt, howner, hsharers⟩ := hun v (List.mem_cons_of_mem _ hv)
      have hne : v ≠ w := fun e => hnew (e ▸ hv)
      rw [State.entry_mapEntry hd]
      exact ⟨hlt, (SMap.get?_put_ne _ hne _).trans howner, hsharers⟩
    have hfirst := State.finishWord_unheld (r := r) (hun w List.mem_cons_self).2
    refine (congrArg (fun p : State × Give => State.gives (State.finishWord (.home d) { req := r, msg := m }) ws (p.1, gs ++ [p.2])) hfirst).trans ?_
    rw [hstep, hgive, List.append_assoc]
    rfl

end Unheld

/-- The grant of words that a home gives exclusively. -/
theorem Txn.grant_giveOwn (s : State) (n : Node) (r : Req) (m : Msg) : ({ req := r, msg := m } : Txn).grant n ((wordsOf m.mask).map (s.giveOwn m.line)) =
    { src := n, dst := m.src, line := m.line, mask := m.mask, tag := m.tag, excl := m.mask,
      poison := maskOfWords ((wordsOf m.mask).filter fun w => (s.homeWord (m.line * 32 + w)).2),
      data := (wordsOf m.mask).map fun w => (w, (s.homeWord (m.line * 32 + w)).1) } := by
  simp [Txn.grant, List.filter_map, Function.comp_def, State.giveOwn, maskOfWords_wordsOf]
  rfl

/-! ### What the home's services leave -/

section Services
variable {s : State} {k : MsgKind} {m : Msg} {d : Nat}

theorem Silent.wired {n : Node} (h : Silent s n) (ws : List Wire) : Silent { s with wires := ws } n := by
  obtain ⟨hwaitq, houtq, hnear⟩ := h
  cases n <;> exact ⟨hwaitq, houtq, hnear⟩

/-- There is room at a home that registers an owner of the line's words. -/
theorem State.hubRoom_of_ownerOf {line w : Nat} {n : Node} (howner : ((s.die d).home.entry line).ownerOf w = some n) :
    s.hubRoom (.home d) line = true :=
  Bool.or_eq_true_iff.mpr (Or.inl (Hub.any_of_ownerOf howner))

/-- So there is at one with room for another entry. -/
theorem State.hubRoom_of_length {line : Nat} (h : (s.die d).home.dir.length < Config.dirEntries) : s.hubRoom (.home d) line = true :=
  Bool.or_eq_true_iff.mpr (Or.inr (decide_eq_true h))

/-- A request of words that no one holds is granted, and registers their owner (R366, R370). -/
theorem Alone.request_granted (h : Alone s k m d) (hfree : HomeFree s d) (hkind : k ∈ [MsgKind.rds, .rdOwn, .ownNd, .upg]) (hdst : m.dst = .home d)
    (hsrc : ∀ p, m.src ≠ .pkg p) (hsilent : Silent s.unwired m.src) (hfilter : s.filterRoom (.home d) m = true) (hhome : homeOf (m.line * 128) = .home d)
    (habsent : ∀ e, e ∈ (s.die d).home.dir → e.1 ≠ m.line) :
    let t := s.unwired.ownAll d m.line m.src (wordsOf m.mask)
    onMessage k (requestArrives k) m s = .next { t with wires := [Wire.mk .gnt {
      src := .home d, dst := m.src, line := m.line, mask := m.mask, tag := m.tag, excl := m.mask,
      poison := maskOfWords ((wordsOf m.mask).filter fun w => (s.homeWord (m.line * 32 + w)).2),
      data := (wordsOf m.mask).map fun w => (w, (s.homeWord (m.line * 32 + w)).1) }] } := by
  intro t
  have hstill := h.still hfree.waitq
  have hdesk : DeskKept s.unwired t := State.ownAll_desk s.unwired d m.line m.src _
  have hentry : (s.unwired.die d).home.entry m.line = {} := Hub.entry_of_absent habsent
  obtain ⟨r, hr, hreq⟩ : ∃ r, reqOf (.home d) (Wire.mk k m) = r ∧ r ∈ [Req.rds, .rdOwn, .ownNd, .upg] := by
    simp only [List.mem_cons, List.not_mem_nil, or_false] at hkind
    rcases hkind with rfl | rfl | rfl | rfl <;> exact ⟨_, rfl, by simp [reqOf]⟩
  have hgives := State.gives_unheld (r := r) (gs := []) (isDevice_of_home hhome) (wordsOf m.mask) hstill.die (wordsOf_nodup m.mask) fun w hw =>
    ⟨(mem_wordsOf.mp hw).1, by rw [hentry]; exact ⟨rfl, rfl⟩⟩
  have hrun : s.unwired.beginTxn (.home d) (Wire.mk k m) = { t with wires := [Wire.mk .gnt (({ req := r, msg := m } : Txn).grant (.home d)
      ((wordsOf m.mask).map (s.unwired.giveOwn m.line)))] } := by
    rw [State.beginTxn_finish hr (by rintro rfl; simp at hreq) hentry, State.finish_grant _ _ hreq]
    dsimp only
    rw [hgives, List.nil_append]
    exact (hdesk.still hstill).sendUnit .gnt rfl hsrc
  have hroom : t.hubRoom (.home d) m.line = true := by
    have howners := State.ownAll_ownerOf (line := m.line) (src := m.src) (wordsOf m.mask) hstill.die
    cases hws : wordsOf m.mask with
    | nil =>
      have ht : t = s.unwired := by show State.ownAll _ _ _ (wordsOf m.mask) _ = _; rw [hws]; rfl
      rw [ht]
      exact State.hubRoom_of_length hfree.room
    | cons w ws => exact State.hubRoom_of_ownerOf ((howners w).trans (if_pos (hws ▸ List.mem_cons_self)))
  rw [h.request_served hfree hsrc hdst hfilter (hrun ▸ ⟨(hdesk.silent hstill.silent).wired _, (hdesk.silent hsilent).wired _, hroom⟩), hrun,
    Txn.grant_giveOwn]
  rfl

/-- Only requests of other dies' RDCs need room in a filter (R366). -/
theorem State.filterRoom_unit (s : State) (hsrc : ∀ x, m.src ≠ .rdc x) : s.filterRoom (.home d) m = true := by
  unfold State.filterRoom State.filterFor
  cases hm : m.src
  case rdc x => exact absurd hm (hsrc x)
  all_goals rfl

/-- A word written at its home leaves what is still. -/
theorem Still.setHomeWord (hs : Still s d) {w : Nat} (x : Word) (p : Bool) (hdev : isDevice (4 * w) = false) : Still (s.setHomeWord w x p) d := by
  obtain ⟨hwires, hdies, hdie⟩ := s.setHomeWord_desk x p hdev
  refine ⟨hwires.trans hs.wires, fun i => (hdie i).1 ▸ hs.live i, hdies ▸ hs.die, ⟨?_, ?_, nofun⟩⟩
  · exact (congrArg Hub.waitq (hdie d).2).trans hs.silent.waitq
  · exact (congrArg Hub.outq (hdie d).2).trans hs.silent.outq

/-- The state in which an atomic of one word has been performed at its home. -/
def State.atomDone (s : State) (d w : Nat) (m : Msg) : State :=
  (s.mapEntry (.home d) m.line fun e => e.clear w).setHomeWord (m.line * 32 + w)
    (atomAll m.op (s.homeWord (m.line * 32 + w)).1 (atomOperands m.op m.args)).1 false

/-- An atomic request is performed on the home's word, and its `Cmp` brings the old values (R214, R370). -/
theorem Alone.atomic_performed (h : Alone s .atomReq m d) (hfree : HomeFree s d) {c w : Nat} (hdst : m.dst = .home d) (hsrc : m.src = .core c)
    (habsent : ∀ e, e ∈ (s.die d).home.dir → e.1 ≠ m.line) (hw : w < 32) (hmask : m.mask = bitOf w) (hdev : isDevice (4 * (m.line * 32 + w)) = false)
    (hsound : s.isPoisoned (m.line * 32 + w) = false) :
    onMessage .atomReq (requestArrives .atomReq) m s = .next { s.unwired.atomDone d w m with wires := [Wire.mk .cmp {
      src := .home d, dst := .core c, line := m.line, mask := m.mask, tag := m.tag,
      args := (atomAll m.op (s.homeWord (m.line * 32 + w)).1 (atomOperands m.op m.args)).2 }] } := by
  have hstill := h.still hfree.waitq
  have hentry : (s.unwired.die d).home.entry m.line = {} := Hub.entry_of_absent habsent
  have hdesk := DeskKept.mapEntry s.unwired d m.line fun e => e.clear w
  have hdone : Still (s.unwired.atomDone d w m) d := (hdesk.still hstill).setHomeWord _ false hdev
  have hword : s.unwired.txnWord (.home d) { req := .atomReq, msg := m } w = ((s.homeWord (m.line * 32 + w)).1, false, false) := by
    have hpoison : (s.unwired.homeWord (m.line * 32 + w)).2 = false := (congrArg Prod.snd (if_neg (by simp [hdev]))).trans hsound
    exact (State.txnWord_fresh _ d rfl BitVec.getLsbD_zero).trans (congrArg (fun p => ((s.homeWord (m.line * 32 + w)).1, false, p)) hpoison)
  have hrun : s.unwired.beginTxn (.home d) (Wire.mk .atomReq m) = { s.unwired.atomDone d w m with wires := [Wire.mk .cmp {
      src := .home d, dst := .core c, line := m.line, mask := m.mask, tag := m.tag,
      args := (atomAll m.op (s.homeWord (m.line * 32 + w)).1 (atomOperands m.op m.args)).2 }] } := by
    rw [State.beginTxn_finish (r := .atomReq) rfl (by decide) hentry]
    show s.unwired.finishAtom (.home d) { req := .atomReq, msg := m } = _
    unfold State.finishAtom
    dsimp only
    rw [hmask, wordsOf_bitOf w hw]
    simp only [hword, Bool.false_and, Bool.false_eq_true, if_false, hsrc]
    exact hdone.sendUnit .cmp rfl nofun
  have hroom : (s.unwired.atomDone d w m).hubRoom (.home d) m.line = true := by
    obtain ⟨-, -, hdie⟩ := (s.unwired.mapEntry (.home d) m.line fun e => e.clear w).setHomeWord_desk
      (atomAll m.op (s.homeWord (m.line * 32 + w)).1 (atomOperands m.op m.args)).1 false hdev
    have hhome : ((s.unwired.atomDone d w m).die d).home = (s.die d).home.setEntry m.line {} :=
      (hdie d).2.trans ((State.home_mapEntry hstill.die m.line _).trans (by rw [hentry]; rfl))
    refine State.hubRoom_of_length (Nat.lt_of_le_of_lt ?_ hfree.room)
    rw [hhome]
    exact Hub.setEntry_blank_length _ _
  rw [h.request_served hfree (by rw [hsrc]; nofun) hdst (State.filterRoom_unit s (by rw [hsrc]; nofun))
    (hrun ▸ ⟨hdone.silent.wired _, silent_unit _ (Or.inr (Or.inl ⟨c, hsrc⟩)), hroom⟩), hrun]

/-- A directory without its transactions. -/
def Hub.queues (h : Hub) : Hub := { h with txns := [] }

/-- Changing a home's transactions changes no more of the homes. -/
theorem State.home_mapTxns (s : State) (d i : Nat) (f : List Txn → List Txn) :
    ((s.mapHub (.home d) fun h => { h with txns := f h.txns }).die i).home.queues = (s.die i).home.queues :=
  s.die_mapDie_keeps d i (f := fun x => { x with home := { x.home with txns := f x.home.txns } }) (fun k => k.home.queues) fun _ => rfl

/-- A home whose transactions change stays still. -/
theorem Still.mapTxns (hs : Still s d) (f : List Txn → List Txn) : Still (s.mapHub (.home d) fun h => { h with txns := f h.txns }) d := by
  have hhome := s.home_mapTxns d d f
  refine ⟨hs.wires, fun i => ?_, (s.mapDie_length d _).symm ▸ hs.die, ⟨?_, ?_, nofun⟩⟩
  · have hstate := s.die_mapDie_keeps d i (f := fun k => { k with home := { k.home with txns := f k.home.txns } }) Die.state fun _ => rfl
    exact fun hdead => hs.live i (hstate.symm.trans hdead)
  · exact (congrArg (fun q : Hub => q.waitq) hhome).trans hs.silent.waitq
  · exact (congrArg (fun q : Hub => q.outq) hhome).trans hs.silent.outq

/-- A home that grants a write-back, and notes it as in progress unless its sender owns none of the words (R372). -/
def State.writeBackGranted (s : State) (d : Nat) (m : Msg) : State :=
  let ok := (wordsOf m.mask).filter fun w => ((s.die d).home.entry m.line).ownerOf w == some m.src
  let t : State := { s with wires := [Wire.mk .wbGnt { src := .home d, dst := m.src, line := m.line, mask := maskOfWords ok }] }
  if ok.isEmpty then t else t.mapHub (.home d) fun h =>
    { h with txns := h.txns ++ [{ req := .wb, msg := { m with mask := maskOfWords ok }, waits := [(m.src, maskOfWords ok)] }] }

theorem State.writeBackGranted_home (s : State) (i : Nat) :
    ((s.writeBackGranted d m).die i).home.queues = (s.die i).home.queues := by
  unfold State.writeBackGranted
  dsimp only
  split
  · rfl
  · exact State.home_mapTxns _ d i fun ts => ts ++ [_]

theorem State.writeBackGranted_rest (s : State) : (s.writeBackGranted d m).mem = s.mem ∧ (s.writeBackGranted d m).cores = s.cores ∧
    (s.writeBackGranted d m).wires = [Wire.mk .wbGnt {
      src := .home d, dst := m.src, line := m.line,
      mask := maskOfWords ((wordsOf m.mask).filter fun w => ((s.die d).home.entry m.line).ownerOf w == some m.src) }] := by
  unfold State.writeBackGranted
  dsimp only
  split <;> exact ⟨rfl, rfl, rfl⟩

/-- A write-back is granted for the words its sender owns (R372). -/
theorem Alone.writeBack_granted (h : Alone s .wbReq m d) (hfree : HomeFree s d) {c : Nat} (hdst : m.dst = .home d) (hsrc : m.src = .l1 c) :
    onMessage .wbReq (requestArrives .wbReq) m s = .next (s.unwired.writeBackGranted d m) := by
  have hpkg : ∀ p, m.src ≠ .pkg p := by rw [hsrc]; nofun
  have hstill := h.still hfree.waitq
  have hrun : s.unwired.beginTxn (.home d) (Wire.mk .wbReq m) = s.unwired.writeBackGranted d m := by
    show (let ok := (wordsOf m.mask).filter fun w => ((s.unwired.die d).home.entry m.line).ownerOf w == some m.src
      let t := s.unwired.sendUnit .wbGnt { src := .home d, dst := m.src, line := m.line, mask := maskOfWords ok }
      if ok.isEmpty then t else t.mapHub (.home d) fun h =>
        { h with txns := h.txns ++ [{ req := .wb, msg := { m with mask := maskOfWords ok }, waits := [(m.src, maskOfWords ok)] }] }) = _
    dsimp only
    rw [hstill.sendUnit .wbGnt rfl hpkg]
    rfl
  have hhome := s.unwired.writeBackGranted_home (d := d) (m := m) d
  have hsilent : Silent (s.unwired.writeBackGranted d m) (.home d) :=
    ⟨(congrArg (fun q : Hub => q.waitq) hhome).trans hstill.silent.waitq, (congrArg (fun q : Hub => q.outq) hhome).trans hstill.silent.outq, nofun⟩
  have hroom : (s.unwired.writeBackGranted d m).hubRoom (.home d) m.line = true :=
    State.hubRoom_of_length ((congrArg (fun q : Hub => q.dir.length) hhome).trans_lt hfree.room)
  rw [h.request_served hfree hpkg hdst (State.filterRoom_unit s (by rw [hsrc]; nofun))
    (hrun ▸ ⟨hsilent, silent_unit _ (Or.inl ⟨c, hsrc⟩), hroom⟩), hrun]

/-! ### Write-backs and evictions arrive -/

/-- A word of a write-back, written at its home, whose sender it is no longer registered to, or only shares (R372). -/
def State.takesBack (s : State) (d : Nat) (m : Msg) (w : Nat) (x : Word) : State :=
  (s.setHomeWord (m.line * 32 + w) x (m.poison.getLsbD w)).mapEntry (.home d) m.line fun e =>
    if m.excl.getLsbD w then (e.forget w m.src).addSharer w m.src else e.forget w m.src

/-- A transaction of a home that a write-back's data ends. -/
def Txn.endedBy (m : Msg) (t : Txn) : Bool := t.on m.line && t.req == .wb && t.msg.src == m.src && (t.msg.mask &&& m.mask) != 0

/-- The home once a word written back has been taken. -/
def State.wroteBack (s : State) (d : Nat) (m : Msg) (w : Nat) (x : Word) : State :=
  (s.takesBack d m w x).mapHub (.home d) fun h => { h with txns := h.txns.filter fun t => !t.endedBy m }

theorem Still.wroteBack (hs : Still s d) {w : Nat} (x : Word) (hdev : isDevice (4 * (m.line * 32 + w)) = false) : Still (s.wroteBack d m w x) d :=
  ((DeskKept.mapEntry _ d m.line _).still (hs.setHomeWord x _ hdev)).mapTxns fun ts => ts.filter fun t => !t.endedBy m

/-- The data of a write-back is written, and acknowledged to its sender's core (R372, R373). -/
theorem Alone.writeBack_written (h : Alone s .wbData m d) (hwaitq : (s.die d).home.waitq = []) {c w : Nat} {x : Word} (hdst : m.dst = .home d)
    (hsrc : m.src = .l1 c) (hdata : m.data = [(w, x)]) (hdev : isDevice (4 * (m.line * 32 + w)) = false) :
    exec (.wbData m) s = .next { s.unwired.wroteBack d m w x with wires := [Wire.mk .cmp {
      src := .home d, dst := .core c, line := m.line, mask := m.mask }] } := by
  obtain ⟨n, rfl⟩ : ∃ n : Msg, m = { n with src := .l1 c, dst := .home d, data := [(w, x)] } := ⟨m, by rw [← hsrc, ← hdst, ← hdata]⟩
  have hdone := (h.still hwaitq).wroteBack (m := { n with src := .l1 c, dst := .home d, data := [(w, x)] }) x hdev
  have hsent := hdone.send .cmp (m := { src := .home d, dst := .core c, line := n.line, mask := n.mask }) nofun
  show execWbData _ s = _
  unfold execWbData
  rw [h.arrives nofun rfl]
  refine congrArg Host.Outcome.next ?_
  show (((State.wroteBack _ d _ w x).send .cmp _).pump (.home d) n.line).pump (.l1 c) n.line = _
  rw [hsent, (hdone.silent.wired _).pump, (silent_unit _ (Or.inl ⟨c, rfl⟩)).pump]

/-- An eviction of clean words ends their sender's registrations (R371). -/
theorem Alone.eviction_noted (h : Alone s .cleanEv m d) (hwaitq : (s.die d).home.waitq = []) {c : Nat} (hdst : m.dst = .home d) (hsrc : m.src = .l1 c) :
    exec (.cleanEv m) s = .next ((wordsOf m.mask).foldl (fun s w => s.mapEntry (.home d) m.line fun e => e.forget w m.src) s.unwired) := by
  have hdesk := DeskKept.foldl (fun s w => DeskKept.mapEntry s d m.line fun e => e.forget w m.src) (wordsOf m.mask) s.unwired
  show execCleanEv m s = _
  unfold execCleanEv
  rw [h.arrives (by rw [hsrc]; nofun) hdst]
  rw [hdst, (hdesk.silent (h.still hwaitq).silent).pump, (hdesk.silent (silent_unit _ (Or.inl ⟨c, hsrc⟩))).pump]

/-- The entry of a line after several changes. -/
theorem State.entry_foldl_mapEntry (line : Nat) (g : Nat → DirEntry → DirEntry) (ws : List Nat) : ∀ {s : State}, d < s.dies.length →
    ((ws.foldl (fun s w => s.mapEntry (.home d) line (g w)) s).die d).home.entry line = ws.foldl (fun e w => g w e) ((s.die d).home.entry line) := by
  induction ws with
  | nil => exact fun _ => rfl
  | cons w ws ih =>
    intro s hd
    exact (ih ((DeskKept.mapEntry s d line (g w)).dies.symm ▸ hd)).trans (by rw [State.entry_mapEntry hd]; rfl)

end Services

end Sys2Proof.Machine
end

section
/-! O54: the answer to a snoop is passed on to the requester (R370, R371). -/
namespace Sys2Proof.Machine
open Sys2Proof

section Answer
variable {s : State} {m : Msg} {d : Nat} {t : Txn}

theorem Mask.zero_or (k : Mask) : 0 ||| k = k := BitVec.zero_or
theorem Mask.getLsbD_zero (w : Nat) : (0 : Mask).getLsbD w = false := BitVec.getLsbD_zero

/-- A transaction once the last of its holders has answered. -/
def Txn.answeredBy (t : Txn) (m : Msg) : Txn :=
  { t with
    waits := [], got := m.data.foldl (fun g x => SMap.put g x.1 x.2) t.got
    sent := t.sent ||| m.excl, dirty := t.dirty ||| m.dirty, poison := t.poison ||| m.poison }

/-- A transaction that is to own one word, has gathered nothing, and waits for the sender of a message only. -/
structure Txn.Awaits (t : Txn) (m : Msg) (w : Nat) : Prop where
  req : t.req = .rdOwn
  src : ∀ p, t.msg.src ≠ .pkg p
  line : m.line = t.msg.line
  mask : t.msg.mask = bitOf w
  asked : m.asked = bitOf w
  waits : t.waits = [(m.src, t.msg.mask)]
  queue : t.queue = []
  got : t.got = []
  sent : t.sent = 0
  dirty : t.dirty = 0
  poison : t.poison = 0

/-- A home without transactions. -/
def State.endTxns (s : State) (d : Nat) : State := s.mapHub (.home d) fun h => { h with txns := [] }

/-- The only transaction of a home, which waits for one answer, is finished by it (R370). -/
theorem State.answered_last {w : Nat} (hw : w < 32) (ht : t.Awaits m w) (htxns : (s.die d).home.txns = [t]) :
    s.answered (.home d) m.src m = ((s.endTxns d).finish (.home d) (t.answeredBy m)).pump (.home d) m.line := by
  have hhub : (s.hub (.home d)).txns = [t] := htxns
  have hshares : ((t.msg.mask &&& m.asked) != 0) = true := bne_iff_ne.mpr fun hzero => by
    have hbit := congrArg (BitVec.getLsbD · w) hzero
    rw [ht.mask, ht.asked, BitVec.and_self] at hbit
    simp [bitOf_getLsbD hw] at hbit
  have hfind : [t].find? (fun t => t.on m.line && t.req != .wb && t.waits.any fun w => w.1 == m.src && (w.2 &&& m.asked) != 0) = some t := by
    simp only [List.find?_cons, Txn.on, ht.line, ht.req, ht.waits, List.any_cons, List.any_nil, hshares, beq_self_eq_true]
    rfl
  have hrest : [t].filter (fun x => x != t) = [] := by simp
  have hleft : t.waits.filter (fun w => w.1 != m.src) = [] := by simp [ht.waits]
  unfold State.answered
  simp only [hhub, hfind, hrest, hleft, ht.queue, List.find?_nil, List.isEmpty_nil, Bool.and_self, if_true, ht.req]
  unfold Txn.answeredBy State.endTxns
  simp [ht.queue, ht.req]

/-- What an answer brings of a word: nothing, where the home's own value is sound, its dirty value, or that its holder has sent the value to the
requester itself. -/
inductive Answers (m : Msg) (w : Nat) (own : Word × Bool) : Prop
  | clean (hdirty : m.dirty = 0) (hdata : m.data = []) (hexcl : m.excl = 0) (hsound : own.2 = false)
  | dirty (x : Word) (hdirty : m.dirty = bitOf w) (hexcl : m.excl = 0) (hdata : m.data = [(w, x)])
  | sent (hdata : m.data = []) (hexcl : m.excl = bitOf w) (hdirty : m.dirty = 0 ∨ m.dirty = bitOf w)

theorem Answers.dirty_or {w : Nat} {own : Word × Bool} (h : Answers m w own) : m.dirty = 0 ∨ m.dirty = bitOf w := by
  cases h with
  | clean hdirty _ _ _ => exact Or.inl hdirty
  | dirty _ hdirty _ _ => exact Or.inr hdirty
  | sent _ _ hdirty => exact hdirty

theorem Answers.excl_or {w : Nat} {own : Word × Bool} (h : Answers m w own) : m.excl = 0 ∨ m.excl = bitOf w := by
  cases h with
  | clean _ _ hexcl _ => exact Or.inl hexcl
  | dirty _ _ hexcl _ => exact Or.inl hexcl
  | sent _ hexcl _ => exact Or.inr hexcl

/-- The value that a grant passes on: what the answer brought, or the home's own. -/
def answerValue (m : Msg) (own : Word) : Word := ((m.data.head?).map (·.2)).getD own

/-- A word of a mask that has at most that word. -/
theorem getLsbD_eq_false_or_bitOf {k : Mask} {w : Nat} (hw : w < 32) (hk : k = 0 ∨ k = bitOf w) :
    (k = 0 ∧ k.getLsbD w = false) ∨ (k = bitOf w ∧ k.getLsbD w = true) :=
  hk.imp (fun e => ⟨e, e ▸ BitVec.getLsbD_zero⟩) fun e => ⟨e, by rw [e, bitOf_getLsbD hw, decide_eq_true rfl]⟩

/-- The value of a word in a transaction that its holder has answered. -/
theorem State.txnWord_answered {w : Nat} (hw : w < 32) (ht : t.Awaits m w) (hm : Answers m w (s.homeWord (t.msg.line * 32 + w)))
    (hclean : m.poison = 0) :
    ∃ v, s.txnWord (.home d) (t.answeredBy m) w = (v, m.dirty.getLsbD w, false) ∧ (m.excl = 0 → v = answerValue m (s.homeWord (t.msg.line * 32 + w)).1) := by
  obtain ⟨-, -, -, -, -, -, -, hgot, hsent, hdirt, hpoison⟩ := ht
  have hbit : (bitOf w).getLsbD w = true := by rw [bitOf_getLsbD hw, decide_eq_true rfl]
  unfold State.txnWord Txn.answeredBy answerValue
  cases hm with
  | clean hdirty hdata hexcl hsound =>
    refine ⟨(s.homeWord (t.msg.line * 32 + w)).1, ?_, fun _ => by rw [hdata]; rfl⟩
    simp only [hgot, hsent, hdirty, hdata, hexcl, List.foldl_nil, SMap.get?, Mask.zero_or, Mask.getLsbD_zero, Bool.false_eq_true, if_false]
    exact congrArg (fun p => ((s.homeWord (t.msg.line * 32 + w)).1, false, p)) hsound
  | dirty x hdirty hexcl hdata =>
    refine ⟨x, ?_, fun _ => by rw [hdata]; rfl⟩
    simp only [hgot, hdirt, hpoison, hclean, hdirty, hdata, List.foldl_cons, List.foldl_nil, SMap.get?_put_self, Mask.zero_or, Mask.getLsbD_zero, hbit]
  | sent hdata hexcl _ =>
    refine ⟨0, ?_, fun h => ?_⟩
    · simp only [hgot, hsent, hdirt, hpoison, hclean, hdata, hexcl, List.foldl_nil, SMap.get?, Mask.zero_or, Mask.getLsbD_zero, hbit, if_true]
    · rw [← hexcl, h, Mask.getLsbD_zero] at hbit
      exact absurd hbit Bool.false_ne_true

/-- The grant that passes on one word's answer. -/
theorem Txn.grant_answered {n : Node} {w : Nat} {v : Word} {own : Word × Bool} (hw : w < 32) (ht : t.Awaits m w) (hm : Answers m w own) :
    (t.answeredBy m).grant n [{ w := w, excl := true, val := v, dirty := m.dirty.getLsbD w, poison := false }] =
      { src := n, dst := t.msg.src, line := t.msg.line, mask := t.msg.mask, tag := t.msg.tag, asked := m.excl, excl := bitOf w, dirty := m.dirty,
        data := if m.excl = 0 then [(w, v)] else [] } := by
  have hsent : (t.answeredBy m).sent = m.excl := by
    show t.sent ||| m.excl = _
    rw [ht.sent, Mask.zero_or]
  have hdata : (if m.excl.getLsbD w then ([] : List (Nat × Word)) else [(w, v)]) = if m.excl = 0 then [(w, v)] else [] := by
    rcases getLsbD_eq_false_or_bitOf hw hm.excl_or with ⟨hzero, hbit⟩ | ⟨-, hbit⟩
    · rw [if_neg (by rw [hbit]; decide), if_pos hzero]
    · rw [if_pos hbit, if_neg fun h => by rw [h, Mask.getLsbD_zero] at hbit; exact Bool.false_ne_true hbit]
  have hdirty : maskOfWords (if m.dirty.getLsbD w then [w] else []) = m.dirty := by
    rcases getLsbD_eq_false_or_bitOf hw hm.dirty_or with ⟨hzero, hbit⟩ | ⟨hone, hbit⟩
    · rw [if_neg (by rw [hbit]; decide), hzero]; rfl
    · rw [if_pos hbit, hone, maskOfWords_singleton]
  unfold Txn.grant
  simp only [hsent, List.filter_cons, List.filter_nil]
  rw [← hdata, ← maskOfWords_singleton w]
  conv_rhs => rw [← hdirty]
  cases m.excl.getLsbD w <;> cases m.dirty.getLsbD w <;> rfl

/-- The owner that a word is asked for gets it, and is its only holder (R370). -/
theorem State.finishWord_rdOwn {w : Nat} {v : Word} {dirty poison : Bool} (hreq : t.req = .rdOwn)
    (hword : s.txnWord (.home d) t w = (v, dirty, poison)) : State.finishWord (.home d) t s w =
      (s.mapEntry (.home d) t.msg.line fun e => (e.clear w).own w t.msg.src, { w := w, excl := true, val := v, dirty := dirty, poison := poison }) := by
  have hkeep : (Req.rdOwn == Req.ownNd && dirty) = false := rfl
  have hdirty : (dirty && Req.rdOwn != Req.ownNd) = dirty := Bool.and_true dirty
  unfold State.finishWord State.finishOwn
  rw [if_neg (by rw [hreq]; decide)]
  simp only [hword, hreq, hkeep, hdirty, Bool.false_eq_true, if_false]

/-- The home registers the requester as a word's only holder. -/
def State.passesTo (s : State) (d line w : Nat) (src : Node) : State := s.mapEntry (.home d) line fun e => (e.clear w).own w src

/-- The grant of a transaction that has its answer (R370, R371). -/
theorem State.finish_answered {w : Nat} (hs : Still s d) (ht : t.Awaits m w) (hw : w < 32)
    (hm : Answers m w (s.homeWord (m.line * 32 + w))) (hclean : m.poison = 0) :
    s.finish (.home d) (t.answeredBy m) = { s.passesTo d m.line w t.msg.src with wires := [Wire.mk .gnt {
      src := .home d, dst := t.msg.src, line := m.line, mask := bitOf w, tag := t.msg.tag, asked := m.excl, excl := bitOf w, dirty := m.dirty,
      data := if m.excl = 0 then [(w, answerValue m (s.homeWord (m.line * 32 + w)).1)] else [] }] } := by
  have hdone : Still (s.passesTo d m.line w t.msg.src) d := (DeskKept.mapEntry s d m.line _).still hs
  obtain ⟨v, hword, hvalue⟩ := State.txnWord_answered (s := s) (d := d) hw ht (ht.line ▸ hm) hclean
  have hgives : State.gives (State.finishWord (.home d) (t.answeredBy m)) (wordsOf (t.answeredBy m).msg.mask) (s, []) =
      (s.passesTo d m.line w t.msg.src, [{ w := w, excl := true, val := v, dirty := m.dirty.getLsbD w, poison := false }]) := by
    rw [show (t.answeredBy m).msg.mask = bitOf w from ht.mask, wordsOf_bitOf w hw]
    unfold State.gives
    rw [List.foldl_cons, List.foldl_nil, State.finishWord_rdOwn (t := t.answeredBy m) ht.req hword, ht.line]
    rfl
  have hdata : (if m.excl = 0 then [(w, v)] else []) = if m.excl = 0 then [(w, answerValue m (s.homeWord (m.line * 32 + w)).1)] else [] :=
    if_ctx_congr Iff.rfl (fun he => by rw [hvalue he, ht.line]) fun _ => rfl
  rw [State.finish_grant _ _ (by rw [show (t.answeredBy m).req = .rdOwn from ht.req]; decide)]
  dsimp only
  rw [hgives, Txn.grant_answered hw ht hm, hdata, ht.mask, ← ht.line]
  exact hdone.sendUnit .gnt rfl ht.src

/-- Directories without transactions of their own are as silent as before. -/
theorem Silent.endTxns {n : Node} (h : Silent s n) : Silent (s.endTxns d) n := by
  obtain ⟨hwaitq, houtq, hnear⟩ := h
  have hkeeps : ∀ i, ((s.endTxns d).die i).home.queues = (s.die i).home.queues := fun i => s.home_mapTxns d i fun _ => []
  have hrdc : ∀ i, ((s.endTxns d).die i).rdcHub = (s.die i).rdcHub := fun i =>
    s.die_mapDie_keeps d i (f := fun k => { k with home := { k.home with txns := [] } }) Die.rdcHub fun _ => rfl
  cases n with
  | home i => exact ⟨(congrArg (fun q : Hub => q.waitq) (hkeeps i)).trans hwaitq, (congrArg (fun q : Hub => q.outq) (hkeeps i)).trans houtq, hnear⟩
  | rdc i => exact ⟨(congrArg Hub.waitq (hrdc i)).trans hwaitq, (congrArg Hub.outq (hrdc i)).trans houtq, hnear⟩
  | ioHome i => exact absurd rfl (hnear i)
  | l1 _ | mirror _ | pkg _ | core _ | app _ => exact ⟨rfl, rfl, nofun⟩

/-- What a home has under way changes no word. -/
theorem State.homeWord_mapHub (s : State) {w : Nat} (f : Hub → Hub) (hdev : isDevice (4 * w) = false) :
    (s.mapHub (.home d) f).homeWord w = s.homeWord w := by
  unfold State.homeWord
  rw [if_neg (by simp [hdev]), if_neg (by simp [hdev])]
  rfl

/-- The answer that a transaction waits for is passed on in its grant (R370, R371). -/
theorem Alone.answer_passedOn {k : MsgKind} (h : Alone s k m d) {f : Msg → State → State} {w : Nat}
    (hf : ∀ u : State, f m u = u.answered (.home d) m.src m) (htxns : (s.die d).home.txns = [t])
    (hwaitq : (s.die d).home.waitq = []) (hdst : m.dst = .home d) (hhome : homeOf (m.line * 128) = .home d) (ht : t.Awaits m w) (hw : w < 32)
    (hsrc : ∀ p, m.src ≠ .pkg p) (hsilent : Silent s.unwired m.src) (hm : Answers m w (s.homeWord (m.line * 32 + w)))
    (hclean : m.poison = 0) :
    onMessage k f m s = .next { (s.unwired.endTxns d).passesTo d m.line w t.msg.src with wires := [Wire.mk .gnt {
      src := .home d, dst := t.msg.src, line := m.line, mask := bitOf w, tag := t.msg.tag, asked := m.excl, excl := bitOf w, dirty := m.dirty,
      data := if m.excl = 0 then [(w, answerValue m (s.homeWord (m.line * 32 + w)).1)] else [] }] } := by
  have hready : Still (s.unwired.endTxns d) d := (h.still hwaitq).mapTxns fun _ => []
  have hdesk : DeskKept (s.unwired.endTxns d) ((s.unwired.endTxns d).passesTo d m.line w t.msg.src) := DeskKept.mapEntry _ d m.line _
  have hdev : isDevice (4 * (m.line * 32 + w)) = false := (homeOf_word hw (isDevice_of_home hhome)).2
  have hword : (s.unwired.endTxns d).homeWord (m.line * 32 + w) = s.homeWord (m.line * 32 + w) := State.homeWord_mapHub s.unwired _ hdev
  have hfinish := State.finish_answered hready ht hw (hword.symm ▸ hm) hclean
  rw [hword] at hfinish
  rw [h.arrives hsrc hdst, hf, State.answered_last (s := s.unwired) hw ht htxns, hfinish,
    ((hdesk.silent hready.silent).wired _).pump, ((hdesk.silent hsilent.endTxns).wired _).pump]

end Answer

end Sys2Proof.Machine
end

section
/-! O54: what a home's service of a message leaves (R214, R366, R370 to R372). -/
namespace Sys2Proof.Machine
open Sys2Proof

section Settled
variable {s : State} {m : Msg} {d : Nat}

/-- A request of words that no one holds ends in a grant, and their owner is registered (R366, R370). -/
theorem Alone.grants_unheld {k : MsgKind} (h : Alone s k m d) (hfree : HomeFree s d) (hkind : k ∈ [MsgKind.rds, .rdOwn, .ownNd, .upg])
    (hdst : m.dst = .home d) (hsrc : ∀ p, m.src ≠ .pkg p) (hsilent : Silent s.unwired m.src) (hfilter : s.filterRoom (.home d) m = true)
    (hhome : homeOf (m.line * 128) = .home d) (habsent : ∀ e, e ∈ (s.die d).home.dir → e.1 ≠ m.line) :
    ∃ u, onMessage k (requestArrives k) m s = .next u ∧ u.mem = s.mem ∧ u.teams = s.teams ∧ u.cores = s.cores ∧
      u.wires = [Wire.mk .gnt { src := .home d, dst := m.src, line := m.line, mask := m.mask, tag := m.tag, excl := m.mask,
                                poison := maskOfWords ((wordsOf m.mask).filter fun w => (s.homeWord (m.line * 32 + w)).2),
                                data := (wordsOf m.mask).map fun w => (w, (s.homeWord (m.line * 32 + w)).1) }] ∧
      ∀ w, w < 32 → ((u.die d).home.entry m.line).ownerOf w = if m.mask.getLsbD w = true then some m.src else none := by
  have hdesk := State.ownAll_desk s.unwired d m.line m.src (wordsOf m.mask)
  refine ⟨_, h.request_granted hfree hkind hdst hsrc hsilent hfilter hhome habsent, hdesk.mem, hdesk.teams, hdesk.cores, rfl, fun w hw => ?_⟩
  have hnone : ((s.die d).home.entry m.line).ownerOf w = none := by rw [Hub.entry_of_absent habsent]; rfl
  refine (State.ownAll_ownerOf (s := s.unwired) (wordsOf m.mask) (h.still hfree.waitq).die w).trans ?_
  simp only [mem_wordsOf, hw, true_and]
  exact if_ctx_congr Iff.rfl (fun _ => rfl) fun _ => hnone

/-- The word of an atomic that its home performs. -/
theorem State.atomDone_word (s : State) {w : Nat} (hdev : isDevice (4 * (m.line * 32 + w)) = false)
    (hdead : s.isDead (homeOf (4 * (m.line * 32 + w))) = false) (hwf : s.mem.wf = true) : ((s.atomDone d w m).homeWord (m.line * 32 + w)).1 =
      (atomAll m.op (s.homeWord (m.line * 32 + w)).1 (atomOperands m.op m.args)).1 := by
  have hdesk := DeskKept.mapEntry s d m.line fun e => e.clear w
  exact State.homeWord_setHomeWord _ _ hdev ((hdesk.isDead _).trans hdead) (hdesk.mem ▸ hwf)

theorem State.atomDone_teams (s : State) (w : Nat) : (s.atomDone d w m).teams = s.teams :=
  (State.setHomeWord_teams ..).trans (DeskKept.mapEntry s d m.line _).teams

/-- What a write-back that has been taken leaves (R372). -/
theorem State.wroteBack_spec (s : State) {w : Nat} (x : Word) (hd : d < s.dies.length) (hdev : isDevice (4 * (m.line * 32 + w)) = false)
    (hdead : s.isDead (homeOf (4 * (m.line * 32 + w))) = false) (hwf : s.mem.wf = true) :
    ((s.wroteBack d m w x).homeWord (m.line * 32 + w)).1 = x ∧ (s.wroteBack d m w x).teams = s.teams ∧
      ((s.wroteBack d m w x).die d).home.txns = (s.die d).home.txns.filter fun t => !t.endedBy m := by
  have hdesk : DeskKept (s.setHomeWord (m.line * 32 + w) x (m.poison.getLsbD w)) (s.takesBack d m w x) := DeskKept.mapEntry _ d m.line _
  obtain ⟨-, hdies, hdie⟩ := s.setHomeWord_desk x (m.poison.getLsbD w) hdev
  have htaken : ((s.takesBack d m w x).homeWord (m.line * 32 + w)).1 = x :=
    (congrArg Prod.fst (hdesk.homeWord hdev)).trans (State.homeWord_setHomeWord x _ hdev hdead hwf)
  have htxns : ((s.takesBack d m w x).die d).home.txns = (s.die d).home.txns := (hdesk.txns d).trans (congrArg Hub.txns (hdie d).2)
  have hword : (s.wroteBack d m w x).homeWord (m.line * 32 + w) = (s.takesBack d m w x).homeWord (m.line * 32 + w) := State.homeWord_mapHub _ _ hdev
  refine ⟨(congrArg Prod.fst hword).trans htaken, hdesk.teams.trans (State.setHomeWord_teams ..), ?_⟩
  · rw [← htxns]
    show (((s.takesBack d m w x).mapDie d fun k => { k with home := { k.home with txns := k.home.txns.filter fun t => !t.endedBy m } }).die d).home.txns = _
    rw [State.die_mapDie, if_pos ⟨rfl, hdesk.dies ▸ hdies ▸ hd⟩]

/-- What the home registers after an answer has been passed on. -/
theorem State.passesTo_spec (s : State) {line w : Nat} {n : Node} (hd : d < s.dies.length) :
    (((s.endTxns d).passesTo d line w n).die d).home.txns = [] ∧ ((((s.endTxns d).passesTo d line w n).die d).home.entry line).ownerOf w = some n ∧
      ((s.endTxns d).passesTo d line w n).mem = s.mem := by
  have hdesk : DeskKept (s.endTxns d) ((s.endTxns d).passesTo d line w n) := DeskKept.mapEntry _ d line _
  have hlen : d < (s.endTxns d).dies.length := (s.mapDie_length d _).symm ▸ hd
  refine ⟨(hdesk.txns d).trans ?_, ?_, hdesk.mem⟩
  · show ((s.mapDie d fun k => { k with home := { k.home with txns := [] } }).die d).home.txns = []
    rw [State.die_mapDie, if_pos ⟨rfl, hd⟩]
  · unfold State.passesTo
    rw [State.entry_mapEntry hlen, DirEntry.ownerOf_own, if_pos rfl]

/-- What a home registers once it knows that a holder has no words of a mask any more (R371). -/
theorem State.forgets_spec (s : State) {line : Nat} (n : Node) (mask : Mask) (hd : d < s.dies.length) (hsorted : ((s.die d).home.entry line).Sorted)
    {w : Nat} (hw : w < 32) :
    let e := (s.die d).home.entry line
    let f := (((wordsOf mask).foldl (fun s w => s.mapEntry (.home d) line fun e => e.forget w n) s).die d).home.entry line
    (mask.getLsbD w = true → f.ownerOf w ≠ some n ∧ n ∉ f.sharersOf w) ∧
      (mask.getLsbD w = false → f.ownerOf w = e.ownerOf w ∧ f.sharersOf w = e.sharersOf w) := by
  intro e f
  have hf : f = (wordsOf mask).foldl (fun e w => e.forget w n) e := State.entry_foldl_mapEntry line (fun w e => e.forget w n) (wordsOf mask) hd
  obtain ⟨hgone, hkept, -⟩ := DirEntry.foldl_forget n (wordsOf mask) hsorted w
  rw [hf]
  exact ⟨fun hbit => hgone (mem_wordsOf.mpr ⟨hw, hbit⟩), fun hbit => hkept fun hmem => by
    rw [(mem_wordsOf.mp hmem).2] at hbit
    cases hbit⟩

end Settled

/-- A word of the local region is no device register's. -/
theorem isDevice_of_local {pa : Nat} (h : regionOf pa = 0) : isDevice pa = false := by simp [isDevice, h]

/-- Settles O54: a home on its own serves each message in the step of its arrival, as its directory has it. -/
theorem requestsAreServedAtTheirHome : Obligations.RequestsAreServedAtTheirHome := by
  unfold Obligations.RequestsAreServedAtTheirHome
  refine ⟨?_, ?_, ?_, ?_, ?_, ?_⟩
  case refine_1 =>
    intro k mk m hk s d c halone hfree hdst hsrc hhome habsent
    have hexec : ∀ u, exec (mk m) s = u ↔ onMessage k (requestArrives k) m s = u := by
      simp only [List.mem_cons, List.not_mem_nil, or_false, Prod.mk.injEq] at hk
      rcases hk with ⟨rfl, rfl⟩ | ⟨rfl, rfl⟩ | ⟨rfl, rfl⟩ | ⟨rfl, rfl⟩ <;> exact fun _ => Iff.rfl
    have hkind : k ∈ [MsgKind.rds, .rdOwn, .ownNd, .upg] := List.mem_map_of_mem (f := Prod.fst) hk
    simp only [hexec]
    rcases hsrc with ⟨hsrc, -⟩ | hsrc | ⟨hsrc, -, hwaitq, hfilter⟩
    · exact halone.grants_unheld hfree hkind hdst (by rw [hsrc]; nofun) (silent_unit _ (Or.inl ⟨c, hsrc⟩))
        (State.filterRoom_unit s (by rw [hsrc]; nofun)) hhome habsent
    · exact halone.grants_unheld hfree hkind hdst (by rw [hsrc]; nofun) (silent_unit _ (Or.inr (Or.inr ⟨c, hsrc⟩)))
        (State.filterRoom_unit s (by rw [hsrc]; nofun)) hhome habsent
    · exact halone.grants_unheld hfree hkind hdst (by rw [hsrc]; nofun) (hsrc ▸ halone.silent_rdc hwaitq) hfilter hhome habsent
  case refine_2 =>
    intro s m d c w halone hfree hdst hsrc _ habsent hw hmask hregion hdead hsound hwf r
    have hdev := isDevice_of_local hregion
    exact ⟨_, halone.atomic_performed hfree hdst hsrc habsent hw hmask hdev hsound, State.atomDone_word s.unwired hdev hdead hwf,
      State.atomDone_teams s.unwired w, rfl⟩
  case refine_3 =>
    intro k mk m hk s d c w t halone htxns hwaitq hdst hline hhome hreq htsrc hw hmask hwaits hqueue hgot hsent hdirty hpoison hclean hasked hreader
      hsrc hrdc hanswer
    have ht : t.Awaits m w := ⟨hreq, by rw [htsrc]; nofun, hline, hmask, hasked, hwaits, hqueue, hgot, hsent, hdirty, hpoison⟩
    have hm : Answers m w (s.homeWord (m.line * 32 + w)) := by
      rcases hanswer with ⟨hdirty, hdata, hexcl, hsound⟩ | ⟨hdirty, hexcl, x, hdata⟩ | ⟨hdata, hexcl, hdirty⟩
      · exact .clean hdirty hdata hexcl hsound
      · exact .dirty x hdirty hexcl hdata
      · exact .sent hdata hexcl hdirty
    have hsilent : Silent s.unwired m.src := by
      rcases hsrc with ⟨b, hb | ⟨hb, -⟩⟩
      · exact silent_unit _ (Or.inl ⟨b, hb⟩)
      · exact hb ▸ halone.silent_rdc (hrdc b hb)
    have hpkg : ∀ p, m.src ≠ .pkg p := by
      rcases hsrc with ⟨b, hb | ⟨hb, -⟩⟩ <;> rw [hb] <;> nofun
    have hexec : ∃ f : Msg → State → State, exec (mk m) s = onMessage k f m s ∧ ∀ u : State, f m u = u.answered (.home d) m.src m := by
      simp only [List.mem_cons, List.not_mem_nil, or_false, Prod.mk.injEq] at hk
      rcases hk with ⟨rfl, rfl⟩ | ⟨rfl, rfl⟩
      · refine ⟨dataArrives, rfl, fun u => ?_⟩
        unfold dataArrives
        rw [hreader, hdst]
        rfl
      · exact ⟨fun m s => s.answered m.dst m.src m, rfl, fun u => by rw [← hdst]⟩
    obtain ⟨f, hrun, hf⟩ := hexec
    obtain ⟨hended, howner, hmem⟩ := State.passesTo_spec s.unwired (line := m.line) (w := w) (n := t.msg.src) (halone.still hwaitq).die
    exact ⟨_, hrun.trans (halone.answer_passedOn hf htxns hwaitq hdst hhome ht hw hpkg hsilent hm hclean), hended, htsrc ▸ howner, hmem, by rw [← htsrc]; rfl⟩
  case refine_4 =>
    intro s m d c halone hfree hdst hsrc
    obtain ⟨hmem, hcores, hwires⟩ := State.writeBackGranted_rest (d := d) (m := m) s.unwired
    exact ⟨_, halone.writeBack_granted hfree hdst hsrc, hmem, hcores, by rw [← hsrc]; exact hwires⟩
  case refine_5 =>
    intro s m d c w x halone hwaitq hdst hsrc hdata hregion hdead hwf
    have hdev := isDevice_of_local hregion
    obtain ⟨hword, hteams, htxns⟩ := State.wroteBack_spec (m := m) s.unwired x (halone.still hwaitq).die hdev hdead hwf
    exact ⟨_, halone.writeBack_written hwaitq hdst hsrc hdata hdev, rfl, hword, hteams, htxns⟩
  case refine_6 =>
    intro s m d c halone hwaitq hdst hsrc e howner hsharers
    have hdesk := DeskKept.foldl (fun s w => DeskKept.mapEntry s d m.line fun e => e.forget w m.src) (wordsOf m.mask) s.unwired
    exact ⟨_, halone.eviction_noted hwaitq hdst hsrc, hdesk.wires, hdesk.mem,
      fun w hw => State.forgets_spec s.unwired m.src m.mask (halone.still hwaitq).die ⟨howner, hsharers⟩ hw⟩

end Sys2Proof.Machine
end
